-- ==== Sys2Proof/Word.lean ====
section
/-! DEFINITION. Word.lean: the bit-vector types the spec's registers and bytes have, and their
plainest arithmetic. -/

namespace Sys2Proof

/-- A byte of memory, of a flit, of a slip or of the option folio. -/
abbrev Byte := BitVec 8

/-- A 32-bit register or word. -/
abbrev Word := BitVec 32

/-- A 64-bit value: STIME, a frame number, a host address. -/
abbrev Dword := BitVec 64

end Sys2Proof
end

