-- ==== Sys2Proof/Syntax.lean ====
section
/-! DEFINITION. Syntax.lean: the commands of the bridge, one constructor of `Instr` per row of
spec/opcode_table.json, with the operands each carries. -/

namespace Sys2Proof

/-- The path a call slip arrives on and its return slip goes back on (R489). -/
inductive SlipPath
  | host
  | console
  | fabric (sender : BitVec 10)
deriving DecidableEq, Repr

/-- What a call slip carries beside its opcode and parameters (R479): Sequence, the Quiet flag, the Crc that
the repeat rule compares (R487), and the path it came on. -/
structure SlipHdr where
  seq : BitVec 16
  quiet : Bool
  crc : Word
  path : SlipPath
deriving DecidableEq, Repr

/-- A Maelid flit without its trailer and CRC (R305): header fields and payload bytes 4 to 119. -/
structure Flit where
  type : BitVec 4
  cls : BitVec 2
  dest : BitVec 10
  stream : BitVec 16
  payload : List Byte
  /-- No part of what is sent: the fabric link on which a flit that waits to be sent on came in (R350, R351). -/
  came : Option Nat
deriving DecidableEq, Repr

/-- A commit message (R53) as its receiver sees it; the row that carries it gives the type. -/
structure CommitMsg where
  reason : Byte
  coordinator : BitVec 10
  commitId : Word
  edition : Word
  target : Dword
  epoch : Word
  guard : Byte
  sender : BitVec 10
deriving DecidableEq, Repr

/-- The Comp register a completion is written to (R437): of a class, at an engine of a bay or at the Curator. -/
inductive CompBank
  | bay (b : Fin 64) (writer engine : Fin 8) (fast : Bool)
  | curator (fast : Bool)
deriving DecidableEq, Repr

/-- The status of a completion the host returns. -/
inductive CplStatus | success | unsupported | abort
deriving DecidableEq, Repr

/-- A request at a Stacks bank's arbiter (R189, R190): requester index, offset within the bank, and a read of `len`
bytes or a write of `data`, poisoned or not. -/
structure StkReq where
  req : Fin 74
  offset : Fin 0x100000
  len : Fin 65
  data : Option (List Byte)
  poison : Bool
deriving DecidableEq, Repr

/-- The levels of the ILK pins, and the nanoseconds for which they have stood since the last INTERLOCK or their change (R253; the
model's operands, log entry 18). -/
structure IlkLevels where
  pins : BitVec 8
  ns : Byte
deriving DecidableEq, Repr

/-- The 128 bytes of a training block as its lane receives them, with the 58 bits received before them, newest first (R283);
found in the stream as received or in the inverted one, 1,024 bits after the block before or not, and with more or no more than
20 ns of skew (R284, R286 to R289). -/
structure RxBlock where
  past : List Bool
  bytes : List Byte
  inverted : Bool
  spaced : Bool
  skewed : Bool
deriving DecidableEq, Repr

/-- Bits a lane's receiver has received, oldest first. -/
structure LaneBits where
  lane : Fin 64
  bits : List Bool
deriving DecidableEq, Repr

/-- The link-layer errors that the link mends (R407). -/
inductive LinkError | receiver | badTlp | badDllp | replayRollover | replayTimeout
deriving DecidableEq, Repr

/-- What the host port finds of an inbound TLP beside its fields (R407). -/
inductive TlpFinding
  /-- Nothing. -/
  | sound
  /-- An I/O, AtomicOp or locked request, or a message that is not supported. -/
  | unknown
  /-- A link-layer error that the link has mended. -/
  | mended (e : LinkError)
  /-- A single-bit error in the port's buffers. -/
  | corrected
  /-- A flow-control violation, or a data-link protocol violation, that came with it. -/
  | protocol (flow : Bool)
  /-- Its ECRC does not match. -/
  | ecrc
  /-- It breaks a format rule, or is a completion whose attributes do not match. -/
  | malformed
  /-- It overruns the receive buffer. -/
  | overflow
  /-- An uncorrectable error in the port's buffers. -/
  | internal
deriving DecidableEq, Repr

/-- The header of an inbound TLP, and what the host port finds of the TLP. -/
structure TlpHead where
  bytes : List Byte
  finding : TlpFinding
deriving DecidableEq, Repr

/-- What an inbound memory read carries beside its address and length: byte enables and TLP header (R401). -/
structure ReadHead where
  be : List Bool
  header : TlpHead
deriving DecidableEq, Repr

/-- A training block as a lane's receiver finds it (R284): valid (Marker and Crc correct), 1,024 bits after the one before,
found in the inverted stream, its lane more than 20 ns from the other lanes of its link, and its fields. -/
structure TrainBlock where
  valid : Bool
  spaced : Bool
  inverted : Bool
  skewed : Bool
  linkLane : BitVec 2
  width : BitVec 2
  aligned : Bool
  ready : Bool
  leaf : Bool
  rate : BitVec 2
  sender : BitVec 10
deriving DecidableEq, Repr

/-- A CREDIT_INIT (R309). -/
structure CreditInit where
  credits : BitVec 32
  seen : Bool
  resume : Bool
  leaf : Bool
  sender : BitVec 10
  rxExpected : BitVec 12
  freed : BitVec 32
deriving DecidableEq, Repr

/-- A REMOTE request or response (R355). -/
structure RemoteMsg where
  size : Byte
  status : Byte
  kind : Byte
  requester : BitVec 10
  tag : BitVec 16
  offset : Word
  data : List Byte
deriving DecidableEq, Repr

/-- A BEACON or JOIN (R366). -/
structure MemberMsg where
  sender : BitVec 10
  epoch : Word
  flags : Byte
  cause : BitVec 4
  weight : Byte
  priority : Byte
  keystone : BitVec 10
  keyEn : Bool
  edition : Word
  staged : Word
deriving DecidableEq, Repr

/-- The supplies of R514. -/
inductive Supply | aon | core | sram | lane | io | edge | vpp
deriving DecidableEq, Repr

/-- The commands of the block, one constructor per row of spec/opcode_table.json. -/
inductive Instr where
  /-- REGISTER_WRITE (R5). A write to a register field that has no row of its own takes effect according to its access code. -/
  | registerWrite (a v : Word)
  /-- BOUNDARY (R29). Frame boundary n occurs in the first TB cycle in which STIME reaches n × P. -/
  | boundary
  /-- TIME_STEP (R27). A pending step of STIME is applied once the scheduler is in STOPPED or HELD. -/
  | timeStep
  /-- GUARD_WINDOW_OPEN (R49). At boundary n + 1 − FRM_SHGUARD every shadow set locks and writes go to staging latches. -/
  | guardWindowOpen
  /-- GATHER_END (R36). At the gather end the frame's inputs are fixed and missing samples take their defaults. -/
  | gatherEnd
  /-- PHASOR_UPDATE_DONE (R145). The phasor update completes, releasing waiting result loads and the unit's vote. -/
  | phasorUpdateDone (b : Fin 64)
  /-- PRE_VOTE (R37). At n + FRM_COMPUTE − FRM_PREWAKE the scheduler votes every bay with a running image awake. -/
  | preVote
  /-- COMPUTE_START (R120). At n + FRM_COMPUTE each engine with a valid entry begins at its entry offset with fresh registers. -/
  | computeStart
  /-- RELEASE (R83). At boundary n + 1 + 200 ns the release sequencer delivers the frame's records to their sinks. -/
  | release
  /-- MODULATOR_CAPTURE (R76). At point E each Modulator context takes the K most recent filter outputs of its channel. -/
  | modulatorCapture
  /-- SUM_EVALUATION (R80). A Sum context is evaluated once per frame at SendAt, the gather end or point E. -/
  | sumEvaluation (id : BitVec 16)
  /-- SEND_AT_FORWARD (R73). At boundary n + SendAt a SinkTiming 1 context reads its record and sends it. -/
  | sendAtForward (id : BitVec 16)
  /-- COPY_IN (R94). After the release sequencer has read its contexts, pool copies of swapped contexts are written back one per cycle. -/
  | copyIn
  /-- COPY_IN_DONE (R94). Copy-in ends, CopyBusy clears and held CAT call slips are released. -/
  | copyInDone
  /-- PARAM_COPY_DONE (R117). The post-swap or revert parameter copy ends and held ENG_PARAM_STAGE slips proceed. -/
  | paramCopyDone
  /-- FRAME_INFO (R66). Returns scheduler state, period, frame number and edition numbers. -/
  | frameInfo (h : SlipHdr)
  /-- FRAME_CONFIG (R66). Sets period, phase offsets and guard while STOPPED. -/
  | frameConfig (h : SlipHdr) (period gather compute stage prewake shguard : Word) (guard : Byte)
  /-- FRAME_START (R32). Arms the scheduler to enter RUN at start frame S after ordered checks. -/
  | frameStart (h : SlipHdr) (S : Dword)
  /-- FRAME_STOP (R33). Stops the scheduler as its state and HOLD_N allow. -/
  | frameStop (h : SlipHdr)
  /-- FRM_CTRL_START (R32). A write of 1 to FRM_CTRL.Start starts as FRAME_START with S from FRM_START. -/
  | frmCtrlStart
  /-- FRM_CTRL_STOP (R33). A write of 1 to FRM_CTRL.Stop stops as FRAME_STOP. -/
  | frmCtrlStop
  /-- FRM_CTRL_CLEAR_SLACK_MIN (R68). A write of 1 to ClearSlackMin sets FRM_SLACK_MIN to 0xFFFFFFFF. -/
  | frmCtrlClearSlackMin
  /-- EDITION_INFO (R66). Returns edition numbers, frozen flag, target and CommitId. -/
  | editionInfo (h : SlipHdr)
  /-- EDITION_COMMIT (R54). Starts a single-node or system-wide commit of the staged edition at target F. -/
  | editionCommit (h : SlipHdr) (system : Bool) (F : Dword) (E : Word)
  /-- EDITION_ABORT (R66). Aborts the commit in flight unless GO has been sent. -/
  | editionAbort (h : SlipHdr)
  /-- EDITION_ADOPT (R64). Makes the staged edition current at F with number M. -/
  | editionAdopt (h : SlipHdr) (M : Word) (F : Dword)
  /-- EDITION_REVERT (R66). Makes the staged edition a copy of the current edition again. -/
  | editionRevert (h : SlipHdr)
  /-- PREPARE (R55). A participant receiving PREPARE answers ACK after freezing, or NACK with a reason. -/
  | cmPrepare (m : CommitMsg)
  /-- ACK (R56). The coordinator records an ACK and sends GO once it holds every ACK. -/
  | cmAck (m : CommitMsg)
  /-- NACK (R56). A NACK makes the coordinator send ABORT and end with COMMIT_ABORTED. -/
  | cmNack (m : CommitMsg)
  /-- GO (R57). A GO stamped before (F − G) × P arms the swap; a later one is ignored. -/
  | cmGo (m : CommitMsg) (stamp : Dword)
  /-- ABORT (R58). A participant not yet armed ends the freeze and does not swap. -/
  | cmAbort (m : CommitMsg)
  /-- DONE (R61). The coordinator records a participant's DONE toward the final status. -/
  | cmDone (m : CommitMsg)
  /-- MISSED (R61). The coordinator records a participant's MISSED toward the final status. -/
  | cmMissed (m : CommitMsg)
  /-- CAT_INFO (R97). Returns counts of enabled contexts, pool use, Live and CopyBusy. -/
  | catInfo (h : SlipHdr)
  /-- CAT_READ (R97). Returns 16 bytes of a context in the current or staged view. -/
  | catRead (h : SlipHdr) (id : BitVec 16) (quarter view : Byte)
  /-- CAT_STAGE (R71). Stages new words 0–6 of a context in the staging pool after ordered checks. -/
  | catStage (h : SlipHdr) (id : BitVec 16) (w : List Word)
  /-- CAT_STAGE_DISABLE (R97). Stages a range of contexts disabled as one block. -/
  | catStageDisable (h : SlipHdr) (first count : BitVec 16)
  /-- CAT_UNSTAGE (R93). Frees a context's pool entry and clears Pending. -/
  | catUnstage (h : SlipHdr) (id : BitVec 16)
  /-- CAT_CLEAR_STATUS (R70). Clears the status words of a range of contexts. -/
  | catClearStatus (h : SlipHdr) (first : BitVec 16) (count : Word)
  /-- CAT_CHECK (R98). Examines the staged catalogue and reports the first violation found. -/
  | catCheck (h : SlipHdr)
  /-- CAT_EVENT_READ (R97). Returns up to four queued catalogue events. -/
  | catEventRead (h : SlipHdr)
  /-- CAT_EVENT_POP (R100). A read of CAT_EVENT removes and returns the oldest queued event. -/
  | catEventPop
  /-- CAT_WINDOW_WRITE (R96). A write to the catalogue table window is discarded and counted. -/
  | catWindowWrite
  /-- SAMPLE (R85). An arriving sample flit is mapped through its head and bundle onto contexts. -/
  | sample (flit : Flit) (link : Option (Fin 48)) (stamp : Dword) (uncor : List (BitVec 16))
  /-- ENG_INFO (R151). Returns bay state counts, Paired count, spares and demoted pairs. -/
  | engInfo (h : SlipHdr)
  /-- ENG_BAY_CONFIG (R107). Sets a bay's Mode, SpareEn and SparePair, emptying it on change. -/
  | engBayConfig (h : SlipHdr) (bay mode spareEn sparePair : Byte)
  /-- ENG_BAY_CFG_WRITE (R107). A write to ENG_BAY_CFG is handled as ENG_BAY_CONFIG, with NoSleep written in any state. -/
  | engBayCfgWrite (b : Fin 64) (v : Word)
  /-- ENG_IMAGE_LOAD (R116). Checks an image and starts loading it into named engines. -/
  | engImageLoad (h : SlipHdr) (bay mask : Byte) (offset : Word)
  /-- IMAGE_LOAD_DONE (R116). Image loading ends, the bay becomes LOADED and the final return slip reports the Crc. -/
  | imageLoadDone (bay : Fin 64)
  /-- ENG_BAY_START (R103). Puts a LOADED bay in STARTING, to run from the next boundary. -/
  | engBayStart (h : SlipHdr) (bay : Byte)
  /-- ENG_BAY_STOP (R103). Puts a running bay in STOPPING, to be LOADED at the next boundary. -/
  | engBayStop (h : SlipHdr) (bay : Byte)
  /-- ENG_PARAM_STAGE (R118). Writes bytes into an engine's staged parameter copy. -/
  | engParamStage (h : SlipHdr) (engine offset : BitVec 16) (data : List Byte)
  /-- ENG_PARAM_READ (R151). Returns 16 bytes of an engine's current or staged parameters. -/
  | engParamRead (h : SlipHdr) (engine offset : BitVec 16) (view : Byte)
  /-- ENG_STATUS (R151). Returns an engine's status, PC, cause and fault address. -/
  | engStatus (h : SlipHdr) (engine : BitVec 16)
  /-- ENGINE_WINDOW_WRITE (R114). A host write to an engine memory slot is performed only in a LOADED bay. -/
  | engineWindowWrite (e : Fin 512) (offset : Fin 65536) (data : List (Option Byte))
  /-- SINGLE_FAULT (R106). A detected hardware fault in a Single-bay engine halts it for the frame and substitutes its outputs. -/
  | singleFault (e : Fin 512) (parity : Bool)
  /-- IMEM_REPAIR_DONE (R111). IMEM repair of a Single-bay engine ends and a deferred compute-start is delivered. -/
  | imemRepairDone (e : Fin 512)
  /-- BAY_SLEEP (R123). A bay without a vote for 500 ticks is power-gated unless NoSleep is set. -/
  | baySleep (b : Fin 64)
  /-- BAY_DOZE (R122). A bay whose last vote is withdrawn has its clock gated. -/
  | bayDoze (b : Fin 64)
  /-- LOAD_RETURN (R128). Data for a queued load returns and is written to its register in program order. -/
  | loadReturn (e : Fin 513) (n : Fin 16)
  /-- STORE_ACCEPTED (R126). A store reaches its Accepted or Completed point and frees its store-buffer entry. -/
  | storeAccepted (e : Fin 513) (n : Fin 8)
  /-- STORE_TIMEOUT (R130). A store not at its needed point within ENG_STORE_TO ticks is declared lost. -/
  | storeTimeout (e : Fin 513) (n : Fin 8) (isOpen took : Bool)
  /-- REMOTE_LOAD_TIMEOUT (R170). A remote or host load without a response within ENG_STORE_TO raises DATA_ERROR. -/
  | remoteLoadTimeout (e : Fin 513) (n : Fin 16)
  /-- TRANSFER_COMPLETE (R171). A transfer's data arrives and is written into DMEM. -/
  | transferComplete (e : Fin 512) (n : Fin 64)
  /-- TRANSFER_TIMEOUT (R172). A transfer without a response within ENG_STORE_TO fails. -/
  | transferTimeout (e : Fin 512) (n : Fin 64)
  /-- INTERRUPT_ENTRY (R181). An engine takes a selected interrupt at an instruction boundary and enters its handler level. -/
  | interruptEntry (e : Fin 513)
  /-- SORT_START (R147). A write of 1 to a sort descriptor's Start begins a sort or sets Error. -/
  | sortStart (b : Fin 64) (n : Fin 8)
  /-- SORT_DONE (R148). The sort network finishes and writes the ranks, setting Done. -/
  | sortDone (b : Fin 64)
  /-- PHASOR_DESCRIPTOR_WRITE (R146). A write to a bin descriptor restarts the bin from the next gather end. -/
  | phasorDescriptorWrite (b : Fin 64) (k : Fin 32) (w0 w1 : Word)
  /-- EXECUTE_ILLEGAL_WORD (R158). Executing an undefined or malformed word raises ILLEGAL. -/
  | executeIllegalWord (e : Fin 513) (word : Word)
  /-- ADD (R161). Adds two registers modulo 2^32. -/
  | iAdd (e : Fin 513) (d a b : BitVec 5)
  /-- SUB (R161). Subtracts two registers modulo 2^32. -/
  | iSub (e : Fin 513) (d a b : BitVec 5)
  /-- AND (R161). Bitwise AND of two registers. -/
  | iAnd (e : Fin 513) (d a b : BitVec 5)
  /-- OR (R161). Bitwise OR of two registers. -/
  | iOr (e : Fin 513) (d a b : BitVec 5)
  /-- XOR (R161). Bitwise XOR of two registers. -/
  | iXor (e : Fin 513) (d a b : BitVec 5)
  /-- ANDN (R161). AND of A with the complement of B. -/
  | iAndn (e : Fin 513) (d a b : BitVec 5)
  /-- SLL (R161). Logical shift left by B[4:0]. -/
  | iSll (e : Fin 513) (d a b : BitVec 5)
  /-- SRL (R161). Logical shift right by B[4:0]. -/
  | iSrl (e : Fin 513) (d a b : BitVec 5)
  /-- SRA (R161). Arithmetic shift right by B[4:0]. -/
  | iSra (e : Fin 513) (d a b : BitVec 5)
  /-- ROR (R161). Rotate right by B[4:0]. -/
  | iRor (e : Fin 513) (d a b : BitVec 5)
  /-- MIN (R161). Signed minimum. -/
  | iMin (e : Fin 513) (d a b : BitVec 5)
  /-- MAX (R161). Signed maximum. -/
  | iMax (e : Fin 513) (d a b : BitVec 5)
  /-- MINU (R161). Unsigned minimum. -/
  | iMinu (e : Fin 513) (d a b : BitVec 5)
  /-- MAXU (R161). Unsigned maximum. -/
  | iMaxu (e : Fin 513) (d a b : BitVec 5)
  /-- ABS (R161). Absolute value, saturating at 0x7FFFFFFF. -/
  | iAbs (e : Fin 513) (d a : BitVec 5)
  /-- CLZ (R161). Counts leading zeros. -/
  | iClz (e : Fin 513) (d a : BitVec 5)
  /-- POPC (R161). Counts set bits. -/
  | iPopc (e : Fin 513) (d a : BitVec 5)
  /-- SEL (R161). Selects A or B by bit 0 of a predicate. -/
  | iSel (e : Fin 513) (d a b : BitVec 5) (p : BitVec 3)
  /-- MUL (R161). Low 32 bits of a product. -/
  | iMul (e : Fin 513) (d a b : BitVec 5)
  /-- MULH (R161). High 32 bits of a signed product. -/
  | iMulh (e : Fin 513) (d a b : BitVec 5)
  /-- MULHU (R161). High 32 bits of an unsigned product. -/
  | iMulhu (e : Fin 513) (d a b : BitVec 5)
  /-- DIV (R164). Signed truncating division with defined edge cases. -/
  | iDiv (e : Fin 513) (d a b : BitVec 5)
  /-- DIVU (R164). Unsigned division. -/
  | iDivu (e : Fin 513) (d a b : BitVec 5)
  /-- REM (R164). Signed remainder. -/
  | iRem (e : Fin 513) (d a b : BitVec 5)
  /-- REMU (R164). Unsigned remainder. -/
  | iRemu (e : Fin 513) (d a b : BitVec 5)
  /-- ADDS (R165). Saturating signed add. -/
  | iAdds (e : Fin 513) (d a b : BitVec 5)
  /-- SUBS (R165). Saturating signed subtract. -/
  | iSubs (e : Fin 513) (d a b : BitVec 5)
  /-- QMUL (R165). Q31 multiply with rounding and saturation. -/
  | iQmul (e : Fin 513) (d a b : BitVec 5)
  /-- QMAC (R165). Q31 multiply-accumulate into D. -/
  | iQmac (e : Fin 513) (d a b : BitVec 5)
  /-- SHLS (R165). Saturating shift left. -/
  | iShls (e : Fin 513) (d a b : BitVec 5)
  /-- RSHR (R165). Rounding arithmetic shift right. -/
  | iRshr (e : Fin 513) (d a b : BitVec 5)
  /-- CMP (R163). Compares two registers into a predicate. -/
  | iCmp (e : Fin 513) (pd : BitVec 3) (a b : BitVec 5) (cc : BitVec 3)
  /-- PAND (R161). AND of two predicates. -/
  | iPand (e : Fin 513) (d a b : BitVec 3)
  /-- POR (R161). OR of two predicates. -/
  | iPor (e : Fin 513) (d a b : BitVec 3)
  /-- PXOR (R161). XOR of two predicates. -/
  | iPxor (e : Fin 513) (d a b : BitVec 3)
  /-- PANDN (R161). AND-NOT of two predicates. -/
  | iPandn (e : Fin 513) (d a b : BitVec 3)
  /-- PANY (R161). Reduces a predicate to any-set. -/
  | iPany (e : Fin 513) (d a : BitVec 3)
  /-- PALL (R161). Reduces a predicate to all-set. -/
  | iPall (e : Fin 513) (d a : BitVec 3)
  /-- MOVGP (R161). Moves a predicate into a general register. -/
  | iMovgp (e : Fin 513) (d : BitVec 5) (p : BitVec 3)
  /-- MOVPG (R161). Moves a general register's low byte into a predicate. -/
  | iMovpg (e : Fin 513) (p : BitVec 3) (a : BitVec 5)
  /-- JALR (R169). Jumps to a register address and writes the link. -/
  | iJalr (e : Fin 513) (d a : BitVec 5)
  /-- ADDI (R162). Adds a sign-extended immediate. -/
  | iAddi (e : Fin 513) (d a : BitVec 5) (imm : BitVec 16)
  /-- ANDI (R162). ANDs a zero-extended immediate. -/
  | iAndi (e : Fin 513) (d a : BitVec 5) (imm : BitVec 16)
  /-- ORI (R162). ORs a zero-extended immediate. -/
  | iOri (e : Fin 513) (d a : BitVec 5) (imm : BitVec 16)
  /-- XORI (R162). XORs a zero-extended immediate. -/
  | iXori (e : Fin 513) (d a : BitVec 5) (imm : BitVec 16)
  /-- SHI (R159). Shifts or rotates by an immediate. -/
  | iShi (e : Fin 513) (d a : BitVec 5) (kind : BitVec 2) (n : BitVec 5)
  /-- LUI (R159). Loads an immediate into the upper half. -/
  | iLui (e : Fin 513) (d : BitVec 5) (imm : BitVec 16)
  /-- CMPI (R163). Compares a register with an immediate into a predicate. -/
  | iCmpi (e : Fin 513) (pd : BitVec 3) (a : BitVec 5) (cc : BitVec 2) (imm : BitVec 16)
  /-- FADD (R168). FP32 add. -/
  | iFadd (e : Fin 513) (d a b : BitVec 5)
  /-- FSUB (R168). FP32 subtract. -/
  | iFsub (e : Fin 513) (d a b : BitVec 5)
  /-- FMUL (R168). FP32 multiply. -/
  | iFmul (e : Fin 513) (d a b : BitVec 5)
  /-- FMA (R168). Fused FP32 multiply-add into D. -/
  | iFma (e : Fin 513) (d a b : BitVec 5)
  /-- FMS (R168). Fused FP32 multiply-subtract from D. -/
  | iFms (e : Fin 513) (d a b : BitVec 5)
  /-- FDIV (R168). FP32 divide. -/
  | iFdiv (e : Fin 513) (d a b : BitVec 5)
  /-- FSQRT (R168). FP32 square root. -/
  | iFsqrt (e : Fin 513) (d a : BitVec 5)
  /-- FMIN (R167). FP32 minimum. -/
  | iFmin (e : Fin 513) (d a b : BitVec 5)
  /-- FMAX (R167). FP32 maximum. -/
  | iFmax (e : Fin 513) (d a b : BitVec 5)
  /-- FABS (R168). Clears the FP32 sign bit. -/
  | iFabs (e : Fin 513) (d a : BitVec 5)
  /-- FNEG (R168). Inverts the FP32 sign bit. -/
  | iFneg (e : Fin 513) (d a : BitVec 5)
  /-- FCMP (R168). Compares FP32 values into a predicate. -/
  | iFcmp (e : Fin 513) (pd : BitVec 3) (a b : BitVec 5) (cc : BitVec 2)
  /-- FCVT_S_W (R168). Converts an integer to FP32. -/
  | iFcvtSW (e : Fin 513) (d a : BitVec 5)
  /-- FCVT_W_S (R168). Converts FP32 to a saturated integer. -/
  | iFcvtWS (e : Fin 513) (d a : BitVec 5)
  /-- FCVT_S_Q (R168). Converts a fixed-point value to FP32. -/
  | iFcvtSQ (e : Fin 513) (d a c : BitVec 5)
  /-- FCVT_Q_S (R168). Converts FP32 to saturated fixed point. -/
  | iFcvtQS (e : Fin 513) (d a c : BitVec 5)
  /-- LD_B (R170). Loads a sign-extended byte. -/
  | ldB (e : Fin 513) (d a : BitVec 5) (imm : BitVec 16) (ecc : Fin 6)
  /-- LD_BU (R170). Loads a zero-extended byte. -/
  | ldBu (e : Fin 513) (d a : BitVec 5) (imm : BitVec 16) (ecc : Fin 6)
  /-- LD_H (R170). Loads a sign-extended halfword. -/
  | ldH (e : Fin 513) (d a : BitVec 5) (imm : BitVec 16) (ecc : Fin 6)
  /-- LD_HU (R170). Loads a zero-extended halfword. -/
  | ldHu (e : Fin 513) (d a : BitVec 5) (imm : BitVec 16) (ecc : Fin 6)
  /-- LD_W (R170). Loads a word. -/
  | ldW (e : Fin 513) (d a : BitVec 5) (imm : BitVec 16) (ecc : Fin 6)
  /-- VLD (R170). Loads 16 bytes into a vector register. -/
  | vld (e : Fin 513) (d : BitVec 4) (a : BitVec 5) (imm : BitVec 16) (ecc : Fin 6)
  /-- ST_B (R170). Stores a byte. -/
  | stB (e : Fin 513) (d a : BitVec 5) (imm : BitVec 16)
  /-- ST_H (R170). Stores a halfword. -/
  | stH (e : Fin 513) (d a : BitVec 5) (imm : BitVec 16)
  /-- ST_W (R170). Stores a word. -/
  | stW (e : Fin 513) (d a : BitVec 5) (imm : BitVec 16)
  /-- VST (R170). Stores a vector register. -/
  | vst (e : Fin 513) (d : BitVec 4) (a : BitVec 5) (imm : BitVec 16)
  /-- XLD_H (R171). Issues a 2-byte transfer into DMEM. -/
  | xldH (e : Fin 513) (d a : BitVec 5) (imm : BitVec 16)
  /-- XLD_W (R171). Issues a 4-byte transfer into DMEM. -/
  | xldW (e : Fin 513) (d a : BitVec 5) (imm : BitVec 16)
  /-- XLD_V (R171). Issues a 16-byte transfer into DMEM. -/
  | xldV (e : Fin 513) (d a : BitVec 5) (imm : BitVec 16)
  /-- B (R169). Conditional branch on a predicate bit. -/
  | iB (e : Fin 513) (p : BitVec 3) (sense : Bool) (off : BitVec 16)
  /-- JAL (R169). Jump and link. -/
  | iJal (e : Fin 513) (d : BitVec 5) (off : BitVec 21)
  /-- VADD (R175). Per-lane vector add. -/
  | iVadd (e : Fin 513) (vd va vb : BitVec 4) (pm : BitVec 3) (t : BitVec 2)
  /-- VSUB (R175). Per-lane vector subtract. -/
  | iVsub (e : Fin 513) (vd va vb : BitVec 4) (pm : BitVec 3) (t : BitVec 2)
  /-- VMUL (R175). Per-lane vector multiply. -/
  | iVmul (e : Fin 513) (vd va vb : BitVec 4) (pm : BitVec 3) (t : BitVec 2)
  /-- VMAC (R175). Per-lane multiply-add. -/
  | iVmac (e : Fin 513) (vd va vb vc : BitVec 4) (pm : BitVec 3) (t : BitVec 2)
  /-- VMSU (R175). Per-lane multiply-subtract. -/
  | iVmsu (e : Fin 513) (vd va vb vc : BitVec 4) (pm : BitVec 3) (t : BitVec 2)
  /-- VMIN (R175). Per-lane minimum. -/
  | iVmin (e : Fin 513) (vd va vb : BitVec 4) (pm : BitVec 3) (t : BitVec 2)
  /-- VMAX (R175). Per-lane maximum. -/
  | iVmax (e : Fin 513) (vd va vb : BitVec 4) (pm : BitVec 3) (t : BitVec 2)
  /-- VABS (R175). Per-lane absolute value. -/
  | iVabs (e : Fin 513) (vd va : BitVec 4) (pm : BitVec 3) (t : BitVec 2)
  /-- VNEG (R175). Per-lane negation. -/
  | iVneg (e : Fin 513) (vd va : BitVec 4) (pm : BitVec 3) (t : BitVec 2)
  /-- VCMP (R175). Per-lane compare into a predicate. -/
  | iVcmp (e : Fin 513) (pd : BitVec 3) (va vb : BitVec 4) (cc : BitVec 2) (pm : BitVec 3) (t : BitVec 2)
  /-- VSEL (R175). Per-lane select by predicate. -/
  | iVsel (e : Fin 513) (vd va vb : BitVec 4) (pm : BitVec 3) (t : BitVec 2)
  /-- VAND (R175). Per-lane AND on INT lanes. -/
  | iVand (e : Fin 513) (vd va vb : BitVec 4) (pm : BitVec 3) (t : BitVec 2)
  /-- VOR (R175). Per-lane OR on INT lanes. -/
  | iVor (e : Fin 513) (vd va vb : BitVec 4) (pm : BitVec 3) (t : BitVec 2)
  /-- VXOR (R175). Per-lane XOR on INT lanes. -/
  | iVxor (e : Fin 513) (vd va vb : BitVec 4) (pm : BitVec 3) (t : BitVec 2)
  /-- VSRA (R175). Per-lane arithmetic shift right. -/
  | iVsra (e : Fin 513) (vd va : BitVec 4) (n : BitVec 8) (pm : BitVec 3) (t : BitVec 2)
  /-- VSLS (R175). Per-lane saturating shift left. -/
  | iVsls (e : Fin 513) (vd va : BitVec 4) (n : BitVec 8) (pm : BitVec 3) (t : BitVec 2)
  /-- VCVT (R176). Per-lane type conversion. -/
  | iVcvt (e : Fin 513) (vd va : BitVec 4) (dst : BitVec 2) (half : Bool) (pm : BitVec 3) (t : BitVec 2)
  /-- VPACK (R175). Packs Q31 lanes into Q15 lanes. -/
  | iVpack (e : Fin 513) (vd va vb : BitVec 4) (pm : BitVec 3) (t : BitVec 2)
  /-- VSWZ (R175). Swizzles lanes. -/
  | iVswz (e : Fin 513) (vd va : BitVec 4) (sel : BitVec 8) (pm : BitVec 3) (t : BitVec 2)
  /-- VSUM (R176). Sums unmasked lanes into lane 0. -/
  | iVsum (e : Fin 513) (vd va : BitVec 4) (pm : BitVec 3) (t : BitVec 2)
  /-- VMOVV (R175). Copies a vector register. -/
  | iVmovv (e : Fin 513) (vd va : BitVec 4) (pm : BitVec 3) (t : BitVec 2)
  /-- VEXT (R177). Extracts a lane into a general register. -/
  | iVext (e : Fin 513) (g : BitVec 5) (v : BitVec 4) (ln : BitVec 3) (t : BitVec 2)
  /-- VINS (R177). Inserts a general register into a lane. -/
  | iVins (e : Fin 513) (g : BitVec 5) (v : BitVec 4) (ln : BitVec 3) (t : BitVec 2)
  /-- VSPLAT (R177). Broadcasts a general register to every lane. -/
  | iVsplat (e : Fin 513) (g : BitVec 5) (v : BitVec 4) (t : BitVec 2)
  /-- VZERO (R177). Clears a vector register. -/
  | iVzero (e : Fin 513) (v : BitVec 4)
  /-- FENCE_S (R131). Waits for every older store to be Accepted. -/
  | iFenceS (e : Fin 513)
  /-- FENCE_A (R131). Waits for older loads returned and stores Accepted. -/
  | iFenceA (e : Fin 513)
  /-- FENCE_D (R131). As FENCE.A and waits for older stores Completed. -/
  | iFenceD (e : Fin 513)
  /-- FEND (R121). Frame-end: waits as FENCE.D, compares in a pair and enters the wait for compute-start. -/
  | iFend (e : Fin 513)
  /-- TRAP (R178). Raises the TRAP exception with the immediate in EADDR. -/
  | iTrap (e : Fin 513) (imm : BitVec 10)
  /-- XRET (R184). Returns from the current handler level. -/
  | iXret (e : Fin 513)
  /-- CSRR (R178). Reads a control register. -/
  | iCsrr (e : Fin 513) (d : BitVec 5) (csr : BitVec 10)
  /-- CSRW (R178). Writes a control register. -/
  | iCsrw (e : Fin 513) (a : BitVec 5) (csr : BitVec 10)
  /-- CSRS (R178). Sets bits of a control register. -/
  | iCsrs (e : Fin 513) (a : BitVec 5) (csr : BitVec 10)
  /-- CSRC (R178). Clears bits of a control register. -/
  | iCsrc (e : Fin 513) (a : BitVec 5) (csr : BitVec 10)
  /-- SWAIT (R178). Waits for the sort unit and returns its status. -/
  | iSwait (e : Fin 513) (d : BitVec 5)
  /-- PHLD (R178). Loads a phasor bin's result into a vector register. -/
  | iPhld (e : Fin 513) (d : BitVec 4) (bin : BitVec 5)
  /-- AMOSWAP (R187). Curator atomic swap. -/
  | amoswap (e : Fin 513) (d a b : BitVec 5)
  /-- AMOADD (R187). Curator atomic add. -/
  | amoadd (e : Fin 513) (d a b : BitVec 5)
  /-- AMOCAS (R187). Curator atomic compare-and-swap. -/
  | amocas (e : Fin 513) (d a b c : BitVec 5)
  /-- WFI (R187). Curator waits until an interrupt is pending and enabled. -/
  | iWfi (e : Fin 513)
  /-- COMPARE_MISMATCH (R221). A pair's compare mismatches or an ECC error is uncorrectable, starting a rollback. -/
  | compareMismatch (e : Fin 512) (point : Fin 5)
  /-- ROLLBACK (R221). Once outstanding accesses end, the pair runs its check, restores DMEM and restarts. -/
  | rollback (e : Fin 512) (check : Option (Fin 3)) (ns : Word)
  /-- MIGRATION_DONE (R228). Migration ends and a deferred compute-start is delivered to the spare pair. -/
  | migrationDone (b : Fin 64)
  /-- FLT_INJECT_ARM (R244). A write of 1 to FLT_INJECT.Armed arms an injection, refused for a bay not Paired and RUNNING. -/
  | fltInjectArm
  /-- FAULT_INJECTION (R244). Delay bay cycles after compute-start the armed fault is applied. -/
  | faultInjection (bank : Fin 3) (reg : Fin 32) (bit : Fin 128)
  /-- CURATOR_MISMATCH (R236). A Curator compare mismatch discards the effect buffer and retries the transaction. -/
  | curatorMismatch (op seq : BitVec 16) (again : Option (Option (Fin 2)))
  /-- ACCESSION_WRITE (R241). The log writer writes the next queued entry to the log ring. -/
  | accessionWrite
  /-- LOG_INFO (R243). Returns the log head and lost count. -/
  | logInfo (h : SlipHdr)
  /-- LOG_READ (R243). Returns half of a log entry. -/
  | logRead (h : SlipHdr) (index : BitVec 16) (half : Byte)
  /-- LOG_COPY (R243). Starts copying log entries to a Stacks offset. -/
  | logCopy (h : SlipHdr) (first count : BitVec 16) (offset : Word)
  /-- LOG_COPY_DONE (R243). The log copy ends or stops early and writes its final return slip. -/
  | logCopyDone
  /-- FLT_INFO (R243). Returns fault status and counters. -/
  | fltInfo (h : SlipHdr)
  /-- STACKS_ACCESS (R189). A bank performs one granted access within a line. -/
  | stacksAccess (bank : Fin 96) (reqs : List StkReq)
  /-- ECC_WRITEBACK (R196). In its next idle cycle a bank writes back a corrected word. -/
  | eccWriteback (word : Fin 12582912)
  /-- STK_INJECT_ARM (R200). A write of 1 to STK_INJECT.Armed arms corruption of the next covering write. -/
  | stkInjectArm
  /-- SCRUB_LINE (R201). Every Interval ticks the scrubber reads one line in each ON bank. -/
  | scrubLine
  /-- BANK_POWERED (R204). A bank powering on finishes and its clear starts. -/
  | bankPowered (bank : Fin 96)
  /-- CLEAR_COMPLETE (R204). A bank's clear ends, it becomes ON and waiting accesses proceed. -/
  | clearComplete (bank : Fin 96)
  /-- SEAL_COMPLETE (R206). A bank's seal is computed and it becomes RETAINED. -/
  | sealComplete (bank : Fin 96)
  /-- CHECK_COMPLETE (R208). A bank's wake check ends and it becomes ON or UNSEALED. -/
  | checkComplete (bank : Fin 96)
  /-- STK_INFO (R214). Returns bank state counts and Stacks counters. -/
  | stkInfo (h : SlipHdr)
  /-- STK_BANK_STATUS (R214). Returns a bank's register and seal. -/
  | stkBankStatus (h : SlipHdr) (bank : Byte)
  /-- STK_BANK_SCRUB (R214). Starts a clear or a scrub pass of a bank. -/
  | stkBankScrub (h : SlipHdr) (bank mode : Byte)
  /-- BANK_SCRUB_DONE (R214). A scrub pass or clear ends and writes its final return slip. -/
  | bankScrubDone (bank : Fin 96)
  /-- STK_BANK_POWER (R214). Powers a bank on or off. -/
  | stkBankPower (h : SlipHdr) (bank on : Byte)
  /-- STK_RETAIN_SET (R214). Sets the retain mask. -/
  | stkRetainSet (h : SlipHdr) (mask : BitVec 96)
  /-- STK_ACL_SET (R214). Sets a bank's access controls. -/
  | stkAclSet (h : SlipHdr) (bank mover remote host : Byte)
  /-- STK_SPILL_SET (R194). Sets a link's spill region. -/
  | stkSpillSet (h : SlipHdr) (link : Byte) (base size : BitVec 16)
  /-- STK_SPILL_WRITE (R194). A write to STK_SPILL sets a spill region or is refused. -/
  | stkSpillWrite (link : Fin 48) (v : Word)
  /-- FILTER_OUTPUT (R247). A channel's decimating filter completes an output. -/
  | filterOutput (c : Fin 32)
  /-- FAST_OUTPUT (R250). The fast-trip filter completes an output and compares it with the thresholds. -/
  | fastOutput (c : Fin 32)
  /-- INTERLOCK (R253). An enabled ILK input active longer than its filter latches and forces pairs off. -/
  | interlock (x : IlkLevels)
  /-- PFAIL (R528). PFAIL_N recognised asserts HOLD_N, stops engines and movers and starts the drain. -/
  | pfail (low : Bool)
  /-- PFAIL_DRAIN_DONE (R529). The PFAIL drain ends and sealing starts. -/
  | pfailDrainDone
  /-- PFAIL_DRAIN_TIMEOUT (R529). DrainTo expires, buffered stores are lost and sealing starts. -/
  | pfailDrainTimeout
  /-- EDG_INFO (R274). Returns edge status, HOLD_N and latches. -/
  | edgInfo (h : SlipHdr)
  /-- EDG_MCLK_CONFIG (R245). Configures a modulator clock. -/
  | edgMclkConfig (h : SlipHdr) (clock en period : Byte)
  /-- EDG_MCLK_WRITE (R245). A write to EDG_MCLK sets enable and period or is refused. -/
  | edgMclkWrite (m : Fin 4) (v : Word)
  /-- EDG_MOD_CONFIG (R248). Configures a modulator channel. -/
  | edgModConfig (h : SlipHdr) (channel : Byte) (v : Word)
  /-- EDG_MOD_CFG_WRITE (R248). A write to EDG_MOD_CFG is refused while the channel is enabled except for Enable. -/
  | edgModCfgWrite (c : Fin 32) (v : Word)
  /-- EDG_TRIP_CONFIG (R252). Configures a channel's fast trip while HOLD_N is asserted. -/
  | edgTripConfig (h : SlipHdr) (channel : Byte) (trip thr mask : Word)
  /-- EDG_TRIP_REG_WRITE (R252). A write to a trip register is accepted only while HOLD_N is asserted. -/
  | edgTripRegWrite (c : Fin 32) (which : Fin 3) (v : Word)
  /-- EDG_ILK_CONFIG (R254). Configures an interlock input while STOPPED. -/
  | edgIlkConfig (h : SlipHdr) (input : Byte) (v : Word)
  /-- EDG_ILK_WRITE (R254). A write to EDG_ILK or EDG_POL is accepted only while STOPPED. -/
  | edgIlkWrite (k : Fin 10) (v : Word)
  /-- EDG_POL_SET (R254). Sets gate polarities while STOPPED. -/
  | edgPolSet (h : SlipHdr) (mask : BitVec 48)
  /-- EDG_PAIR_STAGE (R258). Writes a pair's shadow set with Commit. -/
  | edgPairStage (h : SlipHdr) (pair : Byte) (cfg time : Word)
  /-- EDG_AUX_STAGE (R271). Writes the AUX shadow set with Commit. -/
  | edgAuxStage (h : SlipHdr) (sh0 sh1 : Word)
  /-- EDG_AUX_DIR_SET (R271). Sets AUX directions while STOPPED. -/
  | edgAuxDirSet (h : SlipHdr) (v : Word)
  /-- SHADOW_REGISTER_WRITE (R49). A write to an EDG or DMA shadow register goes to the set or, in the guard window or freeze, to its latch. -/
  | shadowRegisterWrite (a v : Word)
  /-- DYN_WRITE (R262). A write to EDG_DYN sets an index's staged value through the staging arbiter. -/
  | dynWrite (reqs : List (Fin 67 × Fin 112 × Word))
  /-- EDG_TRIP_CLEAR (R256). Clears trip latches whose cause has gone. -/
  | edgTripClear (h : SlipHdr) (ilk : Byte) (mods : Word)
  /-- TRIP_LATCH_CLEAR (R256). A write of 1 to a latch bit clears it unless its cause is present. -/
  | tripLatchClear (ilk : BitVec 8) (mods : Word)
  /-- EDG_HOLD_RELEASE (R268). Releases HOLD_N when every condition holds. -/
  | edgHoldRelease (h : SlipHdr)
  /-- EDG_HOLD_RELEASE_WRITE (R268). A write of 1 to EDG_HOLD.Release releases HOLD_N under the same conditions. -/
  | edgHoldReleaseWrite
  /-- EDG_HOLD_ASSERT (R267). Asserts HOLD_N. -/
  | edgHoldAssert (h : SlipHdr)
  /-- EDG_HOLD_ASSERT_WRITE (R267). A write of 1 to EDG_HOLD.Assert asserts HOLD_N. -/
  | edgHoldAssertWrite
  /-- SIGNAL_DETECT (R286). A lane detects a signal on its input. -/
  | signalDetect (n : Fin 64)
  /-- CDR_LOCK (R286). Clock recovery locks and the lane enters LOCK. -/
  | cdrLock (n : Fin 64)
  /-- TRAINING_BLOCK (R284). A lane receives a training block and advances its state on valid blocks. -/
  | trainingBlock (n : Fin 64) (b : RxBlock)
  /-- LOCK_TIMEOUT (R286). 100 ticks in LOCK without ALIGNED return the lane to SEEK. -/
  | lockTimeout (n : Fin 64)
  /-- SIGNAL_LOSS (R286). Loss of signal detect or clock-recovery lock returns the lane to SEEK. -/
  | signalLoss (n : Fin 64) (cdr : Bool)
  /-- SIGNAL_DETECT_WAKE (R297). A signal on a DISABLED lane with WakeEn raises the wake source. -/
  | signalDetectWake (n : Fin 64)
  /-- PLL_RELOCK (R279). A port's transmit PLL relocks after a rate change. -/
  | pllRelock (p : Fin 12)
  /-- RATE_WRITE (R279). A write of LNK_PHY.Rate changes the port rate and loads default taps, or is ignored. -/
  | rateWrite (p : Fin 12) (rate : BitVec 2)
  /-- LANE_ENABLE_WRITE (R286). A write of LN_CTRL.Enable takes a lane to SEEK or DISABLED. -/
  | laneEnableWrite (n : Fin 64) (en : Bool)
  /-- LOOPBACK_WRITE (R294). A write of LN_CTRL.Loopback enters or leaves a loopback mode. -/
  | loopbackWrite (n : Fin 64) (mode : BitVec 2)
  /-- TXEQ_WRITE (R291). A write of LN_TXEQ sets the transmit taps or is refused. -/
  | txeqWrite (n : Fin 64) (pre : BitVec 4) (main : BitVec 6) (post : BitVec 5)
  /-- PRBS_WRITE (R292). A write of LN_PRBS patterns enters or leaves PRBS state. -/
  | prbsWrite (n : Fin 64) (tx rx : BitVec 3)
  /-- TX_ERR_INJECT (R292). A write of 1 to TxErrInject inverts the next bit sent. -/
  | txErrInject (n : Fin 64)
  /-- MARGIN_START (R295). A write of 1 to LN_MARGIN.Start begins a margin measurement. -/
  | marginStart (n : Fin 64) (time volt : BitVec 6) (eye : BitVec 2) (bitsLog : BitVec 5)
  /-- MARGIN_DONE (R295). A margin measurement ends and MarginDone is raised. -/
  | marginDone (n : Fin 64) (errors : Word)
  /-- LANE_INFO (R299). Returns lane status, equalisation and counts. -/
  | laneInfo (h : SlipHdr) (n : Byte)
  /-- LANE_CONFIG (R299). Writes a lane's control and transmit taps. -/
  | laneConfig (h : SlipHdr) (n : Byte) (ctrl txeq : Word)
  /-- LANE_RATE (R279). Sets a port's lane rate. -/
  | laneRate (h : SlipHdr) (p rate : Byte)
  /-- LANE_PRBS (R292). Sets a lane's PRBS generator and checker. -/
  | lanePrbs (h : SlipHdr) (n : Byte) (v : Word)
  /-- LANE_PRBS_READ (R299). Returns PRBS errors, bits and sync. -/
  | lanePrbsRead (h : SlipHdr) (n : Byte)
  /-- LANE_MARGIN (R295). Starts a margin measurement with a final result. -/
  | laneMargin (h : SlipHdr) (n time volt eye bitsLog : Byte)
  /-- FLIT_TRANSMIT (R320). At each flit boundary the transmitter sends the first eligible flit. -/
  | flitTransmit (l : Fin 48)
  /-- FLIT_RECEIVED (R310). An arriving flit is tested as accepted, link-local, duplicate or failure and its trailer processed. -/
  | flitReceived (l : Fin 48) (bytes : List Byte)
  /-- NAK_WAIT_TIMEOUT (R312). Nak-wait lasting ReplayTo ticks sends Nak again. -/
  | nakWaitTimeout (l : Fin 48)
  /-- REPLAY_TIMEOUT (R316). Outstanding flits without ack progress for ReplayTo ticks start a replay. -/
  | replayTimeout (l : Fin 48)
  /-- CREDIT_TIMEOUT (R323). A class starved of credit for LNK_CRTO ticks takes the link down. -/
  | creditTimeout (l : Fin 48) (c : Fin 4)
  /-- FLIT_CONSUMED (R311). A switch takes a flit from a receive buffer, freeing its credit. -/
  | flitConsumed (l : Fin 48) (c : Fin 4)
  /-- CREDIT_INIT (R327). A CREDIT_INIT sets credits and Seen and moves the link to ACTIVE. -/
  | creditInit (l : Fin 48) (m : CreditInit)
  /-- LANE_DROP (R332). A LANE_DROP announcement starts a hunt for switch blocks. -/
  | laneDrop (l : Fin 48) (newMask oldMask : BitVec 4) (switchSeq : BitVec 12) (reason : Byte)
  /-- LANE_ADD (R332). A LANE_ADD announcement starts a hunt for switch blocks. -/
  | laneAdd (l : Fin 48) (newMask oldMask : BitVec 4) (switchSeq : BitVec 12) (reason : Byte)
  /-- SWITCH_BLOCK (R334). Switch blocks recognised on every named lane move the receiver to the new set. -/
  | switchBlock (l : Fin 48) (mask : BitVec 4) (purpose reason : Byte) (switchSeq : BitVec 12)
  /-- RETRAIN_REQUEST (R338). A RETRAIN request is answered and the lanes return to SEEK. -/
  | retrainRequest (l : Fin 48) (reason : Byte)
  /-- RETRAIN_ANSWER (R338). A RETRAIN answer returns the requester's lanes to SEEK. -/
  | retrainAnswer (l : Fin 48) (reason : Byte)
  /-- UP_WAIT_TIMEOUT (R326). UpWait ticks after the first usable lane is READY move the link to INIT. -/
  | upWaitTimeout (l : Fin 48)
  /-- INIT_TIMEOUT (R326). SwitchTo ticks in INIT take the link down. -/
  | initTimeout (l : Fin 48)
  /-- HUNT_TIMEOUT (R338). A hunt lasting SwitchTo ticks sends a RETRAIN request. -/
  | huntTimeout (l : Fin 48)
  /-- RETRAIN_REQUEST_TIMEOUT (R338). An unanswered retrain request is resent, or after three the link goes down. -/
  | retrainRequestTimeout (l : Fin 48)
  /-- RETRAIN_TIMEOUT (R326). RetrainTo ticks in RETRAIN take the link down. -/
  | retrainTimeout (l : Fin 48)
  /-- HOLDOFF_EXPIRY (R326). Holdoff ticks in DOWN with AutoRestart return the link to TRAINING. -/
  | holdoffExpiry (l : Fin 48)
  /-- LNK_PORT_WRITE (R303). A write of LNK_PORT.Split changes the port split or is ignored. -/
  | lnkPortWrite (p : Fin 12) (split : BitVec 2)
  /-- LINK_ENABLE_WRITE (R326). A write of LNK_CTRL.Enable moves the link to TRAINING or DISABLED. -/
  | linkEnableWrite (l : Fin 48) (en : Bool)
  /-- LINK_RETRAIN_WRITE (R338). A write of 1 to LNK_CTRL.Retrain requests a retrain of an ACTIVE link. -/
  | linkRetrainWrite (l : Fin 48)
  /-- ALLOW_MASK_WRITE (R336). A write of AllowMask switches the link without a withdrawn lane or is refused. -/
  | allowMaskWrite (l : Fin 48) (mask : BitVec 4)
  /-- LINK_INFO (R341). Returns link status, sequence, outstanding and credits. -/
  | linkInfo (h : SlipHdr) (l : Byte)
  /-- LINK_PORT_SPLIT (R303). Sets a port's split. -/
  | linkPortSplit (h : SlipHdr) (p split : Byte)
  /-- LINK_CONFIG (R341). Writes a link's timer and threshold registers. -/
  | linkConfig (h : SlipHdr) (l : Byte) (crto errwin timers holdoff : Word)
  /-- LINK_ENABLE (R341). Sets a link's Enable and AutoRestart. -/
  | linkEnable (h : SlipHdr) (l enable autoRestart : Byte)
  /-- LINK_WIDTH (R336). Sets a link's AllowMask. -/
  | linkWidth (h : SlipHdr) (l mask : Byte)
  /-- LINK_RETRAIN (R338). Requests a retrain, finishing when the link re-enters ACTIVE. -/
  | linkRetrain (h : SlipHdr) (l : Byte)
  /-- LINK_COUNTERS (R341). Returns a group of five link counters. -/
  | linkCounters (h : SlipHdr) (l group : Byte)
  /-- ROUTE_FAILOVER (R351). Within 1 µs of a link's DOWN the switch re-dispatches or discards its flits. -/
  | routeFailover (l : Fin 48)
  /-- FAB_ROUTE_WRITE (R349). A write of FAB_ROUTE takes effect at once for its destination. -/
  | fabRouteWrite (d : BitVec 10) (v : Word)
  /-- FAB_IDENTITY_WRITE (R345). A write to FAB_NODE or FAB_CTRL identity fields is accepted only when STOPPED and not a member. -/
  | fabIdentityWrite (reg : Fin 2) (v : Word)
  /-- REMOTE_READ (R356). The fabric inbound unit performs a remote READ and answers DATA. -/
  | remoteRead (r : RemoteMsg) (cls : BitVec 2)
  /-- REMOTE_WRITE (R356). The fabric inbound unit performs a remote WRITE and answers DONE. -/
  | remoteWrite (r : RemoteMsg) (cls : BitVec 2)
  /-- REMOTE_DATA (R357). A DATA response completes a remote load or transfer. -/
  | remoteData (r : RemoteMsg)
  /-- REMOTE_DONE (R357). A DONE response accepts and completes a remote store or declares it lost. -/
  | remoteDone (r : RemoteMsg)
  /-- PROBE_TICK (R358). Every ProbeInt ticks a node sends TIME_PROBE on its live links. -/
  | probeTick
  /-- TIME_PROBE (R309). A received TIME_PROBE is answered with TIME_REPLY within 2 µs. -/
  | timeProbe (l : Fin 48) (id : BitVec 16) (t1 t2 : Dword)
  /-- TIME_REPLY (R359). A TIME_REPLY yields delay and, from the parent, offset for the servo. -/
  | timeReply (l : Fin 48) (id : BitVec 16) (t1 t2 t3 t4 : Dword)
  /-- TIME_TICK (R362). Every 10 ticks a node sends TIME flits on its live links. -/
  | timeTick
  /-- TIME (R362). A received TIME flit supplies period, timekeeper and lock state. -/
  | timeFlit (l : Fin 48) (stime : Dword) (period : Word) (frame : Dword) (keeper : BitVec 10) (flags : Byte) (depth : BitVec 6) (epoch : Word)
  /-- HOLDOVER_TIMEOUT (R360). HoldoverTo ticks without a parent reply clear TimeLocked. -/
  | holdoverTimeout
  /-- BEAT (R367). Every Beat ticks a node sends BEACON and ROUTE and the leader acts once. -/
  | beat
  /-- BEACON (R367). A received BEACON records its sender as reachable. -/
  | beacon (m : MemberMsg) (l : Option (Fin 48))
  /-- BEACON_MISS (R367). A member without a beacon for Miss × Beat ticks becomes unreachable. -/
  | beaconMiss (n : BitVec 10)
  /-- PROPOSE (R371). A member answers a valid PROPOSE with AGREE. -/
  | propose (sender : BitVec 10) (epoch : Word) (part : Fin 2) (nodes : List (BitVec 10)) (total : BitVec 16)
  /-- AGREE (R371). The leader records AGREE and sends ROSTER when every proposed member has agreed. -/
  | agree (sender : BitVec 10) (epoch : Word)
  /-- ROSTER (R371). A member adopts the epoch, bitmap and Total of a ROSTER. -/
  | roster (sender : BitVec 10) (epoch : Word) (part : Fin 2) (nodes : List (BitVec 10)) (total : BitVec 16)
  /-- JOIN (R372). A leader admits a joiner in its next PROPOSE; a non-leader forwards it. -/
  | join (m : MemberMsg)
  /-- ADMIT (R372). A joiner records M and Fj to rejoin at boundary Fj, or ignores a late ADMIT. -/
  | admitMsg (sender : BitVec 10) (epoch : Word) (subject : BitVec 10) (edition : Word) (rejoin : Dword)
  /-- ROUTE (R353). A received ROUTE message updates the automatic route tables. -/
  | route (sender : BitVec 10) (part : Fin 11) (entries : List Byte) (l : Fin 48)
  /-- FAB_INFO (R378). Returns membership status, epoch, weight and leader. -/
  | fabInfo (h : SlipHdr)
  /-- FAB_ROUTE_SET (R378). Writes route entries. -/
  | fabRouteSet (h : SlipHdr) (first : BitVec 16) (count : Byte) (words : List Word)
  /-- FAB_ROUTE_READ (R378). Returns a route entry and the link selected now. -/
  | fabRouteRead (h : SlipHdr) (d : BitVec 16)
  /-- FAB_CONFIG (R345). Writes node identity, control, beat and time settings. -/
  | fabConfig (h : SlipHdr) (node ctrl beat timeCfg : Word)
  /-- FAB_FORM_SET (R368). Writes a quarter of the formation mask. -/
  | fabFormSet (h : SlipHdr) (quarter : Byte) (mask : List Byte)
  /-- FAB_RWIN_SET (R354). Writes a staged remote window entry. -/
  | fabRwinSet (h : SlipHdr) (entry : Byte) (w : Word)
  /-- FAB_MEMBER_READ (R378). Returns a node's last beacon data. -/
  | fabMemberRead (h : SlipHdr) (n : BitVec 16)
  /-- FAB_TIME_INFO (R378). Returns time state, rate and timekeeper. -/
  | fabTimeInfo (h : SlipHdr)
  /-- FAB_FENCE (R373). Puts a fence in force with HeldCause ManagerFence. -/
  | fabFence (h : SlipHdr)
  /-- FAB_UNFENCE (R373). Ends the fence, changing the cause to NotMember or removing it. -/
  | fabUnfence (h : SlipHdr)
  /-- FAB_SLOT (R378). Powers a slot on or off or sets its indicator. -/
  | fabSlot (h : SlipHdr) (p op ind : Byte)
  /-- SLOT_INSERTION (R375). A presence change held 20,000 ticks counts as insertion. -/
  | slotInsertion (p : Fin 12)
  /-- SLOT_REMOVAL (R375). A presence change held 1,000 ticks counts as removal and drives PWREN low. -/
  | slotRemoval (p : Fin 12)
  /-- BUTTON_PRESS (R376). A debounced attention press opens or closes an attention window or sets AttnPressed. -/
  | buttonPress (p : Fin 12)
  /-- ATTENTION_WINDOW_END (R376). At the end of the 5-second window the slot is powered on or quiesced. -/
  | attentionWindowEnd (p : Fin 12)
  /-- PGOOD_TIMEOUT (R375). PGOOD not asserted within PgoodTo removes power and sets PowerFault. -/
  | pgoodTimeout (p : Fin 12)
  /-- PGOOD_LOSS (R375). PGOOD deasserting on a powered slot removes power and sets PowerFault. -/
  | pgoodLoss (p : Fin 12)
  /-- QUIESCE_DONE (R376). A quiescing slot's links drain or 1 ms passes, and the slot is powered off. -/
  | quiesceDone (p : Fin 12)
  /-- POWER_CTL_WRITE (R376). A write of PowerCtl powers a slot on or quiesces it. -/
  | powerCtlWrite (p : Fin 12) (on : Bool)
  /-- MEMORY_READ (R401). An inbound memory read is translated and performed in arrival order. -/
  | memoryRead (addr : Dword) (len : Fin 4097) (head : ReadHead)
  /-- MEMORY_WRITE (R401). An inbound posted memory write is translated and performed. -/
  | memoryWrite (addr : Dword) (data : List Byte) (be : List Bool) (poison : Bool) (header : TlpHead)
  /-- CONFIG_READ (R414). A configuration read is answered, with RRS until CfgReady. -/
  | configRead (dw : Fin 1024)
  /-- CONFIG_WRITE (R384). A configuration write updates the header or capability fields. -/
  | configWrite (dw : Fin 1024) (data : Word) (be : BitVec 4)
  /-- POWER_STATE_WRITE (R409). A PMCSR PowerState write moves the function between D0 and D3hot. -/
  | powerStateWrite (v : BitVec 2)
  /-- INITIATE_FLR (R413). An Initiate FLR write starts a Function Level Reset. -/
  | initiateFlr
  /-- FLR_COMPLETE (R413). The FLR completes and configuration requests are served again. -/
  | flrComplete
  /-- MSIX_CONTROL_WRITE (R427). A write of MSI-X Enable or Function Mask changes delivery at its arrival instant. -/
  | msixControlWrite (enable fmask : Bool)
  /-- PERST (R411). PERST# asserted resets the host port only. -/
  | perst
  /-- HOT_RESET (R411). A hot reset resets the host port and retrains the link. -/
  | hotReset
  /-- HOST_LINK_DOWN (R411). Host link down resets the host port. -/
  | hostLinkDown
  /-- HOST_LINK_UP (R382). The host link completes training at a rate and width. -/
  | hostLinkUp (rate : Fin 6) (width : Fin 5) (flit : Bool)
  /-- CFG_READY (R414). CfgReady sets once the link is up and option loading and ROM check have ended. -/
  | cfgReady
  /-- COMPLETION (R406). An arriving completion is matched to its tag or reported unexpected. -/
  | completion (tag : BitVec 10) (status : CplStatus) (poison : Bool) (data : List Byte) (header : TlpHead)
  /-- COMPLETION_TIMEOUT (R405). A request timing out is logged, its tag quarantined and its requester given an error. -/
  | completionTimeout (tag : BitVec 10)
  /-- TAG_QUARANTINE_END (R405). A quarantined tag is freed after twice the timeout. -/
  | tagQuarantineEnd (tag : BitVec 10)
  /-- REMOTE_PIECE_TIMEOUT (R398). A remote window piece unanswered for RemoteTo ticks makes the read Completer Abort. -/
  | remotePieceTimeout (tag : BitVec 16)
  /-- L1_ENTRY (R410). L1Idle ticks without traffic take the link into L1. -/
  | l1Entry
  /-- L0S_ENTRY (R410). 2 µs with nothing to send enters L0s in non-Flit Mode. -/
  | l0sEntry
  /-- WINCTRL_COMMIT (R399). A write of 1 to HPT_WINCTRL.Commit makes staged window copies current or is refused. -/
  | winctrlCommit
  /-- WINCTRL_REVERT (R399). A write of 1 to HPT_WINCTRL.Revert copies current over staged windows. -/
  | winctrlRevert
  /-- HOST_INFO (R415). Returns host status, tags and commit count. -/
  | hostInfo (h : SlipHdr)
  /-- WIN_STAGE (R415). Writes a staged host window or aperture entry. -/
  | winStage (h : SlipHdr) (set index : Byte) (w0 w1 : Word)
  /-- WIN_COMMIT (R399). Makes all staged window copies current or is refused. -/
  | winCommit (h : SlipHdr)
  /-- WIN_REVERT (R399). Copies current window copies over the staged copies. -/
  | winRevert (h : SlipHdr)
  /-- WIN_READ (R415). Returns a window entry's current or staged words. -/
  | winRead (h : SlipHdr) (set index view : Byte)
  /-- HOST_COUNTERS (R415). Returns five host-port counters. -/
  | hostCounters (h : SlipHdr)
  /-- MODERATION_TIMER_EXPIRY (R423). A vector's moderation timer reaches Timer and its message falls due. -/
  | moderationTimerExpiry (v : Fin 2048)
  /-- MSIX_MESSAGE_COMMIT (R425). The interrupt unit commits a due message or sets the vector pending. -/
  | msixMessageCommit
  /-- IRQ_MOD_WRITE (R424). A write of IRQ_MOD applies at once and may make a message due. -/
  | irqModWrite (v : Fin 2048) (thr : Byte) (timer : BitVec 16)
  /-- VECTOR_MASK_WRITE (R427). A write of an MSI-X entry's Mask withholds or releases its messages. -/
  | vectorMaskWrite (v : Fin 2048) (mask : Bool)
  /-- COMP_WRITE (R437). A write of a source number to a Comp register completes the active source or counts a stray. -/
  | compWrite (bank : CompBank) (src : Byte)
  /-- DOORBELL_WRITE (R440). A write of 1 to a bay doorbell bit raises source 48 + k. -/
  | doorbellWrite (b : Fin 64) (mask : Byte)
  /-- RING_DOORBELL (R450). A ring doorbell write sets Tail and offers descriptors for fetch. -/
  | ringDoorbell (r : Fin 4096) (tail : BitVec 12)
  /-- RING_RESUME (R449). A doorbell write with Resume clears HALTED and its codes. -/
  | ringResume (r : Fin 4096) (tail : BitVec 12)
  /-- DESCRIPTOR_FETCH (R446). A fetched descriptor is checked for Own, length and address. -/
  | descriptorFetch (m : Fin 31)
  /-- SEGMENT_DONE (R451). A mover finishes a segment of a descriptor. -/
  | segmentDone (m : Fin 31)
  /-- DESCRIPTOR_WRITEBACK (R447). A completed descriptor's Status, Done and Own are written back in order. -/
  | descriptorWriteback (m : Fin 31)
  /-- SCHEDULING_ROUND (R453). Each tick every owner's deficit is updated from its weight. -/
  | schedulingRound
  /-- MOVER_FREE (R452). A free mover takes a due channel transfer or an item of ring work. -/
  | moverFree (m : Fin 31)
  /-- CHANNEL_INBOUND (R460). At boundary n + At an inbound channel fetches its block and delivers elements. -/
  | channelInbound (j : Fin 64)
  /-- BULK (R465). A delivered BULK flit is written to the bulk ring or discarded. -/
  | bulk
  /-- PAGE_RESET (R469). A write of 1 to CRP_CTRL.Reset starts a carrel reset. -/
  | pageReset (c : Fin 256)
  /-- CARREL_RESET_DONE (R469). A carrel reset ends with rings IDLE and Ready set. -/
  | carrelResetDone (c : Fin 256)
  /-- CARREL_CREATE (R466). Creates a carrel with rings, vectors, PASID and share. -/
  | carrelCreate (h : SlipHdr) (c : BitVec 16) (rings vectors : Byte) (pasid : Word) (share : BitVec 16)
  /-- CARREL_DESTROY (R471). Resets and destroys a carrel, returning its resources. -/
  | carrelDestroy (h : SlipHdr) (c : BitVec 16)
  /-- CARREL_RESET (R469). Starts a carrel reset by call slip. -/
  | carrelReset (h : SlipHdr) (c : BitVec 16)
  /-- CARREL_SHARE (R454). Stages an owner's QoS share. -/
  | carrelShare (h : SlipHdr) (owner weight : BitVec 16)
  /-- CARREL_INFO (R473). Returns a carrel's state, PASID, shares and resets. -/
  | carrelInfo (h : SlipHdr) (c : BitVec 16)
  /-- RING_CONFIG (R444). Configures a ring's kind, size, base and vector. -/
  | ringConfig (h : SlipHdr) (owner slot : BitVec 16) (kind sizeLog vector : Byte) (base : Dword)
  /-- RING_RELEASE (R473). Frees a manager ring that is not ACTIVE. -/
  | ringRelease (h : SlipHdr) (r : BitVec 16)
  /-- RING_INFO (R473). Returns a ring's settings and status. -/
  | ringInfo (h : SlipHdr) (r : BitVec 16)
  /-- CHAN_STAGE (R458). Writes a channel's shadow set with Commit. -/
  | chanStage (h : SlipHdr) (j : Byte) (cfg blk : Word)
  /-- DMA_INFO (R473). Returns DMA status and counters. -/
  | dmaInfo (h : SlipHdr)
  /-- CMD_DOORBELL_WRITE (R491). A write of CMD_DOORBELL sets the command ring Tail and starts fetching slips. -/
  | cmdDoorbellWrite (v : BitVec 12)
  /-- SLIP_FETCHED (R491). A command-ring slip read completes and the slip enters the queue. -/
  | slipFetched (data : List Byte)
  /-- RING_EN_WRITE (R490). A write of 1 to CMD_CTRL.RingEn resets the ring indices and restarts the host path. -/
  | ringEnWrite (en : Bool)
  /-- CMD_RQ_HEAD_WRITE (R492). A write of CMD_RQ_HEAD frees reply slots and releases held return slips. -/
  | cmdRqHeadWrite (v : BitVec 12)
  /-- CALL_FRAME (R494). A console call frame is collected and its slip queued, or abandoned on a bad Crc. -/
  | callFrame (slip : List Byte)
  /-- FRAME_GAP_TIMEOUT (R494). More than 10 ticks between frame bytes abandon the frame. -/
  | frameGapTimeout
  /-- TEXT_LINE (R551). A console line ends and is parsed as a text command. -/
  | textLine
  /-- SLIP_CALL (R498). A SLIP flit carrying a call slip is queued with the fabric as its path. -/
  | slipCall (sender : BitVec 10) (slip : List Byte)
  /-- SLIP_RETURN (R499). A SLIP flit carrying a return slip is passed back on its relay entry's path. -/
  | slipReturn (sender : BitVec 10) (slip : List Byte)
  /-- SLIP_EXECUTE (R486). The Curator takes the next call slip from the queue, checks and executes it. -/
  | slipExecute
  /-- RELAY_TIMEOUT (R499). A relay entry without a return slip within CMD_RELAYTO ends with REPLY_TIMEOUT. -/
  | relayTimeout (target : BitVec 10) (seq : BitVec 16)
  /-- HOLD_TIMEOUT (R15). A return slip held CMD_HOLDTO ms after a host-port reset is discarded and logged. -/
  | holdTimeout
  /-- DEV_INFO (R503). Returns device identity and firmware version. -/
  | devInfo (h : SlipHdr)
  /-- DEV_SERIAL (R503). Returns the serial number. -/
  | devSerial (h : SlipHdr)
  /-- FW_INFO (R503). Returns firmware version, slot and digest. -/
  | fwInfo (h : SlipHdr)
  /-- ECHO (R503). Returns its parameter bytes. -/
  | echo (h : SlipHdr) (bytes : List Byte)
  /-- CMD_INFO (R503). Returns command channel state. -/
  | cmdInfo (h : SlipHdr)
  /-- CMD_CONFIG (R503). Sets path enables and command timers. -/
  | cmdConfig (h : SlipHdr) (consoleEn fabricEn : Bool) (relayTo holdTo : Word)
  /-- PWR_INFO (R509). Returns powered domains and the last wake. -/
  | pwrInfo (h : SlipHdr)
  /-- PWR_DOMAIN_READ (R509). Returns a domain's state, votes and wakes. -/
  | pwrDomainRead (h : SlipHdr) (d : Byte)
  /-- PWR_HOLD (R520). Places or withdraws a manager vote on a domain. -/
  | pwrHold (h : SlipHdr) (d on : Byte)
  /-- PWR_DOM_HOLD_WRITE (R520). A write of PWR_DOM.Hold places or withdraws a manager vote. -/
  | pwrDomHoldWrite (d : Fin 96) (on : Bool)
  /-- PWR_SLEEP (R524). Enters standby or deep sleep. -/
  | pwrSleep (h : SlipHdr) (mode : Byte) (ticks : Word)
  /-- STANDBY_WRITE (R523). A write of PWR_CTRL.Standby enters or leaves standby. -/
  | standbyWrite (on : Bool)
  /-- SLEEP_WRITE (R524). A write of 1 to PWR_CTRL.Sleep starts deep-sleep entry. -/
  | sleepWrite
  /-- SLEEP_DRAIN_DONE (R524). Movers and links are idle and deep-sleep entry proceeds to sealing. -/
  | sleepDrainDone
  /-- SLEEP_ENTRY_TIMEOUT (R524). The drain not ending within 10 ms abandons deep-sleep entry. -/
  | sleepEntryTimeout
  /-- DEEP_SLEEP_WAKE (R526). A recognised wake source ends deep sleep and releases the reset. -/
  | deepSleepWake (source : Fin 6)
  /-- AO_TIMER_SET (R509). Sets or stops the AO timer. -/
  | aoTimerSet (h : SlipHdr) (ticks : Word)
  /-- AO_TIMER_EXPIRY (R526). PWR_AOTIMER reaches 0, raising its source, flag and wake. -/
  | aoTimerExpiry
  /-- WDT_CONFIG (R535). Sets the watchdog timeout and enable. -/
  | wdtConfig (h : SlipHdr) (ticks : Word) (en : Byte)
  /-- WDT_KICK (R535). Kicks the watchdog. -/
  | wdtKick (h : SlipHdr)
  /-- WDT_KICK_WRITE (R535). A write of 0x5A5A to RST_WDT_KICK kicks the watchdog. -/
  | wdtKickWrite (v : Word)
  /-- WATCHDOG_EXPIRY (R535). The watchdog count reaches RST_WDT_TO and asserts a Warm reset. -/
  | watchdogExpiry
  /-- RST_REQUEST (R509). Orders a Warm or System reset within 100 µs. -/
  | rstRequest (h : SlipHdr) (reach : Byte) (key : Word)
  /-- RST_SWREQ_WRITE (R532). A keyed write to RST_SWREQ asserts a software reset. -/
  | rstSwreqWrite (v : Word)
  /-- RST_CAUSE (R509). Returns reset sources and episode count. -/
  | rstCause (h : SlipHdr)
  /-- BACKUP_READ (R509). Returns a backup register. -/
  | backupRead (h : SlipHdr) (n : Byte)
  /-- BACKUP_WRITE (R509). Writes a backup register. -/
  | backupWrite (h : SlipHdr) (n : Byte) (v : Word)
  /-- RETAINED_READ (R536). Returns 16 bytes of retained memory. -/
  | retainedRead (h : SlipHdr) (off : BitVec 16)
  /-- RETAINED_WRITE (R536). Writes 16 bytes of retained memory. -/
  | retainedWrite (h : SlipHdr) (off : BitVec 16) (data : List Byte)
  /-- OPT_READ (R509). Returns 16 bytes of the option folio. -/
  | optRead (h : SlipHdr) (off : BitVec 16)
  /-- POWER_ON (R542). VDD_AON rising to good starts a Cold episode and the power-on sequence. -/
  | powerOn
  /-- BROWN_OUT (R514). A supply in brown-out asserts the reset its table names. -/
  | brownOut (supply : Supply) (low : Bool)
  /-- CORE_GOOD (R542). VDD_CORE and VDD_SRAM reach good and the sequence continues. -/
  | coreGood
  /-- RESET_PIN (R532). RESET_N low at two AOCLK edges asserts a System reset until high at two. -/
  | resetPin (low : Bool)
  /-- RESET_RELEASE (R534). 2 ticks after the last source releases, release sequencing begins. -/
  | resetRelease
  /-- FUSE_SENSING_DONE (R537). Fuse sensing ends and pins take their fuse-map states. -/
  | fuseSensingDone
  /-- SYSTEM_PLL_LOCK (R517). The system PLL locks to REFCLK_SYS. -/
  | systemPllLock
  /-- INRUSH_GRANT (R521). At the end of each tick one waiting domain is granted power. -/
  | inrushGrant
  /-- DOMAIN_IDLE_TIMEOUT (R519). A domain without a vote for PWR_IDLE ticks is power-gated. -/
  | domainIdleTimeout (d : Fin 96)
  /-- OPTION_LOADING_DONE (R541). The folio is checked and loaded and the Curator released. -/
  | optionLoadingDone (failed : Option (Fin 2))
  /-- IMAGE_VERIFIED (R543). A boot slot is accepted or rejected and the firmware starts or recovery is entered. -/
  | imageVerified
  /-- FIRMWARE_START (R590). The firmware starts and writes its RESET, BOOT and pending entries. -/
  | firmwareStart (romOk : Bool)
  /-- XTAL_SWITCH (R516). After 2,048 crystal cycles AOCLK switches to the crystal. -/
  | xtalSwitch
  /-- XTAL_START_TIMEOUT (R516). A crystal not started within 10 ms leaves AOCLK internal. -/
  | xtalStartTimeout
  /-- XTAL_STOP (R516). A stopped crystal switches AOCLK back to the internal oscillator. -/
  | xtalStop
  /-- CLOCK_FAIL (R517). REFCLK_SYS out of range for 4 ticks asserts a Warm reset. -/
  | clockFail
  /-- CLOCK_RECOVER (R517). REFCLK_SYS in range for 100 ticks releases the ClockFail reset. -/
  | clockRecover
  /-- REFCLK_HOST_LOSS (R517). Loss of REFCLK_HOST takes the host link down. -/
  | refclkHostLoss
  /-- AVS_STEP (R576). The bridge moves the VDD_CORE target by one step. -/
  | avsStep (up : Bool)
  /-- TEMP_SAMPLE (R556). Every 1,000 ticks the junction temperature is sampled. -/
  | tempSample (t : Byte)
  /-- MNT_INFO (R510). Returns maintenance port settings. -/
  | mntInfo (h : SlipHdr)
  /-- BIST_RUN (R563). Starts a self-test on a unit. -/
  | bistRun (h : SlipHdr) (test : Byte) (unit : BitVec 16) (options : Word)
  /-- BIST_COMPLETE (R564). A self-test ends, records its result and writes its final return slip. -/
  | bistComplete (test : Byte) (unit : BitVec 16) (outcome : Fin 3) (failing : BitVec 16) (detail duration : Word)
  /-- BIST_RESULT (R510). Returns a test's last result. -/
  | bistResult (h : SlipHdr) (test : Byte)
  /-- AMON_SELECT (R558). Selects the AMON source. -/
  | amonSelect (h : SlipHdr) (source : BitVec 16)
  /-- FMON_SELECT (R559). Selects the FMON source and divider. -/
  | fmonSelect (h : SlipHdr) (source div : BitVec 16)
  /-- LED_SET (R560). Fixes a lamp's pattern or returns it to the bridge. -/
  | ledSet (h : SlipHdr) (led pattern : Byte)
  /-- CONSOLE_CONFIG (R549). Sets the console rate and mode after reset. -/
  | consoleConfig (h : SlipHdr) (baud : Word) (mode : Byte)
  /-- FUSE_READ (R510). Returns a fuse word. -/
  | fuseRead (h : SlipHdr) (w : BitVec 16)
  /-- FUSE_PROGRAM (R565). Programs bits of a fuse word and returns the word read back. -/
  | fuseProgram (h : SlipHdr) (w : BitVec 16) (bits key : Word)
  /-- FLASH_WRITE (R510). Starts writing flash from Stacks. -/
  | flashWrite (h : SlipHdr) (flash stk len : Word)
  /-- FLASH_WRITE_DONE (R510). The flash write ends and writes its final return slip. -/
  | flashWriteDone (failed : Bool)
  /-- FLASH_VERIFY (R510). Verifies a flash slot's signature. -/
  | flashVerify (h : SlipHdr) (slot : Byte)
  /-- BREAK (R550). MUART_RXD low for 100,000 ticks switches the console to text mode. -/
  | uartBreak
  /-- TEXT_HELP (R553). Prints the command list. -/
  | textHelp
  /-- TEXT_INFO (R553). Prints identity, firmware and boot slot. -/
  | textInfo
  /-- TEXT_STATUS (R553). Prints scheduler, HOLD_N, latch and membership state. -/
  | textStatus
  /-- TEXT_LOG (R553). Prints the newest log entries. -/
  | textLog (n : Option Byte)
  /-- TEXT_LANE (R553). Prints a lane's registers. -/
  | textLane (l : Byte)
  /-- TEXT_LINK (R553). Prints a link's registers. -/
  | textLink (l : Byte)
  /-- TEXT_AMON (R553). Selects the AMON source. -/
  | textAmon (source : BitVec 16)
  /-- TEXT_FMON (R553). Selects the FMON source and divider. -/
  | textFmon (source div : BitVec 16)
  /-- TEXT_LED (R553). Sets or releases a lamp pattern. -/
  | textLed (led pattern : Byte)
  /-- TEXT_BIST (R553). Runs a self-test and prints its result. -/
  | textBist (test : Byte) (unit : Option (BitVec 16)) (options : Option Word)
  /-- TEXT_BIST_QUERY (R553). Prints a test's last result. -/
  | textBistQuery (test : Byte)
  /-- TEXT_FUSE (R553). Reads or programs a fuse word. -/
  | textFuse (w : BitVec 16) (prog : Option (Word × Word))
  /-- TEXT_BAUD (R553). Sets the console rate and mode after reset. -/
  | textBaud (rate : Word) (mode : Option Byte)
  /-- TEXT_FRAMED (R550). Answers OK FRAMED and switches to framed mode. -/
  | textFramed
  /-- TEXT_SLIP (R495). Builds and queues a call slip from a text line. -/
  | textSlip (seq op : BitVec 16) (node : Option (BitVec 16)) (params : List Byte)
  /-- M2W_WRITE (R555). An M2W write sets the pointer and writes bytes. -/
  | m2wWrite (ptr : Byte) (data : List Byte)
  /-- M2W_READ (R555). An M2W read returns bytes from the pointer, taken at the address phase. -/
  | m2wRead (n : Fin 257)
  /-- M2W_WAKE (R557). Command byte 0x01 wakes the bridge from deep sleep. -/
  | m2wWake
  /-- M2W_HOLD (R557). Command byte 0x02 asserts HOLD_N. -/
  | m2wHold
  /-- TAP_RESET (R566). TRST_N low or five TCK edges with TMS high reset the TAP. -/
  | tapReset
  /-- EXTEST (R567). Boundary-scan test of the pins while RESET_N is low. -/
  | extest
  /-- IDCODE (R566). Selects the identification register. -/
  | idcode
  /-- SAMPLE_PRELOAD (R567). Samples or preloads the boundary register. -/
  | samplePreload
  /-- CLAMP (R567). Holds pins from the boundary register with bypass selected. -/
  | clamp
  /-- HIGHZ (R567). Places outputs in high impedance. -/
  | highz
  /-- EXTEST_PULSE (R567). AC boundary-scan test of the lanes. -/
  | extestPulse
  /-- EXTEST_TRAIN (R567). AC boundary-scan pulse-train test of the lanes. -/
  | extestTrain
  /-- DEBUG_RESET (R567). At Update-IR asserts the Debug reset source when DebugUnlock is set. -/
  | debugReset
  /-- BYPASS (R567). Selects the bypass register. -/
  | bypass
  /-- REGISTER_READ (R5). A read of a register with behaviour of its own, such as an RC field that clears or a LO half that latches its HI half, takes effect. -/
  | registerRead (a : Word)
  /-- GATE_PAIR_STEP (R263). At every 5 ns step of the grid that restarts at each release instant, each gate pair runs its output logic and its pins may change. -/
  | gatePairStep
  /-- MDAT_SAMPLE (R249). A modulator channel samples MDATc at its clock edge, extending or ending a run of equal bits that sets or clears Stuck. -/
  | mdatSample (c : Fin 32) (bit : Bool)
  /-- PRBS_SYNC (R293). A PRBS checker declares RxSync after 64 consecutive bits without error and clears its counters. -/
  | prbsSync (x : LaneBits)
  /-- PRBS_SYNC_LOST (R293). More than 64 mismatches within 256 bits clear RxSync, set PrbsSyncLost and reseed the checker. -/
  | prbsSyncLost (n : Fin 64) (bits errors : Word)
  /-- PGOOD_ASSERT (R375). Mp_PGOOD asserts on a powered slot, releasing the port's lanes from forced DISABLED. -/
  | pgoodAssert (p : Fin 12)
  /-- L0_REACHED (R430). The host link completes its exit from L0s or L1 and the waiting message or TLP is sent. -/
  | l0Reached
  /-- PERST_RELEASE (R411). PERST# is deasserted, the host port leaves reset and link training starts. -/
  | perstRelease
  /-- REFCLK_HOST_BACK (R517). REFCLK_HOST returns, RefHostOk sets and CLOCK_EVENT code 3 is written. -/
  | refclkHostBack
  /-- WDT_HALF (R535). The watchdog count reaches half of RST_WDT_TO and WdtHalf is set. -/
  | wdtHalf
  /-- LONG_BREAK (R550). MUART_RXD held low for 2,000,000 ticks sets the rate to 115,200 baud and ModeAfterReset to text. -/
  | longBreak
  /-- DOMAIN_RUNNING (R521). A domain granted power finishes waking and runs, delivering a deferred compute-start or completing a waiting register access. -/
  | domainRunning (d : Fin 96)
  /-- CHARACTER_RECEIVED (R551). A console character arrives and is echoed and edited into the line, or discarded and counted on overflow or framing error. -/
  | characterReceived (c : Byte) (ok : Bool)
deriving DecidableEq, Repr

end Sys2Proof
end

