-- ==== Sys2Proof/Machine/Float.lean ====
section
/-! DEFINITION. Machine/Float.lean: rounding, saturation and FP32 arithmetic (R165 to R168, R78).  A result is a pair
of the value and the FSTAT bits it sets (R166). -/

namespace Sys2Proof.Machine

/-! ## The FSTAT bits (R166) -/

abbrev fsSat : Word := 1#32
abbrev fsDivZero : Word := 2#32
abbrev fsInvalid : Word := 4#32
abbrev fsDivByZero : Word := 8#32
abbrev fsOverflow : Word := 16#32
abbrev fsUnderflow : Word := 32#32
abbrev fsInexact : Word := 64#32

/-- A value with the flags it sets. -/
abbrev Flagged := Word × Word

/-! ## Rounding and saturation (R165) -/

/-- `n / d` rounded to the nearest integer, ties to even. -/
def rneNat (n d : Nat) : Nat :=
  let q := n / d
  let r := 2 * (n % d)
  if r < d then q else if d < r then q + 1 else q + q % 2

/-- `n / d` rounded to the nearest integer, ties to even. -/
def rneInt (n : Int) (d : Nat) : Int := if 0 ≤ n then Int.ofNat (rneNat n.natAbs d) else -Int.ofNat (rneNat n.natAbs d)

/-- `x` clamped to `w`-bit two's complement, and whether it was clamped. -/
def satInt (w : Nat) (x : Int) : Int × Bool :=
  let hi : Int := 2 ^ (w - 1) - 1
  if hi < x then (hi, true) else if x < -hi - 1 then (-hi - 1, true) else (x, false)

/-- A saturated 32-bit result with its Sat flag. -/
def sat32 (x : Int) : Flagged :=
  let r := satInt 32 x
  (BitVec.ofInt 32 r.1, if r.2 then fsSat else 0#32)

/-! ## FP32 (R167) -/

/-- The canonical quiet NaN. -/
abbrev fpNan : Word := 0x7FC00000#32

/-- An FP32 value as an instruction takes it: a subnormal input is a zero of the same sign. -/
inductive Fp
  | nan (signalling : Bool)
  | inf (neg : Bool)
  | zero (neg : Bool)
  /-- m × 2^e, with 2^23 ≤ m < 2^24. -/
  | fin (neg : Bool) (m : Nat) (e : Int)
deriving DecidableEq, Repr

/-- The value of an FP32 word. -/
def fpOf (x : Word) : Fp :=
  let e := (x.toNat / 2 ^ 23) % 256
  let f := x.toNat % 2 ^ 23
  let s := x.getLsbD 31
  if e = 255 then (if f = 0 then .inf s else .nan (decide (f < 2 ^ 22)))
  else if e = 0 then .zero s
  else .fin s (f + 2 ^ 23) (Int.ofNat e - 150)

/-- The sign bit in place. -/
def fpSign (neg : Bool) : Word := if neg then 0x80000000#32 else 0#32

/-- An infinity. -/
def fpInf (neg : Bool) : Word := fpSign neg ||| 0x7F800000#32

/-- `n × 2^e` as a numerator and a power-of-two denominator. -/
def scale2 (n : Nat) (e : Int) : Nat × Nat := if 0 ≤ e then (n * 2 ^ e.toNat, 1) else (n, 2 ^ (-e).toNat)

/-- The largest `e` with 2^e ≤ num / den, for positive num and den. -/
def floorLog (num den : Nat) : Int :=
  let e : Int := Int.ofNat num.log2 - Int.ofNat den.log2
  let (d, n) := scale2 den e
  if d ≤ num * n then e else e - 1

/-- The positive rational num / den, negated when `neg`, rounded once to FP32: to nearest with ties to even; a subnormal
result is a zero of the same sign with Underflow and Inexact; past the range it is an infinity with Overflow. -/
def fpRound (neg : Bool) (num den : Nat) : Flagged :=
  let q : Int := max (floorLog num den - 23) (-149)
  let (d, n) := scale2 den q
  let m0 := rneNat (num * n) d
  let exact := m0 * d == num * n
  let (m, q) := if m0 = 2 ^ 24 then (2 ^ 23, q + 1) else (m0, q)
  if m < 2 ^ 23 then (fpSign neg, fsUnderflow ||| fsInexact)
  else if 104 < q then (fpInf neg, fsOverflow ||| fsInexact)
  else (fpSign neg ||| BitVec.ofNat 32 ((q + 150).toNat * 2 ^ 23 + (m - 2 ^ 23)), if exact then 0#32 else fsInexact)

/-- A rational num / den rounded to FP32; 0 gives +0. -/
def fpOfRat (num : Int) (den : Nat) : Flagged := if num = 0 then (0#32, 0#32) else fpRound (decide (num < 0)) num.natAbs den

/-- The invalid result. -/
def fpBad : Flagged := (fpNan, fsInvalid)

/-- A NaN among the operands: the canonical NaN, Invalid when one signals. -/
def fpNanOf (sig : Bool) : Flagged := (fpNan, if sig then fsInvalid else 0#32)

/-- Signed numerator and denominator of a finite value. -/
def Fp.rat : Fp → Int × Nat
  | .fin neg m e => let (n, d) := scale2 m e; ((if neg then -(Int.ofNat n) else Int.ofNat n), d)
  | _ => (0, 1)

/-- The sign of a value. -/
def Fp.neg : Fp → Bool
  | .nan _ => false
  | .inf s => s
  | .zero s => s
  | .fin s _ _ => s

/-- Is it a NaN, and does it signal? -/
def Fp.isNan : Fp → Bool
  | .nan _ => true
  | _ => false
def Fp.isSnan : Fp → Bool
  | .nan s => s
  | _ => false
def Fp.isInf : Fp → Bool
  | .inf _ => true
  | _ => false
def Fp.isZero : Fp → Bool
  | .zero _ => true
  | _ => false

/-- C + A × B rounded once (FMA). -/
def fpFma (cw aw bw : Word) : Flagged :=
  let c := fpOf cw
  let a := fpOf aw
  let b := fpOf bw
  let ps := a.neg != b.neg
  if (a.isInf && b.isZero) || (a.isZero && b.isInf) then fpBad
  else if a.isNan || b.isNan || c.isNan then fpNanOf (a.isSnan || b.isSnan || c.isSnan)
  else if a.isInf || b.isInf then (if c.isInf && (c.neg != ps) then fpBad else (fpInf ps, 0#32))
  else if c.isInf then (fpInf c.neg, 0#32)
  else
    let (an, ad) := a.rat
    let (bn, bd) := b.rat
    let (cn, cd) := c.rat
    let num := cn * Int.ofNat (ad * bd) + an * bn * Int.ofNat cd
    if num = 0 then
      -- an exact zero: the common sign of two zeros, +0 otherwise
      (fpSign (ps && c.neg && (a.isZero || b.isZero) && c.isZero), 0#32)
    else fpOfRat num (ad * bd * cd)

/-- +1. -/
abbrev fpOne : Word := 0x3F800000#32

/-- The sign bit inverted. -/
def fpNeg (x : Word) : Word := x ^^^ 0x80000000#32

/-- The sign bit cleared. -/
def fpAbs (x : Word) : Word := x &&& 0x7FFFFFFF#32

def fpAdd (a b : Word) : Flagged := fpFma a b fpOne
def fpSub (a b : Word) : Flagged := fpFma a (fpNeg b) fpOne
def fpMul (a b : Word) : Flagged := fpFma 0x80000000#32 a b
/-- C − A × B. -/
def fpFms (c a b : Word) : Flagged := fpFma c (fpNeg a) b

/-- A ÷ B. -/
def fpDiv (aw bw : Word) : Flagged :=
  let a := fpOf aw
  let b := fpOf bw
  let s := a.neg != b.neg
  if a.isNan || b.isNan then fpNanOf (a.isSnan || b.isSnan)
  else if (a.isInf && b.isInf) || (a.isZero && b.isZero) then fpBad
  else if a.isInf then (fpInf s, 0#32)
  else if b.isInf || a.isZero then (fpSign s, 0#32)
  else if b.isZero then (fpInf s, fsDivByZero)
  else
    let (an, ad) := a.rat
    let (bn, bd) := b.rat
    fpRound s (an.natAbs * bd) (ad * bn.natAbs)

/-- √A: the root of a 24-bit significand is taken to 32 bits with a sticky bit below, then rounded once. -/
def fpSqrt (aw : Word) : Flagged :=
  match fpOf aw with
  | .nan s => fpNanOf s
  | .zero s => (fpSign s, 0#32)
  | .inf s => if s then fpBad else (fpInf false, 0#32)
  | .fin s m e =>
    if s then fpBad
    else
      -- m × 2^e = n × 2^(2k) with n scaled up by 2^40 or 2^41
      let k : Int := (e - 40) / 2
      let n := m * 2 ^ (e - 2 * k).toNat
      let r := Nat.sqrt n
      let (a, b) := scale2 (if r * r = n then 2 * r else 2 * r + 1) (k - 1)
      fpRound false a b

/-- A word with a subnormal flushed to a zero of its sign. -/
def fpFlush (x : Word) : Word :=
  match fpOf x with
  | .zero s => fpSign s
  | _ => x

/-- The order of two values that are not NaN, −0 below +0. -/
def fpLess (aw bw : Word) : Bool :=
  let a := fpOf aw
  let b := fpOf bw
  match a, b with
  | .zero s, .zero t => s && !t
  | .inf s, y => s && y != .inf true
  | x, .inf t => !t && x != .inf false
  | x, y => decide (x.rat.1 * Int.ofNat y.rat.2 < y.rat.1 * Int.ofNat x.rat.2)

/-- Minimum or maximum (R167): exactly one NaN gives the other input. -/
def fpMinMax (mx : Bool) (aw bw : Word) : Flagged :=
  let a := fpOf aw
  let b := fpOf bw
  let f := if a.isSnan || b.isSnan then fsInvalid else 0#32
  if a.isNan && b.isNan then (fpNan, f)
  else if a.isNan then (fpFlush bw, f)
  else if b.isNan then (fpFlush aw, f)
  else (fpFlush (if fpLess aw bw != mx then aw else bw), f)

/-- A = B by value. -/
def fpEq (aw bw : Word) : Bool :=
  let a := fpOf aw
  let b := fpOf bw
  if a.isNan || b.isNan then false else if a.isZero && b.isZero then true else a == b

/-- A < B by value. -/
def fpLt (aw bw : Word) : Bool :=
  let a := fpOf aw
  let b := fpOf bw
  if a.isNan || b.isNan || (a.isZero && b.isZero) then false else fpLess aw bw

/-- The comparisons of FCMP: 0 EQ, 1 LT, 2 LE, 3 UN (R168). -/
def fpCmp (cc : Nat) (a b : Word) : Bool × Word :=
  let f := if (fpOf a).isSnan || (fpOf b).isSnan then fsInvalid else 0#32
  (match cc with
    | 0 => fpEq a b
    | 1 => fpLt a b
    | 2 => fpLt a b || fpEq a b
    | _ => (fpOf a).isNan || (fpOf b).isNan, f)

/-! ## Conversions (R168, R176, R78) -/

/-- A signed integer over 2^q as FP32. -/
def fpOfFixed (x : Int) (q : Nat) : Flagged := fpOfRat x (2 ^ q)

/-- sat(rnd(A × 2^q)) to `w` bits: the integer, whether it was clamped, and whether A was a NaN or an infinity. -/
def fpToFixed (w q : Nat) (aw : Word) : Int × Bool × Fp :=
  let a := fpOf aw
  match a with
  | .nan _ => (0, false, a)
  | .zero _ => (0, false, a)
  | .inf s => ((satInt w (if s then -(2 ^ w : Int) else 2 ^ w)).1, true, a)
  | .fin _ _ _ =>
    let (n, d) := a.rat
    let r := satInt w (rneInt (n * 2 ^ q) d)
    (r.1, r.2, a)

/-- FCVT.W.S and FCVT.Q.S: NaN gives 0 with Invalid; a clamp sets Sat, and Invalid for an infinity. -/
def fcvtFixed (w q : Nat) (aw : Word) : Flagged :=
  let (x, clamped, a) := fpToFixed w q aw
  (BitVec.ofInt 32 x, (if clamped then fsSat else 0#32) ||| (if a.isNan || a.isInf then fsInvalid else 0#32))

/-- FCVT.Q.S: `q` = 15 gives Q15, clamped to that format's range, in bits 15:0, its sign in the bits above (DEDUCED, assumption
log 51); every other `q` a 32-bit integer (R165, R168). -/
def fcvtQS (q : Nat) (aw : Word) : Flagged := fcvtFixed (if q = 15 then 16 else 32) q aw

/-- Conversion of an FP32 lane to Q (R78): NaN gives 0; a clamp sets Sat; a signalling NaN sets Invalid. -/
def fpToQ (w q : Nat) (aw : Word) : Int × Word :=
  let (x, clamped, a) := fpToFixed w q aw
  (x, (if clamped then fsSat else 0#32) ||| (if a.isSnan then fsInvalid else 0#32))

end Sys2Proof.Machine
end

