-- ==== Sys2Proof/Config.lean ====
section
/-! DEFINITION. Config.lean: the constants of the model and its free values.  A free value is an opaque
constant with no body: nothing in Lean can evaluate it (assumption log 6). -/

namespace Sys2Proof.Config

/-- A value the spec leaves undefined or does not state; applied to the counter `State.free`. -/
opaque freeWord : Nat → Word

/-- The Curator's handler base, which Henvikel firmware fixes (R187). -/
opaque curatorBase : Word

/-- The sources of the Curator's controller that Henvikel firmware enables (R441). -/
opaque curatorEnables : BitVec 256

/-- Whether the boot ROM accepts a slot (R543): 0, or the reason of R545 (1 manifest, 2 key, 3 signature, 4 digest,
5 SecVersion, 6 flash), from the flash contents, the key hash, the least SecVersion and the slot.  The spec does not give
the manifest's layout (log entry 20). -/
opaque slotReason : List (Nat × Byte) → List Word → Nat → Nat → Nat

/-- The version, build and digest that the manifest of a slot holds (R543, R503). -/
opaque slotVersion : List (Nat × Byte) → Nat → Word
opaque slotBuild : List (Nat × Byte) → Nat → BitVec 16
opaque slotDigest : List (Nat × Byte) → Nat → BitVec 96

/-- Bytes of QSPI flash beyond the 4 MB every board has (the electrical chapter's QSPI row). -/
opaque flashExtra : Nat

end Sys2Proof.Config
end

