-- ==== Sys2Proof/Machine/RegTable.lean ====
section
/-! DEFINITION. Machine/RegTable.lean: every 32-bit register the spec lists, by block, with its
fields, their access codes (R5), reset values and the reset reach that returns it to them (R7).
A register is keyed by its BAR0 offset.  Four regions that are not in BAR0 are keyed above it:
carrel pages at 0x10000000 + BAR2 offset, bay registers at 0x20000000 + 0x1000 * bay + offset,
configuration space at 0xA000000 + offset and the staged window copies at 0xB000000 + BAR0 offset
of the current copy (assumption log 3). -/

namespace Sys2Proof.Machine

/-- The access codes of R5 (RSV bits are the bits no field covers). -/
inductive Access | rw | ro | wo | w1c | w1s | rc
deriving DecidableEq, Repr

/-- The widest set of resets that returns a register to its Reset column (R7): `warm`: every reset of
Warm reach or wider; `system`: System reach or wider; `cold`: Cold only; `warmHost`: Warm or wider and
every host-port reset (R493); `warmPerst`: Warm or wider and PERST#. -/
inductive RegReset | warm | system | cold | warmHost | warmPerst
deriving DecidableEq, Repr

/-- One field row of a register table. -/
structure FieldRow where
  name : String
  hi : Nat
  lo : Nat
  acc : Access
  reset : Nat
deriving DecidableEq, Repr

/-- One register row: `n1` copies `s1` apart, each of them `n2` copies `s2` apart. -/
structure RegRow where
  name : String
  base : Nat
  s1 : Nat
  n1 : Nat
  s2 : Nat
  n2 : Nat
  cls : RegReset
  fields : List FieldRow
deriving DecidableEq, Repr

/-- A field of one register: its key and bit span. -/
structure Fld where
  reg : Nat
  hi : Nat
  lo : Nat
deriving DecidableEq, Repr


/-! ## DEV block (R418, 12_host_port.md) -/

abbrev DEV_IDENT : Nat := 0x0
abbrev DEV_IDENT.DeviceId : Fld := ⟨DEV_IDENT, 15, 0⟩
abbrev DEV_IDENT.Stepping : Fld := ⟨DEV_IDENT, 23, 16⟩
abbrev DEV_IDENT.RevisionId : Fld := ⟨DEV_IDENT, 31, 24⟩
abbrev DEV_VENDOR : Nat := 0x4
abbrev DEV_VENDOR.VendorId : Fld := ⟨DEV_VENDOR, 15, 0⟩
abbrev DEV_SUBSYS : Nat := 0x8
abbrev DEV_SUBSYS.SubVendorId : Fld := ⟨DEV_SUBSYS, 15, 0⟩
abbrev DEV_SUBSYS.SubsystemId : Fld := ⟨DEV_SUBSYS, 31, 16⟩
abbrev DEV_SERIAL_LO : Nat := 0xc
abbrev DEV_SERIAL_LO.Serial : Fld := ⟨DEV_SERIAL_LO, 31, 0⟩
abbrev DEV_SERIAL_HI : Nat := 0x10
abbrev DEV_SERIAL_HI.Serial : Fld := ⟨DEV_SERIAL_HI, 31, 0⟩
abbrev DEV_SCRATCH : Nat := 0x14
abbrev DEV_SCRATCH.Scratch : Fld := ⟨DEV_SCRATCH, 31, 0⟩
abbrev DEV_BAR4 : Nat := 0x18
abbrev DEV_BAR4.Bar4Log : Fld := ⟨DEV_BAR4, 5, 0⟩

def devRows0 : List RegRow := [
  ⟨"DEV_IDENT", 0x0, 0x0, 1, 0x0, 1, .system,
    [⟨"DeviceId", 15, 0, .ro, 0x7260⟩, ⟨"Stepping", 23, 16, .ro, 0xb0⟩, ⟨"RevisionId", 31, 24, .ro, 0x10⟩]⟩,
  ⟨"DEV_VENDOR", 0x4, 0x0, 1, 0x0, 1, .system,
    [⟨"VendorId", 15, 0, .ro, 0x1f9a⟩]⟩,
  ⟨"DEV_SUBSYS", 0x8, 0x0, 1, 0x0, 1, .system,
    [⟨"SubVendorId", 15, 0, .ro, 0⟩, ⟨"SubsystemId", 31, 16, .ro, 0⟩]⟩,
  ⟨"DEV_SERIAL_LO", 0xc, 0x0, 1, 0x0, 1, .system,
    [⟨"Serial", 31, 0, .ro, 0⟩]⟩,
  ⟨"DEV_SERIAL_HI", 0x10, 0x0, 1, 0x0, 1, .system,
    [⟨"Serial", 31, 0, .ro, 0⟩]⟩,
  ⟨"DEV_SCRATCH", 0x14, 0x0, 1, 0x0, 1, .system,
    [⟨"Scratch", 31, 0, .rw, 0⟩]⟩,
  ⟨"DEV_BAR4", 0x18, 0x0, 1, 0x0, 1, .system,
    [⟨"Bar4Log", 5, 0, .ro, 0x1e⟩]⟩]

/-- The DEV block's register table (R418). -/
def devRows : List RegRow := devRows0

/-! ## CMD block (R513, 15_commands.md) -/

abbrev CMD_CTRL : Nat := 0x10000
abbrev CMD_CTRL.RingEn : Fld := ⟨CMD_CTRL, 0, 0⟩
abbrev CMD_CTRL.ConsoleEn : Fld := ⟨CMD_CTRL, 1, 1⟩
abbrev CMD_CTRL.FabricEn : Fld := ⟨CMD_CTRL, 2, 2⟩
abbrev CMD_STATUS : Nat := 0x10004
abbrev CMD_STATUS.QueueUsed : Fld := ⟨CMD_STATUS, 6, 0⟩
abbrev CMD_STATUS.Background : Fld := ⟨CMD_STATUS, 11, 8⟩
abbrev CMD_STATUS.Relays : Fld := ⟨CMD_STATUS, 18, 12⟩
abbrev CMD_STATUS.Held : Fld := ⟨CMD_STATUS, 25, 19⟩
abbrev CMD_STATUS.FetchError : Fld := ⟨CMD_STATUS, 26, 26⟩
abbrev CMD_STATUS.ReplyFull : Fld := ⟨CMD_STATUS, 27, 27⟩
abbrev CMD_CQ_BASE_LO : Nat := 0x10008
abbrev CMD_CQ_BASE_LO.BaseLow : Fld := ⟨CMD_CQ_BASE_LO, 31, 12⟩
abbrev CMD_CQ_BASE_HI : Nat := 0x1000c
abbrev CMD_CQ_BASE_HI.BaseHigh : Fld := ⟨CMD_CQ_BASE_HI, 31, 0⟩
abbrev CMD_CQ_SIZE : Nat := 0x10010
abbrev CMD_CQ_SIZE.SizeLog : Fld := ⟨CMD_CQ_SIZE, 3, 0⟩
abbrev CMD_CQ_HEAD : Nat := 0x10014
abbrev CMD_CQ_HEAD.Index : Fld := ⟨CMD_CQ_HEAD, 11, 0⟩
abbrev CMD_DOORBELL : Nat := 0x10018
abbrev CMD_DOORBELL.Index : Fld := ⟨CMD_DOORBELL, 11, 0⟩
abbrev CMD_RQ_BASE_LO : Nat := 0x1001c
abbrev CMD_RQ_BASE_LO.BaseLow : Fld := ⟨CMD_RQ_BASE_LO, 31, 12⟩
abbrev CMD_RQ_BASE_HI : Nat := 0x10020
abbrev CMD_RQ_BASE_HI.BaseHigh : Fld := ⟨CMD_RQ_BASE_HI, 31, 0⟩
abbrev CMD_RQ_SIZE : Nat := 0x10024
abbrev CMD_RQ_SIZE.SizeLog : Fld := ⟨CMD_RQ_SIZE, 3, 0⟩
abbrev CMD_RQ_TAIL : Nat := 0x10028
abbrev CMD_RQ_TAIL.Index : Fld := ⟨CMD_RQ_TAIL, 11, 0⟩
abbrev CMD_RQ_HEAD : Nat := 0x1002c
abbrev CMD_RQ_HEAD.Index : Fld := ⟨CMD_RQ_HEAD, 11, 0⟩
abbrev CMD_RQ_TAILADDR_LO : Nat := 0x10030
abbrev CMD_RQ_TAILADDR_LO.En : Fld := ⟨CMD_RQ_TAILADDR_LO, 0, 0⟩
abbrev CMD_RQ_TAILADDR_LO.AddrLow : Fld := ⟨CMD_RQ_TAILADDR_LO, 31, 2⟩
abbrev CMD_RQ_TAILADDR_HI : Nat := 0x10034
abbrev CMD_RQ_TAILADDR_HI.BaseHigh : Fld := ⟨CMD_RQ_TAILADDR_HI, 31, 0⟩
abbrev CMD_RELAYTO : Nat := 0x10038
abbrev CMD_RELAYTO.Ticks : Fld := ⟨CMD_RELAYTO, 19, 0⟩
abbrev CMD_HOLDTO : Nat := 0x1003c
abbrev CMD_HOLDTO.Ms : Fld := ⟨CMD_HOLDTO, 15, 0⟩
abbrev CMD_EXEC : Nat := 0x10040
abbrev CMD_EXEC.Count : Fld := ⟨CMD_EXEC, 31, 0⟩
abbrev CMD_FMTERR : Nat := 0x10044
abbrev CMD_FMTERR.Count : Fld := ⟨CMD_FMTERR, 31, 0⟩
abbrev CMD_REPEAT : Nat := 0x10048
abbrev CMD_REPEAT.Count : Fld := ⟨CMD_REPEAT, 31, 0⟩
abbrev CMD_LATEREPLY : Nat := 0x1004c
abbrev CMD_LATEREPLY.Count : Fld := ⟨CMD_LATEREPLY, 31, 0⟩
abbrev CMD_RELAYTOCNT : Nat := 0x10050
abbrev CMD_RELAYTOCNT.Count : Fld := ⟨CMD_RELAYTOCNT, 31, 0⟩
abbrev CMD_PATHDROP : Nat := 0x10054
abbrev CMD_PATHDROP.Count : Fld := ⟨CMD_PATHDROP, 31, 0⟩
abbrev CMD_IRQ_STATUS : Nat := 0x10078
abbrev CMD_IRQ_STATUS.Reply : Fld := ⟨CMD_IRQ_STATUS, 0, 0⟩
abbrev CMD_IRQ_STATUS.FetchError : Fld := ⟨CMD_IRQ_STATUS, 1, 1⟩
abbrev CMD_IRQ_STATUS.RelayTimeout : Fld := ⟨CMD_IRQ_STATUS, 2, 2⟩
abbrev CMD_IRQ_STATUS.FormatError : Fld := ⟨CMD_IRQ_STATUS, 3, 3⟩
abbrev CMD_IRQ_STATUS.QueueFull : Fld := ⟨CMD_IRQ_STATUS, 4, 4⟩
abbrev CMD_IRQ_STATUS.CfgRefused : Fld := ⟨CMD_IRQ_STATUS, 5, 5⟩
abbrev CMD_IRQ_EN : Nat := 0x1007c
abbrev CMD_IRQ_EN.Reply : Fld := ⟨CMD_IRQ_EN, 0, 0⟩
abbrev CMD_IRQ_EN.FetchError : Fld := ⟨CMD_IRQ_EN, 1, 1⟩
abbrev CMD_IRQ_EN.RelayTimeout : Fld := ⟨CMD_IRQ_EN, 2, 2⟩
abbrev CMD_IRQ_EN.FormatError : Fld := ⟨CMD_IRQ_EN, 3, 3⟩
abbrev CMD_IRQ_EN.QueueFull : Fld := ⟨CMD_IRQ_EN, 4, 4⟩
abbrev CMD_IRQ_EN.CfgRefused : Fld := ⟨CMD_IRQ_EN, 5, 5⟩

def cmdRows0 : List RegRow := [
  ⟨"CMD_CTRL", 0x10000, 0x0, 1, 0x0, 1, .warm,
    [⟨"RingEn", 0, 0, .rw, 0⟩, ⟨"ConsoleEn", 1, 1, .rw, 1⟩, ⟨"FabricEn", 2, 2, .rw, 1⟩]⟩,
  ⟨"CMD_STATUS", 0x10004, 0x0, 1, 0x0, 1, .warm,
    [⟨"QueueUsed", 6, 0, .ro, 0⟩, ⟨"Background", 11, 8, .ro, 0⟩, ⟨"Relays", 18, 12, .ro, 0⟩, ⟨"Held", 25, 19, .ro, 0⟩, ⟨"FetchError", 26, 26, .ro, 0⟩, ⟨"ReplyFull", 27, 27, .ro, 0⟩]⟩,
  ⟨"CMD_CQ_BASE_LO", 0x10008, 0x0, 1, 0x0, 1, .warmHost,
    [⟨"BaseLow", 31, 12, .rw, 0⟩]⟩,
  ⟨"CMD_CQ_BASE_HI", 0x1000c, 0x0, 1, 0x0, 1, .warmHost,
    [⟨"BaseHigh", 31, 0, .rw, 0⟩]⟩,
  ⟨"CMD_CQ_SIZE", 0x10010, 0x0, 1, 0x0, 1, .warmHost,
    [⟨"SizeLog", 3, 0, .rw, 3⟩]⟩,
  ⟨"CMD_CQ_HEAD", 0x10014, 0x0, 1, 0x0, 1, .warmHost,
    [⟨"Index", 11, 0, .ro, 0⟩]⟩,
  ⟨"CMD_DOORBELL", 0x10018, 0x0, 1, 0x0, 1, .warmHost,
    [⟨"Index", 11, 0, .rw, 0⟩]⟩,
  ⟨"CMD_RQ_BASE_LO", 0x1001c, 0x0, 1, 0x0, 1, .warmHost,
    [⟨"BaseLow", 31, 12, .rw, 0⟩]⟩,
  ⟨"CMD_RQ_BASE_HI", 0x10020, 0x0, 1, 0x0, 1, .warmHost,
    [⟨"BaseHigh", 31, 0, .rw, 0⟩]⟩,
  ⟨"CMD_RQ_SIZE", 0x10024, 0x0, 1, 0x0, 1, .warmHost,
    [⟨"SizeLog", 3, 0, .rw, 3⟩]⟩,
  ⟨"CMD_RQ_TAIL", 0x10028, 0x0, 1, 0x0, 1, .warmHost,
    [⟨"Index", 11, 0, .ro, 0⟩]⟩,
  ⟨"CMD_RQ_HEAD", 0x1002c, 0x0, 1, 0x0, 1, .warmHost,
    [⟨"Index", 11, 0, .rw, 0⟩]⟩,
  ⟨"CMD_RQ_TAILADDR_LO", 0x10030, 0x0, 1, 0x0, 1, .warmHost,
    [⟨"En", 0, 0, .rw, 0⟩, ⟨"AddrLow", 31, 2, .rw, 0⟩]⟩,
  ⟨"CMD_RQ_TAILADDR_HI", 0x10034, 0x0, 1, 0x0, 1, .warmHost,
    [⟨"BaseHigh", 31, 0, .rw, 0⟩]⟩,
  ⟨"CMD_RELAYTO", 0x10038, 0x0, 1, 0x0, 1, .warm,
    [⟨"Ticks", 19, 0, .rw, 0x2710⟩]⟩,
  ⟨"CMD_HOLDTO", 0x1003c, 0x0, 1, 0x0, 1, .warm,
    [⟨"Ms", 15, 0, .rw, 0x3e8⟩]⟩]

def cmdRows1 : List RegRow := [
  ⟨"CMD_EXEC", 0x10040, 0x0, 1, 0x0, 1, .warm,
    [⟨"Count", 31, 0, .rc, 0⟩]⟩,
  ⟨"CMD_FMTERR", 0x10044, 0x0, 1, 0x0, 1, .warm,
    [⟨"Count", 31, 0, .rc, 0⟩]⟩,
  ⟨"CMD_REPEAT", 0x10048, 0x0, 1, 0x0, 1, .warm,
    [⟨"Count", 31, 0, .rc, 0⟩]⟩,
  ⟨"CMD_LATEREPLY", 0x1004c, 0x0, 1, 0x0, 1, .warm,
    [⟨"Count", 31, 0, .rc, 0⟩]⟩,
  ⟨"CMD_RELAYTOCNT", 0x10050, 0x0, 1, 0x0, 1, .warm,
    [⟨"Count", 31, 0, .rc, 0⟩]⟩,
  ⟨"CMD_PATHDROP", 0x10054, 0x0, 1, 0x0, 1, .warm,
    [⟨"Count", 31, 0, .rc, 0⟩]⟩,
  ⟨"CMD_IRQ_STATUS", 0x10078, 0x0, 1, 0x0, 1, .warm,
    [⟨"Reply", 0, 0, .w1c, 0⟩, ⟨"FetchError", 1, 1, .w1c, 0⟩, ⟨"RelayTimeout", 2, 2, .w1c, 0⟩, ⟨"FormatError", 3, 3, .w1c, 0⟩, ⟨"QueueFull", 4, 4, .w1c, 0⟩, ⟨"CfgRefused", 5, 5, .w1c, 0⟩]⟩,
  ⟨"CMD_IRQ_EN", 0x1007c, 0x0, 1, 0x0, 1, .warm,
    [⟨"Reply", 0, 0, .rw, 1⟩, ⟨"FetchError", 1, 1, .rw, 0⟩, ⟨"RelayTimeout", 2, 2, .rw, 0⟩, ⟨"FormatError", 3, 3, .rw, 0⟩, ⟨"QueueFull", 4, 4, .rw, 0⟩, ⟨"CfgRefused", 5, 5, .rw, 0⟩]⟩]

/-- The CMD block's register table (R513). -/
def cmdRows : List RegRow := cmdRows0 ++ cmdRows1

/-! ## FRM block (R68, 02_frames_editions.md) -/

abbrev FRM_CTRL : Nat := 0x20000
abbrev FRM_CTRL.Start : Fld := ⟨FRM_CTRL, 0, 0⟩
abbrev FRM_CTRL.Stop : Fld := ⟨FRM_CTRL, 1, 1⟩
abbrev FRM_CTRL.ClearSlackMin : Fld := ⟨FRM_CTRL, 2, 2⟩
abbrev FRM_STATUS : Nat := 0x20004
abbrev FRM_STATUS.State : Fld := ⟨FRM_STATUS, 1, 0⟩
abbrev FRM_STATUS.TimeLocked : Fld := ⟨FRM_STATUS, 2, 2⟩
abbrev FRM_STATUS.FirstFrameDone : Fld := ⟨FRM_STATUS, 3, 3⟩
abbrev FRM_STATUS.CommitInFlight : Fld := ⟨FRM_STATUS, 4, 4⟩
abbrev FRM_STATUS.StagedFrozen : Fld := ⟨FRM_STATUS, 5, 5⟩
abbrev FRM_STATUS.SwapArmed : Fld := ⟨FRM_STATUS, 6, 6⟩
abbrev FRM_STATUS.InGuardWindow : Fld := ⟨FRM_STATUS, 7, 7⟩
abbrev FRM_STATUS.StartRefused : Fld := ⟨FRM_STATUS, 8, 8⟩
abbrev FRM_STATUS.StopRefused : Fld := ⟨FRM_STATUS, 9, 9⟩
abbrev FRM_STATUS.HeldCause : Fld := ⟨FRM_STATUS, 19, 16⟩
abbrev FRM_PERIOD : Nat := 0x20008
abbrev FRM_PERIOD.Period : Fld := ⟨FRM_PERIOD, 19, 0⟩
abbrev FRM_GUARD : Nat := 0x2000c
abbrev FRM_GUARD.Guard : Fld := ⟨FRM_GUARD, 6, 0⟩
abbrev FRM_STIME_LO : Nat := 0x20010
abbrev FRM_STIME_LO.Value : Fld := ⟨FRM_STIME_LO, 31, 0⟩
abbrev FRM_STIME_HI : Nat := 0x20014
abbrev FRM_STIME_HI.Value : Fld := ⟨FRM_STIME_HI, 31, 0⟩
abbrev FRM_FRAME_LO : Nat := 0x20018
abbrev FRM_FRAME_LO.Value : Fld := ⟨FRM_FRAME_LO, 31, 0⟩
abbrev FRM_FRAME_HI : Nat := 0x2001c
abbrev FRM_FRAME_HI.Value : Fld := ⟨FRM_FRAME_HI, 31, 0⟩
abbrev FRM_START_LO : Nat := 0x20020
abbrev FRM_START_LO.Start : Fld := ⟨FRM_START_LO, 31, 0⟩
abbrev FRM_START_HI : Nat := 0x20024
abbrev FRM_START_HI.Start : Fld := ⟨FRM_START_HI, 31, 0⟩
abbrev FRM_GATHER : Nat := 0x20028
abbrev FRM_GATHER.Offset : Fld := ⟨FRM_GATHER, 19, 0⟩
abbrev FRM_COMPUTE : Nat := 0x2002c
abbrev FRM_COMPUTE.Offset : Fld := ⟨FRM_COMPUTE, 19, 0⟩
abbrev FRM_STAGE : Nat := 0x20030
abbrev FRM_STAGE.Offset : Fld := ⟨FRM_STAGE, 19, 0⟩
abbrev FRM_PREWAKE : Nat := 0x20034
abbrev FRM_PREWAKE.Offset : Fld := ⟨FRM_PREWAKE, 19, 0⟩
abbrev FRM_SHGUARD : Nat := 0x20038
abbrev FRM_SHGUARD.Offset : Fld := ⟨FRM_SHGUARD, 19, 0⟩
abbrev FRM_EDITION : Nat := 0x20040
abbrev FRM_EDITION.Number : Fld := ⟨FRM_EDITION, 31, 0⟩
abbrev FRM_STAGED : Nat := 0x20044
abbrev FRM_STAGED.Number : Fld := ⟨FRM_STAGED, 31, 0⟩
abbrev FRM_TARGET_LO : Nat := 0x20048
abbrev FRM_TARGET_LO.Target : Fld := ⟨FRM_TARGET_LO, 31, 0⟩
abbrev FRM_TARGET_HI : Nat := 0x2004c
abbrev FRM_TARGET_HI.Target : Fld := ⟨FRM_TARGET_HI, 31, 0⟩
abbrev FRM_COMMIT : Nat := 0x20050
abbrev FRM_COMMIT.Coordinator : Fld := ⟨FRM_COMMIT, 9, 0⟩
abbrev FRM_COMMIT.System : Fld := ⟨FRM_COMMIT, 10, 10⟩
abbrev FRM_COMMIT.IsCoordinator : Fld := ⟨FRM_COMMIT, 11, 11⟩
abbrev FRM_COMMIT.Phase : Fld := ⟨FRM_COMMIT, 14, 12⟩
abbrev FRM_COMMIT.Guard : Fld := ⟨FRM_COMMIT, 22, 16⟩
abbrev FRM_LASTGO : Nat := 0x20054
abbrev FRM_LASTGO.Margin : Fld := ⟨FRM_LASTGO, 31, 0⟩
abbrev FRM_SLACK : Nat := 0x20058
abbrev FRM_SLACK.Slack : Fld := ⟨FRM_SLACK, 31, 0⟩
abbrev FRM_SLACK_MIN : Nat := 0x2005c
abbrev FRM_SLACK_MIN.Slack : Fld := ⟨FRM_SLACK_MIN, 31, 0⟩
abbrev FRM_OVERRUN : Nat := 0x20060
abbrev FRM_OVERRUN.Count : Fld := ⟨FRM_OVERRUN, 31, 0⟩
abbrev FRM_LATESAMP : Nat := 0x20064
abbrev FRM_LATESAMP.Count : Fld := ⟨FRM_LATESAMP, 31, 0⟩
abbrev FRM_MISSED : Nat := 0x20068
abbrev FRM_MISSED.Count : Fld := ⟨FRM_MISSED, 31, 0⟩
abbrev FRM_LATEGO : Nat := 0x2006c
abbrev FRM_LATEGO.Count : Fld := ⟨FRM_LATEGO, 31, 0⟩
abbrev FRM_STALEMSG : Nat := 0x20070
abbrev FRM_STALEMSG.Count : Fld := ⟨FRM_STALEMSG, 31, 0⟩
abbrev FRM_IRQ_STATUS : Nat := 0x20078
abbrev FRM_IRQ_STATUS.Swapped : Fld := ⟨FRM_IRQ_STATUS, 0, 0⟩
abbrev FRM_IRQ_STATUS.Missed : Fld := ⟨FRM_IRQ_STATUS, 1, 1⟩
abbrev FRM_IRQ_STATUS.Overrun : Fld := ⟨FRM_IRQ_STATUS, 2, 2⟩
abbrev FRM_IRQ_STATUS.LateSample : Fld := ⟨FRM_IRQ_STATUS, 3, 3⟩
abbrev FRM_IRQ_STATUS.HeldEntry : Fld := ⟨FRM_IRQ_STATUS, 4, 4⟩
abbrev FRM_IRQ_STATUS.HeldExit : Fld := ⟨FRM_IRQ_STATUS, 5, 5⟩
abbrev FRM_IRQ_STATUS.CommitFinal : Fld := ⟨FRM_IRQ_STATUS, 6, 6⟩
abbrev FRM_IRQ_EN : Nat := 0x2007c
abbrev FRM_IRQ_EN.Swapped : Fld := ⟨FRM_IRQ_EN, 0, 0⟩
abbrev FRM_IRQ_EN.Missed : Fld := ⟨FRM_IRQ_EN, 1, 1⟩
abbrev FRM_IRQ_EN.Overrun : Fld := ⟨FRM_IRQ_EN, 2, 2⟩
abbrev FRM_IRQ_EN.LateSample : Fld := ⟨FRM_IRQ_EN, 3, 3⟩
abbrev FRM_IRQ_EN.HeldEntry : Fld := ⟨FRM_IRQ_EN, 4, 4⟩
abbrev FRM_IRQ_EN.HeldExit : Fld := ⟨FRM_IRQ_EN, 5, 5⟩
abbrev FRM_IRQ_EN.CommitFinal : Fld := ⟨FRM_IRQ_EN, 6, 6⟩

def frmRows0 : List RegRow := [
  ⟨"FRM_CTRL", 0x20000, 0x0, 1, 0x0, 1, .system,
    [⟨"Start", 0, 0, .wo, 0⟩, ⟨"Stop", 1, 1, .wo, 0⟩, ⟨"ClearSlackMin", 2, 2, .wo, 0⟩]⟩,
  ⟨"FRM_STATUS", 0x20004, 0x0, 1, 0x0, 1, .system,
    [⟨"State", 1, 0, .ro, 0⟩, ⟨"TimeLocked", 2, 2, .ro, 0⟩, ⟨"FirstFrameDone", 3, 3, .ro, 0⟩, ⟨"CommitInFlight", 4, 4, .ro, 0⟩, ⟨"StagedFrozen", 5, 5, .ro, 0⟩, ⟨"SwapArmed", 6, 6, .ro, 0⟩, ⟨"InGuardWindow", 7, 7, .ro, 0⟩, ⟨"StartRefused", 8, 8, .w1c, 0⟩, ⟨"StopRefused", 9, 9, .w1c, 0⟩, ⟨"HeldCause", 19, 16, .ro, 0⟩]⟩,
  ⟨"FRM_PERIOD", 0x20008, 0x0, 1, 0x0, 1, .system,
    [⟨"Period", 19, 0, .rw, 0x2710⟩]⟩,
  ⟨"FRM_GUARD", 0x2000c, 0x0, 1, 0x0, 1, .system,
    [⟨"Guard", 6, 0, .rw, 4⟩]⟩,
  ⟨"FRM_STIME_LO", 0x20010, 0x0, 1, 0x0, 1, .system,
    [⟨"Value", 31, 0, .ro, 0⟩]⟩,
  ⟨"FRM_STIME_HI", 0x20014, 0x0, 1, 0x0, 1, .system,
    [⟨"Value", 31, 0, .ro, 0⟩]⟩,
  ⟨"FRM_FRAME_LO", 0x20018, 0x0, 1, 0x0, 1, .system,
    [⟨"Value", 31, 0, .ro, 0⟩]⟩,
  ⟨"FRM_FRAME_HI", 0x2001c, 0x0, 1, 0x0, 1, .system,
    [⟨"Value", 31, 0, .ro, 0⟩]⟩,
  ⟨"FRM_START_LO", 0x20020, 0x0, 1, 0x0, 1, .system,
    [⟨"Start", 31, 0, .rw, 0⟩]⟩,
  ⟨"FRM_START_HI", 0x20024, 0x0, 1, 0x0, 1, .system,
    [⟨"Start", 31, 0, .rw, 0⟩]⟩,
  ⟨"FRM_GATHER", 0x20028, 0x0, 1, 0x0, 1, .system,
    [⟨"Offset", 19, 0, .rw, 0xbb8⟩]⟩,
  ⟨"FRM_COMPUTE", 0x2002c, 0x0, 1, 0x0, 1, .system,
    [⟨"Offset", 19, 0, .rw, 0xbb8⟩]⟩,
  ⟨"FRM_STAGE", 0x20030, 0x0, 1, 0x0, 1, .system,
    [⟨"Offset", 19, 0, .rw, 0x1b58⟩]⟩,
  ⟨"FRM_PREWAKE", 0x20034, 0x0, 1, 0x0, 1, .system,
    [⟨"Offset", 19, 0, .rw, 0x3e8⟩]⟩,
  ⟨"FRM_SHGUARD", 0x20038, 0x0, 1, 0x0, 1, .system,
    [⟨"Offset", 19, 0, .rw, 0x3e8⟩]⟩,
  ⟨"FRM_EDITION", 0x20040, 0x0, 1, 0x0, 1, .system,
    [⟨"Number", 31, 0, .ro, 0⟩]⟩]

def frmRows1 : List RegRow := [
  ⟨"FRM_STAGED", 0x20044, 0x0, 1, 0x0, 1, .system,
    [⟨"Number", 31, 0, .ro, 1⟩]⟩,
  ⟨"FRM_TARGET_LO", 0x20048, 0x0, 1, 0x0, 1, .system,
    [⟨"Target", 31, 0, .ro, 0⟩]⟩,
  ⟨"FRM_TARGET_HI", 0x2004c, 0x0, 1, 0x0, 1, .system,
    [⟨"Target", 31, 0, .ro, 0⟩]⟩,
  ⟨"FRM_COMMIT", 0x20050, 0x0, 1, 0x0, 1, .system,
    [⟨"Coordinator", 9, 0, .ro, 0⟩, ⟨"System", 10, 10, .ro, 0⟩, ⟨"IsCoordinator", 11, 11, .ro, 0⟩, ⟨"Phase", 14, 12, .ro, 0⟩, ⟨"Guard", 22, 16, .ro, 0⟩]⟩,
  ⟨"FRM_LASTGO", 0x20054, 0x0, 1, 0x0, 1, .system,
    [⟨"Margin", 31, 0, .ro, 0⟩]⟩,
  ⟨"FRM_SLACK", 0x20058, 0x0, 1, 0x0, 1, .system,
    [⟨"Slack", 31, 0, .ro, 0xffffffff⟩]⟩,
  ⟨"FRM_SLACK_MIN", 0x2005c, 0x0, 1, 0x0, 1, .system,
    [⟨"Slack", 31, 0, .ro, 0xffffffff⟩]⟩,
  ⟨"FRM_OVERRUN", 0x20060, 0x0, 1, 0x0, 1, .system,
    [⟨"Count", 31, 0, .rc, 0⟩]⟩,
  ⟨"FRM_LATESAMP", 0x20064, 0x0, 1, 0x0, 1, .system,
    [⟨"Count", 31, 0, .rc, 0⟩]⟩,
  ⟨"FRM_MISSED", 0x20068, 0x0, 1, 0x0, 1, .system,
    [⟨"Count", 31, 0, .rc, 0⟩]⟩,
  ⟨"FRM_LATEGO", 0x2006c, 0x0, 1, 0x0, 1, .system,
    [⟨"Count", 31, 0, .rc, 0⟩]⟩,
  ⟨"FRM_STALEMSG", 0x20070, 0x0, 1, 0x0, 1, .system,
    [⟨"Count", 31, 0, .rc, 0⟩]⟩,
  ⟨"FRM_IRQ_STATUS", 0x20078, 0x0, 1, 0x0, 1, .system,
    [⟨"Swapped", 0, 0, .w1c, 0⟩, ⟨"Missed", 1, 1, .w1c, 0⟩, ⟨"Overrun", 2, 2, .w1c, 0⟩, ⟨"LateSample", 3, 3, .w1c, 0⟩, ⟨"HeldEntry", 4, 4, .w1c, 0⟩, ⟨"HeldExit", 5, 5, .w1c, 0⟩, ⟨"CommitFinal", 6, 6, .w1c, 0⟩]⟩,
  ⟨"FRM_IRQ_EN", 0x2007c, 0x0, 1, 0x0, 1, .system,
    [⟨"Swapped", 0, 0, .rw, 0⟩, ⟨"Missed", 1, 1, .rw, 0⟩, ⟨"Overrun", 2, 2, .rw, 0⟩, ⟨"LateSample", 3, 3, .rw, 0⟩, ⟨"HeldEntry", 4, 4, .rw, 0⟩, ⟨"HeldExit", 5, 5, .rw, 0⟩, ⟨"CommitFinal", 6, 6, .rw, 0⟩]⟩]

/-- The FRM block's register table (R68). -/
def frmRows : List RegRow := frmRows0 ++ frmRows1

/-! ## CAT block (R100, 03_catalogue.md) -/

abbrev CAT_STATUS : Nat := 0x30000
abbrev CAT_STATUS.Live : Fld := ⟨CAT_STATUS, 0, 0⟩
abbrev CAT_STATUS.CopyBusy : Fld := ⟨CAT_STATUS, 1, 1⟩
abbrev CAT_POOL : Nat := 0x30004
abbrev CAT_POOL.Used : Fld := ⟨CAT_POOL, 12, 0⟩
abbrev CAT_DROP_HEAD : Nat := 0x30010
abbrev CAT_DROP_HEAD.Count : Fld := ⟨CAT_DROP_HEAD, 31, 0⟩
abbrev CAT_DROP_LINK : Nat := 0x30014
abbrev CAT_DROP_LINK.Count : Fld := ⟨CAT_DROP_LINK, 31, 0⟩
abbrev CAT_DROP_RATE : Nat := 0x30018
abbrev CAT_DROP_RATE.Count : Fld := ⟨CAT_DROP_RATE, 31, 0⟩
abbrev CAT_DROP_STATE : Nat := 0x3001c
abbrev CAT_DROP_STATE.Count : Fld := ⟨CAT_DROP_STATE, 31, 0⟩
abbrev CAT_HELDSAMP : Nat := 0x30020
abbrev CAT_HELDSAMP.Count : Fld := ⟨CAT_HELDSAMP, 31, 0⟩
abbrev CAT_CONVERR : Nat := 0x30024
abbrev CAT_CONVERR.Count : Fld := ⟨CAT_CONVERR, 31, 0⟩
abbrev CAT_WINWR : Nat := 0x30028
abbrev CAT_WINWR.Count : Fld := ⟨CAT_WINWR, 31, 0⟩
abbrev CAT_RELDROP : Nat := 0x3002c
abbrev CAT_RELDROP.Count : Fld := ⟨CAT_RELDROP, 31, 0⟩
abbrev CAT_RELCOUNT : Nat := 0x30030
abbrev CAT_RELCOUNT.Value : Fld := ⟨CAT_RELCOUNT, 31, 0⟩
abbrev CAT_FILLTIME : Nat := 0x30034
abbrev CAT_FILLTIME.Value : Fld := ⟨CAT_FILLTIME, 31, 0⟩
abbrev CAT_INGRESS : Nat := 0x30038
abbrev CAT_INGRESS.Value : Fld := ⟨CAT_INGRESS, 31, 0⟩
abbrev CAT_EVENT : Nat := 0x30040
abbrev CAT_EVENT.StreamId : Fld := ⟨CAT_EVENT, 15, 0⟩
abbrev CAT_EVENT.Cause : Fld := ⟨CAT_EVENT, 19, 16⟩
abbrev CAT_EVENT.Overflow : Fld := ⟨CAT_EVENT, 30, 30⟩
abbrev CAT_EVENT.Valid : Fld := ⟨CAT_EVENT, 31, 31⟩
abbrev CAT_IRQ_STATUS : Nat := 0x30078
abbrev CAT_IRQ_STATUS.EventQueued : Fld := ⟨CAT_IRQ_STATUS, 0, 0⟩
abbrev CAT_IRQ_STATUS.Uncorrectable : Fld := ⟨CAT_IRQ_STATUS, 1, 1⟩
abbrev CAT_IRQ_STATUS.ReleaseDrop : Fld := ⟨CAT_IRQ_STATUS, 2, 2⟩
abbrev CAT_IRQ_STATUS.CopyDone : Fld := ⟨CAT_IRQ_STATUS, 3, 3⟩
abbrev CAT_IRQ_EN : Nat := 0x3007c
abbrev CAT_IRQ_EN.EventQueued : Fld := ⟨CAT_IRQ_EN, 0, 0⟩
abbrev CAT_IRQ_EN.Uncorrectable : Fld := ⟨CAT_IRQ_EN, 1, 1⟩
abbrev CAT_IRQ_EN.ReleaseDrop : Fld := ⟨CAT_IRQ_EN, 2, 2⟩
abbrev CAT_IRQ_EN.CopyDone : Fld := ⟨CAT_IRQ_EN, 3, 3⟩

def catRows0 : List RegRow := [
  ⟨"CAT_STATUS", 0x30000, 0x0, 1, 0x0, 1, .warm,
    [⟨"Live", 0, 0, .ro, 0⟩, ⟨"CopyBusy", 1, 1, .ro, 0⟩]⟩,
  ⟨"CAT_POOL", 0x30004, 0x0, 1, 0x0, 1, .warm,
    [⟨"Used", 12, 0, .ro, 0⟩]⟩,
  ⟨"CAT_DROP_HEAD", 0x30010, 0x0, 1, 0x0, 1, .system,
    [⟨"Count", 31, 0, .rc, 0⟩]⟩,
  ⟨"CAT_DROP_LINK", 0x30014, 0x0, 1, 0x0, 1, .system,
    [⟨"Count", 31, 0, .rc, 0⟩]⟩,
  ⟨"CAT_DROP_RATE", 0x30018, 0x0, 1, 0x0, 1, .system,
    [⟨"Count", 31, 0, .rc, 0⟩]⟩,
  ⟨"CAT_DROP_STATE", 0x3001c, 0x0, 1, 0x0, 1, .system,
    [⟨"Count", 31, 0, .rc, 0⟩]⟩,
  ⟨"CAT_HELDSAMP", 0x30020, 0x0, 1, 0x0, 1, .system,
    [⟨"Count", 31, 0, .rc, 0⟩]⟩,
  ⟨"CAT_CONVERR", 0x30024, 0x0, 1, 0x0, 1, .system,
    [⟨"Count", 31, 0, .rc, 0⟩]⟩,
  ⟨"CAT_WINWR", 0x30028, 0x0, 1, 0x0, 1, .system,
    [⟨"Count", 31, 0, .rc, 0⟩]⟩,
  ⟨"CAT_RELDROP", 0x3002c, 0x0, 1, 0x0, 1, .system,
    [⟨"Count", 31, 0, .rc, 0⟩]⟩,
  ⟨"CAT_RELCOUNT", 0x30030, 0x0, 1, 0x0, 1, .system,
    [⟨"Value", 31, 0, .ro, 0⟩]⟩,
  ⟨"CAT_FILLTIME", 0x30034, 0x0, 1, 0x0, 1, .system,
    [⟨"Value", 31, 0, .ro, 0⟩]⟩,
  ⟨"CAT_INGRESS", 0x30038, 0x0, 1, 0x0, 1, .system,
    [⟨"Value", 31, 0, .ro, 0⟩]⟩,
  ⟨"CAT_EVENT", 0x30040, 0x0, 1, 0x0, 1, .system,
    [⟨"StreamId", 15, 0, .rc, 0⟩, ⟨"Cause", 19, 16, .rc, 0⟩, ⟨"Overflow", 30, 30, .rc, 0⟩, ⟨"Valid", 31, 31, .rc, 0⟩]⟩,
  ⟨"CAT_IRQ_STATUS", 0x30078, 0x0, 1, 0x0, 1, .system,
    [⟨"EventQueued", 0, 0, .w1c, 0⟩, ⟨"Uncorrectable", 1, 1, .w1c, 0⟩, ⟨"ReleaseDrop", 2, 2, .w1c, 0⟩, ⟨"CopyDone", 3, 3, .w1c, 0⟩]⟩,
  ⟨"CAT_IRQ_EN", 0x3007c, 0x0, 1, 0x0, 1, .system,
    [⟨"EventQueued", 0, 0, .rw, 0⟩, ⟨"Uncorrectable", 1, 1, .rw, 0⟩, ⟨"ReleaseDrop", 2, 2, .rw, 0⟩, ⟨"CopyDone", 3, 3, .rw, 0⟩]⟩]

/-- The CAT block's register table (R100). -/
def catRows : List RegRow := catRows0

/-! ## ENG block (R153, 04_engines.md) -/

abbrev ENG_INFO : Nat := 0x40000
abbrev ENG_INFO.Engines : Fld := ⟨ENG_INFO, 9, 0⟩
abbrev ENG_INFO.Bays : Fld := ⟨ENG_INFO, 22, 16⟩
abbrev ENG_STORE_TO : Nat := 0x40004
abbrev ENG_STORE_TO.Ticks : Fld := ⟨ENG_STORE_TO, 16, 0⟩
abbrev ENG_WINWR : Nat := 0x40008
abbrev ENG_WINWR.Count : Fld := ⟨ENG_WINWR, 31, 0⟩
abbrev ENG_LOSTCNT : Nat := 0x4000c
abbrev ENG_LOSTCNT.Count : Fld := ⟨ENG_LOSTCNT, 31, 0⟩
abbrev ENG_LATEACK : Nat := 0x40010
abbrev ENG_LATEACK.Count : Fld := ⟨ENG_LATEACK, 31, 0⟩
abbrev ENG_WBDISCARD : Nat := 0x40014
abbrev ENG_WBDISCARD.Count : Fld := ⟨ENG_WBDISCARD, 12, 0⟩
abbrev ENG_ECCCOR : Nat := 0x40018
abbrev ENG_ECCCOR.Count : Fld := ⟨ENG_ECCCOR, 31, 0⟩
abbrev ENG_IRQ_STATUS : Nat := 0x40078
abbrev ENG_IRQ_STATUS.StoreLost : Fld := ⟨ENG_IRQ_STATUS, 0, 0⟩
abbrev ENG_IRQ_STATUS.DoubleFault : Fld := ⟨ENG_IRQ_STATUS, 1, 1⟩
abbrev ENG_IRQ_STATUS.SingleFault : Fld := ⟨ENG_IRQ_STATUS, 2, 2⟩
abbrev ENG_IRQ_STATUS.ImageLoaded : Fld := ⟨ENG_IRQ_STATUS, 3, 3⟩
abbrev ENG_IRQ_STATUS.ImageRepair : Fld := ⟨ENG_IRQ_STATUS, 4, 4⟩
abbrev ENG_IRQ_STATUS.WindowDiscard : Fld := ⟨ENG_IRQ_STATUS, 5, 5⟩
abbrev ENG_IRQ_EN : Nat := 0x4007c
abbrev ENG_IRQ_EN.StoreLost : Fld := ⟨ENG_IRQ_EN, 0, 0⟩
abbrev ENG_IRQ_EN.DoubleFault : Fld := ⟨ENG_IRQ_EN, 1, 1⟩
abbrev ENG_IRQ_EN.SingleFault : Fld := ⟨ENG_IRQ_EN, 2, 2⟩
abbrev ENG_IRQ_EN.ImageLoaded : Fld := ⟨ENG_IRQ_EN, 3, 3⟩
abbrev ENG_IRQ_EN.ImageRepair : Fld := ⟨ENG_IRQ_EN, 4, 4⟩
abbrev ENG_IRQ_EN.WindowDiscard : Fld := ⟨ENG_IRQ_EN, 5, 5⟩
abbrev ENG_HWIN_LO (b : Nat) : Nat := 0x40100 + 0x8 * b
abbrev ENG_HWIN_LO.Enable (b : Nat) : Fld := ⟨ENG_HWIN_LO b, 0, 0⟩
abbrev ENG_HWIN_LO.HostBaseLow (b : Nat) : Fld := ⟨ENG_HWIN_LO b, 31, 12⟩
abbrev ENG_HWIN_HI (b : Nat) : Nat := 0x40104 + 0x8 * b
abbrev ENG_HWIN_HI.HostBaseHigh (b : Nat) : Fld := ⟨ENG_HWIN_HI b, 31, 0⟩
abbrev ENG_BAY_CFG (b : Nat) : Nat := 0x41000 + 0x40 * b
abbrev ENG_BAY_CFG.Mode (b : Nat) : Fld := ⟨ENG_BAY_CFG b, 0, 0⟩
abbrev ENG_BAY_CFG.SpareEn (b : Nat) : Fld := ⟨ENG_BAY_CFG b, 1, 1⟩
abbrev ENG_BAY_CFG.SparePair (b : Nat) : Fld := ⟨ENG_BAY_CFG b, 3, 2⟩
abbrev ENG_BAY_CFG.NoSleep (b : Nat) : Fld := ⟨ENG_BAY_CFG b, 4, 4⟩
abbrev ENG_BAY_STATUS (b : Nat) : Nat := 0x41004 + 0x40 * b
abbrev ENG_BAY_STATUS.State (b : Nat) : Fld := ⟨ENG_BAY_STATUS b, 2, 0⟩
abbrev ENG_BAY_STATUS.Power (b : Nat) : Fld := ⟨ENG_BAY_STATUS b, 5, 4⟩
abbrev ENG_BAY_STATUS.DemotedMask (b : Nat) : Fld := ⟨ENG_BAY_STATUS b, 11, 8⟩
abbrev ENG_BAY_STATUS.SpareActive (b : Nat) : Fld := ⟨ENG_BAY_STATUS b, 12, 12⟩
abbrev ENG_BAY_STATUS.ImageRepair (b : Nat) : Fld := ⟨ENG_BAY_STATUS b, 13, 13⟩
abbrev ENG_BAY_IMAGE (b : Nat) : Nat := 0x41008 + 0x40 * b
abbrev ENG_BAY_IMAGE.Valid (b : Nat) : Fld := ⟨ENG_BAY_IMAGE b, 0, 0⟩
abbrev ENG_BAY_IMAGE.Offset (b : Nat) : Fld := ⟨ENG_BAY_IMAGE b, 26, 6⟩
abbrev ENG_BAY_IDLE (b : Nat) : Nat := 0x4100c + 0x40 * b
abbrev ENG_BAY_IDLE.Value (b : Nat) : Fld := ⟨ENG_BAY_IDLE b, 31, 0⟩
abbrev ENG_BAY_EXC (b : Nat) : Nat := 0x41010 + 0x40 * b
abbrev ENG_BAY_EXC.Value (b : Nat) : Fld := ⟨ENG_BAY_EXC b, 31, 0⟩
abbrev ENG_E_STATUS (b : Nat) : Nat := 0x42000 + 0x20 * b
abbrev ENG_E_STATUS.Run (b : Nat) : Fld := ⟨ENG_E_STATUS b, 2, 0⟩
abbrev ENG_E_STATUS.HaltCause (b : Nat) : Fld := ⟨ENG_E_STATUS b, 7, 4⟩
abbrev ENG_E_STATUS.SbCount (b : Nat) : Fld := ⟨ENG_E_STATUS b, 11, 8⟩
abbrev ENG_E_STATUS.LqCount (b : Nat) : Fld := ⟨ENG_E_STATUS b, 16, 12⟩
abbrev ENG_E_PC (b : Nat) : Nat := 0x42004 + 0x20 * b
abbrev ENG_E_PC.Value (b : Nat) : Fld := ⟨ENG_E_PC b, 31, 0⟩
abbrev ENG_E_FCAUSE (b : Nat) : Nat := 0x42008 + 0x20 * b
abbrev ENG_E_FCAUSE.Code (b : Nat) : Fld := ⟨ENG_E_FCAUSE b, 7, 0⟩
abbrev ENG_E_FCAUSE.LostCount (b : Nat) : Fld := ⟨ENG_E_FCAUSE b, 15, 8⟩
abbrev ENG_E_FCAUSE.FrameLow (b : Nat) : Fld := ⟨ENG_E_FCAUSE b, 31, 16⟩
abbrev ENG_E_FADDR (b : Nat) : Nat := 0x4200c + 0x20 * b
abbrev ENG_E_FADDR.Value (b : Nat) : Fld := ⟨ENG_E_FADDR b, 31, 0⟩
abbrev ENG_E_EXCCNT (b : Nat) : Nat := 0x42010 + 0x20 * b
abbrev ENG_E_EXCCNT.Value (b : Nat) : Fld := ⟨ENG_E_EXCCNT b, 31, 0⟩

def engRows0 : List RegRow := [
  ⟨"ENG_INFO", 0x40000, 0x0, 1, 0x0, 1, .system,
    [⟨"Engines", 9, 0, .ro, 0x200⟩, ⟨"Bays", 22, 16, .ro, 0x40⟩]⟩,
  ⟨"ENG_STORE_TO", 0x40004, 0x0, 1, 0x0, 1, .system,
    [⟨"Ticks", 16, 0, .rw, 0x3e8⟩]⟩,
  ⟨"ENG_WINWR", 0x40008, 0x0, 1, 0x0, 1, .system,
    [⟨"Count", 31, 0, .rc, 0⟩]⟩,
  ⟨"ENG_LOSTCNT", 0x4000c, 0x0, 1, 0x0, 1, .system,
    [⟨"Count", 31, 0, .rc, 0⟩]⟩,
  ⟨"ENG_LATEACK", 0x40010, 0x0, 1, 0x0, 1, .system,
    [⟨"Count", 31, 0, .rc, 0⟩]⟩,
  ⟨"ENG_WBDISCARD", 0x40014, 0x0, 1, 0x0, 1, .system,
    [⟨"Count", 12, 0, .ro, 0⟩]⟩,
  ⟨"ENG_ECCCOR", 0x40018, 0x0, 1, 0x0, 1, .system,
    [⟨"Count", 31, 0, .rc, 0⟩]⟩,
  ⟨"ENG_IRQ_STATUS", 0x40078, 0x0, 1, 0x0, 1, .system,
    [⟨"StoreLost", 0, 0, .w1c, 0⟩, ⟨"DoubleFault", 1, 1, .w1c, 0⟩, ⟨"SingleFault", 2, 2, .w1c, 0⟩, ⟨"ImageLoaded", 3, 3, .w1c, 0⟩, ⟨"ImageRepair", 4, 4, .w1c, 0⟩, ⟨"WindowDiscard", 5, 5, .w1c, 0⟩]⟩,
  ⟨"ENG_IRQ_EN", 0x4007c, 0x0, 1, 0x0, 1, .system,
    [⟨"StoreLost", 0, 0, .rw, 0⟩, ⟨"DoubleFault", 1, 1, .rw, 0⟩, ⟨"SingleFault", 2, 2, .rw, 0⟩, ⟨"ImageLoaded", 3, 3, .rw, 0⟩, ⟨"ImageRepair", 4, 4, .rw, 0⟩, ⟨"WindowDiscard", 5, 5, .rw, 0⟩]⟩,
  ⟨"ENG_HWIN_LO", 0x40100, 0x8, 16, 0x0, 1, .system,
    [⟨"Enable", 0, 0, .rw, 0⟩, ⟨"HostBaseLow", 31, 12, .rw, 0⟩]⟩,
  ⟨"ENG_HWIN_HI", 0x40104, 0x8, 16, 0x0, 1, .system,
    [⟨"HostBaseHigh", 31, 0, .rw, 0⟩]⟩,
  ⟨"ENG_BAY_CFG", 0x41000, 0x40, 64, 0x0, 1, .system,
    [⟨"Mode", 0, 0, .rw, 1⟩, ⟨"SpareEn", 1, 1, .rw, 0⟩, ⟨"SparePair", 3, 2, .rw, 3⟩, ⟨"NoSleep", 4, 4, .rw, 0⟩]⟩,
  ⟨"ENG_BAY_STATUS", 0x41004, 0x40, 64, 0x0, 1, .warm,
    [⟨"State", 2, 0, .ro, 0⟩, ⟨"Power", 5, 4, .ro, 0⟩, ⟨"DemotedMask", 11, 8, .ro, 0⟩, ⟨"SpareActive", 12, 12, .ro, 0⟩, ⟨"ImageRepair", 13, 13, .ro, 0⟩]⟩,
  ⟨"ENG_BAY_IMAGE", 0x41008, 0x40, 64, 0x0, 1, .warm,
    [⟨"Valid", 0, 0, .ro, 0⟩, ⟨"Offset", 26, 6, .ro, 0⟩]⟩,
  ⟨"ENG_BAY_IDLE", 0x4100c, 0x40, 64, 0x0, 1, .system,
    [⟨"Value", 31, 0, .ro, 0⟩]⟩,
  ⟨"ENG_BAY_EXC", 0x41010, 0x40, 64, 0x0, 1, .system,
    [⟨"Value", 31, 0, .rc, 0⟩]⟩]

def engRows1 : List RegRow := [
  ⟨"ENG_E_STATUS", 0x42000, 0x20, 512, 0x0, 1, .warm,
    [⟨"Run", 2, 0, .ro, 0⟩, ⟨"HaltCause", 7, 4, .ro, 0⟩, ⟨"SbCount", 11, 8, .ro, 0⟩, ⟨"LqCount", 16, 12, .ro, 0⟩]⟩,
  ⟨"ENG_E_PC", 0x42004, 0x20, 512, 0x0, 1, .system,
    [⟨"Value", 31, 0, .ro, 0⟩]⟩,
  ⟨"ENG_E_FCAUSE", 0x42008, 0x20, 512, 0x0, 1, .system,
    [⟨"Code", 7, 0, .ro, 0⟩, ⟨"LostCount", 15, 8, .ro, 0⟩, ⟨"FrameLow", 31, 16, .ro, 0⟩]⟩,
  ⟨"ENG_E_FADDR", 0x4200c, 0x20, 512, 0x0, 1, .system,
    [⟨"Value", 31, 0, .ro, 0⟩]⟩,
  ⟨"ENG_E_EXCCNT", 0x42010, 0x20, 512, 0x0, 1, .system,
    [⟨"Value", 31, 0, .rc, 0⟩]⟩]

/-- The ENG block's register table (R153). -/
def engRows : List RegRow := engRows0 ++ engRows1

/-! ## STK block (R216, 06_stacks.md) -/

abbrev STK_INFO : Nat := 0x50000
abbrev STK_INFO.Banks : Fld := ⟨STK_INFO, 6, 0⟩
abbrev STK_INFO.SpillSlots : Fld := ⟨STK_INFO, 29, 16⟩
abbrev STK_STATUS : Nat := 0x50004
abbrev STK_STATUS.SealBusy : Fld := ⟨STK_STATUS, 0, 0⟩
abbrev STK_STATUS.CheckBusy : Fld := ⟨STK_STATUS, 1, 1⟩
abbrev STK_STATUS.ClearBusy : Fld := ⟨STK_STATUS, 2, 2⟩
abbrev STK_STATUS.LogLost : Fld := ⟨STK_STATUS, 3, 3⟩
abbrev STK_STATUS.PoolLost : Fld := ⟨STK_STATUS, 4, 4⟩
abbrev STK_STATUS.SpillRefused : Fld := ⟨STK_STATUS, 5, 5⟩
abbrev STK_SCRUB : Nat := 0x50008
abbrev STK_SCRUB.Enable : Fld := ⟨STK_SCRUB, 0, 0⟩
abbrev STK_SCRUB.Interval : Fld := ⟨STK_SCRUB, 31, 16⟩
abbrev STK_SCRUB_PASS : Nat := 0x5000c
abbrev STK_SCRUB_PASS.Passes : Fld := ⟨STK_SCRUB_PASS, 31, 0⟩
abbrev STK_CORR : Nat := 0x50010
abbrev STK_CORR.Count : Fld := ⟨STK_CORR, 31, 0⟩
abbrev STK_UNCOR : Nat := 0x50014
abbrev STK_UNCOR.Count : Fld := ⟨STK_UNCOR, 31, 0⟩
abbrev STK_POISONRD : Nat := 0x50018
abbrev STK_POISONRD.Count : Fld := ⟨STK_POISONRD, 31, 0⟩
abbrev STK_DENIED : Nat := 0x5001c
abbrev STK_DENIED.Count : Fld := ⟨STK_DENIED, 31, 0⟩
abbrev STK_ERR_ADDR : Nat := 0x50020
abbrev STK_ERR_ADDR.Valid : Fld := ⟨STK_ERR_ADDR, 0, 0⟩
abbrev STK_ERR_ADDR.Poison : Fld := ⟨STK_ERR_ADDR, 1, 1⟩
abbrev STK_ERR_ADDR.Offset : Fld := ⟨STK_ERR_ADDR, 26, 3⟩
abbrev STK_INJECT : Nat := 0x50024
abbrev STK_INJECT.Bank : Fld := ⟨STK_INJECT, 6, 0⟩
abbrev STK_INJECT.Word : Fld := ⟨STK_INJECT, 10, 8⟩
abbrev STK_INJECT.BitA : Fld := ⟨STK_INJECT, 18, 12⟩
abbrev STK_INJECT.BitB : Fld := ⟨STK_INJECT, 25, 19⟩
abbrev STK_INJECT.Double : Fld := ⟨STK_INJECT, 26, 26⟩
abbrev STK_INJECT.Armed : Fld := ⟨STK_INJECT, 31, 31⟩
abbrev STK_RETAIN (b : Nat) : Nat := 0x50030 + 0x4 * b
abbrev STK_RETAIN.Retain (b : Nat) : Fld := ⟨STK_RETAIN b, 31, 0⟩
abbrev STK_IRQ_STATUS : Nat := 0x50078
abbrev STK_IRQ_STATUS.Uncorrectable : Fld := ⟨STK_IRQ_STATUS, 0, 0⟩
abbrev STK_IRQ_STATUS.Unsealed : Fld := ⟨STK_IRQ_STATUS, 1, 1⟩
abbrev STK_IRQ_STATUS.Denied : Fld := ⟨STK_IRQ_STATUS, 2, 2⟩
abbrev STK_IRQ_STATUS.SpillError : Fld := ⟨STK_IRQ_STATUS, 3, 3⟩
abbrev STK_IRQ_STATUS.CheckDone : Fld := ⟨STK_IRQ_STATUS, 4, 4⟩
abbrev STK_IRQ_STATUS.SealDone : Fld := ⟨STK_IRQ_STATUS, 5, 5⟩
abbrev STK_IRQ_STATUS.ScrubPass : Fld := ⟨STK_IRQ_STATUS, 6, 6⟩
abbrev STK_IRQ_STATUS.ClearDone : Fld := ⟨STK_IRQ_STATUS, 7, 7⟩
abbrev STK_IRQ_EN : Nat := 0x5007c
abbrev STK_IRQ_EN.Uncorrectable : Fld := ⟨STK_IRQ_EN, 0, 0⟩
abbrev STK_IRQ_EN.Unsealed : Fld := ⟨STK_IRQ_EN, 1, 1⟩
abbrev STK_IRQ_EN.Denied : Fld := ⟨STK_IRQ_EN, 2, 2⟩
abbrev STK_IRQ_EN.SpillError : Fld := ⟨STK_IRQ_EN, 3, 3⟩
abbrev STK_IRQ_EN.CheckDone : Fld := ⟨STK_IRQ_EN, 4, 4⟩
abbrev STK_IRQ_EN.SealDone : Fld := ⟨STK_IRQ_EN, 5, 5⟩
abbrev STK_IRQ_EN.ScrubPass : Fld := ⟨STK_IRQ_EN, 6, 6⟩
abbrev STK_IRQ_EN.ClearDone : Fld := ⟨STK_IRQ_EN, 7, 7⟩
abbrev STK_BANK01 (b : Nat) : Nat := 0x50100 + 0x4 * b
abbrev STK_BANK01.State (b : Nat) : Fld := ⟨STK_BANK01 b, 2, 0⟩
abbrev STK_BANK01.CorrCount (b : Nat) : Fld := ⟨STK_BANK01 b, 15, 8⟩
abbrev STK_BANK_HI (b : Nat) : Nat := 0x50108 + 0x4 * b
abbrev STK_BANK_HI.State (b : Nat) : Fld := ⟨STK_BANK_HI b, 2, 0⟩
abbrev STK_BANK_HI.AclMover (b : Nat) : Fld := ⟨STK_BANK_HI b, 4, 4⟩
abbrev STK_BANK_HI.AclRemote (b : Nat) : Fld := ⟨STK_BANK_HI b, 5, 5⟩
abbrev STK_BANK_HI.AclHost (b : Nat) : Fld := ⟨STK_BANK_HI b, 6, 6⟩
abbrev STK_BANK_HI.CorrCount (b : Nat) : Fld := ⟨STK_BANK_HI b, 15, 8⟩
abbrev STK_SPILL (b : Nat) : Nat := 0x50400 + 0x4 * b
abbrev STK_SPILL.Base (b : Nat) : Fld := ⟨STK_SPILL b, 13, 0⟩
abbrev STK_SPILL.Size (b : Nat) : Fld := ⟨STK_SPILL b, 26, 16⟩
abbrev STK_SEAL_LO (b : Nat) : Nat := 0x50800 + 0x8 * b
abbrev STK_SEAL_LO.Seal (b : Nat) : Fld := ⟨STK_SEAL_LO b, 31, 0⟩
abbrev STK_SEAL_HI (b : Nat) : Nat := 0x50804 + 0x8 * b
abbrev STK_SEAL_HI.Seal (b : Nat) : Fld := ⟨STK_SEAL_HI b, 31, 0⟩

def stkRows0 : List RegRow := [
  ⟨"STK_INFO", 0x50000, 0x0, 1, 0x0, 1, .system,
    [⟨"Banks", 6, 0, .ro, 0x60⟩, ⟨"SpillSlots", 29, 16, .ro, 0x2c00⟩]⟩,
  ⟨"STK_STATUS", 0x50004, 0x0, 1, 0x0, 1, .system,
    [⟨"SealBusy", 0, 0, .ro, 0⟩, ⟨"CheckBusy", 1, 1, .ro, 0⟩, ⟨"ClearBusy", 2, 2, .ro, 0⟩, ⟨"LogLost", 3, 3, .w1c, 0⟩, ⟨"PoolLost", 4, 4, .w1c, 0⟩, ⟨"SpillRefused", 5, 5, .w1c, 0⟩]⟩,
  ⟨"STK_SCRUB", 0x50008, 0x0, 1, 0x0, 1, .system,
    [⟨"Enable", 0, 0, .rw, 1⟩, ⟨"Interval", 31, 16, .rw, 0x10⟩]⟩,
  ⟨"STK_SCRUB_PASS", 0x5000c, 0x0, 1, 0x0, 1, .system,
    [⟨"Passes", 31, 0, .ro, 0⟩]⟩,
  ⟨"STK_CORR", 0x50010, 0x0, 1, 0x0, 1, .system,
    [⟨"Count", 31, 0, .rc, 0⟩]⟩,
  ⟨"STK_UNCOR", 0x50014, 0x0, 1, 0x0, 1, .system,
    [⟨"Count", 31, 0, .rc, 0⟩]⟩,
  ⟨"STK_POISONRD", 0x50018, 0x0, 1, 0x0, 1, .system,
    [⟨"Count", 31, 0, .rc, 0⟩]⟩,
  ⟨"STK_DENIED", 0x5001c, 0x0, 1, 0x0, 1, .system,
    [⟨"Count", 31, 0, .rc, 0⟩]⟩,
  ⟨"STK_ERR_ADDR", 0x50020, 0x0, 1, 0x0, 1, .system,
    [⟨"Valid", 0, 0, .ro, 0⟩, ⟨"Poison", 1, 1, .ro, 0⟩, ⟨"Offset", 26, 3, .ro, 0⟩]⟩,
  ⟨"STK_INJECT", 0x50024, 0x0, 1, 0x0, 1, .system,
    [⟨"Bank", 6, 0, .rw, 0⟩, ⟨"Word", 10, 8, .rw, 0⟩, ⟨"BitA", 18, 12, .rw, 0⟩, ⟨"BitB", 25, 19, .rw, 0⟩, ⟨"Double", 26, 26, .rw, 0⟩, ⟨"Armed", 31, 31, .w1s, 0⟩]⟩,
  ⟨"STK_RETAIN", 0x50030, 0x4, 3, 0x0, 1, .system,
    [⟨"Retain", 31, 0, .rw, 0xffffffff⟩]⟩,
  ⟨"STK_IRQ_STATUS", 0x50078, 0x0, 1, 0x0, 1, .system,
    [⟨"Uncorrectable", 0, 0, .w1c, 0⟩, ⟨"Unsealed", 1, 1, .w1c, 0⟩, ⟨"Denied", 2, 2, .w1c, 0⟩, ⟨"SpillError", 3, 3, .w1c, 0⟩, ⟨"CheckDone", 4, 4, .w1c, 0⟩, ⟨"SealDone", 5, 5, .w1c, 0⟩, ⟨"ScrubPass", 6, 6, .w1c, 0⟩, ⟨"ClearDone", 7, 7, .w1c, 0⟩]⟩,
  ⟨"STK_IRQ_EN", 0x5007c, 0x0, 1, 0x0, 1, .system,
    [⟨"Uncorrectable", 0, 0, .rw, 0⟩, ⟨"Unsealed", 1, 1, .rw, 0⟩, ⟨"Denied", 2, 2, .rw, 0⟩, ⟨"SpillError", 3, 3, .rw, 0⟩, ⟨"CheckDone", 4, 4, .rw, 0⟩, ⟨"SealDone", 5, 5, .rw, 0⟩, ⟨"ScrubPass", 6, 6, .rw, 0⟩, ⟨"ClearDone", 7, 7, .rw, 0⟩]⟩,
  ⟨"STK_BANK01", 0x50100, 0x4, 2, 0x0, 1, .system,
    [⟨"State", 2, 0, .ro, 0⟩, ⟨"CorrCount", 15, 8, .rc, 0⟩]⟩,
  ⟨"STK_BANK_HI", 0x50108, 0x4, 94, 0x0, 1, .system,
    [⟨"State", 2, 0, .ro, 0⟩, ⟨"AclMover", 4, 4, .rw, 1⟩, ⟨"AclRemote", 5, 5, .rw, 1⟩, ⟨"AclHost", 6, 6, .rw, 1⟩, ⟨"CorrCount", 15, 8, .rc, 0⟩]⟩,
  ⟨"STK_SPILL", 0x50400, 0x4, 48, 0x0, 1, .system,
    [⟨"Base", 13, 0, .rw, 0⟩, ⟨"Size", 26, 16, .rw, 0⟩]⟩]

def stkRows1 : List RegRow := [
  ⟨"STK_SEAL_LO", 0x50800, 0x8, 96, 0x0, 1, .system,
    [⟨"Seal", 31, 0, .ro, 0⟩]⟩,
  ⟨"STK_SEAL_HI", 0x50804, 0x8, 96, 0x0, 1, .system,
    [⟨"Seal", 31, 0, .ro, 0⟩]⟩]

/-- The STK block's register table (R216). -/
def stkRows : List RegRow := stkRows0 ++ stkRows1

/-! ## FLT block (R244, 07_fault_recovery.md) -/

abbrev FLT_STATUS : Nat := 0x60000
abbrev FLT_STATUS.CuratorSolo : Fld := ⟨FLT_STATUS, 0, 0⟩
abbrev FLT_STATUS.FencedCore : Fld := ⟨FLT_STATUS, 1, 1⟩
abbrev FLT_STATUS.Uncovered : Fld := ⟨FLT_STATUS, 2, 2⟩
abbrev FLT_HARD : Nat := 0x60004
abbrev FLT_HARD.Count : Fld := ⟨FLT_HARD, 7, 0⟩
abbrev FLT_HARD.Window : Fld := ⟨FLT_HARD, 31, 16⟩
abbrev FLT_INJECT : Nat := 0x60008
abbrev FLT_INJECT.Bay : Fld := ⟨FLT_INJECT, 5, 0⟩
abbrev FLT_INJECT.Pair : Fld := ⟨FLT_INJECT, 7, 6⟩
abbrev FLT_INJECT.Odd : Fld := ⟨FLT_INJECT, 8, 8⟩
abbrev FLT_INJECT.Kind : Fld := ⟨FLT_INJECT, 10, 9⟩
abbrev FLT_INJECT.Delay : Fld := ⟨FLT_INJECT, 23, 12⟩
abbrev FLT_INJECT.Armed : Fld := ⟨FLT_INJECT, 31, 31⟩
abbrev FLT_MISMATCH : Nat := 0x60010
abbrev FLT_MISMATCH.Count : Fld := ⟨FLT_MISMATCH, 31, 0⟩
abbrev FLT_RECOVERED : Nat := 0x60014
abbrev FLT_RECOVERED.Count : Fld := ⟨FLT_RECOVERED, 31, 0⟩
abbrev FLT_HELDOUT : Nat := 0x60018
abbrev FLT_HELDOUT.Count : Fld := ⟨FLT_HELDOUT, 31, 0⟩
abbrev FLT_DEMOTED : Nat := 0x6001c
abbrev FLT_DEMOTED.Count : Fld := ⟨FLT_DEMOTED, 31, 0⟩
abbrev FLT_MIGRATED : Nat := 0x60020
abbrev FLT_MIGRATED.Count : Fld := ⟨FLT_MIGRATED, 31, 0⟩
abbrev FLT_CURRETRY : Nat := 0x60024
abbrev FLT_CURRETRY.Count : Fld := ⟨FLT_CURRETRY, 31, 0⟩
abbrev FLT_ROLLBACK_MAX : Nat := 0x60028
abbrev FLT_ROLLBACK_MAX.Value : Fld := ⟨FLT_ROLLBACK_MAX, 31, 0⟩
abbrev FLT_JOURNAL_HWM : Nat := 0x6002c
abbrev FLT_JOURNAL_HWM.Value : Fld := ⟨FLT_JOURNAL_HWM, 31, 0⟩
abbrev FLT_LOG_HEAD : Nat := 0x60030
abbrev FLT_LOG_HEAD.Next : Fld := ⟨FLT_LOG_HEAD, 11, 0⟩
abbrev FLT_LOG_HEAD.Wrapped : Fld := ⟨FLT_LOG_HEAD, 12, 12⟩
abbrev FLT_LOG_HEAD.Seq : Fld := ⟨FLT_LOG_HEAD, 31, 16⟩
abbrev FLT_LOG_LOST : Nat := 0x60034
abbrev FLT_LOG_LOST.Count : Fld := ⟨FLT_LOG_LOST, 31, 0⟩
abbrev FLT_IRQ_STATUS : Nat := 0x60078
abbrev FLT_IRQ_STATUS.Recovered : Fld := ⟨FLT_IRQ_STATUS, 0, 0⟩
abbrev FLT_IRQ_STATUS.HeldOutput : Fld := ⟨FLT_IRQ_STATUS, 1, 1⟩
abbrev FLT_IRQ_STATUS.Demoted : Fld := ⟨FLT_IRQ_STATUS, 2, 2⟩
abbrev FLT_IRQ_STATUS.Migrated : Fld := ⟨FLT_IRQ_STATUS, 3, 3⟩
abbrev FLT_IRQ_STATUS.CuratorRetry : Fld := ⟨FLT_IRQ_STATUS, 4, 4⟩
abbrev FLT_IRQ_STATUS.CuratorSolo : Fld := ⟨FLT_IRQ_STATUS, 5, 5⟩
abbrev FLT_IRQ_STATUS.Uncovered : Fld := ⟨FLT_IRQ_STATUS, 6, 6⟩
abbrev FLT_IRQ_STATUS.LogLost : Fld := ⟨FLT_IRQ_STATUS, 7, 7⟩
abbrev FLT_IRQ_EN : Nat := 0x6007c
abbrev FLT_IRQ_EN.Recovered : Fld := ⟨FLT_IRQ_EN, 0, 0⟩
abbrev FLT_IRQ_EN.HeldOutput : Fld := ⟨FLT_IRQ_EN, 1, 1⟩
abbrev FLT_IRQ_EN.Demoted : Fld := ⟨FLT_IRQ_EN, 2, 2⟩
abbrev FLT_IRQ_EN.Migrated : Fld := ⟨FLT_IRQ_EN, 3, 3⟩
abbrev FLT_IRQ_EN.CuratorRetry : Fld := ⟨FLT_IRQ_EN, 4, 4⟩
abbrev FLT_IRQ_EN.CuratorSolo : Fld := ⟨FLT_IRQ_EN, 5, 5⟩
abbrev FLT_IRQ_EN.Uncovered : Fld := ⟨FLT_IRQ_EN, 6, 6⟩
abbrev FLT_IRQ_EN.LogLost : Fld := ⟨FLT_IRQ_EN, 7, 7⟩
abbrev FLT_COVER (b : Nat) : Nat := 0x60100 + 0x4 * b
abbrev FLT_COVER.Paired (b : Nat) : Fld := ⟨FLT_COVER b, 0, 0⟩
abbrev FLT_COVER.SpareReady (b : Nat) : Fld := ⟨FLT_COVER b, 1, 1⟩
abbrev FLT_COVER.SlackOk (b : Nat) : Fld := ⟨FLT_COVER b, 2, 2⟩
abbrev FLT_COVER.JournalOverflow (b : Nat) : Fld := ⟨FLT_COVER b, 3, 3⟩
abbrev FLT_COVER.Compute (b : Nat) : Fld := ⟨FLT_COVER b, 31, 16⟩

def fltRows0 : List RegRow := [
  ⟨"FLT_STATUS", 0x60000, 0x0, 1, 0x0, 1, .system,
    [⟨"CuratorSolo", 0, 0, .ro, 0⟩, ⟨"FencedCore", 1, 1, .ro, 0⟩, ⟨"Uncovered", 2, 2, .ro, 0⟩]⟩,
  ⟨"FLT_HARD", 0x60004, 0x0, 1, 0x0, 1, .system,
    [⟨"Count", 7, 0, .rw, 3⟩, ⟨"Window", 31, 16, .rw, 0x3e8⟩]⟩,
  ⟨"FLT_INJECT", 0x60008, 0x0, 1, 0x0, 1, .system,
    [⟨"Bay", 5, 0, .rw, 0⟩, ⟨"Pair", 7, 6, .rw, 0⟩, ⟨"Odd", 8, 8, .rw, 0⟩, ⟨"Kind", 10, 9, .rw, 0⟩, ⟨"Delay", 23, 12, .rw, 0⟩, ⟨"Armed", 31, 31, .w1s, 0⟩]⟩,
  ⟨"FLT_MISMATCH", 0x60010, 0x0, 1, 0x0, 1, .system,
    [⟨"Count", 31, 0, .rc, 0⟩]⟩,
  ⟨"FLT_RECOVERED", 0x60014, 0x0, 1, 0x0, 1, .system,
    [⟨"Count", 31, 0, .rc, 0⟩]⟩,
  ⟨"FLT_HELDOUT", 0x60018, 0x0, 1, 0x0, 1, .system,
    [⟨"Count", 31, 0, .rc, 0⟩]⟩,
  ⟨"FLT_DEMOTED", 0x6001c, 0x0, 1, 0x0, 1, .system,
    [⟨"Count", 31, 0, .rc, 0⟩]⟩,
  ⟨"FLT_MIGRATED", 0x60020, 0x0, 1, 0x0, 1, .system,
    [⟨"Count", 31, 0, .rc, 0⟩]⟩,
  ⟨"FLT_CURRETRY", 0x60024, 0x0, 1, 0x0, 1, .system,
    [⟨"Count", 31, 0, .rc, 0⟩]⟩,
  ⟨"FLT_ROLLBACK_MAX", 0x60028, 0x0, 1, 0x0, 1, .system,
    [⟨"Value", 31, 0, .rc, 0⟩]⟩,
  ⟨"FLT_JOURNAL_HWM", 0x6002c, 0x0, 1, 0x0, 1, .system,
    [⟨"Value", 31, 0, .rc, 0⟩]⟩,
  ⟨"FLT_LOG_HEAD", 0x60030, 0x0, 1, 0x0, 1, .system,
    [⟨"Next", 11, 0, .ro, 0⟩, ⟨"Wrapped", 12, 12, .ro, 0⟩, ⟨"Seq", 31, 16, .ro, 0⟩]⟩,
  ⟨"FLT_LOG_LOST", 0x60034, 0x0, 1, 0x0, 1, .system,
    [⟨"Count", 31, 0, .rc, 0⟩]⟩,
  ⟨"FLT_IRQ_STATUS", 0x60078, 0x0, 1, 0x0, 1, .system,
    [⟨"Recovered", 0, 0, .w1c, 0⟩, ⟨"HeldOutput", 1, 1, .w1c, 0⟩, ⟨"Demoted", 2, 2, .w1c, 0⟩, ⟨"Migrated", 3, 3, .w1c, 0⟩, ⟨"CuratorRetry", 4, 4, .w1c, 0⟩, ⟨"CuratorSolo", 5, 5, .w1c, 0⟩, ⟨"Uncovered", 6, 6, .w1c, 0⟩, ⟨"LogLost", 7, 7, .w1c, 0⟩]⟩,
  ⟨"FLT_IRQ_EN", 0x6007c, 0x0, 1, 0x0, 1, .system,
    [⟨"Recovered", 0, 0, .rw, 0⟩, ⟨"HeldOutput", 1, 1, .rw, 0⟩, ⟨"Demoted", 2, 2, .rw, 0⟩, ⟨"Migrated", 3, 3, .rw, 0⟩, ⟨"CuratorRetry", 4, 4, .rw, 0⟩, ⟨"CuratorSolo", 5, 5, .rw, 0⟩, ⟨"Uncovered", 6, 6, .rw, 0⟩, ⟨"LogLost", 7, 7, .rw, 0⟩]⟩,
  ⟨"FLT_COVER", 0x60100, 0x4, 64, 0x0, 1, .system,
    [⟨"Paired", 0, 0, .ro, 1⟩, ⟨"SpareReady", 1, 1, .ro, 0⟩, ⟨"SlackOk", 2, 2, .ro, 0⟩, ⟨"JournalOverflow", 3, 3, .ro, 0⟩, ⟨"Compute", 31, 16, .ro, 0⟩]⟩]

/-- The FLT block's register table (R244). -/
def fltRows : List RegRow := fltRows0

/-! ## EDG block (R277, 08_edge_io.md) -/

abbrev EDG_STATUS : Nat := 0x70000
abbrev EDG_STATUS.FuseMode : Fld := ⟨EDG_STATUS, 0, 0⟩
abbrev EDG_STATUS.HoldAsserted : Fld := ⟨EDG_STATUS, 1, 1⟩
abbrev EDG_STATUS.Pfail : Fld := ⟨EDG_STATUS, 2, 2⟩
abbrev EDG_STATUS.IlkActive : Fld := ⟨EDG_STATUS, 15, 8⟩
abbrev EDG_HOLD : Nat := 0x70004
abbrev EDG_HOLD.Release : Fld := ⟨EDG_HOLD, 0, 0⟩
abbrev EDG_HOLD.Assert : Fld := ⟨EDG_HOLD, 1, 1⟩
abbrev EDG_HOLD.State : Fld := ⟨EDG_HOLD, 2, 2⟩
abbrev EDG_HOLD.PinLevel : Fld := ⟨EDG_HOLD, 3, 3⟩
abbrev EDG_HOLD.Cause : Fld := ⟨EDG_HOLD, 7, 4⟩
abbrev EDG_HOLD.PfailHold : Fld := ⟨EDG_HOLD, 8, 8⟩
abbrev EDG_HOLD.ReleaseRefused : Fld := ⟨EDG_HOLD, 9, 9⟩
abbrev EDG_TRIP_ILK : Nat := 0x70008
abbrev EDG_TRIP_ILK.Latched : Fld := ⟨EDG_TRIP_ILK, 7, 0⟩
abbrev EDG_TRIP_MOD : Nat := 0x7000c
abbrev EDG_TRIP_MOD.Latched : Fld := ⟨EDG_TRIP_MOD, 31, 0⟩
abbrev EDG_TRIP_STIME_LO : Nat := 0x70010
abbrev EDG_TRIP_STIME_LO.Value : Fld := ⟨EDG_TRIP_STIME_LO, 31, 0⟩
abbrev EDG_TRIP_STIME_HI : Nat := 0x70014
abbrev EDG_TRIP_STIME_HI.Value : Fld := ⟨EDG_TRIP_STIME_HI, 31, 0⟩
abbrev EDG_POL_LO : Nat := 0x70018
abbrev EDG_POL_LO.ActiveLow : Fld := ⟨EDG_POL_LO, 31, 0⟩
abbrev EDG_POL_HI : Nat := 0x7001c
abbrev EDG_POL_HI.ActiveLow : Fld := ⟨EDG_POL_HI, 15, 0⟩
abbrev EDG_AUX_DIR : Nat := 0x70020
abbrev EDG_AUX_DIR.Out : Fld := ⟨EDG_AUX_DIR, 15, 0⟩
abbrev EDG_AUX_DIR.OpenDrain : Fld := ⟨EDG_AUX_DIR, 31, 16⟩
abbrev EDG_AUX_IN : Nat := 0x70024
abbrev EDG_AUX_IN.Level : Fld := ⟨EDG_AUX_IN, 15, 0⟩
abbrev EDG_AUX_SH0 : Nat := 0x70028
abbrev EDG_AUX_SH0.Level : Fld := ⟨EDG_AUX_SH0, 15, 0⟩
abbrev EDG_AUX_SH0.Source : Fld := ⟨EDG_AUX_SH0, 31, 16⟩
abbrev EDG_AUX_SH1 : Nat := 0x7002c
abbrev EDG_AUX_SH1.Held : Fld := ⟨EDG_AUX_SH1, 15, 0⟩
abbrev EDG_AUX_SH1.Safe : Fld := ⟨EDG_AUX_SH1, 31, 16⟩
abbrev EDG_AUX_SH2 : Nat := 0x70030
abbrev EDG_AUX_SH2.Commit : Fld := ⟨EDG_AUX_SH2, 0, 0⟩
abbrev EDG_DYNCOLL : Nat := 0x70034
abbrev EDG_DYNCOLL.Count : Fld := ⟨EDG_DYNCOLL, 31, 0⟩
abbrev EDG_BADIDX : Nat := 0x70038
abbrev EDG_BADIDX.Count : Fld := ⟨EDG_BADIDX, 31, 0⟩
abbrev EDG_CFGREF : Nat := 0x7003c
abbrev EDG_CFGREF.Count : Fld := ⟨EDG_CFGREF, 31, 0⟩
abbrev EDG_IRQ_STATUS : Nat := 0x70078
abbrev EDG_IRQ_STATUS.Interlock : Fld := ⟨EDG_IRQ_STATUS, 0, 0⟩
abbrev EDG_IRQ_STATUS.FastTrip : Fld := ⟨EDG_IRQ_STATUS, 1, 1⟩
abbrev EDG_IRQ_STATUS.Stuck : Fld := ⟨EDG_IRQ_STATUS, 2, 2⟩
abbrev EDG_IRQ_STATUS.HoldAsserted : Fld := ⟨EDG_IRQ_STATUS, 3, 3⟩
abbrev EDG_IRQ_STATUS.HoldReleased : Fld := ⟨EDG_IRQ_STATUS, 4, 4⟩
abbrev EDG_IRQ_STATUS.CfgRefused : Fld := ⟨EDG_IRQ_STATUS, 5, 5⟩
abbrev EDG_IRQ_STATUS.DynCollision : Fld := ⟨EDG_IRQ_STATUS, 6, 6⟩
abbrev EDG_IRQ_EN : Nat := 0x7007c
abbrev EDG_IRQ_EN.Interlock : Fld := ⟨EDG_IRQ_EN, 0, 0⟩
abbrev EDG_IRQ_EN.FastTrip : Fld := ⟨EDG_IRQ_EN, 1, 1⟩
abbrev EDG_IRQ_EN.Stuck : Fld := ⟨EDG_IRQ_EN, 2, 2⟩
abbrev EDG_IRQ_EN.HoldAsserted : Fld := ⟨EDG_IRQ_EN, 3, 3⟩
abbrev EDG_IRQ_EN.HoldReleased : Fld := ⟨EDG_IRQ_EN, 4, 4⟩
abbrev EDG_IRQ_EN.CfgRefused : Fld := ⟨EDG_IRQ_EN, 5, 5⟩
abbrev EDG_IRQ_EN.DynCollision : Fld := ⟨EDG_IRQ_EN, 6, 6⟩
abbrev EDG_MCLK (b : Nat) : Nat := 0x70100 + 0x4 * b
abbrev EDG_MCLK.Enable (b : Nat) : Fld := ⟨EDG_MCLK b, 0, 0⟩
abbrev EDG_MCLK.Period (b : Nat) : Fld := ⟨EDG_MCLK b, 15, 8⟩
abbrev EDG_ILK (b : Nat) : Nat := 0x70200 + 0x4 * b
abbrev EDG_ILK.Enable (b : Nat) : Fld := ⟨EDG_ILK b, 0, 0⟩
abbrev EDG_ILK.ActiveLow (b : Nat) : Fld := ⟨EDG_ILK b, 1, 1⟩
abbrev EDG_ILK.Filt (b : Nat) : Fld := ⟨EDG_ILK b, 4, 2⟩
abbrev EDG_ILK.Hold (b : Nat) : Fld := ⟨EDG_ILK b, 5, 5⟩
abbrev EDG_ILK.PairMask (b : Nat) : Fld := ⟨EDG_ILK b, 31, 8⟩
abbrev EDG_MOD_CFG (b : Nat) : Nat := 0x70400 + 0x10 * b
abbrev EDG_MOD_CFG.Enable (b : Nat) : Fld := ⟨EDG_MOD_CFG b, 0, 0⟩
abbrev EDG_MOD_CFG.Clock (b : Nat) : Fld := ⟨EDG_MOD_CFG b, 2, 1⟩
abbrev EDG_MOD_CFG.FallingEdge (b : Nat) : Fld := ⟨EDG_MOD_CFG b, 3, 3⟩
abbrev EDG_MOD_CFG.Order (b : Nat) : Fld := ⟨EDG_MOD_CFG b, 5, 4⟩
abbrev EDG_MOD_CFG.Dec (b : Nat) : Fld := ⟨EDG_MOD_CFG b, 16, 6⟩
abbrev EDG_MOD_CFG.Skew (b : Nat) : Fld := ⟨EDG_MOD_CFG b, 21, 17⟩
abbrev EDG_MOD_TRIP (b : Nat) : Nat := 0x70404 + 0x10 * b
abbrev EDG_MOD_TRIP.Enable (b : Nat) : Fld := ⟨EDG_MOD_TRIP b, 0, 0⟩
abbrev EDG_MOD_TRIP.TDec (b : Nat) : Fld := ⟨EDG_MOD_TRIP b, 5, 1⟩
abbrev EDG_MOD_TRIP.Count (b : Nat) : Fld := ⟨EDG_MOD_TRIP b, 9, 6⟩
abbrev EDG_MOD_TRIP.Hold (b : Nat) : Fld := ⟨EDG_MOD_TRIP b, 10, 10⟩
abbrev EDG_MOD_THR (b : Nat) : Nat := 0x70408 + 0x10 * b
abbrev EDG_MOD_THR.Lo (b : Nat) : Fld := ⟨EDG_MOD_THR b, 15, 0⟩
abbrev EDG_MOD_THR.Hi (b : Nat) : Fld := ⟨EDG_MOD_THR b, 31, 16⟩
abbrev EDG_MOD_MASK (b : Nat) : Nat := 0x7040c + 0x10 * b
abbrev EDG_MOD_MASK.PairMask (b : Nat) : Fld := ⟨EDG_MOD_MASK b, 23, 0⟩
abbrev EDG_MOD_STAT (b : Nat) : Nat := 0x70600 + 0x4 * b
abbrev EDG_MOD_STAT.Stuck (b : Nat) : Fld := ⟨EDG_MOD_STAT b, 0, 0⟩
abbrev EDG_MOD_STAT.StuckLevel (b : Nat) : Fld := ⟨EDG_MOD_STAT b, 1, 1⟩
abbrev EDG_MOD_STAT.Settled (b : Nat) : Fld := ⟨EDG_MOD_STAT b, 2, 2⟩
abbrev EDG_MOD_STAT.OutOfRange (b : Nat) : Fld := ⟨EDG_MOD_STAT b, 3, 3⟩
abbrev EDG_MOD_STAT.LastFast (b : Nat) : Fld := ⟨EDG_MOD_STAT b, 31, 16⟩
abbrev EDG_PAIR_CFG (b : Nat) : Nat := 0x70800 + 0x8 * b
abbrev EDG_PAIR_CFG.Mode (b : Nat) : Fld := ⟨EDG_PAIR_CFG b, 1, 0⟩
abbrev EDG_PAIR_CFG.Held (b : Nat) : Fld := ⟨EDG_PAIR_CFG b, 2, 2⟩
abbrev EDG_PAIR_CFG.SafeH (b : Nat) : Fld := ⟨EDG_PAIR_CFG b, 3, 3⟩
abbrev EDG_PAIR_CFG.SafeL (b : Nat) : Fld := ⟨EDG_PAIR_CFG b, 4, 4⟩
abbrev EDG_PAIR_CFG.Commit (b : Nat) : Fld := ⟨EDG_PAIR_CFG b, 31, 31⟩
abbrev EDG_PAIR_TIME (b : Nat) : Nat := 0x70804 + 0x8 * b
abbrev EDG_PAIR_TIME.DeadTime (b : Nat) : Fld := ⟨EDG_PAIR_TIME b, 7, 0⟩
abbrev EDG_PAIR_TIME.MinOn (b : Nat) : Fld := ⟨EDG_PAIR_TIME b, 17, 8⟩
abbrev EDG_PAIR_TIME.MinOff (b : Nat) : Fld := ⟨EDG_PAIR_TIME b, 27, 18⟩
abbrev EDG_PAIR_ACFG (b : Nat) : Nat := 0x70900 + 0x8 * b
abbrev EDG_PAIR_ACFG.Mode (b : Nat) : Fld := ⟨EDG_PAIR_ACFG b, 1, 0⟩
abbrev EDG_PAIR_ACFG.Held (b : Nat) : Fld := ⟨EDG_PAIR_ACFG b, 2, 2⟩
abbrev EDG_PAIR_ACFG.SafeH (b : Nat) : Fld := ⟨EDG_PAIR_ACFG b, 3, 3⟩
abbrev EDG_PAIR_ACFG.SafeL (b : Nat) : Fld := ⟨EDG_PAIR_ACFG b, 4, 4⟩
abbrev EDG_PAIR_ATIME (b : Nat) : Nat := 0x70904 + 0x8 * b
abbrev EDG_PAIR_ATIME.DeadTime (b : Nat) : Fld := ⟨EDG_PAIR_ATIME b, 7, 0⟩
abbrev EDG_PAIR_ATIME.MinOn (b : Nat) : Fld := ⟨EDG_PAIR_ATIME b, 17, 8⟩
abbrev EDG_PAIR_ATIME.MinOff (b : Nat) : Fld := ⟨EDG_PAIR_ATIME b, 27, 18⟩
abbrev EDG_DYN (b : Nat) : Nat := 0x71000 + 0x4 * b
abbrev EDG_DYN.Value (b : Nat) : Fld := ⟨EDG_DYN b, 31, 0⟩

def edgRows0 : List RegRow := [
  ⟨"EDG_STATUS", 0x70000, 0x0, 1, 0x0, 1, .warm,
    [⟨"FuseMode", 0, 0, .ro, 1⟩, ⟨"HoldAsserted", 1, 1, .ro, 1⟩, ⟨"Pfail", 2, 2, .ro, 0⟩, ⟨"IlkActive", 15, 8, .ro, 0⟩]⟩,
  ⟨"EDG_HOLD", 0x70004, 0x0, 1, 0x0, 1, .warm,
    [⟨"Release", 0, 0, .wo, 0⟩, ⟨"Assert", 1, 1, .wo, 0⟩, ⟨"State", 2, 2, .ro, 1⟩, ⟨"PinLevel", 3, 3, .ro, 0⟩, ⟨"Cause", 7, 4, .ro, 5⟩, ⟨"PfailHold", 8, 8, .rw, 1⟩, ⟨"ReleaseRefused", 9, 9, .w1c, 0⟩]⟩,
  ⟨"EDG_TRIP_ILK", 0x70008, 0x0, 1, 0x0, 1, .warm,
    [⟨"Latched", 7, 0, .w1c, 0⟩]⟩,
  ⟨"EDG_TRIP_MOD", 0x7000c, 0x0, 1, 0x0, 1, .warm,
    [⟨"Latched", 31, 0, .w1c, 0⟩]⟩,
  ⟨"EDG_TRIP_STIME_LO", 0x70010, 0x0, 1, 0x0, 1, .warm,
    [⟨"Value", 31, 0, .ro, 0⟩]⟩,
  ⟨"EDG_TRIP_STIME_HI", 0x70014, 0x0, 1, 0x0, 1, .warm,
    [⟨"Value", 31, 0, .ro, 0⟩]⟩,
  ⟨"EDG_POL_LO", 0x70018, 0x0, 1, 0x0, 1, .warm,
    [⟨"ActiveLow", 31, 0, .rw, 0⟩]⟩,
  ⟨"EDG_POL_HI", 0x7001c, 0x0, 1, 0x0, 1, .warm,
    [⟨"ActiveLow", 15, 0, .rw, 0⟩]⟩,
  ⟨"EDG_AUX_DIR", 0x70020, 0x0, 1, 0x0, 1, .warm,
    [⟨"Out", 15, 0, .rw, 0⟩, ⟨"OpenDrain", 31, 16, .rw, 0⟩]⟩,
  ⟨"EDG_AUX_IN", 0x70024, 0x0, 1, 0x0, 1, .warm,
    [⟨"Level", 15, 0, .ro, 0⟩]⟩,
  ⟨"EDG_AUX_SH0", 0x70028, 0x0, 1, 0x0, 1, .warm,
    [⟨"Level", 15, 0, .rw, 0⟩, ⟨"Source", 31, 16, .rw, 0⟩]⟩,
  ⟨"EDG_AUX_SH1", 0x7002c, 0x0, 1, 0x0, 1, .warm,
    [⟨"Held", 15, 0, .rw, 0⟩, ⟨"Safe", 31, 16, .rw, 0⟩]⟩,
  ⟨"EDG_AUX_SH2", 0x70030, 0x0, 1, 0x0, 1, .warm,
    [⟨"Commit", 0, 0, .rw, 0⟩]⟩,
  ⟨"EDG_DYNCOLL", 0x70034, 0x0, 1, 0x0, 1, .warm,
    [⟨"Count", 31, 0, .rc, 0⟩]⟩,
  ⟨"EDG_BADIDX", 0x70038, 0x0, 1, 0x0, 1, .warm,
    [⟨"Count", 31, 0, .rc, 0⟩]⟩,
  ⟨"EDG_CFGREF", 0x7003c, 0x0, 1, 0x0, 1, .warm,
    [⟨"Count", 31, 0, .rc, 0⟩]⟩]

def edgRows1 : List RegRow := [
  ⟨"EDG_IRQ_STATUS", 0x70078, 0x0, 1, 0x0, 1, .warm,
    [⟨"Interlock", 0, 0, .w1c, 0⟩, ⟨"FastTrip", 1, 1, .w1c, 0⟩, ⟨"Stuck", 2, 2, .w1c, 0⟩, ⟨"HoldAsserted", 3, 3, .w1c, 0⟩, ⟨"HoldReleased", 4, 4, .w1c, 0⟩, ⟨"CfgRefused", 5, 5, .w1c, 0⟩, ⟨"DynCollision", 6, 6, .w1c, 0⟩]⟩,
  ⟨"EDG_IRQ_EN", 0x7007c, 0x0, 1, 0x0, 1, .warm,
    [⟨"Interlock", 0, 0, .rw, 0⟩, ⟨"FastTrip", 1, 1, .rw, 0⟩, ⟨"Stuck", 2, 2, .rw, 0⟩, ⟨"HoldAsserted", 3, 3, .rw, 0⟩, ⟨"HoldReleased", 4, 4, .rw, 0⟩, ⟨"CfgRefused", 5, 5, .rw, 0⟩, ⟨"DynCollision", 6, 6, .rw, 0⟩]⟩,
  ⟨"EDG_MCLK", 0x70100, 0x4, 4, 0x0, 1, .warm,
    [⟨"Enable", 0, 0, .rw, 0⟩, ⟨"Period", 15, 8, .rw, 0x64⟩]⟩,
  ⟨"EDG_ILK", 0x70200, 0x4, 8, 0x0, 1, .warm,
    [⟨"Enable", 0, 0, .rw, 0⟩, ⟨"ActiveLow", 1, 1, .rw, 0⟩, ⟨"Filt", 4, 2, .rw, 0⟩, ⟨"Hold", 5, 5, .rw, 0⟩, ⟨"PairMask", 31, 8, .rw, 0⟩]⟩,
  ⟨"EDG_MOD_CFG", 0x70400, 0x10, 32, 0x0, 1, .warm,
    [⟨"Enable", 0, 0, .rw, 0⟩, ⟨"Clock", 2, 1, .rw, 0⟩, ⟨"FallingEdge", 3, 3, .rw, 0⟩, ⟨"Order", 5, 4, .rw, 0⟩, ⟨"Dec", 16, 6, .rw, 0x100⟩, ⟨"Skew", 21, 17, .rw, 0⟩]⟩,
  ⟨"EDG_MOD_TRIP", 0x70404, 0x10, 32, 0x0, 1, .warm,
    [⟨"Enable", 0, 0, .rw, 0⟩, ⟨"TDec", 5, 1, .rw, 7⟩, ⟨"Count", 9, 6, .rw, 1⟩, ⟨"Hold", 10, 10, .rw, 0⟩]⟩,
  ⟨"EDG_MOD_THR", 0x70408, 0x10, 32, 0x0, 1, .warm,
    [⟨"Lo", 15, 0, .rw, 0x8000⟩, ⟨"Hi", 31, 16, .rw, 0x7fff⟩]⟩,
  ⟨"EDG_MOD_MASK", 0x7040c, 0x10, 32, 0x0, 1, .warm,
    [⟨"PairMask", 23, 0, .rw, 0⟩]⟩,
  ⟨"EDG_MOD_STAT", 0x70600, 0x4, 32, 0x0, 1, .warm,
    [⟨"Stuck", 0, 0, .ro, 0⟩, ⟨"StuckLevel", 1, 1, .ro, 0⟩, ⟨"Settled", 2, 2, .ro, 0⟩, ⟨"OutOfRange", 3, 3, .ro, 0⟩, ⟨"LastFast", 31, 16, .ro, 0⟩]⟩,
  ⟨"EDG_PAIR_CFG", 0x70800, 0x8, 24, 0x0, 1, .warm,
    [⟨"Mode", 1, 0, .rw, 0⟩, ⟨"Held", 2, 2, .rw, 1⟩, ⟨"SafeH", 3, 3, .rw, 0⟩, ⟨"SafeL", 4, 4, .rw, 0⟩, ⟨"Commit", 31, 31, .rw, 0⟩]⟩,
  ⟨"EDG_PAIR_TIME", 0x70804, 0x8, 24, 0x0, 1, .warm,
    [⟨"DeadTime", 7, 0, .rw, 0x14⟩, ⟨"MinOn", 17, 8, .rw, 0⟩, ⟨"MinOff", 27, 18, .rw, 0⟩]⟩,
  ⟨"EDG_PAIR_ACFG", 0x70900, 0x8, 24, 0x0, 1, .warm,
    [⟨"Mode", 1, 0, .ro, 0⟩, ⟨"Held", 2, 2, .ro, 1⟩, ⟨"SafeH", 3, 3, .ro, 0⟩, ⟨"SafeL", 4, 4, .ro, 0⟩]⟩,
  ⟨"EDG_PAIR_ATIME", 0x70904, 0x8, 24, 0x0, 1, .warm,
    [⟨"DeadTime", 7, 0, .ro, 0x14⟩, ⟨"MinOn", 17, 8, .ro, 0⟩, ⟨"MinOff", 27, 18, .ro, 0⟩]⟩,
  ⟨"EDG_DYN", 0x71000, 0x4, 112, 0x0, 1, .warm,
    [⟨"Value", 31, 0, .rw, 0⟩]⟩]

/-- The EDG block's register table (R277). -/
def edgRows : List RegRow := edgRows0 ++ edgRows1

/-! ## LNK block (R344, 10_maelid_link.md) -/

abbrev LNK_PORT (b : Nat) : Nat := 0x80000 + 0x1000 * b
abbrev LNK_PORT.Split (b : Nat) : Fld := ⟨LNK_PORT b, 1, 0⟩
abbrev LNK_CTRL (b : Nat) (k : Nat) : Nat := 0x80200 + 0x1000 * b + 0x100 * k
abbrev LNK_CTRL.Enable (b : Nat) (k : Nat) : Fld := ⟨LNK_CTRL b k, 0, 0⟩
abbrev LNK_CTRL.AutoRestart (b : Nat) (k : Nat) : Fld := ⟨LNK_CTRL b k, 1, 1⟩
abbrev LNK_CTRL.Retrain (b : Nat) (k : Nat) : Fld := ⟨LNK_CTRL b k, 2, 2⟩
abbrev LNK_CTRL.AllowMask (b : Nat) (k : Nat) : Fld := ⟨LNK_CTRL b k, 7, 4⟩
abbrev LNK_STATUS (b : Nat) (k : Nat) : Nat := 0x80204 + 0x1000 * b + 0x100 * k
abbrev LNK_STATUS.State (b : Nat) (k : Nat) : Fld := ⟨LNK_STATUS b k, 2, 0⟩
abbrev LNK_STATUS.Hunting (b : Nat) (k : Nat) : Fld := ⟨LNK_STATUS b k, 3, 3⟩
abbrev LNK_STATUS.TxMask (b : Nat) (k : Nat) : Fld := ⟨LNK_STATUS b k, 7, 4⟩
abbrev LNK_STATUS.RxMask (b : Nat) (k : Nat) : Fld := ⟨LNK_STATUS b k, 11, 8⟩
abbrev LNK_STATUS.PartnerLeaf (b : Nat) (k : Nat) : Fld := ⟨LNK_STATUS b k, 12, 12⟩
abbrev LNK_STATUS.Stalled (b : Nat) (k : Nat) : Fld := ⟨LNK_STATUS b k, 13, 13⟩
abbrev LNK_STATUS.ReplayActive (b : Nat) (k : Nat) : Fld := ⟨LNK_STATUS b k, 14, 14⟩
abbrev LNK_STATUS.NakWait (b : Nat) (k : Nat) : Fld := ⟨LNK_STATUS b k, 15, 15⟩
abbrev LNK_STATUS.PartnerId (b : Nat) (k : Nat) : Fld := ⟨LNK_STATUS b k, 25, 16⟩
abbrev LNK_STATUS.DownCause (b : Nat) (k : Nat) : Fld := ⟨LNK_STATUS b k, 29, 26⟩
abbrev LNK_CRTO (b : Nat) (k : Nat) : Nat := 0x80208 + 0x1000 * b + 0x100 * k
abbrev LNK_CRTO.Ticks (b : Nat) (k : Nat) : Fld := ⟨LNK_CRTO b k, 13, 0⟩
abbrev LNK_ERRWIN (b : Nat) (k : Nat) : Nat := 0x8020c + 0x1000 * b + 0x100 * k
abbrev LNK_ERRWIN.Threshold (b : Nat) (k : Nat) : Fld := ⟨LNK_ERRWIN b k, 15, 0⟩
abbrev LNK_ERRWIN.Window (b : Nat) (k : Nat) : Fld := ⟨LNK_ERRWIN b k, 31, 16⟩
abbrev LNK_TIMERS (b : Nat) (k : Nat) : Nat := 0x80210 + 0x1000 * b + 0x100 * k
abbrev LNK_TIMERS.ReplayTo (b : Nat) (k : Nat) : Fld := ⟨LNK_TIMERS b k, 7, 0⟩
abbrev LNK_TIMERS.UpWait (b : Nat) (k : Nat) : Fld := ⟨LNK_TIMERS b k, 15, 8⟩
abbrev LNK_TIMERS.SwitchTo (b : Nat) (k : Nat) : Fld := ⟨LNK_TIMERS b k, 31, 16⟩
abbrev LNK_HOLDOFF (b : Nat) (k : Nat) : Nat := 0x80214 + 0x1000 * b + 0x100 * k
abbrev LNK_HOLDOFF.Holdoff (b : Nat) (k : Nat) : Fld := ⟨LNK_HOLDOFF b k, 15, 0⟩
abbrev LNK_HOLDOFF.RetrainTo (b : Nat) (k : Nat) : Fld := ⟨LNK_HOLDOFF b k, 31, 16⟩
abbrev LNK_SEQ (b : Nat) (k : Nat) : Nat := 0x80218 + 0x1000 * b + 0x100 * k
abbrev LNK_SEQ.TxNext (b : Nat) (k : Nat) : Fld := ⟨LNK_SEQ b k, 11, 0⟩
abbrev LNK_SEQ.RxExpected (b : Nat) (k : Nat) : Fld := ⟨LNK_SEQ b k, 23, 12⟩
abbrev LNK_SEQ.ReplayCount (b : Nat) (k : Nat) : Fld := ⟨LNK_SEQ b k, 27, 24⟩
abbrev LNK_OUTST (b : Nat) (k : Nat) : Nat := 0x8021c + 0x1000 * b + 0x100 * k
abbrev LNK_OUTST.Outstanding (b : Nat) (k : Nat) : Fld := ⟨LNK_OUTST b k, 10, 0⟩
abbrev LNK_OUTST.MaxOutstanding (b : Nat) (k : Nat) : Fld := ⟨LNK_OUTST b k, 26, 16⟩
abbrev LNK_CREDIT (b : Nat) (k : Nat) : Nat := 0x80220 + 0x1000 * b + 0x100 * k
abbrev LNK_CREDIT.C0 (b : Nat) (k : Nat) : Fld := ⟨LNK_CREDIT b k, 7, 0⟩
abbrev LNK_CREDIT.C1 (b : Nat) (k : Nat) : Fld := ⟨LNK_CREDIT b k, 15, 8⟩
abbrev LNK_CREDIT.C2 (b : Nat) (k : Nat) : Fld := ⟨LNK_CREDIT b k, 23, 16⟩
abbrev LNK_CREDIT.C3 (b : Nat) (k : Nat) : Fld := ⟨LNK_CREDIT b k, 31, 24⟩
abbrev LNK_CRADV (b : Nat) (k : Nat) : Nat := 0x80224 + 0x1000 * b + 0x100 * k
abbrev LNK_CRADV.C0 (b : Nat) (k : Nat) : Fld := ⟨LNK_CRADV b k, 7, 0⟩
abbrev LNK_CRADV.C1 (b : Nat) (k : Nat) : Fld := ⟨LNK_CRADV b k, 15, 8⟩
abbrev LNK_CRADV.C2 (b : Nat) (k : Nat) : Fld := ⟨LNK_CRADV b k, 23, 16⟩
abbrev LNK_CRADV.C3 (b : Nat) (k : Nat) : Fld := ⟨LNK_CRADV b k, 31, 24⟩
abbrev LNK_CRCERR (b : Nat) (k : Nat) : Nat := 0x80228 + 0x1000 * b + 0x100 * k
abbrev LNK_CRCERR.Count (b : Nat) (k : Nat) : Fld := ⟨LNK_CRCERR b k, 31, 0⟩
abbrev LNK_NAKDISC (b : Nat) (k : Nat) : Nat := 0x8022c + 0x1000 * b + 0x100 * k
abbrev LNK_NAKDISC.Count (b : Nat) (k : Nat) : Fld := ⟨LNK_NAKDISC b k, 31, 0⟩
abbrev LNK_DUP (b : Nat) (k : Nat) : Nat := 0x80230 + 0x1000 * b + 0x100 * k
abbrev LNK_DUP.Count (b : Nat) (k : Nat) : Fld := ⟨LNK_DUP b k, 31, 0⟩
abbrev LNK_REPLAYS (b : Nat) (k : Nat) : Nat := 0x80234 + 0x1000 * b + 0x100 * k
abbrev LNK_REPLAYS.Count (b : Nat) (k : Nat) : Fld := ⟨LNK_REPLAYS b k, 31, 0⟩
abbrev LNK_BADTYPE (b : Nat) (k : Nat) : Nat := 0x80238 + 0x1000 * b + 0x100 * k
abbrev LNK_BADTYPE.Count (b : Nat) (k : Nat) : Fld := ⟨LNK_BADTYPE b k, 31, 0⟩
abbrev LNK_DOWNS (b : Nat) (k : Nat) : Nat := 0x8023c + 0x1000 * b + 0x100 * k
abbrev LNK_DOWNS.Count (b : Nat) (k : Nat) : Fld := ⟨LNK_DOWNS b k, 31, 0⟩
abbrev LNK_SWITCHES (b : Nat) (k : Nat) : Nat := 0x80240 + 0x1000 * b + 0x100 * k
abbrev LNK_SWITCHES.Count (b : Nat) (k : Nat) : Fld := ⟨LNK_SWITCHES b k, 31, 0⟩
abbrev LNK_STALLS (b : Nat) (k : Nat) : Nat := 0x80244 + 0x1000 * b + 0x100 * k
abbrev LNK_STALLS.Count (b : Nat) (k : Nat) : Fld := ⟨LNK_STALLS b k, 31, 0⟩
abbrev LNK_IRQ_STATUS (b : Nat) (k : Nat) : Nat := 0x80278 + 0x1000 * b + 0x100 * k
abbrev LNK_IRQ_STATUS.Active (b : Nat) (k : Nat) : Fld := ⟨LNK_IRQ_STATUS b k, 0, 0⟩
abbrev LNK_IRQ_STATUS.Down (b : Nat) (k : Nat) : Fld := ⟨LNK_IRQ_STATUS b k, 1, 1⟩
abbrev LNK_IRQ_STATUS.WidthChanged (b : Nat) (k : Nat) : Fld := ⟨LNK_IRQ_STATUS b k, 2, 2⟩
abbrev LNK_IRQ_STATUS.Retrained (b : Nat) (k : Nat) : Fld := ⟨LNK_IRQ_STATUS b k, 3, 3⟩
abbrev LNK_IRQ_STATUS.Stalled (b : Nat) (k : Nat) : Fld := ⟨LNK_IRQ_STATUS b k, 4, 4⟩
abbrev LNK_IRQ_STATUS.ReplayLimitNear (b : Nat) (k : Nat) : Fld := ⟨LNK_IRQ_STATUS b k, 5, 5⟩
abbrev LNK_IRQ_STATUS.BadType (b : Nat) (k : Nat) : Fld := ⟨LNK_IRQ_STATUS b k, 6, 6⟩
abbrev LNK_IRQ_STATUS.CfgRefused (b : Nat) (k : Nat) : Fld := ⟨LNK_IRQ_STATUS b k, 7, 7⟩
abbrev LNK_IRQ_EN (b : Nat) (k : Nat) : Nat := 0x8027c + 0x1000 * b + 0x100 * k
abbrev LNK_IRQ_EN.Active (b : Nat) (k : Nat) : Fld := ⟨LNK_IRQ_EN b k, 0, 0⟩
abbrev LNK_IRQ_EN.Down (b : Nat) (k : Nat) : Fld := ⟨LNK_IRQ_EN b k, 1, 1⟩
abbrev LNK_IRQ_EN.WidthChanged (b : Nat) (k : Nat) : Fld := ⟨LNK_IRQ_EN b k, 2, 2⟩
abbrev LNK_IRQ_EN.Retrained (b : Nat) (k : Nat) : Fld := ⟨LNK_IRQ_EN b k, 3, 3⟩
abbrev LNK_IRQ_EN.Stalled (b : Nat) (k : Nat) : Fld := ⟨LNK_IRQ_EN b k, 4, 4⟩
abbrev LNK_IRQ_EN.ReplayLimitNear (b : Nat) (k : Nat) : Fld := ⟨LNK_IRQ_EN b k, 5, 5⟩
abbrev LNK_IRQ_EN.BadType (b : Nat) (k : Nat) : Fld := ⟨LNK_IRQ_EN b k, 6, 6⟩
abbrev LNK_IRQ_EN.CfgRefused (b : Nat) (k : Nat) : Fld := ⟨LNK_IRQ_EN b k, 7, 7⟩
abbrev LNK_PHY (b : Nat) : Nat := 0x80b00 + 0x1000 * b
abbrev LNK_PHY.Rate (b : Nat) : Fld := ⟨LNK_PHY b, 1, 0⟩
abbrev LNK_PHY.PllLock (b : Nat) : Fld := ⟨LNK_PHY b, 2, 2⟩
abbrev LNK_LN_CTRL (b : Nat) (k : Nat) : Nat := 0x80c00 + 0x1000 * b + 0x100 * k
abbrev LNK_LN_CTRL.Enable (b : Nat) (k : Nat) : Fld := ⟨LNK_LN_CTRL b k, 0, 0⟩
abbrev LNK_LN_CTRL.WakeEn (b : Nat) (k : Nat) : Fld := ⟨LNK_LN_CTRL b k, 1, 1⟩
abbrev LNK_LN_CTRL.TxInvert (b : Nat) (k : Nat) : Fld := ⟨LNK_LN_CTRL b k, 2, 2⟩
abbrev LNK_LN_CTRL.RxInvertForce (b : Nat) (k : Nat) : Fld := ⟨LNK_LN_CTRL b k, 3, 3⟩
abbrev LNK_LN_CTRL.RxInvert (b : Nat) (k : Nat) : Fld := ⟨LNK_LN_CTRL b k, 4, 4⟩
abbrev LNK_LN_CTRL.Loopback (b : Nat) (k : Nat) : Fld := ⟨LNK_LN_CTRL b k, 6, 5⟩
abbrev LNK_LN_STATUS (b : Nat) (k : Nat) : Nat := 0x80c04 + 0x1000 * b + 0x100 * k
abbrev LNK_LN_STATUS.State (b : Nat) (k : Nat) : Fld := ⟨LNK_LN_STATUS b k, 2, 0⟩
abbrev LNK_LN_STATUS.SigDet (b : Nat) (k : Nat) : Fld := ⟨LNK_LN_STATUS b k, 3, 3⟩
abbrev LNK_LN_STATUS.CdrLock (b : Nat) (k : Nat) : Fld := ⟨LNK_LN_STATUS b k, 4, 4⟩
abbrev LNK_LN_STATUS.RxInverted (b : Nat) (k : Nat) : Fld := ⟨LNK_LN_STATUS b k, 5, 5⟩
abbrev LNK_LN_STATUS.Reversed (b : Nat) (k : Nat) : Fld := ⟨LNK_LN_STATUS b k, 6, 6⟩
abbrev LNK_LN_STATUS.LinkError (b : Nat) (k : Nat) : Fld := ⟨LNK_LN_STATUS b k, 7, 7⟩
abbrev LNK_LN_STATUS.LinkLane (b : Nat) (k : Nat) : Fld := ⟨LNK_LN_STATUS b k, 9, 8⟩
abbrev LNK_LN_STATUS.Width (b : Nat) (k : Nat) : Fld := ⟨LNK_LN_STATUS b k, 11, 10⟩
abbrev LNK_LN_STATUS.PartnerLane (b : Nat) (k : Nat) : Fld := ⟨LNK_LN_STATUS b k, 13, 12⟩
abbrev LNK_LN_STATUS.PartnerWidth (b : Nat) (k : Nat) : Fld := ⟨LNK_LN_STATUS b k, 15, 14⟩
abbrev LNK_LN_STATUS.PartnerLeaf (b : Nat) (k : Nat) : Fld := ⟨LNK_LN_STATUS b k, 16, 16⟩
abbrev LNK_LN_STATUS.PartnerAligned (b : Nat) (k : Nat) : Fld := ⟨LNK_LN_STATUS b k, 17, 17⟩
abbrev LNK_LN_STATUS.PartnerId (b : Nat) (k : Nat) : Fld := ⟨LNK_LN_STATUS b k, 27, 18⟩
abbrev LNK_LN_STATUS.PartnerRate (b : Nat) (k : Nat) : Fld := ⟨LNK_LN_STATUS b k, 29, 28⟩
abbrev LNK_LN_TXEQ (b : Nat) (k : Nat) : Nat := 0x80c08 + 0x1000 * b + 0x100 * k
abbrev LNK_LN_TXEQ.Pre (b : Nat) (k : Nat) : Fld := ⟨LNK_LN_TXEQ b k, 3, 0⟩
abbrev LNK_LN_TXEQ.Main (b : Nat) (k : Nat) : Fld := ⟨LNK_LN_TXEQ b k, 10, 5⟩
abbrev LNK_LN_TXEQ.Post (b : Nat) (k : Nat) : Fld := ⟨LNK_LN_TXEQ b k, 15, 11⟩
abbrev LNK_LN_RXEQ (b : Nat) (k : Nat) : Nat := 0x80c0c + 0x1000 * b + 0x100 * k
abbrev LNK_LN_RXEQ.AdaptEn (b : Nat) (k : Nat) : Fld := ⟨LNK_LN_RXEQ b k, 0, 0⟩
abbrev LNK_LN_RXEQ.Adapted (b : Nat) (k : Nat) : Fld := ⟨LNK_LN_RXEQ b k, 1, 1⟩
abbrev LNK_LN_RXEQ.Ctle (b : Nat) (k : Nat) : Fld := ⟨LNK_LN_RXEQ b k, 7, 2⟩
abbrev LNK_LN_RXEQ.Dfe1 (b : Nat) (k : Nat) : Fld := ⟨LNK_LN_RXEQ b k, 15, 8⟩
abbrev LNK_LN_PRBS (b : Nat) (k : Nat) : Nat := 0x80c10 + 0x1000 * b + 0x100 * k
abbrev LNK_LN_PRBS.TxPattern (b : Nat) (k : Nat) : Fld := ⟨LNK_LN_PRBS b k, 2, 0⟩
abbrev LNK_LN_PRBS.TxErrInject (b : Nat) (k : Nat) : Fld := ⟨LNK_LN_PRBS b k, 3, 3⟩
abbrev LNK_LN_PRBS.RxPattern (b : Nat) (k : Nat) : Fld := ⟨LNK_LN_PRBS b k, 6, 4⟩
abbrev LNK_LN_PRBS.RxSync (b : Nat) (k : Nat) : Fld := ⟨LNK_LN_PRBS b k, 8, 8⟩
abbrev LNK_LN_PRBS_ERR (b : Nat) (k : Nat) : Nat := 0x80c14 + 0x1000 * b + 0x100 * k
abbrev LNK_LN_PRBS_ERR.Count (b : Nat) (k : Nat) : Fld := ⟨LNK_LN_PRBS_ERR b k, 31, 0⟩
abbrev LNK_LN_PRBS_BITS_LO (b : Nat) (k : Nat) : Nat := 0x80c18 + 0x1000 * b + 0x100 * k
abbrev LNK_LN_PRBS_BITS_LO.Count (b : Nat) (k : Nat) : Fld := ⟨LNK_LN_PRBS_BITS_LO b k, 31, 0⟩
abbrev LNK_LN_PRBS_BITS_HI (b : Nat) (k : Nat) : Nat := 0x80c1c + 0x1000 * b + 0x100 * k
abbrev LNK_LN_PRBS_BITS_HI.Count (b : Nat) (k : Nat) : Fld := ⟨LNK_LN_PRBS_BITS_HI b k, 15, 0⟩
abbrev LNK_LN_MARGIN (b : Nat) (k : Nat) : Nat := 0x80c20 + 0x1000 * b + 0x100 * k
abbrev LNK_LN_MARGIN.Time (b : Nat) (k : Nat) : Fld := ⟨LNK_LN_MARGIN b k, 5, 0⟩
abbrev LNK_LN_MARGIN.Volt (b : Nat) (k : Nat) : Fld := ⟨LNK_LN_MARGIN b k, 11, 6⟩
abbrev LNK_LN_MARGIN.Eye (b : Nat) (k : Nat) : Fld := ⟨LNK_LN_MARGIN b k, 13, 12⟩
abbrev LNK_LN_MARGIN.BitsLog (b : Nat) (k : Nat) : Fld := ⟨LNK_LN_MARGIN b k, 18, 14⟩
abbrev LNK_LN_MARGIN.Start (b : Nat) (k : Nat) : Fld := ⟨LNK_LN_MARGIN b k, 31, 31⟩
abbrev LNK_LN_MARGIN_ERR (b : Nat) (k : Nat) : Nat := 0x80c24 + 0x1000 * b + 0x100 * k
abbrev LNK_LN_MARGIN_ERR.Count (b : Nat) (k : Nat) : Fld := ⟨LNK_LN_MARGIN_ERR b k, 31, 0⟩
abbrev LNK_LN_COUNTS (b : Nat) (k : Nat) : Nat := 0x80c28 + 0x1000 * b + 0x100 * k
abbrev LNK_LN_COUNTS.LossCount (b : Nat) (k : Nat) : Fld := ⟨LNK_LN_COUNTS b k, 15, 0⟩
abbrev LNK_LN_COUNTS.RetryCount (b : Nat) (k : Nat) : Fld := ⟨LNK_LN_COUNTS b k, 31, 16⟩
abbrev LNK_LN_IRQ_STATUS (b : Nat) (k : Nat) : Nat := 0x80c38 + 0x1000 * b + 0x100 * k
abbrev LNK_LN_IRQ_STATUS.Ready (b : Nat) (k : Nat) : Fld := ⟨LNK_LN_IRQ_STATUS b k, 0, 0⟩
abbrev LNK_LN_IRQ_STATUS.Lost (b : Nat) (k : Nat) : Fld := ⟨LNK_LN_IRQ_STATUS b k, 1, 1⟩
abbrev LNK_LN_IRQ_STATUS.LinkError (b : Nat) (k : Nat) : Fld := ⟨LNK_LN_IRQ_STATUS b k, 2, 2⟩
abbrev LNK_LN_IRQ_STATUS.PrbsSyncLost (b : Nat) (k : Nat) : Fld := ⟨LNK_LN_IRQ_STATUS b k, 3, 3⟩
abbrev LNK_LN_IRQ_STATUS.MarginDone (b : Nat) (k : Nat) : Fld := ⟨LNK_LN_IRQ_STATUS b k, 4, 4⟩
abbrev LNK_LN_IRQ_STATUS.Wake (b : Nat) (k : Nat) : Fld := ⟨LNK_LN_IRQ_STATUS b k, 5, 5⟩
abbrev LNK_LN_IRQ_STATUS.CfgRefused (b : Nat) (k : Nat) : Fld := ⟨LNK_LN_IRQ_STATUS b k, 6, 6⟩
abbrev LNK_LN_IRQ_EN (b : Nat) (k : Nat) : Nat := 0x80c3c + 0x1000 * b + 0x100 * k
abbrev LNK_LN_IRQ_EN.Ready (b : Nat) (k : Nat) : Fld := ⟨LNK_LN_IRQ_EN b k, 0, 0⟩
abbrev LNK_LN_IRQ_EN.Lost (b : Nat) (k : Nat) : Fld := ⟨LNK_LN_IRQ_EN b k, 1, 1⟩
abbrev LNK_LN_IRQ_EN.LinkError (b : Nat) (k : Nat) : Fld := ⟨LNK_LN_IRQ_EN b k, 2, 2⟩
abbrev LNK_LN_IRQ_EN.PrbsSyncLost (b : Nat) (k : Nat) : Fld := ⟨LNK_LN_IRQ_EN b k, 3, 3⟩
abbrev LNK_LN_IRQ_EN.MarginDone (b : Nat) (k : Nat) : Fld := ⟨LNK_LN_IRQ_EN b k, 4, 4⟩
abbrev LNK_LN_IRQ_EN.Wake (b : Nat) (k : Nat) : Fld := ⟨LNK_LN_IRQ_EN b k, 5, 5⟩
abbrev LNK_LN_IRQ_EN.CfgRefused (b : Nat) (k : Nat) : Fld := ⟨LNK_LN_IRQ_EN b k, 6, 6⟩

def lnkRows0 : List RegRow := [
  ⟨"LNK_PORT", 0x80000, 0x1000, 12, 0x0, 1, .warm,
    [⟨"Split", 1, 0, .rw, 0⟩]⟩,
  ⟨"LNK_CTRL", 0x80200, 0x1000, 12, 0x100, 4, .warm,
    [⟨"Enable", 0, 0, .rw, 0⟩, ⟨"AutoRestart", 1, 1, .rw, 1⟩, ⟨"Retrain", 2, 2, .wo, 0⟩, ⟨"AllowMask", 7, 4, .rw, 0xf⟩]⟩,
  ⟨"LNK_STATUS", 0x80204, 0x1000, 12, 0x100, 4, .warm,
    [⟨"State", 2, 0, .ro, 0⟩, ⟨"Hunting", 3, 3, .ro, 0⟩, ⟨"TxMask", 7, 4, .ro, 0⟩, ⟨"RxMask", 11, 8, .ro, 0⟩, ⟨"PartnerLeaf", 12, 12, .ro, 0⟩, ⟨"Stalled", 13, 13, .ro, 0⟩, ⟨"ReplayActive", 14, 14, .ro, 0⟩, ⟨"NakWait", 15, 15, .ro, 0⟩, ⟨"PartnerId", 25, 16, .ro, 0⟩, ⟨"DownCause", 29, 26, .ro, 0⟩]⟩,
  ⟨"LNK_CRTO", 0x80208, 0x1000, 12, 0x100, 4, .warm,
    [⟨"Ticks", 13, 0, .rw, 0xc8⟩]⟩,
  ⟨"LNK_ERRWIN", 0x8020c, 0x1000, 12, 0x100, 4, .warm,
    [⟨"Threshold", 15, 0, .rw, 0x3e8⟩, ⟨"Window", 31, 16, .rw, 0x2710⟩]⟩,
  ⟨"LNK_TIMERS", 0x80210, 0x1000, 12, 0x100, 4, .warm,
    [⟨"ReplayTo", 7, 0, .rw, 5⟩, ⟨"UpWait", 15, 8, .rw, 0x14⟩, ⟨"SwitchTo", 31, 16, .rw, 0x64⟩]⟩,
  ⟨"LNK_HOLDOFF", 0x80214, 0x1000, 12, 0x100, 4, .warm,
    [⟨"Holdoff", 15, 0, .rw, 0x3e8⟩, ⟨"RetrainTo", 31, 16, .rw, 0x3e8⟩]⟩,
  ⟨"LNK_SEQ", 0x80218, 0x1000, 12, 0x100, 4, .warm,
    [⟨"TxNext", 11, 0, .ro, 0⟩, ⟨"RxExpected", 23, 12, .ro, 0⟩, ⟨"ReplayCount", 27, 24, .ro, 0⟩]⟩,
  ⟨"LNK_OUTST", 0x8021c, 0x1000, 12, 0x100, 4, .warm,
    [⟨"Outstanding", 10, 0, .ro, 0⟩, ⟨"MaxOutstanding", 26, 16, .rc, 0⟩]⟩,
  ⟨"LNK_CREDIT", 0x80220, 0x1000, 12, 0x100, 4, .warm,
    [⟨"C0", 7, 0, .ro, 0⟩, ⟨"C1", 15, 8, .ro, 0⟩, ⟨"C2", 23, 16, .ro, 0⟩, ⟨"C3", 31, 24, .ro, 0⟩]⟩,
  ⟨"LNK_CRADV", 0x80224, 0x1000, 12, 0x100, 4, .warm,
    [⟨"C0", 7, 0, .ro, 0⟩, ⟨"C1", 15, 8, .ro, 0⟩, ⟨"C2", 23, 16, .ro, 0⟩, ⟨"C3", 31, 24, .ro, 0⟩]⟩,
  ⟨"LNK_CRCERR", 0x80228, 0x1000, 12, 0x100, 4, .warm,
    [⟨"Count", 31, 0, .rc, 0⟩]⟩,
  ⟨"LNK_NAKDISC", 0x8022c, 0x1000, 12, 0x100, 4, .warm,
    [⟨"Count", 31, 0, .rc, 0⟩]⟩,
  ⟨"LNK_DUP", 0x80230, 0x1000, 12, 0x100, 4, .warm,
    [⟨"Count", 31, 0, .rc, 0⟩]⟩,
  ⟨"LNK_REPLAYS", 0x80234, 0x1000, 12, 0x100, 4, .warm,
    [⟨"Count", 31, 0, .rc, 0⟩]⟩,
  ⟨"LNK_BADTYPE", 0x80238, 0x1000, 12, 0x100, 4, .warm,
    [⟨"Count", 31, 0, .rc, 0⟩]⟩]

def lnkRows1 : List RegRow := [
  ⟨"LNK_DOWNS", 0x8023c, 0x1000, 12, 0x100, 4, .warm,
    [⟨"Count", 31, 0, .rc, 0⟩]⟩,
  ⟨"LNK_SWITCHES", 0x80240, 0x1000, 12, 0x100, 4, .warm,
    [⟨"Count", 31, 0, .rc, 0⟩]⟩,
  ⟨"LNK_STALLS", 0x80244, 0x1000, 12, 0x100, 4, .warm,
    [⟨"Count", 31, 0, .rc, 0⟩]⟩,
  ⟨"LNK_IRQ_STATUS", 0x80278, 0x1000, 12, 0x100, 4, .warm,
    [⟨"Active", 0, 0, .w1c, 0⟩, ⟨"Down", 1, 1, .w1c, 0⟩, ⟨"WidthChanged", 2, 2, .w1c, 0⟩, ⟨"Retrained", 3, 3, .w1c, 0⟩, ⟨"Stalled", 4, 4, .w1c, 0⟩, ⟨"ReplayLimitNear", 5, 5, .w1c, 0⟩, ⟨"BadType", 6, 6, .w1c, 0⟩, ⟨"CfgRefused", 7, 7, .w1c, 0⟩]⟩,
  ⟨"LNK_IRQ_EN", 0x8027c, 0x1000, 12, 0x100, 4, .warm,
    [⟨"Active", 0, 0, .rw, 0⟩, ⟨"Down", 1, 1, .rw, 0⟩, ⟨"WidthChanged", 2, 2, .rw, 0⟩, ⟨"Retrained", 3, 3, .rw, 0⟩, ⟨"Stalled", 4, 4, .rw, 0⟩, ⟨"ReplayLimitNear", 5, 5, .rw, 0⟩, ⟨"BadType", 6, 6, .rw, 0⟩, ⟨"CfgRefused", 7, 7, .rw, 0⟩]⟩,
  ⟨"LNK_PHY", 0x80b00, 0x1000, 12, 0x0, 1, .warm,
    [⟨"Rate", 1, 0, .rw, 0⟩, ⟨"PllLock", 2, 2, .ro, 0⟩]⟩,
  ⟨"LNK_LN_CTRL", 0x80c00, 0x1000, 12, 0x100, 4, .warm,
    [⟨"Enable", 0, 0, .rw, 0⟩, ⟨"WakeEn", 1, 1, .rw, 0⟩, ⟨"TxInvert", 2, 2, .rw, 0⟩, ⟨"RxInvertForce", 3, 3, .rw, 0⟩, ⟨"RxInvert", 4, 4, .rw, 0⟩, ⟨"Loopback", 6, 5, .rw, 0⟩]⟩,
  ⟨"LNK_LN_STATUS", 0x80c04, 0x1000, 12, 0x100, 4, .warm,
    [⟨"State", 2, 0, .ro, 0⟩, ⟨"SigDet", 3, 3, .ro, 0⟩, ⟨"CdrLock", 4, 4, .ro, 0⟩, ⟨"RxInverted", 5, 5, .ro, 0⟩, ⟨"Reversed", 6, 6, .ro, 0⟩, ⟨"LinkError", 7, 7, .ro, 0⟩, ⟨"LinkLane", 9, 8, .ro, 0⟩, ⟨"Width", 11, 10, .ro, 0⟩, ⟨"PartnerLane", 13, 12, .ro, 0⟩, ⟨"PartnerWidth", 15, 14, .ro, 0⟩, ⟨"PartnerLeaf", 16, 16, .ro, 0⟩, ⟨"PartnerAligned", 17, 17, .ro, 0⟩, ⟨"PartnerId", 27, 18, .ro, 0⟩, ⟨"PartnerRate", 29, 28, .ro, 0⟩]⟩,
  ⟨"LNK_LN_TXEQ", 0x80c08, 0x1000, 12, 0x100, 4, .warm,
    [⟨"Pre", 3, 0, .rw, 0⟩, ⟨"Main", 10, 5, .rw, 0x3a⟩, ⟨"Post", 15, 11, .rw, 6⟩]⟩,
  ⟨"LNK_LN_RXEQ", 0x80c0c, 0x1000, 12, 0x100, 4, .warm,
    [⟨"AdaptEn", 0, 0, .rw, 1⟩, ⟨"Adapted", 1, 1, .ro, 0⟩, ⟨"Ctle", 7, 2, .ro, 0⟩, ⟨"Dfe1", 15, 8, .ro, 0⟩]⟩,
  ⟨"LNK_LN_PRBS", 0x80c10, 0x1000, 12, 0x100, 4, .warm,
    [⟨"TxPattern", 2, 0, .rw, 0⟩, ⟨"TxErrInject", 3, 3, .wo, 0⟩, ⟨"RxPattern", 6, 4, .rw, 0⟩, ⟨"RxSync", 8, 8, .ro, 0⟩]⟩,
  ⟨"LNK_LN_PRBS_ERR", 0x80c14, 0x1000, 12, 0x100, 4, .warm,
    [⟨"Count", 31, 0, .ro, 0⟩]⟩,
  ⟨"LNK_LN_PRBS_BITS_LO", 0x80c18, 0x1000, 12, 0x100, 4, .warm,
    [⟨"Count", 31, 0, .ro, 0⟩]⟩,
  ⟨"LNK_LN_PRBS_BITS_HI", 0x80c1c, 0x1000, 12, 0x100, 4, .warm,
    [⟨"Count", 15, 0, .ro, 0⟩]⟩,
  ⟨"LNK_LN_MARGIN", 0x80c20, 0x1000, 12, 0x100, 4, .warm,
    [⟨"Time", 5, 0, .rw, 0⟩, ⟨"Volt", 11, 6, .rw, 0⟩, ⟨"Eye", 13, 12, .rw, 0⟩, ⟨"BitsLog", 18, 14, .rw, 0x14⟩, ⟨"Start", 31, 31, .w1s, 0⟩]⟩,
  ⟨"LNK_LN_MARGIN_ERR", 0x80c24, 0x1000, 12, 0x100, 4, .warm,
    [⟨"Count", 31, 0, .ro, 0⟩]⟩]

def lnkRows2 : List RegRow := [
  ⟨"LNK_LN_COUNTS", 0x80c28, 0x1000, 12, 0x100, 4, .warm,
    [⟨"LossCount", 15, 0, .rc, 0⟩, ⟨"RetryCount", 31, 16, .rc, 0⟩]⟩,
  ⟨"LNK_LN_IRQ_STATUS", 0x80c38, 0x1000, 12, 0x100, 4, .warm,
    [⟨"Ready", 0, 0, .w1c, 0⟩, ⟨"Lost", 1, 1, .w1c, 0⟩, ⟨"LinkError", 2, 2, .w1c, 0⟩, ⟨"PrbsSyncLost", 3, 3, .w1c, 0⟩, ⟨"MarginDone", 4, 4, .w1c, 0⟩, ⟨"Wake", 5, 5, .w1c, 0⟩, ⟨"CfgRefused", 6, 6, .w1c, 0⟩]⟩,
  ⟨"LNK_LN_IRQ_EN", 0x80c3c, 0x1000, 12, 0x100, 4, .warm,
    [⟨"Ready", 0, 0, .rw, 0⟩, ⟨"Lost", 1, 1, .rw, 0⟩, ⟨"LinkError", 2, 2, .rw, 0⟩, ⟨"PrbsSyncLost", 3, 3, .rw, 0⟩, ⟨"MarginDone", 4, 4, .rw, 0⟩, ⟨"Wake", 5, 5, .rw, 0⟩, ⟨"CfgRefused", 6, 6, .rw, 0⟩]⟩]

/-- The LNK block's register table (R344). -/
def lnkRows : List RegRow := lnkRows0 ++ lnkRows1 ++ lnkRows2

/-! ## FAB block (R381, 11_fabric.md) -/

abbrev FAB_NODE : Nat := 0x90000
abbrev FAB_NODE.NodeId : Fld := ⟨FAB_NODE, 9, 0⟩
abbrev FAB_NODE.Weight : Fld := ⟨FAB_NODE, 15, 12⟩
abbrev FAB_NODE.TkPriority : Fld := ⟨FAB_NODE, 23, 16⟩
abbrev FAB_CTRL : Nat := 0x90004
abbrev FAB_CTRL.AutoRoute : Fld := ⟨FAB_CTRL, 0, 0⟩
abbrev FAB_CTRL.FormEn : Fld := ⟨FAB_CTRL, 1, 1⟩
abbrev FAB_CTRL.RemoteEdg : Fld := ⟨FAB_CTRL, 2, 2⟩
abbrev FAB_CTRL.BulkEn : Fld := ⟨FAB_CTRL, 3, 3⟩
abbrev FAB_CTRL.BulkRing : Fld := ⟨FAB_CTRL, 15, 4⟩
abbrev FAB_CTRL.Keystone : Fld := ⟨FAB_CTRL, 25, 16⟩
abbrev FAB_CTRL.KeyEn : Fld := ⟨FAB_CTRL, 26, 26⟩
abbrev FAB_STATUS : Nat := 0x90008
abbrev FAB_STATUS.Member : Fld := ⟨FAB_STATUS, 0, 0⟩
abbrev FAB_STATUS.Quorum : Fld := ⟨FAB_STATUS, 1, 1⟩
abbrev FAB_STATUS.Leader : Fld := ⟨FAB_STATUS, 2, 2⟩
abbrev FAB_STATUS.Timekeeper : Fld := ⟨FAB_STATUS, 3, 3⟩
abbrev FAB_STATUS.TimeLocked : Fld := ⟨FAB_STATUS, 4, 4⟩
abbrev FAB_STATUS.DupId : Fld := ⟨FAB_STATUS, 5, 5⟩
abbrev FAB_STATUS.Forming : Fld := ⟨FAB_STATUS, 6, 6⟩
abbrev FAB_STATUS.Joining : Fld := ⟨FAB_STATUS, 7, 7⟩
abbrev FAB_EPOCH : Nat := 0x9000c
abbrev FAB_EPOCH.Epoch : Fld := ⟨FAB_EPOCH, 31, 0⟩
abbrev FAB_WEIGHT : Nat := 0x90010
abbrev FAB_WEIGHT.Total : Fld := ⟨FAB_WEIGHT, 13, 0⟩
abbrev FAB_WEIGHT.Reach : Fld := ⟨FAB_WEIGHT, 29, 16⟩
abbrev FAB_LEADER : Nat := 0x90014
abbrev FAB_LEADER.LeaderId : Fld := ⟨FAB_LEADER, 9, 0⟩
abbrev FAB_LEADER.LeaderValid : Fld := ⟨FAB_LEADER, 10, 10⟩
abbrev FAB_LEADER.TkId : Fld := ⟨FAB_LEADER, 25, 16⟩
abbrev FAB_LEADER.TkValid : Fld := ⟨FAB_LEADER, 26, 26⟩
abbrev FAB_BEAT : Nat := 0x90018
abbrev FAB_BEAT.Beat : Fld := ⟨FAB_BEAT, 15, 0⟩
abbrev FAB_BEAT.Miss : Fld := ⟨FAB_BEAT, 19, 16⟩
abbrev FAB_TIME_CFG : Nat := 0x9001c
abbrev FAB_TIME_CFG.ProbeInt : Fld := ⟨FAB_TIME_CFG, 7, 0⟩
abbrev FAB_TIME_CFG.LockWin : Fld := ⟨FAB_TIME_CFG, 15, 8⟩
abbrev FAB_TIME_CFG.HoldoverTo : Fld := ⟨FAB_TIME_CFG, 31, 16⟩
abbrev FAB_TIME_STAT : Nat := 0x90020
abbrev FAB_TIME_STAT.Parent : Fld := ⟨FAB_TIME_STAT, 5, 0⟩
abbrev FAB_TIME_STAT.ParentValid : Fld := ⟨FAB_TIME_STAT, 6, 6⟩
abbrev FAB_TIME_STAT.Depth : Fld := ⟨FAB_TIME_STAT, 13, 8⟩
abbrev FAB_TIME_STAT.Offset : Fld := ⟨FAB_TIME_STAT, 31, 16⟩
abbrev FAB_RATE : Nat := 0x90024
abbrev FAB_RATE.Rate : Fld := ⟨FAB_RATE, 31, 0⟩
abbrev FAB_NOROUTE : Nat := 0x90028
abbrev FAB_NOROUTE.Count : Fld := ⟨FAB_NOROUTE, 31, 0⟩
abbrev FAB_UTURN : Nat := 0x9002c
abbrev FAB_UTURN.Count : Fld := ⟨FAB_UTURN, 31, 0⟩
abbrev FAB_FAILOVER : Nat := 0x90030
abbrev FAB_FAILOVER.Count : Fld := ⟨FAB_FAILOVER, 31, 0⟩
abbrev FAB_RESENT : Nat := 0x90034
abbrev FAB_RESENT.Count : Fld := ⟨FAB_RESENT, 31, 0⟩
abbrev FAB_HANDDROP : Nat := 0x90038
abbrev FAB_HANDDROP.Count : Fld := ⟨FAB_HANDDROP, 31, 0⟩
abbrev FAB_REMDENY : Nat := 0x9003c
abbrev FAB_REMDENY.Count : Fld := ⟨FAB_REMDENY, 31, 0⟩
abbrev FAB_DUPMSG : Nat := 0x90040
abbrev FAB_DUPMSG.Count : Fld := ⟨FAB_DUPMSG, 31, 0⟩
abbrev FAB_BULKDROP : Nat := 0x90044
abbrev FAB_BULKDROP.Count : Fld := ⟨FAB_BULKDROP, 31, 0⟩
abbrev FAB_IRQ_STATUS : Nat := 0x90078
abbrev FAB_IRQ_STATUS.QuorumLost : Fld := ⟨FAB_IRQ_STATUS, 0, 0⟩
abbrev FAB_IRQ_STATUS.RosterChanged : Fld := ⟨FAB_IRQ_STATUS, 1, 1⟩
abbrev FAB_IRQ_STATUS.TimeLockLost : Fld := ⟨FAB_IRQ_STATUS, 2, 2⟩
abbrev FAB_IRQ_STATUS.TimeLockGained : Fld := ⟨FAB_IRQ_STATUS, 3, 3⟩
abbrev FAB_IRQ_STATUS.TimekeeperChanged : Fld := ⟨FAB_IRQ_STATUS, 4, 4⟩
abbrev FAB_IRQ_STATUS.Failover : Fld := ⟨FAB_IRQ_STATUS, 5, 5⟩
abbrev FAB_IRQ_STATUS.NoRoute : Fld := ⟨FAB_IRQ_STATUS, 6, 6⟩
abbrev FAB_IRQ_STATUS.SlotEvent : Fld := ⟨FAB_IRQ_STATUS, 7, 7⟩
abbrev FAB_IRQ_STATUS.DupId : Fld := ⟨FAB_IRQ_STATUS, 8, 8⟩
abbrev FAB_IRQ_STATUS.Admitted : Fld := ⟨FAB_IRQ_STATUS, 9, 9⟩
abbrev FAB_IRQ_EN : Nat := 0x9007c
abbrev FAB_IRQ_EN.QuorumLost : Fld := ⟨FAB_IRQ_EN, 0, 0⟩
abbrev FAB_IRQ_EN.RosterChanged : Fld := ⟨FAB_IRQ_EN, 1, 1⟩
abbrev FAB_IRQ_EN.TimeLockLost : Fld := ⟨FAB_IRQ_EN, 2, 2⟩
abbrev FAB_IRQ_EN.TimeLockGained : Fld := ⟨FAB_IRQ_EN, 3, 3⟩
abbrev FAB_IRQ_EN.TimekeeperChanged : Fld := ⟨FAB_IRQ_EN, 4, 4⟩
abbrev FAB_IRQ_EN.Failover : Fld := ⟨FAB_IRQ_EN, 5, 5⟩
abbrev FAB_IRQ_EN.NoRoute : Fld := ⟨FAB_IRQ_EN, 6, 6⟩
abbrev FAB_IRQ_EN.SlotEvent : Fld := ⟨FAB_IRQ_EN, 7, 7⟩
abbrev FAB_IRQ_EN.DupId : Fld := ⟨FAB_IRQ_EN, 8, 8⟩
abbrev FAB_IRQ_EN.Admitted : Fld := ⟨FAB_IRQ_EN, 9, 9⟩
abbrev FAB_LTIME (b : Nat) : Nat := 0x90100 + 0x4 * b
abbrev FAB_LTIME.Delay (b : Nat) : Fld := ⟨FAB_LTIME b, 15, 0⟩
abbrev FAB_LTIME.Asym (b : Nat) : Fld := ⟨FAB_LTIME b, 31, 16⟩
abbrev FAB_SLOT_CTRL (b : Nat) : Nat := 0x90200 + 0x4 * b
abbrev FAB_SLOT_CTRL.SlotEn (b : Nat) : Fld := ⟨FAB_SLOT_CTRL b, 0, 0⟩
abbrev FAB_SLOT_CTRL.AutoPower (b : Nat) : Fld := ⟨FAB_SLOT_CTRL b, 1, 1⟩
abbrev FAB_SLOT_CTRL.AttnMode (b : Nat) : Fld := ⟨FAB_SLOT_CTRL b, 2, 2⟩
abbrev FAB_SLOT_CTRL.PowerCtl (b : Nat) : Fld := ⟨FAB_SLOT_CTRL b, 3, 3⟩
abbrev FAB_SLOT_CTRL.Ind (b : Nat) : Fld := ⟨FAB_SLOT_CTRL b, 5, 4⟩
abbrev FAB_SLOT_CTRL.PgoodTo (b : Nat) : Fld := ⟨FAB_SLOT_CTRL b, 31, 16⟩
abbrev FAB_SLOT_STAT (b : Nat) : Nat := 0x90240 + 0x4 * b
abbrev FAB_SLOT_STAT.Present (b : Nat) : Fld := ⟨FAB_SLOT_STAT b, 0, 0⟩
abbrev FAB_SLOT_STAT.PowerOn (b : Nat) : Fld := ⟨FAB_SLOT_STAT b, 1, 1⟩
abbrev FAB_SLOT_STAT.PowerGood (b : Nat) : Fld := ⟨FAB_SLOT_STAT b, 2, 2⟩
abbrev FAB_SLOT_STAT.PresenceChanged (b : Nat) : Fld := ⟨FAB_SLOT_STAT b, 3, 3⟩
abbrev FAB_SLOT_STAT.PowerFault (b : Nat) : Fld := ⟨FAB_SLOT_STAT b, 4, 4⟩
abbrev FAB_SLOT_STAT.AttnPressed (b : Nat) : Fld := ⟨FAB_SLOT_STAT b, 5, 5⟩
abbrev FAB_SLOT_STAT.AttnWindow (b : Nat) : Fld := ⟨FAB_SLOT_STAT b, 6, 6⟩
abbrev FAB_SLOT_STAT.Quiescing (b : Nat) : Fld := ⟨FAB_SLOT_STAT b, 7, 7⟩
abbrev FAB_RWIN (b : Nat) : Nat := 0x90400 + 0x4 * b
abbrev FAB_RWIN.Enable (b : Nat) : Fld := ⟨FAB_RWIN b, 0, 0⟩
abbrev FAB_RWIN.Kind (b : Nat) : Fld := ⟨FAB_RWIN b, 1, 1⟩
abbrev FAB_RWIN.Cls (b : Nat) : Fld := ⟨FAB_RWIN b, 2, 2⟩
abbrev FAB_RWIN.Bank (b : Nat) : Fld := ⟨FAB_RWIN b, 14, 8⟩
abbrev FAB_RWIN.Node (b : Nat) : Fld := ⟨FAB_RWIN b, 25, 16⟩
abbrev FAB_ROSTER (b : Nat) : Nat := 0x90800 + 0x4 * b
abbrev FAB_ROSTER.Bits (b : Nat) : Fld := ⟨FAB_ROSTER b, 31, 0⟩
abbrev FAB_FORM (b : Nat) : Nat := 0x90880 + 0x4 * b
abbrev FAB_FORM.Bits (b : Nat) : Fld := ⟨FAB_FORM b, 31, 0⟩
abbrev FAB_ROUTE (b : Nat) : Nat := 0x91000 + 0x4 * b
abbrev FAB_ROUTE.Valid (b : Nat) : Fld := ⟨FAB_ROUTE b, 0, 0⟩
abbrev FAB_ROUTE.AltEn (b : Nat) : Fld := ⟨FAB_ROUTE b, 1, 1⟩
abbrev FAB_ROUTE.Primary (b : Nat) : Fld := ⟨FAB_ROUTE b, 7, 2⟩
abbrev FAB_ROUTE.Alternate (b : Nat) : Fld := ⟨FAB_ROUTE b, 13, 8⟩
abbrev FAB_ROUTE.Auto (b : Nat) : Fld := ⟨FAB_ROUTE b, 14, 14⟩
abbrev FAB_ROUTE.Hops (b : Nat) : Fld := ⟨FAB_ROUTE b, 21, 16⟩

def fabRows0 : List RegRow := [
  ⟨"FAB_NODE", 0x90000, 0x0, 1, 0x0, 1, .warm,
    [⟨"NodeId", 9, 0, .rw, 0⟩, ⟨"Weight", 15, 12, .rw, 0⟩, ⟨"TkPriority", 23, 16, .rw, 0⟩]⟩,
  ⟨"FAB_CTRL", 0x90004, 0x0, 1, 0x0, 1, .warm,
    [⟨"AutoRoute", 0, 0, .rw, 0⟩, ⟨"FormEn", 1, 1, .rw, 0⟩, ⟨"RemoteEdg", 2, 2, .rw, 0⟩, ⟨"BulkEn", 3, 3, .rw, 0⟩, ⟨"BulkRing", 15, 4, .rw, 0⟩, ⟨"Keystone", 25, 16, .rw, 0⟩, ⟨"KeyEn", 26, 26, .rw, 0⟩]⟩,
  ⟨"FAB_STATUS", 0x90008, 0x0, 1, 0x0, 1, .warm,
    [⟨"Member", 0, 0, .ro, 0⟩, ⟨"Quorum", 1, 1, .ro, 0⟩, ⟨"Leader", 2, 2, .ro, 0⟩, ⟨"Timekeeper", 3, 3, .ro, 0⟩, ⟨"TimeLocked", 4, 4, .ro, 0⟩, ⟨"DupId", 5, 5, .w1c, 0⟩, ⟨"Forming", 6, 6, .ro, 0⟩, ⟨"Joining", 7, 7, .ro, 0⟩]⟩,
  ⟨"FAB_EPOCH", 0x9000c, 0x0, 1, 0x0, 1, .warm,
    [⟨"Epoch", 31, 0, .ro, 0⟩]⟩,
  ⟨"FAB_WEIGHT", 0x90010, 0x0, 1, 0x0, 1, .warm,
    [⟨"Total", 13, 0, .ro, 0⟩, ⟨"Reach", 29, 16, .ro, 0⟩]⟩,
  ⟨"FAB_LEADER", 0x90014, 0x0, 1, 0x0, 1, .warm,
    [⟨"LeaderId", 9, 0, .ro, 0⟩, ⟨"LeaderValid", 10, 10, .ro, 0⟩, ⟨"TkId", 25, 16, .ro, 0⟩, ⟨"TkValid", 26, 26, .ro, 0⟩]⟩,
  ⟨"FAB_BEAT", 0x90018, 0x0, 1, 0x0, 1, .warm,
    [⟨"Beat", 15, 0, .rw, 0x64⟩, ⟨"Miss", 19, 16, .rw, 3⟩]⟩,
  ⟨"FAB_TIME_CFG", 0x9001c, 0x0, 1, 0x0, 1, .warm,
    [⟨"ProbeInt", 7, 0, .rw, 0xa⟩, ⟨"LockWin", 15, 8, .rw, 4⟩, ⟨"HoldoverTo", 31, 16, .rw, 0x2710⟩]⟩,
  ⟨"FAB_TIME_STAT", 0x90020, 0x0, 1, 0x0, 1, .warm,
    [⟨"Parent", 5, 0, .ro, 0⟩, ⟨"ParentValid", 6, 6, .ro, 0⟩, ⟨"Depth", 13, 8, .ro, 0⟩, ⟨"Offset", 31, 16, .ro, 0⟩]⟩,
  ⟨"FAB_RATE", 0x90024, 0x0, 1, 0x0, 1, .warm,
    [⟨"Rate", 31, 0, .ro, 0⟩]⟩,
  ⟨"FAB_NOROUTE", 0x90028, 0x0, 1, 0x0, 1, .warm,
    [⟨"Count", 31, 0, .rc, 0⟩]⟩,
  ⟨"FAB_UTURN", 0x9002c, 0x0, 1, 0x0, 1, .warm,
    [⟨"Count", 31, 0, .rc, 0⟩]⟩,
  ⟨"FAB_FAILOVER", 0x90030, 0x0, 1, 0x0, 1, .warm,
    [⟨"Count", 31, 0, .rc, 0⟩]⟩,
  ⟨"FAB_RESENT", 0x90034, 0x0, 1, 0x0, 1, .warm,
    [⟨"Count", 31, 0, .rc, 0⟩]⟩,
  ⟨"FAB_HANDDROP", 0x90038, 0x0, 1, 0x0, 1, .warm,
    [⟨"Count", 31, 0, .rc, 0⟩]⟩,
  ⟨"FAB_REMDENY", 0x9003c, 0x0, 1, 0x0, 1, .warm,
    [⟨"Count", 31, 0, .rc, 0⟩]⟩]

def fabRows1 : List RegRow := [
  ⟨"FAB_DUPMSG", 0x90040, 0x0, 1, 0x0, 1, .warm,
    [⟨"Count", 31, 0, .rc, 0⟩]⟩,
  ⟨"FAB_BULKDROP", 0x90044, 0x0, 1, 0x0, 1, .warm,
    [⟨"Count", 31, 0, .rc, 0⟩]⟩,
  ⟨"FAB_IRQ_STATUS", 0x90078, 0x0, 1, 0x0, 1, .warm,
    [⟨"QuorumLost", 0, 0, .w1c, 0⟩, ⟨"RosterChanged", 1, 1, .w1c, 0⟩, ⟨"TimeLockLost", 2, 2, .w1c, 0⟩, ⟨"TimeLockGained", 3, 3, .w1c, 0⟩, ⟨"TimekeeperChanged", 4, 4, .w1c, 0⟩, ⟨"Failover", 5, 5, .w1c, 0⟩, ⟨"NoRoute", 6, 6, .w1c, 0⟩, ⟨"SlotEvent", 7, 7, .w1c, 0⟩, ⟨"DupId", 8, 8, .w1c, 0⟩, ⟨"Admitted", 9, 9, .w1c, 0⟩]⟩,
  ⟨"FAB_IRQ_EN", 0x9007c, 0x0, 1, 0x0, 1, .warm,
    [⟨"QuorumLost", 0, 0, .rw, 0⟩, ⟨"RosterChanged", 1, 1, .rw, 0⟩, ⟨"TimeLockLost", 2, 2, .rw, 0⟩, ⟨"TimeLockGained", 3, 3, .rw, 0⟩, ⟨"TimekeeperChanged", 4, 4, .rw, 0⟩, ⟨"Failover", 5, 5, .rw, 0⟩, ⟨"NoRoute", 6, 6, .rw, 0⟩, ⟨"SlotEvent", 7, 7, .rw, 0⟩, ⟨"DupId", 8, 8, .rw, 0⟩, ⟨"Admitted", 9, 9, .rw, 0⟩]⟩,
  ⟨"FAB_LTIME", 0x90100, 0x4, 48, 0x0, 1, .warm,
    [⟨"Delay", 15, 0, .ro, 0⟩, ⟨"Asym", 31, 16, .rw, 0⟩]⟩,
  ⟨"FAB_SLOT_CTRL", 0x90200, 0x4, 12, 0x0, 1, .warm,
    [⟨"SlotEn", 0, 0, .rw, 0⟩, ⟨"AutoPower", 1, 1, .rw, 0⟩, ⟨"AttnMode", 2, 2, .rw, 0⟩, ⟨"PowerCtl", 3, 3, .rw, 0⟩, ⟨"Ind", 5, 4, .rw, 0⟩, ⟨"PgoodTo", 31, 16, .rw, 0x64⟩]⟩,
  ⟨"FAB_SLOT_STAT", 0x90240, 0x4, 12, 0x0, 1, .warm,
    [⟨"Present", 0, 0, .ro, 0⟩, ⟨"PowerOn", 1, 1, .ro, 0⟩, ⟨"PowerGood", 2, 2, .ro, 0⟩, ⟨"PresenceChanged", 3, 3, .w1c, 0⟩, ⟨"PowerFault", 4, 4, .w1c, 0⟩, ⟨"AttnPressed", 5, 5, .w1c, 0⟩, ⟨"AttnWindow", 6, 6, .ro, 0⟩, ⟨"Quiescing", 7, 7, .ro, 0⟩]⟩,
  ⟨"FAB_RWIN", 0x90400, 0x4, 64, 0x0, 1, .warm,
    [⟨"Enable", 0, 0, .rw, 0⟩, ⟨"Kind", 1, 1, .rw, 0⟩, ⟨"Cls", 2, 2, .rw, 0⟩, ⟨"Bank", 14, 8, .rw, 0⟩, ⟨"Node", 25, 16, .rw, 0⟩]⟩,
  ⟨"FAB_ROSTER", 0x90800, 0x4, 32, 0x0, 1, .warm,
    [⟨"Bits", 31, 0, .ro, 0⟩]⟩,
  ⟨"FAB_FORM", 0x90880, 0x4, 32, 0x0, 1, .warm,
    [⟨"Bits", 31, 0, .rw, 0⟩]⟩,
  ⟨"FAB_ROUTE", 0x91000, 0x4, 1024, 0x0, 1, .warm,
    [⟨"Valid", 0, 0, .rw, 0⟩, ⟨"AltEn", 1, 1, .rw, 0⟩, ⟨"Primary", 7, 2, .rw, 0⟩, ⟨"Alternate", 13, 8, .rw, 0⟩, ⟨"Auto", 14, 14, .ro, 0⟩, ⟨"Hops", 21, 16, .ro, 0x3f⟩]⟩]

/-- The FAB block's register table (R381). -/
def fabRows : List RegRow := fabRows0 ++ fabRows1

/-! ## HPT block (R419, 12_host_port.md) -/

abbrev HPT_STATUS : Nat := 0xa0000
abbrev HPT_STATUS.LinkUp : Fld := ⟨HPT_STATUS, 0, 0⟩
abbrev HPT_STATUS.Rate : Fld := ⟨HPT_STATUS, 3, 1⟩
abbrev HPT_STATUS.Width : Fld := ⟨HPT_STATUS, 8, 4⟩
abbrev HPT_STATUS.FlitMode : Fld := ⟨HPT_STATUS, 9, 9⟩
abbrev HPT_STATUS.DState : Fld := ⟨HPT_STATUS, 11, 10⟩
abbrev HPT_STATUS.CfgReady : Fld := ⟨HPT_STATUS, 12, 12⟩
abbrev HPT_STATUS.Perst : Fld := ⟨HPT_STATUS, 13, 13⟩
abbrev HPT_STATUS.FlrActive : Fld := ⟨HPT_STATUS, 14, 14⟩
abbrev HPT_STATUS.BusMaster : Fld := ⟨HPT_STATUS, 15, 15⟩
abbrev HPT_STATUS.LinkPower : Fld := ⟨HPT_STATUS, 17, 16⟩
abbrev HPT_CTRL : Nat := 0xa0004
abbrev HPT_CTRL.L1Idle : Fld := ⟨HPT_CTRL, 7, 0⟩
abbrev HPT_CTRL.RemoteTo : Fld := ⟨HPT_CTRL, 23, 8⟩
abbrev HPT_WINCTRL : Nat := 0xa0008
abbrev HPT_WINCTRL.Commit : Fld := ⟨HPT_WINCTRL, 0, 0⟩
abbrev HPT_WINCTRL.Revert : Fld := ⟨HPT_WINCTRL, 1, 1⟩
abbrev HPT_WINCTRL.Refused : Fld := ⟨HPT_WINCTRL, 2, 2⟩
abbrev HPT_WINCTRL.RefuseCode : Fld := ⟨HPT_WINCTRL, 4, 3⟩
abbrev HPT_WINCTRL.RefuseWin : Fld := ⟨HPT_WINCTRL, 10, 5⟩
abbrev HPT_WINCOUNT : Nat := 0xa000c
abbrev HPT_WINCOUNT.Commits : Fld := ⟨HPT_WINCOUNT, 31, 0⟩
abbrev HPT_TAGS : Nat := 0xa0010
abbrev HPT_TAGS.InUse : Fld := ⟨HPT_TAGS, 9, 0⟩
abbrev HPT_TAGS.Quarantined : Fld := ⟨HPT_TAGS, 19, 10⟩
abbrev HPT_TAGS.Usable : Fld := ⟨HPT_TAGS, 29, 20⟩
abbrev HPT_CPLTO : Nat := 0xa0014
abbrev HPT_CPLTO.Ticks : Fld := ⟨HPT_CPLTO, 24, 0⟩
abbrev HPT_RESETS : Nat := 0xa0018
abbrev HPT_RESETS.Perst : Fld := ⟨HPT_RESETS, 7, 0⟩
abbrev HPT_RESETS.Hot : Fld := ⟨HPT_RESETS, 15, 8⟩
abbrev HPT_RESETS.LinkDown : Fld := ⟨HPT_RESETS, 23, 16⟩
abbrev HPT_RESETS.Flr : Fld := ⟨HPT_RESETS, 31, 24⟩
abbrev HPT_UNEXPCPL : Nat := 0xa0020
abbrev HPT_UNEXPCPL.Count : Fld := ⟨HPT_UNEXPCPL, 31, 0⟩
abbrev HPT_CPLTOCNT : Nat := 0xa0024
abbrev HPT_CPLTOCNT.Count : Fld := ⟨HPT_CPLTOCNT, 31, 0⟩
abbrev HPT_URCNT : Nat := 0xa0028
abbrev HPT_URCNT.Count : Fld := ⟨HPT_URCNT, 31, 0⟩
abbrev HPT_CACNT : Nat := 0xa002c
abbrev HPT_CACNT.Count : Fld := ⟨HPT_CACNT, 31, 0⟩
abbrev HPT_POISONRX : Nat := 0xa0030
abbrev HPT_POISONRX.Count : Fld := ⟨HPT_POISONRX, 31, 0⟩
abbrev HPT_CORRCNT : Nat := 0xa0034
abbrev HPT_CORRCNT.Count : Fld := ⟨HPT_CORRCNT, 31, 0⟩
abbrev HPT_RMTERR : Nat := 0xa0038
abbrev HPT_RMTERR.Count : Fld := ⟨HPT_RMTERR, 31, 0⟩
abbrev HPT_IRQ_STATUS : Nat := 0xa0078
abbrev HPT_IRQ_STATUS.LinkUp : Fld := ⟨HPT_IRQ_STATUS, 0, 0⟩
abbrev HPT_IRQ_STATUS.LinkDown : Fld := ⟨HPT_IRQ_STATUS, 1, 1⟩
abbrev HPT_IRQ_STATUS.HostReset : Fld := ⟨HPT_IRQ_STATUS, 2, 2⟩
abbrev HPT_IRQ_STATUS.Flr : Fld := ⟨HPT_IRQ_STATUS, 3, 3⟩
abbrev HPT_IRQ_STATUS.CplTimeout : Fld := ⟨HPT_IRQ_STATUS, 4, 4⟩
abbrev HPT_IRQ_STATUS.Unexpected : Fld := ⟨HPT_IRQ_STATUS, 5, 5⟩
abbrev HPT_IRQ_STATUS.Uncorrectable : Fld := ⟨HPT_IRQ_STATUS, 6, 6⟩
abbrev HPT_IRQ_STATUS.WinCommitted : Fld := ⟨HPT_IRQ_STATUS, 7, 7⟩
abbrev HPT_IRQ_STATUS.WinRefused : Fld := ⟨HPT_IRQ_STATUS, 8, 8⟩
abbrev HPT_IRQ_STATUS.DState : Fld := ⟨HPT_IRQ_STATUS, 9, 9⟩
abbrev HPT_IRQ_EN : Nat := 0xa007c
abbrev HPT_IRQ_EN.LinkUp : Fld := ⟨HPT_IRQ_EN, 0, 0⟩
abbrev HPT_IRQ_EN.LinkDown : Fld := ⟨HPT_IRQ_EN, 1, 1⟩
abbrev HPT_IRQ_EN.HostReset : Fld := ⟨HPT_IRQ_EN, 2, 2⟩
abbrev HPT_IRQ_EN.Flr : Fld := ⟨HPT_IRQ_EN, 3, 3⟩
abbrev HPT_IRQ_EN.CplTimeout : Fld := ⟨HPT_IRQ_EN, 4, 4⟩
abbrev HPT_IRQ_EN.Unexpected : Fld := ⟨HPT_IRQ_EN, 5, 5⟩
abbrev HPT_IRQ_EN.Uncorrectable : Fld := ⟨HPT_IRQ_EN, 6, 6⟩
abbrev HPT_IRQ_EN.WinCommitted : Fld := ⟨HPT_IRQ_EN, 7, 7⟩
abbrev HPT_IRQ_EN.WinRefused : Fld := ⟨HPT_IRQ_EN, 8, 8⟩
abbrev HPT_IRQ_EN.DState : Fld := ⟨HPT_IRQ_EN, 9, 9⟩
abbrev HPT_WIN_CFG (b : Nat) : Nat := 0xa0100 + 0x8 * b
abbrev HPT_WIN_CFG.Enable (b : Nat) : Fld := ⟨HPT_WIN_CFG b, 0, 0⟩
abbrev HPT_WIN_CFG.Remote (b : Nat) : Fld := ⟨HPT_WIN_CFG b, 1, 1⟩
abbrev HPT_WIN_CFG.Cls (b : Nat) : Fld := ⟨HPT_WIN_CFG b, 2, 2⟩
abbrev HPT_WIN_CFG.SizeLog (b : Nat) : Fld := ⟨HPT_WIN_CFG b, 12, 8⟩
abbrev HPT_WIN_CFG.BarOffset (b : Nat) : Fld := ⟨HPT_WIN_CFG b, 31, 16⟩
abbrev HPT_WIN_TGT (b : Nat) : Nat := 0xa0104 + 0x8 * b
abbrev HPT_WIN_TGT.Bank (b : Nat) : Fld := ⟨HPT_WIN_TGT b, 6, 0⟩
abbrev HPT_WIN_TGT.Node (b : Nat) : Fld := ⟨HPT_WIN_TGT b, 25, 16⟩
abbrev HPT_LN_CTRL (b : Nat) : Nat := 0xaf000 + 0x100 * b
abbrev HPT_LN_CTRL.TxInvert (b : Nat) : Fld := ⟨HPT_LN_CTRL b, 2, 2⟩
abbrev HPT_LN_CTRL.RxInvertForce (b : Nat) : Fld := ⟨HPT_LN_CTRL b, 3, 3⟩
abbrev HPT_LN_CTRL.RxInvert (b : Nat) : Fld := ⟨HPT_LN_CTRL b, 4, 4⟩
abbrev HPT_LN_CTRL.Loopback (b : Nat) : Fld := ⟨HPT_LN_CTRL b, 6, 5⟩
abbrev HPT_LN_STATUS (b : Nat) : Nat := 0xaf004 + 0x100 * b
abbrev HPT_LN_STATUS.State (b : Nat) : Fld := ⟨HPT_LN_STATUS b, 2, 0⟩
abbrev HPT_LN_STATUS.SigDet (b : Nat) : Fld := ⟨HPT_LN_STATUS b, 3, 3⟩
abbrev HPT_LN_STATUS.CdrLock (b : Nat) : Fld := ⟨HPT_LN_STATUS b, 4, 4⟩
abbrev HPT_LN_STATUS.RxInverted (b : Nat) : Fld := ⟨HPT_LN_STATUS b, 5, 5⟩
abbrev HPT_LN_STATUS.Reversed (b : Nat) : Fld := ⟨HPT_LN_STATUS b, 6, 6⟩
abbrev HPT_LN_STATUS.LinkError (b : Nat) : Fld := ⟨HPT_LN_STATUS b, 7, 7⟩
abbrev HPT_LN_TXEQ (b : Nat) : Nat := 0xaf008 + 0x100 * b
abbrev HPT_LN_TXEQ.Pre (b : Nat) : Fld := ⟨HPT_LN_TXEQ b, 3, 0⟩
abbrev HPT_LN_TXEQ.Main (b : Nat) : Fld := ⟨HPT_LN_TXEQ b, 10, 5⟩
abbrev HPT_LN_TXEQ.Post (b : Nat) : Fld := ⟨HPT_LN_TXEQ b, 15, 11⟩
abbrev HPT_LN_RXEQ (b : Nat) : Nat := 0xaf00c + 0x100 * b
abbrev HPT_LN_RXEQ.AdaptEn (b : Nat) : Fld := ⟨HPT_LN_RXEQ b, 0, 0⟩
abbrev HPT_LN_RXEQ.Adapted (b : Nat) : Fld := ⟨HPT_LN_RXEQ b, 1, 1⟩
abbrev HPT_LN_RXEQ.Ctle (b : Nat) : Fld := ⟨HPT_LN_RXEQ b, 7, 2⟩
abbrev HPT_LN_RXEQ.Dfe1 (b : Nat) : Fld := ⟨HPT_LN_RXEQ b, 15, 8⟩
abbrev HPT_LN_PRBS (b : Nat) : Nat := 0xaf010 + 0x100 * b
abbrev HPT_LN_PRBS.TxPattern (b : Nat) : Fld := ⟨HPT_LN_PRBS b, 2, 0⟩
abbrev HPT_LN_PRBS.TxErrInject (b : Nat) : Fld := ⟨HPT_LN_PRBS b, 3, 3⟩
abbrev HPT_LN_PRBS.RxPattern (b : Nat) : Fld := ⟨HPT_LN_PRBS b, 6, 4⟩
abbrev HPT_LN_PRBS.RxSync (b : Nat) : Fld := ⟨HPT_LN_PRBS b, 8, 8⟩
abbrev HPT_LN_PRBS_ERR (b : Nat) : Nat := 0xaf014 + 0x100 * b
abbrev HPT_LN_PRBS_ERR.Count (b : Nat) : Fld := ⟨HPT_LN_PRBS_ERR b, 31, 0⟩
abbrev HPT_LN_PRBS_BITS_LO (b : Nat) : Nat := 0xaf018 + 0x100 * b
abbrev HPT_LN_PRBS_BITS_LO.Count (b : Nat) : Fld := ⟨HPT_LN_PRBS_BITS_LO b, 31, 0⟩
abbrev HPT_LN_PRBS_BITS_HI (b : Nat) : Nat := 0xaf01c + 0x100 * b
abbrev HPT_LN_PRBS_BITS_HI.Count (b : Nat) : Fld := ⟨HPT_LN_PRBS_BITS_HI b, 15, 0⟩
abbrev HPT_LN_MARGIN (b : Nat) : Nat := 0xaf020 + 0x100 * b
abbrev HPT_LN_MARGIN.Time (b : Nat) : Fld := ⟨HPT_LN_MARGIN b, 5, 0⟩
abbrev HPT_LN_MARGIN.Volt (b : Nat) : Fld := ⟨HPT_LN_MARGIN b, 11, 6⟩
abbrev HPT_LN_MARGIN.Eye (b : Nat) : Fld := ⟨HPT_LN_MARGIN b, 13, 12⟩
abbrev HPT_LN_MARGIN.BitsLog (b : Nat) : Fld := ⟨HPT_LN_MARGIN b, 18, 14⟩
abbrev HPT_LN_MARGIN.Start (b : Nat) : Fld := ⟨HPT_LN_MARGIN b, 31, 31⟩
abbrev HPT_LN_MARGIN_ERR (b : Nat) : Nat := 0xaf024 + 0x100 * b
abbrev HPT_LN_MARGIN_ERR.Count (b : Nat) : Fld := ⟨HPT_LN_MARGIN_ERR b, 31, 0⟩
abbrev HPT_LN_COUNTS (b : Nat) : Nat := 0xaf028 + 0x100 * b
abbrev HPT_LN_COUNTS.LossCount (b : Nat) : Fld := ⟨HPT_LN_COUNTS b, 15, 0⟩
abbrev HPT_LN_COUNTS.RetryCount (b : Nat) : Fld := ⟨HPT_LN_COUNTS b, 31, 16⟩
abbrev HPT_LN_IRQ_STATUS (b : Nat) : Nat := 0xaf038 + 0x100 * b
abbrev HPT_LN_IRQ_STATUS.Ready (b : Nat) : Fld := ⟨HPT_LN_IRQ_STATUS b, 0, 0⟩
abbrev HPT_LN_IRQ_STATUS.Lost (b : Nat) : Fld := ⟨HPT_LN_IRQ_STATUS b, 1, 1⟩
abbrev HPT_LN_IRQ_STATUS.LinkError (b : Nat) : Fld := ⟨HPT_LN_IRQ_STATUS b, 2, 2⟩
abbrev HPT_LN_IRQ_STATUS.PrbsSyncLost (b : Nat) : Fld := ⟨HPT_LN_IRQ_STATUS b, 3, 3⟩
abbrev HPT_LN_IRQ_STATUS.MarginDone (b : Nat) : Fld := ⟨HPT_LN_IRQ_STATUS b, 4, 4⟩
abbrev HPT_LN_IRQ_STATUS.Wake (b : Nat) : Fld := ⟨HPT_LN_IRQ_STATUS b, 5, 5⟩
abbrev HPT_LN_IRQ_STATUS.CfgRefused (b : Nat) : Fld := ⟨HPT_LN_IRQ_STATUS b, 6, 6⟩
abbrev HPT_LN_IRQ_EN (b : Nat) : Nat := 0xaf03c + 0x100 * b
abbrev HPT_LN_IRQ_EN.Ready (b : Nat) : Fld := ⟨HPT_LN_IRQ_EN b, 0, 0⟩
abbrev HPT_LN_IRQ_EN.Lost (b : Nat) : Fld := ⟨HPT_LN_IRQ_EN b, 1, 1⟩
abbrev HPT_LN_IRQ_EN.LinkError (b : Nat) : Fld := ⟨HPT_LN_IRQ_EN b, 2, 2⟩
abbrev HPT_LN_IRQ_EN.PrbsSyncLost (b : Nat) : Fld := ⟨HPT_LN_IRQ_EN b, 3, 3⟩
abbrev HPT_LN_IRQ_EN.MarginDone (b : Nat) : Fld := ⟨HPT_LN_IRQ_EN b, 4, 4⟩
abbrev HPT_LN_IRQ_EN.Wake (b : Nat) : Fld := ⟨HPT_LN_IRQ_EN b, 5, 5⟩
abbrev HPT_LN_IRQ_EN.CfgRefused (b : Nat) : Fld := ⟨HPT_LN_IRQ_EN b, 6, 6⟩

def hptRows0 : List RegRow := [
  ⟨"HPT_STATUS", 0xa0000, 0x0, 1, 0x0, 1, .warm,
    [⟨"LinkUp", 0, 0, .ro, 0⟩, ⟨"Rate", 3, 1, .ro, 0⟩, ⟨"Width", 8, 4, .ro, 0⟩, ⟨"FlitMode", 9, 9, .ro, 0⟩, ⟨"DState", 11, 10, .ro, 0⟩, ⟨"CfgReady", 12, 12, .ro, 0⟩, ⟨"Perst", 13, 13, .ro, 1⟩, ⟨"FlrActive", 14, 14, .ro, 0⟩, ⟨"BusMaster", 15, 15, .ro, 0⟩, ⟨"LinkPower", 17, 16, .ro, 0⟩]⟩,
  ⟨"HPT_CTRL", 0xa0004, 0x0, 1, 0x0, 1, .warmHost,
    [⟨"L1Idle", 7, 0, .rw, 0x20⟩, ⟨"RemoteTo", 23, 8, .rw, 0x3e8⟩]⟩,
  ⟨"HPT_WINCTRL", 0xa0008, 0x0, 1, 0x0, 1, .warmHost,
    [⟨"Commit", 0, 0, .wo, 0⟩, ⟨"Revert", 1, 1, .wo, 0⟩, ⟨"Refused", 2, 2, .w1c, 0⟩, ⟨"RefuseCode", 4, 3, .ro, 0⟩, ⟨"RefuseWin", 10, 5, .ro, 0⟩]⟩,
  ⟨"HPT_WINCOUNT", 0xa000c, 0x0, 1, 0x0, 1, .warm,
    [⟨"Commits", 31, 0, .ro, 0⟩]⟩,
  ⟨"HPT_TAGS", 0xa0010, 0x0, 1, 0x0, 1, .warm,
    [⟨"InUse", 9, 0, .ro, 0⟩, ⟨"Quarantined", 19, 10, .ro, 0⟩, ⟨"Usable", 29, 20, .ro, 0x20⟩]⟩,
  ⟨"HPT_CPLTO", 0xa0014, 0x0, 1, 0x0, 1, .warm,
    [⟨"Ticks", 24, 0, .ro, 0x3e80⟩]⟩,
  ⟨"HPT_RESETS", 0xa0018, 0x0, 1, 0x0, 1, .warm,
    [⟨"Perst", 7, 0, .rc, 0⟩, ⟨"Hot", 15, 8, .rc, 0⟩, ⟨"LinkDown", 23, 16, .rc, 0⟩, ⟨"Flr", 31, 24, .rc, 0⟩]⟩,
  ⟨"HPT_UNEXPCPL", 0xa0020, 0x0, 1, 0x0, 1, .warm,
    [⟨"Count", 31, 0, .rc, 0⟩]⟩,
  ⟨"HPT_CPLTOCNT", 0xa0024, 0x0, 1, 0x0, 1, .warm,
    [⟨"Count", 31, 0, .rc, 0⟩]⟩,
  ⟨"HPT_URCNT", 0xa0028, 0x0, 1, 0x0, 1, .warm,
    [⟨"Count", 31, 0, .rc, 0⟩]⟩,
  ⟨"HPT_CACNT", 0xa002c, 0x0, 1, 0x0, 1, .warm,
    [⟨"Count", 31, 0, .rc, 0⟩]⟩,
  ⟨"HPT_POISONRX", 0xa0030, 0x0, 1, 0x0, 1, .warm,
    [⟨"Count", 31, 0, .rc, 0⟩]⟩,
  ⟨"HPT_CORRCNT", 0xa0034, 0x0, 1, 0x0, 1, .warm,
    [⟨"Count", 31, 0, .rc, 0⟩]⟩,
  ⟨"HPT_RMTERR", 0xa0038, 0x0, 1, 0x0, 1, .warm,
    [⟨"Count", 31, 0, .rc, 0⟩]⟩,
  ⟨"HPT_IRQ_STATUS", 0xa0078, 0x0, 1, 0x0, 1, .warm,
    [⟨"LinkUp", 0, 0, .w1c, 0⟩, ⟨"LinkDown", 1, 1, .w1c, 0⟩, ⟨"HostReset", 2, 2, .w1c, 0⟩, ⟨"Flr", 3, 3, .w1c, 0⟩, ⟨"CplTimeout", 4, 4, .w1c, 0⟩, ⟨"Unexpected", 5, 5, .w1c, 0⟩, ⟨"Uncorrectable", 6, 6, .w1c, 0⟩, ⟨"WinCommitted", 7, 7, .w1c, 0⟩, ⟨"WinRefused", 8, 8, .w1c, 0⟩, ⟨"DState", 9, 9, .w1c, 0⟩]⟩,
  ⟨"HPT_IRQ_EN", 0xa007c, 0x0, 1, 0x0, 1, .warm,
    [⟨"LinkUp", 0, 0, .rw, 0⟩, ⟨"LinkDown", 1, 1, .rw, 0⟩, ⟨"HostReset", 2, 2, .rw, 0⟩, ⟨"Flr", 3, 3, .rw, 0⟩, ⟨"CplTimeout", 4, 4, .rw, 0⟩, ⟨"Unexpected", 5, 5, .rw, 0⟩, ⟨"Uncorrectable", 6, 6, .rw, 0⟩, ⟨"WinCommitted", 7, 7, .rw, 0⟩, ⟨"WinRefused", 8, 8, .rw, 0⟩, ⟨"DState", 9, 9, .rw, 0⟩]⟩]

def hptRows1 : List RegRow := [
  ⟨"HPT_WIN_CFG", 0xa0100, 0x8, 64, 0x0, 1, .warmHost,
    [⟨"Enable", 0, 0, .rw, 0⟩, ⟨"Remote", 1, 1, .rw, 0⟩, ⟨"Cls", 2, 2, .rw, 0⟩, ⟨"SizeLog", 12, 8, .rw, 0x14⟩, ⟨"BarOffset", 31, 16, .rw, 0⟩]⟩,
  ⟨"HPT_WIN_TGT", 0xa0104, 0x8, 64, 0x0, 1, .warmHost,
    [⟨"Bank", 6, 0, .rw, 2⟩, ⟨"Node", 25, 16, .rw, 0⟩]⟩,
  ⟨"HPT_LN_CTRL", 0xaf000, 0x100, 16, 0x0, 1, .warmPerst,
    [⟨"TxInvert", 2, 2, .rw, 0⟩, ⟨"RxInvertForce", 3, 3, .rw, 0⟩, ⟨"RxInvert", 4, 4, .rw, 0⟩, ⟨"Loopback", 6, 5, .rw, 0⟩]⟩,
  ⟨"HPT_LN_STATUS", 0xaf004, 0x100, 16, 0x0, 1, .warmPerst,
    [⟨"State", 2, 0, .ro, 0⟩, ⟨"SigDet", 3, 3, .ro, 0⟩, ⟨"CdrLock", 4, 4, .ro, 0⟩, ⟨"RxInverted", 5, 5, .ro, 0⟩, ⟨"Reversed", 6, 6, .ro, 0⟩, ⟨"LinkError", 7, 7, .ro, 0⟩]⟩,
  ⟨"HPT_LN_TXEQ", 0xaf008, 0x100, 16, 0x0, 1, .warmPerst,
    [⟨"Pre", 3, 0, .ro, 0⟩, ⟨"Main", 10, 5, .ro, 0x3a⟩, ⟨"Post", 15, 11, .ro, 6⟩]⟩,
  ⟨"HPT_LN_RXEQ", 0xaf00c, 0x100, 16, 0x0, 1, .warmPerst,
    [⟨"AdaptEn", 0, 0, .rw, 1⟩, ⟨"Adapted", 1, 1, .ro, 0⟩, ⟨"Ctle", 7, 2, .ro, 0⟩, ⟨"Dfe1", 15, 8, .ro, 0⟩]⟩,
  ⟨"HPT_LN_PRBS", 0xaf010, 0x100, 16, 0x0, 1, .warmPerst,
    [⟨"TxPattern", 2, 0, .rw, 0⟩, ⟨"TxErrInject", 3, 3, .wo, 0⟩, ⟨"RxPattern", 6, 4, .rw, 0⟩, ⟨"RxSync", 8, 8, .ro, 0⟩]⟩,
  ⟨"HPT_LN_PRBS_ERR", 0xaf014, 0x100, 16, 0x0, 1, .warmPerst,
    [⟨"Count", 31, 0, .ro, 0⟩]⟩,
  ⟨"HPT_LN_PRBS_BITS_LO", 0xaf018, 0x100, 16, 0x0, 1, .warmPerst,
    [⟨"Count", 31, 0, .ro, 0⟩]⟩,
  ⟨"HPT_LN_PRBS_BITS_HI", 0xaf01c, 0x100, 16, 0x0, 1, .warmPerst,
    [⟨"Count", 15, 0, .ro, 0⟩]⟩,
  ⟨"HPT_LN_MARGIN", 0xaf020, 0x100, 16, 0x0, 1, .warmPerst,
    [⟨"Time", 5, 0, .rw, 0⟩, ⟨"Volt", 11, 6, .rw, 0⟩, ⟨"Eye", 13, 12, .rw, 0⟩, ⟨"BitsLog", 18, 14, .rw, 0x14⟩, ⟨"Start", 31, 31, .w1s, 0⟩]⟩,
  ⟨"HPT_LN_MARGIN_ERR", 0xaf024, 0x100, 16, 0x0, 1, .warmPerst,
    [⟨"Count", 31, 0, .ro, 0⟩]⟩,
  ⟨"HPT_LN_COUNTS", 0xaf028, 0x100, 16, 0x0, 1, .warmPerst,
    [⟨"LossCount", 15, 0, .rc, 0⟩, ⟨"RetryCount", 31, 16, .rc, 0⟩]⟩,
  ⟨"HPT_LN_IRQ_STATUS", 0xaf038, 0x100, 16, 0x0, 1, .warmPerst,
    [⟨"Ready", 0, 0, .w1c, 0⟩, ⟨"Lost", 1, 1, .w1c, 0⟩, ⟨"LinkError", 2, 2, .w1c, 0⟩, ⟨"PrbsSyncLost", 3, 3, .w1c, 0⟩, ⟨"MarginDone", 4, 4, .w1c, 0⟩, ⟨"Wake", 5, 5, .w1c, 0⟩, ⟨"CfgRefused", 6, 6, .w1c, 0⟩]⟩,
  ⟨"HPT_LN_IRQ_EN", 0xaf03c, 0x100, 16, 0x0, 1, .warmPerst,
    [⟨"Ready", 0, 0, .rw, 0⟩, ⟨"Lost", 1, 1, .rw, 0⟩, ⟨"LinkError", 2, 2, .rw, 0⟩, ⟨"PrbsSyncLost", 3, 3, .rw, 0⟩, ⟨"MarginDone", 4, 4, .rw, 0⟩, ⟨"Wake", 5, 5, .rw, 0⟩, ⟨"CfgRefused", 6, 6, .rw, 0⟩]⟩]

/-- The HPT block's register table (R419). -/
def hptRows : List RegRow := hptRows0 ++ hptRows1

/-! ## IRQ block (R442, 13_interrupts.md) -/

abbrev IRQ_STATUS : Nat := 0xb0000
abbrev IRQ_STATUS.MsixEnable : Fld := ⟨IRQ_STATUS, 0, 0⟩
abbrev IRQ_STATUS.FunctionMask : Fld := ⟨IRQ_STATUS, 1, 1⟩
abbrev IRQ_STATUS.IntxAsserted : Fld := ⟨IRQ_STATUS, 2, 2⟩
abbrev IRQ_STATUS.PmeStatus : Fld := ⟨IRQ_STATUS, 3, 3⟩
abbrev IRQ_INTX : Nat := 0xb0004
abbrev IRQ_INTX.Cause : Fld := ⟨IRQ_INTX, 15, 0⟩
abbrev IRQ_MSGCNT : Nat := 0xb0008
abbrev IRQ_MSGCNT.Count : Fld := ⟨IRQ_MSGCNT, 31, 0⟩
abbrev IRQ_MASKED : Nat := 0xb000c
abbrev IRQ_MASKED.Count : Fld := ⟨IRQ_MASKED, 31, 0⟩
abbrev IRQ_PMECNT : Nat := 0xb0010
abbrev IRQ_PMECNT.Count : Fld := ⟨IRQ_PMECNT, 31, 0⟩
abbrev IRQ_CUR_STRAY : Nat := 0xb0014
abbrev IRQ_CUR_STRAY.Count : Fld := ⟨IRQ_CUR_STRAY, 31, 0⟩
abbrev IRQ_BAY_STRAY : Nat := 0xb0018
abbrev IRQ_BAY_STRAY.Count : Fld := ⟨IRQ_BAY_STRAY, 31, 0⟩
abbrev IRQ_IRQ_STATUS : Nat := 0xb0078
abbrev IRQ_IRQ_STATUS.Stray : Fld := ⟨IRQ_IRQ_STATUS, 0, 0⟩
abbrev IRQ_IRQ_STATUS.PmeSignalled : Fld := ⟨IRQ_IRQ_STATUS, 1, 1⟩
abbrev IRQ_IRQ_STATUS.Withheld : Fld := ⟨IRQ_IRQ_STATUS, 2, 2⟩
abbrev IRQ_IRQ_EN : Nat := 0xb007c
abbrev IRQ_IRQ_EN.Stray : Fld := ⟨IRQ_IRQ_EN, 0, 0⟩
abbrev IRQ_IRQ_EN.PmeSignalled : Fld := ⟨IRQ_IRQ_EN, 1, 1⟩
abbrev IRQ_IRQ_EN.Withheld : Fld := ⟨IRQ_IRQ_EN, 2, 2⟩
abbrev IRQ_CUR_PEND (b : Nat) : Nat := 0xb0100 + 0x4 * b
abbrev IRQ_CUR_PEND.Bits (b : Nat) : Fld := ⟨IRQ_CUR_PEND b, 31, 0⟩
abbrev IRQ_CUR_ACT (b : Nat) : Nat := 0xb0120 + 0x4 * b
abbrev IRQ_CUR_ACT.Bits (b : Nat) : Fld := ⟨IRQ_CUR_ACT b, 31, 0⟩
abbrev IRQ_BAYDB (b : Nat) : Nat := 0xb0200 + 0x4 * b
abbrev IRQ_BAYDB.Ring (b : Nat) : Fld := ⟨IRQ_BAYDB b, 7, 0⟩
abbrev IRQ_MOD (b : Nat) : Nat := 0xb1000 + 0x4 * b
abbrev IRQ_MOD.CountThr (b : Nat) : Fld := ⟨IRQ_MOD b, 7, 0⟩
abbrev IRQ_MOD.Timer (b : Nat) : Fld := ⟨IRQ_MOD b, 31, 16⟩
abbrev IRQ_VSTAT_MGR (b : Nat) : Nat := 0xb3000 + 0x4 * b
abbrev IRQ_VSTAT_MGR.Carrel (b : Nat) : Fld := ⟨IRQ_VSTAT_MGR b, 7, 0⟩
abbrev IRQ_VSTAT_MGR.Owned (b : Nat) : Fld := ⟨IRQ_VSTAT_MGR b, 8, 8⟩
abbrev IRQ_VSTAT_MGR.Manager (b : Nat) : Fld := ⟨IRQ_VSTAT_MGR b, 9, 9⟩
abbrev IRQ_VSTAT_MGR.Count (b : Nat) : Fld := ⟨IRQ_VSTAT_MGR b, 23, 16⟩
abbrev IRQ_VSTAT_MGR.TimerRun (b : Nat) : Fld := ⟨IRQ_VSTAT_MGR b, 24, 24⟩
abbrev IRQ_VSTAT_POOL (b : Nat) : Nat := 0xb3040 + 0x4 * b
abbrev IRQ_VSTAT_POOL.Carrel (b : Nat) : Fld := ⟨IRQ_VSTAT_POOL b, 7, 0⟩
abbrev IRQ_VSTAT_POOL.Owned (b : Nat) : Fld := ⟨IRQ_VSTAT_POOL b, 8, 8⟩
abbrev IRQ_VSTAT_POOL.Manager (b : Nat) : Fld := ⟨IRQ_VSTAT_POOL b, 9, 9⟩
abbrev IRQ_VSTAT_POOL.Count (b : Nat) : Fld := ⟨IRQ_VSTAT_POOL b, 23, 16⟩
abbrev IRQ_VSTAT_POOL.TimerRun (b : Nat) : Fld := ⟨IRQ_VSTAT_POOL b, 24, 24⟩
abbrev IRQ_PBA (b : Nat) : Nat := 0xb7000 + 0x4 * b
abbrev IRQ_PBA.Pending (b : Nat) : Fld := ⟨IRQ_PBA b, 31, 0⟩
abbrev IRQ_MSIX_W0 (b : Nat) : Nat := 0xb8000 + 0x10 * b
abbrev IRQ_MSIX_W0.AddrLow (b : Nat) : Fld := ⟨IRQ_MSIX_W0 b, 31, 2⟩
abbrev IRQ_MSIX_W1 (b : Nat) : Nat := 0xb8004 + 0x10 * b
abbrev IRQ_MSIX_W1.AddrHigh (b : Nat) : Fld := ⟨IRQ_MSIX_W1 b, 31, 0⟩
abbrev IRQ_MSIX_W2 (b : Nat) : Nat := 0xb8008 + 0x10 * b
abbrev IRQ_MSIX_W2.Data (b : Nat) : Fld := ⟨IRQ_MSIX_W2 b, 31, 0⟩
abbrev IRQ_MSIX_W3 (b : Nat) : Nat := 0xb800c + 0x10 * b
abbrev IRQ_MSIX_W3.Mask (b : Nat) : Fld := ⟨IRQ_MSIX_W3 b, 0, 0⟩

def irqRows0 : List RegRow := [
  ⟨"IRQ_STATUS", 0xb0000, 0x0, 1, 0x0, 1, .warm,
    [⟨"MsixEnable", 0, 0, .ro, 0⟩, ⟨"FunctionMask", 1, 1, .ro, 0⟩, ⟨"IntxAsserted", 2, 2, .ro, 0⟩, ⟨"PmeStatus", 3, 3, .ro, 0⟩]⟩,
  ⟨"IRQ_INTX", 0xb0004, 0x0, 1, 0x0, 1, .warm,
    [⟨"Cause", 15, 0, .ro, 0⟩]⟩,
  ⟨"IRQ_MSGCNT", 0xb0008, 0x0, 1, 0x0, 1, .warm,
    [⟨"Count", 31, 0, .rc, 0⟩]⟩,
  ⟨"IRQ_MASKED", 0xb000c, 0x0, 1, 0x0, 1, .warm,
    [⟨"Count", 31, 0, .rc, 0⟩]⟩,
  ⟨"IRQ_PMECNT", 0xb0010, 0x0, 1, 0x0, 1, .warm,
    [⟨"Count", 31, 0, .rc, 0⟩]⟩,
  ⟨"IRQ_CUR_STRAY", 0xb0014, 0x0, 1, 0x0, 1, .warm,
    [⟨"Count", 31, 0, .rc, 0⟩]⟩,
  ⟨"IRQ_BAY_STRAY", 0xb0018, 0x0, 1, 0x0, 1, .warm,
    [⟨"Count", 31, 0, .rc, 0⟩]⟩,
  ⟨"IRQ_IRQ_STATUS", 0xb0078, 0x0, 1, 0x0, 1, .warm,
    [⟨"Stray", 0, 0, .w1c, 0⟩, ⟨"PmeSignalled", 1, 1, .w1c, 0⟩, ⟨"Withheld", 2, 2, .w1c, 0⟩]⟩,
  ⟨"IRQ_IRQ_EN", 0xb007c, 0x0, 1, 0x0, 1, .warm,
    [⟨"Stray", 0, 0, .rw, 0⟩, ⟨"PmeSignalled", 1, 1, .rw, 0⟩, ⟨"Withheld", 2, 2, .rw, 0⟩]⟩,
  ⟨"IRQ_CUR_PEND", 0xb0100, 0x4, 8, 0x0, 1, .warm,
    [⟨"Bits", 31, 0, .ro, 0⟩]⟩,
  ⟨"IRQ_CUR_ACT", 0xb0120, 0x4, 8, 0x0, 1, .warm,
    [⟨"Bits", 31, 0, .ro, 0⟩]⟩,
  ⟨"IRQ_BAYDB", 0xb0200, 0x4, 64, 0x0, 1, .warm,
    [⟨"Ring", 7, 0, .w1s, 0⟩]⟩,
  ⟨"IRQ_MOD", 0xb1000, 0x4, 2048, 0x0, 1, .warmHost,
    [⟨"CountThr", 7, 0, .rw, 1⟩, ⟨"Timer", 31, 16, .rw, 0⟩]⟩,
  ⟨"IRQ_VSTAT_MGR", 0xb3000, 0x4, 16, 0x0, 1, .warm,
    [⟨"Carrel", 7, 0, .ro, 0⟩, ⟨"Owned", 8, 8, .ro, 0⟩, ⟨"Manager", 9, 9, .ro, 1⟩, ⟨"Count", 23, 16, .ro, 0⟩, ⟨"TimerRun", 24, 24, .ro, 0⟩]⟩,
  ⟨"IRQ_VSTAT_POOL", 0xb3040, 0x4, 2032, 0x0, 1, .warm,
    [⟨"Carrel", 7, 0, .ro, 0⟩, ⟨"Owned", 8, 8, .ro, 0⟩, ⟨"Manager", 9, 9, .ro, 0⟩, ⟨"Count", 23, 16, .ro, 0⟩, ⟨"TimerRun", 24, 24, .ro, 0⟩]⟩,
  ⟨"IRQ_PBA", 0xb7000, 0x4, 64, 0x0, 1, .warmHost,
    [⟨"Pending", 31, 0, .ro, 0⟩]⟩]

def irqRows1 : List RegRow := [
  ⟨"IRQ_MSIX_W0", 0xb8000, 0x10, 2048, 0x0, 1, .warmHost,
    [⟨"AddrLow", 31, 2, .rw, 0⟩]⟩,
  ⟨"IRQ_MSIX_W1", 0xb8004, 0x10, 2048, 0x0, 1, .warmHost,
    [⟨"AddrHigh", 31, 0, .rw, 0⟩]⟩,
  ⟨"IRQ_MSIX_W2", 0xb8008, 0x10, 2048, 0x0, 1, .warmHost,
    [⟨"Data", 31, 0, .rw, 0⟩]⟩,
  ⟨"IRQ_MSIX_W3", 0xb800c, 0x10, 2048, 0x0, 1, .warmHost,
    [⟨"Mask", 0, 0, .rw, 1⟩]⟩]

/-- The IRQ block's register table (R442). -/
def irqRows : List RegRow := irqRows0 ++ irqRows1

/-! ## DMA block (R476, 14_rings_carrels.md) -/

abbrev DMA_INFO : Nat := 0xc0000
abbrev DMA_INFO.Movers : Fld := ⟨DMA_INFO, 5, 0⟩
abbrev DMA_INFO.Channels : Fld := ⟨DMA_INFO, 14, 8⟩
abbrev DMA_INFO.Rings : Fld := ⟨DMA_INFO, 28, 16⟩
abbrev DMA_QUANTUM : Nat := 0xc0004
abbrev DMA_QUANTUM.Bytes : Fld := ⟨DMA_QUANTUM, 15, 0⟩
abbrev DMA_STATUS : Nat := 0xc0008
abbrev DMA_STATUS.HeldBusMaster : Fld := ⟨DMA_STATUS, 0, 0⟩
abbrev DMA_STATUS.HeldD3 : Fld := ⟨DMA_STATUS, 1, 1⟩
abbrev DMA_STATUS.Busy : Fld := ⟨DMA_STATUS, 6, 2⟩
abbrev DMA_STATUS.FreeRings : Fld := ⟨DMA_STATUS, 19, 7⟩
abbrev DMA_STATUS.FreeVectors : Fld := ⟨DMA_STATUS, 30, 20⟩
abbrev DMA_LASTEV : Nat := 0xc000c
abbrev DMA_LASTEV.Ring : Fld := ⟨DMA_LASTEV, 11, 0⟩
abbrev DMA_LASTEV.Valid : Fld := ⟨DMA_LASTEV, 31, 31⟩
abbrev DMA_NOTOWNED : Nat := 0xc0010
abbrev DMA_NOTOWNED.Count : Fld := ⟨DMA_NOTOWNED, 31, 0⟩
abbrev DMA_ABANDON : Nat := 0xc0014
abbrev DMA_ABANDON.Count : Fld := ⟨DMA_ABANDON, 31, 0⟩
abbrev DMA_CHSKIP : Nat := 0xc0018
abbrev DMA_CHSKIP.Count : Fld := ⟨DMA_CHSKIP, 31, 0⟩
abbrev DMA_CHBADEL : Nat := 0xc001c
abbrev DMA_CHBADEL.Count : Fld := ⟨DMA_CHBADEL, 31, 0⟩
abbrev DMA_DESCERR : Nat := 0xc0020
abbrev DMA_DESCERR.Count : Fld := ⟨DMA_DESCERR, 31, 0⟩
abbrev DMA_IRQ_STATUS : Nat := 0xc0078
abbrev DMA_IRQ_STATUS.MgrRing : Fld := ⟨DMA_IRQ_STATUS, 0, 0⟩
abbrev DMA_IRQ_STATUS.RingHalted : Fld := ⟨DMA_IRQ_STATUS, 1, 1⟩
abbrev DMA_IRQ_STATUS.ChanSkip : Fld := ⟨DMA_IRQ_STATUS, 2, 2⟩
abbrev DMA_IRQ_STATUS.ChanError : Fld := ⟨DMA_IRQ_STATUS, 3, 3⟩
abbrev DMA_IRQ_EN : Nat := 0xc007c
abbrev DMA_IRQ_EN.MgrRing : Fld := ⟨DMA_IRQ_EN, 0, 0⟩
abbrev DMA_IRQ_EN.RingHalted : Fld := ⟨DMA_IRQ_EN, 1, 1⟩
abbrev DMA_IRQ_EN.ChanSkip : Fld := ⟨DMA_IRQ_EN, 2, 2⟩
abbrev DMA_IRQ_EN.ChanError : Fld := ⟨DMA_IRQ_EN, 3, 3⟩
abbrev DMA_MOVER (b : Nat) : Nat := 0xc0100 + 0x4 * b
abbrev DMA_MOVER.Busy (b : Nat) : Fld := ⟨DMA_MOVER b, 0, 0⟩
abbrev DMA_MOVER.Work (b : Nat) : Fld := ⟨DMA_MOVER b, 2, 1⟩
abbrev DMA_MOVER.Owner (b : Nat) : Fld := ⟨DMA_MOVER b, 11, 3⟩
abbrev DMA_MOVER.Unit (b : Nat) : Fld := ⟨DMA_MOVER b, 27, 16⟩
abbrev DMA_CH_CFG (b : Nat) : Nat := 0xc1000 + 0x20 * b
abbrev DMA_CH_CFG.Enable (b : Nat) : Fld := ⟨DMA_CH_CFG b, 0, 0⟩
abbrev DMA_CH_CFG.Dir (b : Nat) : Fld := ⟨DMA_CH_CFG b, 1, 1⟩
abbrev DMA_CH_CFG.Ring (b : Nat) : Fld := ⟨DMA_CH_CFG b, 13, 2⟩
abbrev DMA_CH_CFG.Commit (b : Nat) : Fld := ⟨DMA_CH_CFG b, 31, 31⟩
abbrev DMA_CH_BLK (b : Nat) : Nat := 0xc1004 + 0x20 * b
abbrev DMA_CH_BLK.At (b : Nat) : Fld := ⟨DMA_CH_BLK b, 19, 0⟩
abbrev DMA_CH_BLK.Elems (b : Nat) : Fld := ⟨DMA_CH_BLK b, 31, 20⟩
abbrev DMA_CH_ACFG (b : Nat) : Nat := 0xc1008 + 0x20 * b
abbrev DMA_CH_ACFG.Enable (b : Nat) : Fld := ⟨DMA_CH_ACFG b, 0, 0⟩
abbrev DMA_CH_ACFG.Dir (b : Nat) : Fld := ⟨DMA_CH_ACFG b, 1, 1⟩
abbrev DMA_CH_ACFG.Ring (b : Nat) : Fld := ⟨DMA_CH_ACFG b, 13, 2⟩
abbrev DMA_CH_ABLK (b : Nat) : Nat := 0xc100c + 0x20 * b
abbrev DMA_CH_ABLK.At (b : Nat) : Fld := ⟨DMA_CH_ABLK b, 19, 0⟩
abbrev DMA_CH_ABLK.Elems (b : Nat) : Fld := ⟨DMA_CH_ABLK b, 31, 20⟩
abbrev DMA_CH_STAT (b : Nat) : Nat := 0xc1010 + 0x20 * b
abbrev DMA_CH_STAT.FrameLow (b : Nat) : Fld := ⟨DMA_CH_STAT b, 15, 0⟩
abbrev DMA_CH_STAT.LastCode (b : Nat) : Fld := ⟨DMA_CH_STAT b, 23, 16⟩
abbrev DMA_CH_STAT.LastSkipped (b : Nat) : Fld := ⟨DMA_CH_STAT b, 24, 24⟩
abbrev DMA_CH_SKIP (b : Nat) : Nat := 0xc1014 + 0x20 * b
abbrev DMA_CH_SKIP.Count (b : Nat) : Fld := ⟨DMA_CH_SKIP b, 31, 0⟩
abbrev DMA_CH_ERR (b : Nat) : Nat := 0xc1018 + 0x20 * b
abbrev DMA_CH_ERR.Count (b : Nat) : Fld := ⟨DMA_CH_ERR b, 31, 0⟩
abbrev DMA_RING_DB (b : Nat) : Nat := 0xc8000 + 0x8 * b
abbrev DMA_RING_DB.Tail (b : Nat) : Fld := ⟨DMA_RING_DB b, 11, 0⟩
abbrev DMA_RING_DB.Resume (b : Nat) : Fld := ⟨DMA_RING_DB b, 31, 31⟩
abbrev DMA_RING_STAT (b : Nat) : Nat := 0xc8004 + 0x8 * b
abbrev DMA_RING_STAT.Head (b : Nat) : Fld := ⟨DMA_RING_STAT b, 11, 0⟩
abbrev DMA_RING_STAT.State (b : Nat) : Fld := ⟨DMA_RING_STAT b, 13, 12⟩
abbrev DMA_RING_STAT.Waiting (b : Nat) : Fld := ⟨DMA_RING_STAT b, 14, 14⟩
abbrev DMA_RING_STAT.FetchError (b : Nat) : Fld := ⟨DMA_RING_STAT b, 15, 15⟩
abbrev DMA_RING_STAT.LastCode (b : Nat) : Fld := ⟨DMA_RING_STAT b, 23, 16⟩
abbrev DMA_RING_STAT.Kind (b : Nat) : Fld := ⟨DMA_RING_STAT b, 26, 24⟩

def dmaRows0 : List RegRow := [
  ⟨"DMA_INFO", 0xc0000, 0x0, 1, 0x0, 1, .warm,
    [⟨"Movers", 5, 0, .ro, 0x20⟩, ⟨"Channels", 14, 8, .ro, 0x40⟩, ⟨"Rings", 28, 16, .ro, 0x1000⟩]⟩,
  ⟨"DMA_QUANTUM", 0xc0004, 0x0, 1, 0x0, 1, .warm,
    [⟨"Bytes", 15, 0, .rw, 0x40⟩]⟩,
  ⟨"DMA_STATUS", 0xc0008, 0x0, 1, 0x0, 1, .warm,
    [⟨"HeldBusMaster", 0, 0, .ro, 1⟩, ⟨"HeldD3", 1, 1, .ro, 0⟩, ⟨"Busy", 6, 2, .ro, 0⟩, ⟨"FreeRings", 19, 7, .ro, 0x1000⟩, ⟨"FreeVectors", 30, 20, .ro, 0x7f0⟩]⟩,
  ⟨"DMA_LASTEV", 0xc000c, 0x0, 1, 0x0, 1, .warm,
    [⟨"Ring", 11, 0, .rc, 0⟩, ⟨"Valid", 31, 31, .rc, 0⟩]⟩,
  ⟨"DMA_NOTOWNED", 0xc0010, 0x0, 1, 0x0, 1, .warm,
    [⟨"Count", 31, 0, .rc, 0⟩]⟩,
  ⟨"DMA_ABANDON", 0xc0014, 0x0, 1, 0x0, 1, .warm,
    [⟨"Count", 31, 0, .rc, 0⟩]⟩,
  ⟨"DMA_CHSKIP", 0xc0018, 0x0, 1, 0x0, 1, .warm,
    [⟨"Count", 31, 0, .rc, 0⟩]⟩,
  ⟨"DMA_CHBADEL", 0xc001c, 0x0, 1, 0x0, 1, .warm,
    [⟨"Count", 31, 0, .rc, 0⟩]⟩,
  ⟨"DMA_DESCERR", 0xc0020, 0x0, 1, 0x0, 1, .warm,
    [⟨"Count", 31, 0, .rc, 0⟩]⟩,
  ⟨"DMA_IRQ_STATUS", 0xc0078, 0x0, 1, 0x0, 1, .warm,
    [⟨"MgrRing", 0, 0, .w1c, 0⟩, ⟨"RingHalted", 1, 1, .w1c, 0⟩, ⟨"ChanSkip", 2, 2, .w1c, 0⟩, ⟨"ChanError", 3, 3, .w1c, 0⟩]⟩,
  ⟨"DMA_IRQ_EN", 0xc007c, 0x0, 1, 0x0, 1, .warm,
    [⟨"MgrRing", 0, 0, .rw, 0⟩, ⟨"RingHalted", 1, 1, .rw, 0⟩, ⟨"ChanSkip", 2, 2, .rw, 0⟩, ⟨"ChanError", 3, 3, .rw, 0⟩]⟩,
  ⟨"DMA_MOVER", 0xc0100, 0x4, 32, 0x0, 1, .warm,
    [⟨"Busy", 0, 0, .ro, 0⟩, ⟨"Work", 2, 1, .ro, 0⟩, ⟨"Owner", 11, 3, .ro, 0⟩, ⟨"Unit", 27, 16, .ro, 0⟩]⟩,
  ⟨"DMA_CH_CFG", 0xc1000, 0x20, 64, 0x0, 1, .warm,
    [⟨"Enable", 0, 0, .rw, 0⟩, ⟨"Dir", 1, 1, .rw, 0⟩, ⟨"Ring", 13, 2, .rw, 0⟩, ⟨"Commit", 31, 31, .rw, 0⟩]⟩,
  ⟨"DMA_CH_BLK", 0xc1004, 0x20, 64, 0x0, 1, .warm,
    [⟨"At", 19, 0, .rw, 0⟩, ⟨"Elems", 31, 20, .rw, 0⟩]⟩,
  ⟨"DMA_CH_ACFG", 0xc1008, 0x20, 64, 0x0, 1, .warm,
    [⟨"Enable", 0, 0, .ro, 0⟩, ⟨"Dir", 1, 1, .ro, 0⟩, ⟨"Ring", 13, 2, .ro, 0⟩]⟩,
  ⟨"DMA_CH_ABLK", 0xc100c, 0x20, 64, 0x0, 1, .warm,
    [⟨"At", 19, 0, .ro, 0⟩, ⟨"Elems", 31, 20, .ro, 0⟩]⟩]

def dmaRows1 : List RegRow := [
  ⟨"DMA_CH_STAT", 0xc1010, 0x20, 64, 0x0, 1, .warm,
    [⟨"FrameLow", 15, 0, .ro, 0⟩, ⟨"LastCode", 23, 16, .ro, 0⟩, ⟨"LastSkipped", 24, 24, .ro, 0⟩]⟩,
  ⟨"DMA_CH_SKIP", 0xc1014, 0x20, 64, 0x0, 1, .warm,
    [⟨"Count", 31, 0, .rc, 0⟩]⟩,
  ⟨"DMA_CH_ERR", 0xc1018, 0x20, 64, 0x0, 1, .warm,
    [⟨"Count", 31, 0, .rc, 0⟩]⟩,
  ⟨"DMA_RING_DB", 0xc8000, 0x8, 4096, 0x0, 1, .warm,
    [⟨"Tail", 11, 0, .rw, 0⟩, ⟨"Resume", 31, 31, .wo, 0⟩]⟩,
  ⟨"DMA_RING_STAT", 0xc8004, 0x8, 4096, 0x0, 1, .warm,
    [⟨"Head", 11, 0, .ro, 0⟩, ⟨"State", 13, 12, .ro, 0⟩, ⟨"Waiting", 14, 14, .ro, 0⟩, ⟨"FetchError", 15, 15, .ro, 0⟩, ⟨"LastCode", 23, 16, .ro, 0⟩, ⟨"Kind", 26, 24, .ro, 0⟩]⟩]

/-- The DMA block's register table (R476). -/
def dmaRows : List RegRow := dmaRows0 ++ dmaRows1

/-! ## CRL block (R477, 14_rings_carrels.md) -/

abbrev CRL_INFO : Nat := 0xd0000
abbrev CRL_INFO.Carrels : Fld := ⟨CRL_INFO, 8, 0⟩
abbrev CRL_IRQ_STATUS : Nat := 0xd0078
abbrev CRL_IRQ_STATUS.Created : Fld := ⟨CRL_IRQ_STATUS, 0, 0⟩
abbrev CRL_IRQ_STATUS.PageReset : Fld := ⟨CRL_IRQ_STATUS, 1, 1⟩
abbrev CRL_IRQ_STATUS.ResetDone : Fld := ⟨CRL_IRQ_STATUS, 2, 2⟩
abbrev CRL_IRQ_STATUS.Destroyed : Fld := ⟨CRL_IRQ_STATUS, 3, 3⟩
abbrev CRL_IRQ_EN : Nat := 0xd007c
abbrev CRL_IRQ_EN.Created : Fld := ⟨CRL_IRQ_EN, 0, 0⟩
abbrev CRL_IRQ_EN.PageReset : Fld := ⟨CRL_IRQ_EN, 1, 1⟩
abbrev CRL_IRQ_EN.ResetDone : Fld := ⟨CRL_IRQ_EN, 2, 2⟩
abbrev CRL_IRQ_EN.Destroyed : Fld := ⟨CRL_IRQ_EN, 3, 3⟩
abbrev CRL_STATE (b : Nat) : Nat := 0xd1000 + 0x10 * b
abbrev CRL_STATE.Exists (b : Nat) : Fld := ⟨CRL_STATE b, 0, 0⟩
abbrev CRL_STATE.Resetting (b : Nat) : Fld := ⟨CRL_STATE b, 1, 1⟩
abbrev CRL_STATE.Ready (b : Nat) : Fld := ⟨CRL_STATE b, 2, 2⟩
abbrev CRL_STATE.Rings (b : Nat) : Fld := ⟨CRL_STATE b, 9, 3⟩
abbrev CRL_STATE.Vectors (b : Nat) : Fld := ⟨CRL_STATE b, 16, 10⟩
abbrev CRL_PASID (b : Nat) : Nat := 0xd1004 + 0x10 * b
abbrev CRL_PASID.Pasid (b : Nat) : Fld := ⟨CRL_PASID b, 19, 0⟩
abbrev CRL_SHARE_C (b : Nat) : Nat := 0xd1008 + 0x10 * b
abbrev CRL_SHARE_C.Current (b : Nat) : Fld := ⟨CRL_SHARE_C b, 9, 0⟩
abbrev CRL_SHARE_C.Staged (b : Nat) : Fld := ⟨CRL_SHARE_C b, 25, 16⟩
abbrev CRL_SHARE_MGR : Nat := 0xd2008
abbrev CRL_SHARE_MGR.Current : Fld := ⟨CRL_SHARE_MGR, 9, 0⟩
abbrev CRL_SHARE_MGR.Staged : Fld := ⟨CRL_SHARE_MGR, 25, 16⟩
abbrev CRL_RES (b : Nat) : Nat := 0xd100c + 0x10 * b
abbrev CRL_RES.CreationShare (b : Nat) : Fld := ⟨CRL_RES b, 9, 0⟩
abbrev CRL_RES.ResetCount (b : Nat) : Fld := ⟨CRL_RES b, 31, 16⟩

def crlRows0 : List RegRow := [
  ⟨"CRL_INFO", 0xd0000, 0x0, 1, 0x0, 1, .warm,
    [⟨"Carrels", 8, 0, .ro, 0⟩]⟩,
  ⟨"CRL_IRQ_STATUS", 0xd0078, 0x0, 1, 0x0, 1, .warm,
    [⟨"Created", 0, 0, .w1c, 0⟩, ⟨"PageReset", 1, 1, .w1c, 0⟩, ⟨"ResetDone", 2, 2, .w1c, 0⟩, ⟨"Destroyed", 3, 3, .w1c, 0⟩]⟩,
  ⟨"CRL_IRQ_EN", 0xd007c, 0x0, 1, 0x0, 1, .warm,
    [⟨"Created", 0, 0, .rw, 0⟩, ⟨"PageReset", 1, 1, .rw, 0⟩, ⟨"ResetDone", 2, 2, .rw, 0⟩, ⟨"Destroyed", 3, 3, .rw, 0⟩]⟩,
  ⟨"CRL_STATE", 0xd1000, 0x10, 256, 0x0, 1, .warm,
    [⟨"Exists", 0, 0, .ro, 0⟩, ⟨"Resetting", 1, 1, .ro, 0⟩, ⟨"Ready", 2, 2, .ro, 0⟩, ⟨"Rings", 9, 3, .ro, 0⟩, ⟨"Vectors", 16, 10, .ro, 0⟩]⟩,
  ⟨"CRL_PASID", 0xd1004, 0x10, 256, 0x0, 1, .warm,
    [⟨"Pasid", 19, 0, .ro, 0⟩]⟩,
  ⟨"CRL_SHARE_C", 0xd1008, 0x10, 256, 0x0, 1, .warm,
    [⟨"Current", 9, 0, .ro, 0⟩, ⟨"Staged", 25, 16, .ro, 0⟩]⟩,
  ⟨"CRL_SHARE_MGR", 0xd2008, 0x0, 1, 0x0, 1, .warm,
    [⟨"Current", 9, 0, .ro, 0x200⟩, ⟨"Staged", 25, 16, .ro, 0x200⟩]⟩,
  ⟨"CRL_RES", 0xd100c, 0x10, 256, 0x0, 1, .warm,
    [⟨"CreationShare", 9, 0, .ro, 0⟩, ⟨"ResetCount", 31, 16, .rc, 0⟩]⟩]

/-- The CRL block's register table (R477). -/
def crlRows : List RegRow := crlRows0

/-! ## PWR block (R546, 16_power_reset.md) -/

abbrev PWR_STATUS : Nat := 0xe0000
abbrev PWR_STATUS.Standby : Fld := ⟨PWR_STATUS, 0, 0⟩
abbrev PWR_STATUS.Entering : Fld := ⟨PWR_STATUS, 1, 1⟩
abbrev PWR_STATUS.Pfail : Fld := ⟨PWR_STATUS, 2, 2⟩
abbrev PWR_STATUS.SleepRefused : Fld := ⟨PWR_STATUS, 3, 3⟩
abbrev PWR_STATUS.CoreGood : Fld := ⟨PWR_STATUS, 4, 4⟩
abbrev PWR_STATUS.SramGood : Fld := ⟨PWR_STATUS, 5, 5⟩
abbrev PWR_CTRL : Nat := 0xe0004
abbrev PWR_CTRL.Standby : Fld := ⟨PWR_CTRL, 0, 0⟩
abbrev PWR_CTRL.Sleep : Fld := ⟨PWR_CTRL, 1, 1⟩
abbrev PWR_WAKE : Nat := 0xe0008
abbrev PWR_WAKE.Source : Fld := ⟨PWR_WAKE, 3, 0⟩
abbrev PWR_WAKE_TICKS : Nat := 0xe000c
abbrev PWR_WAKE_TICKS.Ticks : Fld := ⟨PWR_WAKE_TICKS, 31, 0⟩
abbrev PWR_WAKEEN : Nat := 0xe0010
abbrev PWR_WAKEEN.Enable : Fld := ⟨PWR_WAKEEN, 5, 0⟩
abbrev PWR_AOTIMER : Nat := 0xe0014
abbrev PWR_AOTIMER.Ticks : Fld := ⟨PWR_AOTIMER, 31, 0⟩
abbrev PWR_PFAIL : Nat := 0xe0018
abbrev PWR_PFAIL.DrainTo : Fld := ⟨PWR_PFAIL, 10, 0⟩
abbrev PWR_IDLE : Nat := 0xe001c
abbrev PWR_IDLE.Ticks : Fld := ⟨PWR_IDLE, 15, 0⟩
abbrev PWR_CLK : Nat := 0xe0020
abbrev PWR_CLK.AoSource : Fld := ⟨PWR_CLK, 0, 0⟩
abbrev PWR_CLK.XtalFailed : Fld := ⟨PWR_CLK, 1, 1⟩
abbrev PWR_CLK.RefSysOk : Fld := ⟨PWR_CLK, 2, 2⟩
abbrev PWR_CLK.RefHostOk : Fld := ⟨PWR_CLK, 3, 3⟩
abbrev PWR_CLK.PllLock : Fld := ⟨PWR_CLK, 4, 4⟩
abbrev PWR_AVS : Nat := 0xe0024
abbrev PWR_AVS.Target : Fld := ⟨PWR_AVS, 4, 0⟩
abbrev PWR_IRQ_STATUS : Nat := 0xe0078
abbrev PWR_IRQ_STATUS.Pfail : Fld := ⟨PWR_IRQ_STATUS, 0, 0⟩
abbrev PWR_IRQ_STATUS.Woke : Fld := ⟨PWR_IRQ_STATUS, 1, 1⟩
abbrev PWR_IRQ_STATUS.ClockEvent : Fld := ⟨PWR_IRQ_STATUS, 2, 2⟩
abbrev PWR_IRQ_STATUS.SleepAborted : Fld := ⟨PWR_IRQ_STATUS, 3, 3⟩
abbrev PWR_IRQ_STATUS.AoTimer : Fld := ⟨PWR_IRQ_STATUS, 4, 4⟩
abbrev PWR_IRQ_EN : Nat := 0xe007c
abbrev PWR_IRQ_EN.Pfail : Fld := ⟨PWR_IRQ_EN, 0, 0⟩
abbrev PWR_IRQ_EN.Woke : Fld := ⟨PWR_IRQ_EN, 1, 1⟩
abbrev PWR_IRQ_EN.ClockEvent : Fld := ⟨PWR_IRQ_EN, 2, 2⟩
abbrev PWR_IRQ_EN.SleepAborted : Fld := ⟨PWR_IRQ_EN, 3, 3⟩
abbrev PWR_IRQ_EN.AoTimer : Fld := ⟨PWR_IRQ_EN, 4, 4⟩
abbrev PWR_DOM (b : Nat) : Nat := 0xe0100 + 0x4 * b
abbrev PWR_DOM.State (b : Nat) : Fld := ⟨PWR_DOM b, 1, 0⟩
abbrev PWR_DOM.Votes (b : Nat) : Fld := ⟨PWR_DOM b, 15, 8⟩
abbrev PWR_DOM.Hold (b : Nat) : Fld := ⟨PWR_DOM b, 16, 16⟩
abbrev PWR_DOMWAKE (b : Nat) : Nat := 0xe0300 + 0x4 * b
abbrev PWR_DOMWAKE.Count (b : Nat) : Fld := ⟨PWR_DOMWAKE b, 31, 0⟩

def pwrRows0 : List RegRow := [
  ⟨"PWR_STATUS", 0xe0000, 0x0, 1, 0x0, 1, .system,
    [⟨"Standby", 0, 0, .ro, 0⟩, ⟨"Entering", 1, 1, .ro, 0⟩, ⟨"Pfail", 2, 2, .ro, 0⟩, ⟨"SleepRefused", 3, 3, .w1c, 0⟩, ⟨"CoreGood", 4, 4, .ro, 0⟩, ⟨"SramGood", 5, 5, .ro, 0⟩]⟩,
  ⟨"PWR_CTRL", 0xe0004, 0x0, 1, 0x0, 1, .warm,
    [⟨"Standby", 0, 0, .rw, 0⟩, ⟨"Sleep", 1, 1, .wo, 0⟩]⟩,
  ⟨"PWR_WAKE", 0xe0008, 0x0, 1, 0x0, 1, .cold,
    [⟨"Source", 3, 0, .ro, 0⟩]⟩,
  ⟨"PWR_WAKE_TICKS", 0xe000c, 0x0, 1, 0x0, 1, .system,
    [⟨"Ticks", 31, 0, .ro, 0⟩]⟩,
  ⟨"PWR_WAKEEN", 0xe0010, 0x0, 1, 0x0, 1, .system,
    [⟨"Enable", 5, 0, .rw, 0x3f⟩]⟩,
  ⟨"PWR_AOTIMER", 0xe0014, 0x0, 1, 0x0, 1, .system,
    [⟨"Ticks", 31, 0, .rw, 0⟩]⟩,
  ⟨"PWR_PFAIL", 0xe0018, 0x0, 1, 0x0, 1, .warm,
    [⟨"DrainTo", 10, 0, .rw, 0x64⟩]⟩,
  ⟨"PWR_IDLE", 0xe001c, 0x0, 1, 0x0, 1, .warm,
    [⟨"Ticks", 15, 0, .rw, 0x3e8⟩]⟩,
  ⟨"PWR_CLK", 0xe0020, 0x0, 1, 0x0, 1, .system,
    [⟨"AoSource", 0, 0, .ro, 0⟩, ⟨"XtalFailed", 1, 1, .w1c, 0⟩, ⟨"RefSysOk", 2, 2, .ro, 0⟩, ⟨"RefHostOk", 3, 3, .ro, 0⟩, ⟨"PllLock", 4, 4, .ro, 0⟩]⟩,
  ⟨"PWR_AVS", 0xe0024, 0x0, 1, 0x0, 1, .system,
    [⟨"Target", 4, 0, .ro, 0xa⟩]⟩,
  ⟨"PWR_IRQ_STATUS", 0xe0078, 0x0, 1, 0x0, 1, .system,
    [⟨"Pfail", 0, 0, .w1c, 0⟩, ⟨"Woke", 1, 1, .w1c, 0⟩, ⟨"ClockEvent", 2, 2, .w1c, 0⟩, ⟨"SleepAborted", 3, 3, .w1c, 0⟩, ⟨"AoTimer", 4, 4, .w1c, 0⟩]⟩,
  ⟨"PWR_IRQ_EN", 0xe007c, 0x0, 1, 0x0, 1, .system,
    [⟨"Pfail", 0, 0, .rw, 0⟩, ⟨"Woke", 1, 1, .rw, 0⟩, ⟨"ClockEvent", 2, 2, .rw, 0⟩, ⟨"SleepAborted", 3, 3, .rw, 0⟩, ⟨"AoTimer", 4, 4, .rw, 0⟩]⟩,
  ⟨"PWR_DOM", 0xe0100, 0x4, 96, 0x0, 1, .warm,
    [⟨"State", 1, 0, .ro, 0⟩, ⟨"Votes", 15, 8, .ro, 0⟩, ⟨"Hold", 16, 16, .rw, 0⟩]⟩,
  ⟨"PWR_DOMWAKE", 0xe0300, 0x4, 96, 0x0, 1, .system,
    [⟨"Count", 31, 0, .ro, 0⟩]⟩]

/-- The PWR block's register table (R546). -/
def pwrRows : List RegRow := pwrRows0

/-! ## RST block (R547, 16_power_reset.md) -/

abbrev RST_STATUS : Nat := 0xf0000
abbrev RST_STATUS.BootState : Fld := ⟨RST_STATUS, 1, 0⟩
abbrev RST_STATUS.BootSlot : Fld := ⟨RST_STATUS, 2, 2⟩
abbrev RST_STATUS.DebugUnlocked : Fld := ⟨RST_STATUS, 3, 3⟩
abbrev RST_STATUS.OptInvalid : Fld := ⟨RST_STATUS, 4, 4⟩
abbrev RST_CAUSE : Nat := 0xf0004
abbrev RST_CAUSE.Sources : Fld := ⟨RST_CAUSE, 10, 0⟩
abbrev RST_CAUSE_ALL : Nat := 0xf0008
abbrev RST_CAUSE_ALL.Sources : Fld := ⟨RST_CAUSE_ALL, 10, 0⟩
abbrev RST_EPISODES : Nat := 0xf000c
abbrev RST_EPISODES.Count : Fld := ⟨RST_EPISODES, 15, 0⟩
abbrev RST_SWREQ : Nat := 0xf0010
abbrev RST_SWREQ.Reach : Fld := ⟨RST_SWREQ, 0, 0⟩
abbrev RST_SWREQ.Key : Fld := ⟨RST_SWREQ, 31, 8⟩
abbrev RST_WDT_CFG : Nat := 0xf0014
abbrev RST_WDT_CFG.Enable : Fld := ⟨RST_WDT_CFG, 0, 0⟩
abbrev RST_WDT_TO : Nat := 0xf0018
abbrev RST_WDT_TO.Ticks : Fld := ⟨RST_WDT_TO, 31, 0⟩
abbrev RST_WDT_KICK : Nat := 0xf001c
abbrev RST_WDT_KICK.Key : Fld := ⟨RST_WDT_KICK, 15, 0⟩
abbrev RST_WDT_COUNT : Nat := 0xf0020
abbrev RST_WDT_COUNT.Ticks : Fld := ⟨RST_WDT_COUNT, 31, 0⟩
abbrev RST_FWVER : Nat := 0xf0024
abbrev RST_FWVER.Version : Fld := ⟨RST_FWVER, 31, 0⟩
abbrev RST_IRQ_STATUS : Nat := 0xf0078
abbrev RST_IRQ_STATUS.WdtHalf : Fld := ⟨RST_IRQ_STATUS, 0, 0⟩
abbrev RST_IRQ_STATUS.BootFallback : Fld := ⟨RST_IRQ_STATUS, 1, 1⟩
abbrev RST_IRQ_STATUS.OptInvalid : Fld := ⟨RST_IRQ_STATUS, 2, 2⟩
abbrev RST_IRQ_EN : Nat := 0xf007c
abbrev RST_IRQ_EN.WdtHalf : Fld := ⟨RST_IRQ_EN, 0, 0⟩
abbrev RST_IRQ_EN.BootFallback : Fld := ⟨RST_IRQ_EN, 1, 1⟩
abbrev RST_IRQ_EN.OptInvalid : Fld := ⟨RST_IRQ_EN, 2, 2⟩
abbrev RST_BACKUP (b : Nat) : Nat := 0xf0100 + 0x4 * b
abbrev RST_BACKUP.Value (b : Nat) : Fld := ⟨RST_BACKUP b, 31, 0⟩
abbrev RST_RETAINED (b : Nat) : Nat := 0xf8000 + 0x4 * b
abbrev RST_RETAINED.Word (b : Nat) : Fld := ⟨RST_RETAINED b, 31, 0⟩

def rstRows0 : List RegRow := [
  ⟨"RST_STATUS", 0xf0000, 0x0, 1, 0x0, 1, .warm,
    [⟨"BootState", 1, 0, .ro, 0⟩, ⟨"BootSlot", 2, 2, .ro, 0⟩, ⟨"DebugUnlocked", 3, 3, .ro, 0⟩, ⟨"OptInvalid", 4, 4, .ro, 0⟩]⟩,
  ⟨"RST_CAUSE", 0xf0004, 0x0, 1, 0x0, 1, .cold,
    [⟨"Sources", 10, 0, .ro, 1⟩]⟩,
  ⟨"RST_CAUSE_ALL", 0xf0008, 0x0, 1, 0x0, 1, .cold,
    [⟨"Sources", 10, 0, .ro, 1⟩]⟩,
  ⟨"RST_EPISODES", 0xf000c, 0x0, 1, 0x0, 1, .cold,
    [⟨"Count", 15, 0, .ro, 0⟩]⟩,
  ⟨"RST_SWREQ", 0xf0010, 0x0, 1, 0x0, 1, .warm,
    [⟨"Reach", 0, 0, .wo, 0⟩, ⟨"Key", 31, 8, .wo, 0⟩]⟩,
  ⟨"RST_WDT_CFG", 0xf0014, 0x0, 1, 0x0, 1, .system,
    [⟨"Enable", 0, 0, .rw, 0⟩]⟩,
  ⟨"RST_WDT_TO", 0xf0018, 0x0, 1, 0x0, 1, .system,
    [⟨"Ticks", 31, 0, .rw, 0x989680⟩]⟩,
  ⟨"RST_WDT_KICK", 0xf001c, 0x0, 1, 0x0, 1, .system,
    [⟨"Key", 15, 0, .wo, 0⟩]⟩,
  ⟨"RST_WDT_COUNT", 0xf0020, 0x0, 1, 0x0, 1, .system,
    [⟨"Ticks", 31, 0, .ro, 0⟩]⟩,
  ⟨"RST_FWVER", 0xf0024, 0x0, 1, 0x0, 1, .warm,
    [⟨"Version", 31, 0, .ro, 0⟩]⟩,
  ⟨"RST_IRQ_STATUS", 0xf0078, 0x0, 1, 0x0, 1, .warm,
    [⟨"WdtHalf", 0, 0, .w1c, 0⟩, ⟨"BootFallback", 1, 1, .w1c, 0⟩, ⟨"OptInvalid", 2, 2, .w1c, 0⟩]⟩,
  ⟨"RST_IRQ_EN", 0xf007c, 0x0, 1, 0x0, 1, .warm,
    [⟨"WdtHalf", 0, 0, .rw, 0⟩, ⟨"BootFallback", 1, 1, .rw, 0⟩, ⟨"OptInvalid", 2, 2, .rw, 0⟩]⟩,
  ⟨"RST_BACKUP", 0xf0100, 0x4, 16, 0x0, 1, .cold,
    [⟨"Value", 31, 0, .rw, 0⟩]⟩,
  ⟨"RST_RETAINED", 0xf8000, 0x4, 2048, 0x0, 1, .cold,
    [⟨"Word", 31, 0, .rw, 0⟩]⟩]

/-- The RST block's register table (R547). -/
def rstRows : List RegRow := rstRows0

/-! ## MNT block (R569, 17_maintenance.md) -/

abbrev MNT_STATUS : Nat := 0x100000
abbrev MNT_STATUS.ConsoleMode : Fld := ⟨MNT_STATUS, 0, 0⟩
abbrev MNT_STATUS.DebugUnlocked : Fld := ⟨MNT_STATUS, 1, 1⟩
abbrev MNT_STATUS.JtagTest : Fld := ⟨MNT_STATUS, 2, 2⟩
abbrev MNT_STATUS.BistBusy : Fld := ⟨MNT_STATUS, 3, 3⟩
abbrev MNT_STATUS.M2wBusy : Fld := ⟨MNT_STATUS, 4, 4⟩
abbrev MNT_CONSOLE : Nat := 0x100004
abbrev MNT_CONSOLE.Frac : Fld := ⟨MNT_CONSOLE, 3, 0⟩
abbrev MNT_CONSOLE.Div : Fld := ⟨MNT_CONSOLE, 15, 4⟩
abbrev MNT_CONSOLE.ModeAfterReset : Fld := ⟨MNT_CONSOLE, 16, 16⟩
abbrev MNT_AMON : Nat := 0x100008
abbrev MNT_AMON.Source : Fld := ⟨MNT_AMON, 15, 0⟩
abbrev MNT_FMON : Nat := 0x10000c
abbrev MNT_FMON.Source : Fld := ⟨MNT_FMON, 15, 0⟩
abbrev MNT_FMON.Div : Fld := ⟨MNT_FMON, 31, 16⟩
abbrev MNT_LED : Nat := 0x100010
abbrev MNT_LED.PatternA : Fld := ⟨MNT_LED, 7, 0⟩
abbrev MNT_LED.PatternB : Fld := ⟨MNT_LED, 15, 8⟩
abbrev MNT_LED.ShownA : Fld := ⟨MNT_LED, 23, 16⟩
abbrev MNT_LED.ShownB : Fld := ⟨MNT_LED, 31, 24⟩
abbrev MNT_TEMP : Nat := 0x100014
abbrev MNT_TEMP.Temp : Fld := ⟨MNT_TEMP, 7, 0⟩
abbrev MNT_TEMP.Valid : Fld := ⟨MNT_TEMP, 8, 8⟩
abbrev MNT_BIST : Nat := 0x100018
abbrev MNT_BIST.Test : Fld := ⟨MNT_BIST, 7, 0⟩
abbrev MNT_BIST.Outcome : Fld := ⟨MNT_BIST, 9, 8⟩
abbrev MNT_BIST.Busy : Fld := ⟨MNT_BIST, 10, 10⟩
abbrev MNT_BIST.Unit : Fld := ⟨MNT_BIST, 31, 16⟩
abbrev MNT_UARTERR : Nat := 0x100020
abbrev MNT_UARTERR.Count : Fld := ⟨MNT_UARTERR, 31, 0⟩
abbrev MNT_LINEDROP : Nat := 0x100024
abbrev MNT_LINEDROP.Count : Fld := ⟨MNT_LINEDROP, 31, 0⟩
abbrev MNT_BREAKS : Nat := 0x100028
abbrev MNT_BREAKS.Count : Fld := ⟨MNT_BREAKS, 31, 0⟩
abbrev MNT_M2WXFER : Nat := 0x10002c
abbrev MNT_M2WXFER.Count : Fld := ⟨MNT_M2WXFER, 31, 0⟩
abbrev MNT_IRQ_STATUS : Nat := 0x100078
abbrev MNT_IRQ_STATUS.BistDone : Fld := ⟨MNT_IRQ_STATUS, 0, 0⟩
abbrev MNT_IRQ_STATUS.Break : Fld := ⟨MNT_IRQ_STATUS, 1, 1⟩
abbrev MNT_IRQ_STATUS.M2wCommand : Fld := ⟨MNT_IRQ_STATUS, 2, 2⟩
abbrev MNT_IRQ_STATUS.UartError : Fld := ⟨MNT_IRQ_STATUS, 3, 3⟩
abbrev MNT_IRQ_STATUS.FuseProgrammed : Fld := ⟨MNT_IRQ_STATUS, 4, 4⟩
abbrev MNT_IRQ_STATUS.CfgRefused : Fld := ⟨MNT_IRQ_STATUS, 5, 5⟩
abbrev MNT_IRQ_EN : Nat := 0x10007c
abbrev MNT_IRQ_EN.BistDone : Fld := ⟨MNT_IRQ_EN, 0, 0⟩
abbrev MNT_IRQ_EN.Break : Fld := ⟨MNT_IRQ_EN, 1, 1⟩
abbrev MNT_IRQ_EN.M2wCommand : Fld := ⟨MNT_IRQ_EN, 2, 2⟩
abbrev MNT_IRQ_EN.UartError : Fld := ⟨MNT_IRQ_EN, 3, 3⟩
abbrev MNT_IRQ_EN.FuseProgrammed : Fld := ⟨MNT_IRQ_EN, 4, 4⟩
abbrev MNT_IRQ_EN.CfgRefused : Fld := ⟨MNT_IRQ_EN, 5, 5⟩

def mntRows0 : List RegRow := [
  ⟨"MNT_STATUS", 0x100000, 0x0, 1, 0x0, 1, .warm,
    [⟨"ConsoleMode", 0, 0, .ro, 0⟩, ⟨"DebugUnlocked", 1, 1, .ro, 0⟩, ⟨"JtagTest", 2, 2, .ro, 0⟩, ⟨"BistBusy", 3, 3, .ro, 0⟩, ⟨"M2wBusy", 4, 4, .ro, 0⟩]⟩,
  ⟨"MNT_CONSOLE", 0x100004, 0x0, 1, 0x0, 1, .cold,
    [⟨"Frac", 3, 0, .rw, 1⟩, ⟨"Div", 15, 4, .rw, 0x1a⟩, ⟨"ModeAfterReset", 16, 16, .rw, 0⟩]⟩,
  ⟨"MNT_AMON", 0x100008, 0x0, 1, 0x0, 1, .warm,
    [⟨"Source", 15, 0, .rw, 1⟩]⟩,
  ⟨"MNT_FMON", 0x10000c, 0x0, 1, 0x0, 1, .warm,
    [⟨"Source", 15, 0, .rw, 1⟩, ⟨"Div", 31, 16, .rw, 0x3e8⟩]⟩,
  ⟨"MNT_LED", 0x100010, 0x0, 1, 0x0, 1, .warm,
    [⟨"PatternA", 7, 0, .rw, 0xff⟩, ⟨"PatternB", 15, 8, .rw, 0xff⟩, ⟨"ShownA", 23, 16, .ro, 1⟩, ⟨"ShownB", 31, 24, .ro, 0⟩]⟩,
  ⟨"MNT_TEMP", 0x100014, 0x0, 1, 0x0, 1, .warm,
    [⟨"Temp", 7, 0, .ro, 0x80⟩, ⟨"Valid", 8, 8, .ro, 0⟩]⟩,
  ⟨"MNT_BIST", 0x100018, 0x0, 1, 0x0, 1, .warm,
    [⟨"Test", 7, 0, .ro, 0⟩, ⟨"Outcome", 9, 8, .ro, 0⟩, ⟨"Busy", 10, 10, .ro, 0⟩, ⟨"Unit", 31, 16, .ro, 0⟩]⟩,
  ⟨"MNT_UARTERR", 0x100020, 0x0, 1, 0x0, 1, .warm,
    [⟨"Count", 31, 0, .rc, 0⟩]⟩,
  ⟨"MNT_LINEDROP", 0x100024, 0x0, 1, 0x0, 1, .warm,
    [⟨"Count", 31, 0, .rc, 0⟩]⟩,
  ⟨"MNT_BREAKS", 0x100028, 0x0, 1, 0x0, 1, .warm,
    [⟨"Count", 31, 0, .rc, 0⟩]⟩,
  ⟨"MNT_M2WXFER", 0x10002c, 0x0, 1, 0x0, 1, .warm,
    [⟨"Count", 31, 0, .rc, 0⟩]⟩,
  ⟨"MNT_IRQ_STATUS", 0x100078, 0x0, 1, 0x0, 1, .warm,
    [⟨"BistDone", 0, 0, .w1c, 0⟩, ⟨"Break", 1, 1, .w1c, 0⟩, ⟨"M2wCommand", 2, 2, .w1c, 0⟩, ⟨"UartError", 3, 3, .w1c, 0⟩, ⟨"FuseProgrammed", 4, 4, .w1c, 0⟩, ⟨"CfgRefused", 5, 5, .w1c, 0⟩]⟩,
  ⟨"MNT_IRQ_EN", 0x10007c, 0x0, 1, 0x0, 1, .warm,
    [⟨"BistDone", 0, 0, .rw, 0⟩, ⟨"Break", 1, 1, .rw, 0⟩, ⟨"M2wCommand", 2, 2, .rw, 0⟩, ⟨"UartError", 3, 3, .rw, 0⟩, ⟨"FuseProgrammed", 4, 4, .rw, 0⟩, ⟨"CfgRefused", 5, 5, .rw, 0⟩]⟩]

/-- The MNT block's register table (R569). -/
def mntRows : List RegRow := mntRows0

/-! ## CRP block (R478, 14_rings_carrels.md) -/

abbrev CRP_EVENT (b : Nat) : Nat := 0x1000000c + 0x10000 * b
abbrev CRP_EVENT.RingHalted (b : Nat) : Fld := ⟨CRP_EVENT b, 0, 0⟩
abbrev CRP_EVENT.FetchError (b : Nat) : Fld := ⟨CRP_EVENT b, 1, 1⟩
abbrev CRP_EVENT.ResetDone (b : Nat) : Fld := ⟨CRP_EVENT b, 2, 2⟩
abbrev CRP_RINGMAP (b : Nat) (k : Nat) : Nat := 0x10000400 + 0x10000 * b + 0x4 * k
abbrev CRP_RINGMAP.Ring (b : Nat) (k : Nat) : Fld := ⟨CRP_RINGMAP b k, 11, 0⟩
abbrev CRP_RINGMAP.Valid (b : Nat) (k : Nat) : Fld := ⟨CRP_RINGMAP b k, 31, 31⟩
abbrev CRP_VECMAP (b : Nat) (k : Nat) : Nat := 0x10001e00 + 0x10000 * b + 0x4 * k
abbrev CRP_VECMAP.Vector (b : Nat) (k : Nat) : Fld := ⟨CRP_VECMAP b k, 10, 0⟩
abbrev CRP_VECMAP.Valid (b : Nat) (k : Nat) : Fld := ⟨CRP_VECMAP b k, 31, 31⟩

def crpRows0 : List RegRow := [
  ⟨"CRP_EVENT", 0x1000000c, 0x10000, 256, 0x0, 1, .warm,
    [⟨"RingHalted", 0, 0, .w1c, 0⟩, ⟨"FetchError", 1, 1, .w1c, 0⟩, ⟨"ResetDone", 2, 2, .w1c, 0⟩]⟩,
  ⟨"CRP_RINGMAP", 0x10000400, 0x10000, 256, 0x4, 64, .warm,
    [⟨"Ring", 11, 0, .ro, 0⟩, ⟨"Valid", 31, 31, .ro, 0⟩]⟩,
  ⟨"CRP_VECMAP", 0x10001e00, 0x10000, 256, 0x4, 64, .warm,
    [⟨"Vector", 10, 0, .ro, 0⟩, ⟨"Valid", 31, 31, .ro, 0⟩]⟩]

/-- The CRP block's register table (R478). -/
def crpRows : List RegRow := crpRows0

/-! ## BAYR block (R110, 04_engines.md) -/

abbrev BAYR_PH_W0 (b : Nat) (k : Nat) : Nat := 0x20000000 + 0x1000 * b + 0x10 * k
abbrev BAYR_PH_W0.StreamId (b : Nat) (k : Nat) : Fld := ⟨BAYR_PH_W0 b k, 15, 0⟩
abbrev BAYR_PH_W0.Enable (b : Nat) (k : Nat) : Fld := ⟨BAYR_PH_W0 b k, 16, 16⟩
abbrev BAYR_PH_W0.RefMode (b : Nat) (k : Nat) : Fld := ⟨BAYR_PH_W0 b k, 17, 17⟩
abbrev BAYR_PH_W0.Scale (b : Nat) (k : Nat) : Fld := ⟨BAYR_PH_W0 b k, 18, 18⟩
abbrev BAYR_PH_W1 (b : Nat) (k : Nat) : Nat := 0x20000004 + 0x1000 * b + 0x10 * k
abbrev BAYR_PH_W1.Window (b : Nat) (k : Nat) : Fld := ⟨BAYR_PH_W1 b k, 12, 0⟩
abbrev BAYR_PH_W1.Bin (b : Nat) (k : Nat) : Fld := ⟨BAYR_PH_W1 b k, 28, 16⟩
abbrev BAYR_PR_RE (b : Nat) (k : Nat) : Nat := 0x20000200 + 0x1000 * b + 0x10 * k
abbrev BAYR_PR_RE.Re (b : Nat) (k : Nat) : Fld := ⟨BAYR_PR_RE b k, 31, 0⟩
abbrev BAYR_PR_IM (b : Nat) (k : Nat) : Nat := 0x20000204 + 0x1000 * b + 0x10 * k
abbrev BAYR_PR_IM.Im (b : Nat) (k : Nat) : Fld := ⟨BAYR_PR_IM b k, 31, 0⟩
abbrev BAYR_PR_COUNT (b : Nat) (k : Nat) : Nat := 0x20000208 + 0x1000 * b + 0x10 * k
abbrev BAYR_PR_COUNT.Count (b : Nat) (k : Nat) : Fld := ⟨BAYR_PR_COUNT b k, 31, 0⟩
abbrev BAYR_PR_STAT (b : Nat) (k : Nat) : Nat := 0x2000020c + 0x1000 * b + 0x10 * k
abbrev BAYR_PR_STAT.Valid (b : Nat) (k : Nat) : Fld := ⟨BAYR_PR_STAT b k, 0, 0⟩
abbrev BAYR_PR_STAT.Unsuitable (b : Nat) (k : Nat) : Fld := ⟨BAYR_PR_STAT b k, 1, 1⟩
abbrev BAYR_PR_STAT.FrameLow (b : Nat) (k : Nat) : Fld := ⟨BAYR_PR_STAT b k, 31, 16⟩
abbrev BAYR_SD_KEY (b : Nat) (k : Nat) : Nat := 0x20000400 + 0x1000 * b + 0x10 * k
abbrev BAYR_SD_KEY.KeyAddr (b : Nat) (k : Nat) : Fld := ⟨BAYR_SD_KEY b k, 14, 0⟩
abbrev BAYR_SD_RANK (b : Nat) (k : Nat) : Nat := 0x20000404 + 0x1000 * b + 0x10 * k
abbrev BAYR_SD_RANK.RankAddr (b : Nat) (k : Nat) : Fld := ⟨BAYR_SD_RANK b k, 14, 0⟩
abbrev BAYR_SD_CNT (b : Nat) (k : Nat) : Nat := 0x20000408 + 0x1000 * b + 0x10 * k
abbrev BAYR_SD_CNT.Count (b : Nat) (k : Nat) : Fld := ⟨BAYR_SD_CNT b k, 6, 0⟩
abbrev BAYR_SD_CNT.Format (b : Nat) (k : Nat) : Fld := ⟨BAYR_SD_CNT b k, 9, 8⟩
abbrev BAYR_SD_CNT.Order (b : Nat) (k : Nat) : Fld := ⟨BAYR_SD_CNT b k, 12, 12⟩
abbrev BAYR_SD_START (b : Nat) (k : Nat) : Nat := 0x2000040c + 0x1000 * b + 0x10 * k
abbrev BAYR_SD_START.Start (b : Nat) (k : Nat) : Fld := ⟨BAYR_SD_START b k, 0, 0⟩
abbrev BAYR_SS (b : Nat) (k : Nat) : Nat := 0x20000480 + 0x1000 * b + 0x4 * k
abbrev BAYR_SS.Busy (b : Nat) (k : Nat) : Fld := ⟨BAYR_SS b k, 0, 0⟩
abbrev BAYR_SS.Done (b : Nat) (k : Nat) : Fld := ⟨BAYR_SS b k, 1, 1⟩
abbrev BAYR_SS.Error (b : Nat) (k : Nat) : Fld := ⟨BAYR_SS b k, 2, 2⟩
abbrev BAYR_BIC_EN_LO (b : Nat) : Nat := 0x20000800 + 0x1000 * b
abbrev BAYR_BIC_EN_LO.Enable (b : Nat) : Fld := ⟨BAYR_BIC_EN_LO b, 31, 0⟩
abbrev BAYR_BIC_EN_HI (b : Nat) : Nat := 0x20000804 + 0x1000 * b
abbrev BAYR_BIC_EN_HI.Enable (b : Nat) : Fld := ⟨BAYR_BIC_EN_HI b, 23, 0⟩
abbrev BAYR_BIC_CLS_LO (b : Nat) : Nat := 0x20000808 + 0x1000 * b
abbrev BAYR_BIC_CLS_LO.Fast (b : Nat) : Fld := ⟨BAYR_BIC_CLS_LO b, 31, 0⟩
abbrev BAYR_BIC_CLS_HI (b : Nat) : Nat := 0x2000080c + 0x1000 * b
abbrev BAYR_BIC_CLS_HI.Fast (b : Nat) : Fld := ⟨BAYR_BIC_CLS_HI b, 23, 0⟩
abbrev BAYR_BIC_PEND_LO (b : Nat) : Nat := 0x20000810 + 0x1000 * b
abbrev BAYR_BIC_PEND_LO.Pending (b : Nat) : Fld := ⟨BAYR_BIC_PEND_LO b, 31, 0⟩
abbrev BAYR_BIC_PEND_HI (b : Nat) : Nat := 0x20000814 + 0x1000 * b
abbrev BAYR_BIC_PEND_HI.Pending (b : Nat) : Fld := ⟨BAYR_BIC_PEND_HI b, 31, 0⟩
abbrev BAYR_BIC_ACT_LO (b : Nat) : Nat := 0x20000818 + 0x1000 * b
abbrev BAYR_BIC_ACT_LO.Active (b : Nat) : Fld := ⟨BAYR_BIC_ACT_LO b, 31, 0⟩
abbrev BAYR_BIC_ACT_HI (b : Nat) : Nat := 0x2000081c + 0x1000 * b
abbrev BAYR_BIC_ACT_HI.Active (b : Nat) : Fld := ⟨BAYR_BIC_ACT_HI b, 31, 0⟩
abbrev BAYR_BIC_KIND_LO (b : Nat) : Nat := 0x20000820 + 0x1000 * b
abbrev BAYR_BIC_KIND_LO.Level (b : Nat) : Fld := ⟨BAYR_BIC_KIND_LO b, 31, 0⟩
abbrev BAYR_BIC_KIND_HI (b : Nat) : Nat := 0x20000824 + 0x1000 * b
abbrev BAYR_BIC_KIND_HI.Level (b : Nat) : Fld := ⟨BAYR_BIC_KIND_HI b, 31, 0⟩
abbrev BAYR_BIC_DOORBELL (b : Nat) : Nat := 0x20000828 + 0x1000 * b
abbrev BAYR_BIC_DOORBELL.Ring (b : Nat) : Fld := ⟨BAYR_BIC_DOORBELL b, 7, 0⟩
abbrev BAYR_BIC_STRAY (b : Nat) : Nat := 0x2000082c + 0x1000 * b
abbrev BAYR_BIC_STRAY.Count (b : Nat) : Fld := ⟨BAYR_BIC_STRAY b, 31, 0⟩
abbrev BAYR_BIC_FSRC (b : Nat) (k : Nat) : Nat := 0x20000900 + 0x1000 * b + 0x10 * k
abbrev BAYR_BIC_FSRC.Source (b : Nat) (k : Nat) : Fld := ⟨BAYR_BIC_FSRC b k, 5, 0⟩
abbrev BAYR_BIC_FSRC.Valid (b : Nat) (k : Nat) : Fld := ⟨BAYR_BIC_FSRC b k, 31, 31⟩
abbrev BAYR_BIC_FCOMP (b : Nat) (k : Nat) : Nat := 0x20000904 + 0x1000 * b + 0x10 * k
abbrev BAYR_BIC_FCOMP.Source (b : Nat) (k : Nat) : Fld := ⟨BAYR_BIC_FCOMP b k, 7, 0⟩
abbrev BAYR_BIC_NSRC (b : Nat) (k : Nat) : Nat := 0x20000908 + 0x1000 * b + 0x10 * k
abbrev BAYR_BIC_NSRC.Source (b : Nat) (k : Nat) : Fld := ⟨BAYR_BIC_NSRC b k, 5, 0⟩
abbrev BAYR_BIC_NSRC.Valid (b : Nat) (k : Nat) : Fld := ⟨BAYR_BIC_NSRC b k, 31, 31⟩
abbrev BAYR_BIC_NCOMP (b : Nat) (k : Nat) : Nat := 0x2000090c + 0x1000 * b + 0x10 * k
abbrev BAYR_BIC_NCOMP.Source (b : Nat) (k : Nat) : Fld := ⟨BAYR_BIC_NCOMP b k, 7, 0⟩
abbrev BAYR_BIC_ROUTE (b : Nat) (k : Nat) : Nat := 0x20000a00 + 0x1000 * b + 0x4 * k
abbrev BAYR_BIC_ROUTE.Engine (b : Nat) (k : Nat) : Fld := ⟨BAYR_BIC_ROUTE b k, 2, 0⟩

def bayrRows0 : List RegRow := [
  ⟨"BAYR_PH_W0", 0x20000000, 0x1000, 64, 0x10, 32, .warm,
    [⟨"StreamId", 15, 0, .rw, 0⟩, ⟨"Enable", 16, 16, .rw, 0⟩, ⟨"RefMode", 17, 17, .rw, 0⟩, ⟨"Scale", 18, 18, .rw, 0⟩]⟩,
  ⟨"BAYR_PH_W1", 0x20000004, 0x1000, 64, 0x10, 32, .warm,
    [⟨"Window", 12, 0, .rw, 0⟩, ⟨"Bin", 28, 16, .rw, 0⟩]⟩,
  ⟨"BAYR_PR_RE", 0x20000200, 0x1000, 64, 0x10, 32, .warm,
    [⟨"Re", 31, 0, .ro, 0⟩]⟩,
  ⟨"BAYR_PR_IM", 0x20000204, 0x1000, 64, 0x10, 32, .warm,
    [⟨"Im", 31, 0, .ro, 0⟩]⟩,
  ⟨"BAYR_PR_COUNT", 0x20000208, 0x1000, 64, 0x10, 32, .warm,
    [⟨"Count", 31, 0, .ro, 0⟩]⟩,
  ⟨"BAYR_PR_STAT", 0x2000020c, 0x1000, 64, 0x10, 32, .warm,
    [⟨"Valid", 0, 0, .ro, 0⟩, ⟨"Unsuitable", 1, 1, .ro, 0⟩, ⟨"FrameLow", 31, 16, .ro, 0⟩]⟩,
  ⟨"BAYR_SD_KEY", 0x20000400, 0x1000, 64, 0x10, 8, .warm,
    [⟨"KeyAddr", 14, 0, .rw, 0⟩]⟩,
  ⟨"BAYR_SD_RANK", 0x20000404, 0x1000, 64, 0x10, 8, .warm,
    [⟨"RankAddr", 14, 0, .rw, 0⟩]⟩,
  ⟨"BAYR_SD_CNT", 0x20000408, 0x1000, 64, 0x10, 8, .warm,
    [⟨"Count", 6, 0, .rw, 0⟩, ⟨"Format", 9, 8, .rw, 0⟩, ⟨"Order", 12, 12, .rw, 0⟩]⟩,
  ⟨"BAYR_SD_START", 0x2000040c, 0x1000, 64, 0x10, 8, .warm,
    [⟨"Start", 0, 0, .wo, 0⟩]⟩,
  ⟨"BAYR_SS", 0x20000480, 0x1000, 64, 0x4, 8, .warm,
    [⟨"Busy", 0, 0, .ro, 0⟩, ⟨"Done", 1, 1, .rc, 0⟩, ⟨"Error", 2, 2, .rc, 0⟩]⟩,
  ⟨"BAYR_BIC_EN_LO", 0x20000800, 0x1000, 64, 0x0, 1, .warm,
    [⟨"Enable", 31, 0, .rw, 0⟩]⟩,
  ⟨"BAYR_BIC_EN_HI", 0x20000804, 0x1000, 64, 0x0, 1, .warm,
    [⟨"Enable", 23, 0, .rw, 0⟩]⟩,
  ⟨"BAYR_BIC_CLS_LO", 0x20000808, 0x1000, 64, 0x0, 1, .warm,
    [⟨"Fast", 31, 0, .rw, 0⟩]⟩,
  ⟨"BAYR_BIC_CLS_HI", 0x2000080c, 0x1000, 64, 0x0, 1, .warm,
    [⟨"Fast", 23, 0, .rw, 0⟩]⟩,
  ⟨"BAYR_BIC_PEND_LO", 0x20000810, 0x1000, 64, 0x0, 1, .warm,
    [⟨"Pending", 31, 0, .ro, 0⟩]⟩]

def bayrRows1 : List RegRow := [
  ⟨"BAYR_BIC_PEND_HI", 0x20000814, 0x1000, 64, 0x0, 1, .warm,
    [⟨"Pending", 31, 0, .ro, 0⟩]⟩,
  ⟨"BAYR_BIC_ACT_LO", 0x20000818, 0x1000, 64, 0x0, 1, .warm,
    [⟨"Active", 31, 0, .ro, 0⟩]⟩,
  ⟨"BAYR_BIC_ACT_HI", 0x2000081c, 0x1000, 64, 0x0, 1, .warm,
    [⟨"Active", 31, 0, .ro, 0⟩]⟩,
  ⟨"BAYR_BIC_KIND_LO", 0x20000820, 0x1000, 64, 0x0, 1, .warm,
    [⟨"Level", 31, 0, .ro, 0xf0ff⟩]⟩,
  ⟨"BAYR_BIC_KIND_HI", 0x20000824, 0x1000, 64, 0x0, 1, .warm,
    [⟨"Level", 31, 0, .ro, 0⟩]⟩,
  ⟨"BAYR_BIC_DOORBELL", 0x20000828, 0x1000, 64, 0x0, 1, .warm,
    [⟨"Ring", 7, 0, .w1s, 0⟩]⟩,
  ⟨"BAYR_BIC_STRAY", 0x2000082c, 0x1000, 64, 0x0, 1, .warm,
    [⟨"Count", 31, 0, .rc, 0⟩]⟩,
  ⟨"BAYR_BIC_FSRC", 0x20000900, 0x1000, 64, 0x10, 8, .warm,
    [⟨"Source", 5, 0, .ro, 0⟩, ⟨"Valid", 31, 31, .ro, 0⟩]⟩,
  ⟨"BAYR_BIC_FCOMP", 0x20000904, 0x1000, 64, 0x10, 8, .warm,
    [⟨"Source", 7, 0, .wo, 0⟩]⟩,
  ⟨"BAYR_BIC_NSRC", 0x20000908, 0x1000, 64, 0x10, 8, .warm,
    [⟨"Source", 5, 0, .ro, 0⟩, ⟨"Valid", 31, 31, .ro, 0⟩]⟩,
  ⟨"BAYR_BIC_NCOMP", 0x2000090c, 0x1000, 64, 0x10, 8, .warm,
    [⟨"Source", 7, 0, .wo, 0⟩]⟩,
  ⟨"BAYR_BIC_ROUTE", 0x20000a00, 0x1000, 64, 0x4, 56, .warm,
    [⟨"Engine", 2, 0, .rw, 0⟩]⟩]

/-- The BAYR block's register table (R110). -/
def bayrRows : List RegRow := bayrRows0 ++ bayrRows1

/-! ## CFG block (R384, 12_host_port.md) -/

abbrev CFG_ID : Nat := 0xa000000
abbrev CFG_ID.VendorId : Fld := ⟨CFG_ID, 15, 0⟩
abbrev CFG_ID.DeviceId : Fld := ⟨CFG_ID, 31, 16⟩
abbrev CFG_CMDSTS : Nat := 0xa000004
abbrev CFG_CMDSTS.MemSpace : Fld := ⟨CFG_CMDSTS, 1, 1⟩
abbrev CFG_CMDSTS.BusMaster : Fld := ⟨CFG_CMDSTS, 2, 2⟩
abbrev CFG_CMDSTS.ParityResponse : Fld := ⟨CFG_CMDSTS, 6, 6⟩
abbrev CFG_CMDSTS.SerrEnable : Fld := ⟨CFG_CMDSTS, 8, 8⟩
abbrev CFG_CMDSTS.InterruptDisable : Fld := ⟨CFG_CMDSTS, 10, 10⟩
abbrev CFG_CMDSTS.CapList : Fld := ⟨CFG_CMDSTS, 20, 20⟩
abbrev CFG_CMDSTS.MasterParity : Fld := ⟨CFG_CMDSTS, 24, 24⟩
abbrev CFG_CMDSTS.SignaledTargetAbort : Fld := ⟨CFG_CMDSTS, 27, 27⟩
abbrev CFG_CMDSTS.ReceivedTargetAbort : Fld := ⟨CFG_CMDSTS, 28, 28⟩
abbrev CFG_CMDSTS.ReceivedMasterAbort : Fld := ⟨CFG_CMDSTS, 29, 29⟩
abbrev CFG_CMDSTS.SignaledSystemError : Fld := ⟨CFG_CMDSTS, 30, 30⟩
abbrev CFG_CMDSTS.DetectedParity : Fld := ⟨CFG_CMDSTS, 31, 31⟩
abbrev CFG_CLASS : Nat := 0xa000008
abbrev CFG_CLASS.RevisionId : Fld := ⟨CFG_CLASS, 7, 0⟩
abbrev CFG_CLASS.ClassCode : Fld := ⟨CFG_CLASS, 31, 8⟩
abbrev CFG_LINE : Nat := 0xa00000c
abbrev CFG_LINE.CacheLine : Fld := ⟨CFG_LINE, 7, 0⟩
abbrev CFG_BAR0 : Nat := 0xa000010
abbrev CFG_BAR0.Type : Fld := ⟨CFG_BAR0, 3, 0⟩
abbrev CFG_BAR0.Addr : Fld := ⟨CFG_BAR0, 31, 26⟩
abbrev CFG_BAR1 : Nat := 0xa000014
abbrev CFG_BAR1.Addr : Fld := ⟨CFG_BAR1, 31, 0⟩
abbrev CFG_BAR2 : Nat := 0xa000018
abbrev CFG_BAR2.Type : Fld := ⟨CFG_BAR2, 3, 0⟩
abbrev CFG_BAR2.Addr : Fld := ⟨CFG_BAR2, 31, 24⟩
abbrev CFG_BAR3 : Nat := 0xa00001c
abbrev CFG_BAR3.Addr : Fld := ⟨CFG_BAR3, 31, 0⟩
abbrev CFG_BAR4 : Nat := 0xa000020
abbrev CFG_BAR4.Type : Fld := ⟨CFG_BAR4, 3, 0⟩
abbrev CFG_BAR4.Addr : Fld := ⟨CFG_BAR4, 31, 30⟩
abbrev CFG_BAR5 : Nat := 0xa000024
abbrev CFG_BAR5.Addr : Fld := ⟨CFG_BAR5, 31, 0⟩
abbrev CFG_ROMBAR : Nat := 0xa000030
abbrev CFG_ROMBAR.Enable : Fld := ⟨CFG_ROMBAR, 0, 0⟩
abbrev CFG_ROMBAR.Addr : Fld := ⟨CFG_ROMBAR, 31, 20⟩
abbrev CFG_CAPPTR : Nat := 0xa000034
abbrev CFG_CAPPTR.Pointer : Fld := ⟨CFG_CAPPTR, 7, 0⟩
abbrev CFG_INTLINE : Nat := 0xa00003c
abbrev CFG_INTLINE.Line : Fld := ⟨CFG_INTLINE, 7, 0⟩
abbrev CFG_INTLINE.Pin : Fld := ⟨CFG_INTLINE, 15, 8⟩
abbrev CFG_PMC : Nat := 0xa000040
abbrev CFG_PMC.CapId : Fld := ⟨CFG_PMC, 7, 0⟩
abbrev CFG_PMC.Next : Fld := ⟨CFG_PMC, 15, 8⟩
abbrev CFG_PMC.Version : Fld := ⟨CFG_PMC, 18, 16⟩
abbrev CFG_PMC.PmeSupport : Fld := ⟨CFG_PMC, 31, 27⟩
abbrev CFG_PMCSR : Nat := 0xa000044
abbrev CFG_PMCSR.PowerState : Fld := ⟨CFG_PMCSR, 1, 0⟩
abbrev CFG_PMCSR.NoSoftReset : Fld := ⟨CFG_PMCSR, 3, 3⟩
abbrev CFG_PMCSR.PmeEn : Fld := ⟨CFG_PMCSR, 8, 8⟩
abbrev CFG_PMCSR.PmeStatus : Fld := ⟨CFG_PMCSR, 15, 15⟩
abbrev CFG_MSIX : Nat := 0xa000050
abbrev CFG_MSIX.CapId : Fld := ⟨CFG_MSIX, 7, 0⟩
abbrev CFG_MSIX.Next : Fld := ⟨CFG_MSIX, 15, 8⟩
abbrev CFG_MSIX.TableSize : Fld := ⟨CFG_MSIX, 26, 16⟩
abbrev CFG_MSIX.FunctionMask : Fld := ⟨CFG_MSIX, 30, 30⟩
abbrev CFG_MSIX.Enable : Fld := ⟨CFG_MSIX, 31, 31⟩
abbrev CFG_MSIXTAB : Nat := 0xa000054
abbrev CFG_MSIXTAB.Bir : Fld := ⟨CFG_MSIXTAB, 2, 0⟩
abbrev CFG_MSIXTAB.Offset : Fld := ⟨CFG_MSIXTAB, 31, 3⟩
abbrev CFG_MSIXPBA : Nat := 0xa000058
abbrev CFG_MSIXPBA.Bir : Fld := ⟨CFG_MSIXPBA, 2, 0⟩
abbrev CFG_MSIXPBA.Offset : Fld := ⟨CFG_MSIXPBA, 31, 3⟩
abbrev CFG_PCIE : Nat := 0xa000060
abbrev CFG_PCIE.CapId : Fld := ⟨CFG_PCIE, 7, 0⟩
abbrev CFG_PCIE.Next : Fld := ⟨CFG_PCIE, 15, 8⟩
abbrev CFG_PCIE.Version : Fld := ⟨CFG_PCIE, 19, 16⟩
abbrev CFG_PCIE.PortType : Fld := ⟨CFG_PCIE, 23, 20⟩
abbrev CFG_PCIE.FlitSupported : Fld := ⟨CFG_PCIE, 31, 31⟩
abbrev CFG_DEVCAP : Nat := 0xa000064
abbrev CFG_DEVCAP.Mps : Fld := ⟨CFG_DEVCAP, 2, 0⟩
abbrev CFG_DEVCAP.ExtTag : Fld := ⟨CFG_DEVCAP, 5, 5⟩
abbrev CFG_DEVCAP.L0sLatency : Fld := ⟨CFG_DEVCAP, 8, 6⟩
abbrev CFG_DEVCAP.L1Latency : Fld := ⟨CFG_DEVCAP, 11, 9⟩
abbrev CFG_DEVCAP.RoleBased : Fld := ⟨CFG_DEVCAP, 15, 15⟩
abbrev CFG_DEVCAP.Flr : Fld := ⟨CFG_DEVCAP, 28, 28⟩
abbrev CFG_DEVCTL : Nat := 0xa000068
abbrev CFG_DEVCTL.CorrEn : Fld := ⟨CFG_DEVCTL, 0, 0⟩
abbrev CFG_DEVCTL.NonFatalEn : Fld := ⟨CFG_DEVCTL, 1, 1⟩
abbrev CFG_DEVCTL.FatalEn : Fld := ⟨CFG_DEVCTL, 2, 2⟩
abbrev CFG_DEVCTL.UrEn : Fld := ⟨CFG_DEVCTL, 3, 3⟩
abbrev CFG_DEVCTL.RelaxedOrder : Fld := ⟨CFG_DEVCTL, 4, 4⟩
abbrev CFG_DEVCTL.Mps : Fld := ⟨CFG_DEVCTL, 7, 5⟩
abbrev CFG_DEVCTL.ExtTagEn : Fld := ⟨CFG_DEVCTL, 8, 8⟩
abbrev CFG_DEVCTL.NoSnoop : Fld := ⟨CFG_DEVCTL, 11, 11⟩
abbrev CFG_DEVCTL.Mrrs : Fld := ⟨CFG_DEVCTL, 14, 12⟩
abbrev CFG_DEVCTL.InitiateFlr : Fld := ⟨CFG_DEVCTL, 15, 15⟩
abbrev CFG_DEVCTL.CorrDetected : Fld := ⟨CFG_DEVCTL, 16, 16⟩
abbrev CFG_DEVCTL.NonFatalDetected : Fld := ⟨CFG_DEVCTL, 17, 17⟩
abbrev CFG_DEVCTL.FatalDetected : Fld := ⟨CFG_DEVCTL, 18, 18⟩
abbrev CFG_DEVCTL.UrDetected : Fld := ⟨CFG_DEVCTL, 19, 19⟩
abbrev CFG_LNKCAP : Nat := 0xa00006c
abbrev CFG_LNKCAP.Speed : Fld := ⟨CFG_LNKCAP, 3, 0⟩
abbrev CFG_LNKCAP.Width : Fld := ⟨CFG_LNKCAP, 9, 4⟩
abbrev CFG_LNKCAP.Aspm : Fld := ⟨CFG_LNKCAP, 11, 10⟩
abbrev CFG_LNKCAP.L0sExit : Fld := ⟨CFG_LNKCAP, 14, 12⟩
abbrev CFG_LNKCAP.L1Exit : Fld := ⟨CFG_LNKCAP, 17, 15⟩
abbrev CFG_LNKCAP.AspmCompliance : Fld := ⟨CFG_LNKCAP, 22, 22⟩
abbrev CFG_LNKCTL : Nat := 0xa000070
abbrev CFG_LNKCTL.Aspm : Fld := ⟨CFG_LNKCTL, 1, 0⟩
abbrev CFG_LNKCTL.Rcb : Fld := ⟨CFG_LNKCTL, 3, 3⟩
abbrev CFG_LNKCTL.CommonClock : Fld := ⟨CFG_LNKCTL, 6, 6⟩
abbrev CFG_LNKCTL.ExtSynch : Fld := ⟨CFG_LNKCTL, 7, 7⟩
abbrev CFG_DEVCAP2 : Nat := 0xa000084
abbrev CFG_DEVCAP2.TimeoutRanges : Fld := ⟨CFG_DEVCAP2, 3, 0⟩
abbrev CFG_DEVCAP2.TimeoutDisable : Fld := ⟨CFG_DEVCAP2, 4, 4⟩
abbrev CFG_DEVCAP2.Ltr : Fld := ⟨CFG_DEVCAP2, 11, 11⟩
abbrev CFG_DEVCAP2.Tag10Completer : Fld := ⟨CFG_DEVCAP2, 16, 16⟩
abbrev CFG_DEVCAP2.Tag10Requester : Fld := ⟨CFG_DEVCAP2, 17, 17⟩
abbrev CFG_DEVCAP2.ExtFmt : Fld := ⟨CFG_DEVCAP2, 20, 20⟩
abbrev CFG_DEVCTL2 : Nat := 0xa000088
abbrev CFG_DEVCTL2.CplTimeout : Fld := ⟨CFG_DEVCTL2, 3, 0⟩
abbrev CFG_DEVCTL2.CplTimeoutDisable : Fld := ⟨CFG_DEVCTL2, 4, 4⟩
abbrev CFG_DEVCTL2.IdoRequest : Fld := ⟨CFG_DEVCTL2, 8, 8⟩
abbrev CFG_DEVCTL2.IdoCompletion : Fld := ⟨CFG_DEVCTL2, 9, 9⟩
abbrev CFG_DEVCTL2.LtrEn : Fld := ⟨CFG_DEVCTL2, 10, 10⟩
abbrev CFG_DEVCTL2.Tag10ReqEn : Fld := ⟨CFG_DEVCTL2, 12, 12⟩
abbrev CFG_LNKCAP2 : Nat := 0xa00008c
abbrev CFG_LNKCAP2.Speeds : Fld := ⟨CFG_LNKCAP2, 7, 1⟩
abbrev CFG_LNKCTL2 : Nat := 0xa000090
abbrev CFG_LNKCTL2.TargetSpeed : Fld := ⟨CFG_LNKCTL2, 3, 0⟩
abbrev CFG_LNKCTL2.EnterCompliance : Fld := ⟨CFG_LNKCTL2, 4, 4⟩
abbrev CFG_LNKCTL2.AutoSpeedDisable : Fld := ⟨CFG_LNKCTL2, 5, 5⟩
abbrev CFG_LNKCTL2.TransmitMargin : Fld := ⟨CFG_LNKCTL2, 9, 7⟩
abbrev CFG_LNKCTL2.ModCompliance : Fld := ⟨CFG_LNKCTL2, 10, 10⟩
abbrev CFG_LNKCTL2.ComplianceSos : Fld := ⟨CFG_LNKCTL2, 11, 11⟩
abbrev CFG_LNKCTL2.CompliancePreset : Fld := ⟨CFG_LNKCTL2, 15, 12⟩
abbrev CFG_LNKCTL2.EqRequest : Fld := ⟨CFG_LNKCTL2, 21, 21⟩
abbrev CFG_AERHDR : Nat := 0xa000100
abbrev CFG_AERHDR.CapId : Fld := ⟨CFG_AERHDR, 15, 0⟩
abbrev CFG_AERHDR.Version : Fld := ⟨CFG_AERHDR, 19, 16⟩
abbrev CFG_AERHDR.Next : Fld := ⟨CFG_AERHDR, 31, 20⟩
abbrev CFG_AERUNC : Nat := 0xa000104
abbrev CFG_AERUNC.DataLink : Fld := ⟨CFG_AERUNC, 4, 4⟩
abbrev CFG_AERUNC.Poisoned : Fld := ⟨CFG_AERUNC, 12, 12⟩
abbrev CFG_AERUNC.FlowControl : Fld := ⟨CFG_AERUNC, 13, 13⟩
abbrev CFG_AERUNC.CplTimeout : Fld := ⟨CFG_AERUNC, 14, 14⟩
abbrev CFG_AERUNC.CompleterAbort : Fld := ⟨CFG_AERUNC, 15, 15⟩
abbrev CFG_AERUNC.UnexpectedCpl : Fld := ⟨CFG_AERUNC, 16, 16⟩
abbrev CFG_AERUNC.Overflow : Fld := ⟨CFG_AERUNC, 17, 17⟩
abbrev CFG_AERUNC.Malformed : Fld := ⟨CFG_AERUNC, 18, 18⟩
abbrev CFG_AERUNC.Ecrc : Fld := ⟨CFG_AERUNC, 19, 19⟩
abbrev CFG_AERUNC.Unsupported : Fld := ⟨CFG_AERUNC, 20, 20⟩
abbrev CFG_AERUNC.Internal : Fld := ⟨CFG_AERUNC, 22, 22⟩
abbrev CFG_AERUMASK : Nat := 0xa000108
abbrev CFG_AERUMASK.DataLink : Fld := ⟨CFG_AERUMASK, 4, 4⟩
abbrev CFG_AERUMASK.Poisoned : Fld := ⟨CFG_AERUMASK, 12, 12⟩
abbrev CFG_AERUMASK.FlowControl : Fld := ⟨CFG_AERUMASK, 13, 13⟩
abbrev CFG_AERUMASK.CplTimeout : Fld := ⟨CFG_AERUMASK, 14, 14⟩
abbrev CFG_AERUMASK.CompleterAbort : Fld := ⟨CFG_AERUMASK, 15, 15⟩
abbrev CFG_AERUMASK.UnexpectedCpl : Fld := ⟨CFG_AERUMASK, 16, 16⟩
abbrev CFG_AERUMASK.Overflow : Fld := ⟨CFG_AERUMASK, 17, 17⟩
abbrev CFG_AERUMASK.Malformed : Fld := ⟨CFG_AERUMASK, 18, 18⟩
abbrev CFG_AERUMASK.Ecrc : Fld := ⟨CFG_AERUMASK, 19, 19⟩
abbrev CFG_AERUMASK.Unsupported : Fld := ⟨CFG_AERUMASK, 20, 20⟩
abbrev CFG_AERUMASK.Internal : Fld := ⟨CFG_AERUMASK, 22, 22⟩
abbrev CFG_AERUSEV : Nat := 0xa00010c
abbrev CFG_AERUSEV.DataLink : Fld := ⟨CFG_AERUSEV, 4, 4⟩
abbrev CFG_AERUSEV.Poisoned : Fld := ⟨CFG_AERUSEV, 12, 12⟩
abbrev CFG_AERUSEV.FlowControl : Fld := ⟨CFG_AERUSEV, 13, 13⟩
abbrev CFG_AERUSEV.CplTimeout : Fld := ⟨CFG_AERUSEV, 14, 14⟩
abbrev CFG_AERUSEV.CompleterAbort : Fld := ⟨CFG_AERUSEV, 15, 15⟩
abbrev CFG_AERUSEV.UnexpectedCpl : Fld := ⟨CFG_AERUSEV, 16, 16⟩
abbrev CFG_AERUSEV.Overflow : Fld := ⟨CFG_AERUSEV, 17, 17⟩
abbrev CFG_AERUSEV.Malformed : Fld := ⟨CFG_AERUSEV, 18, 18⟩
abbrev CFG_AERUSEV.Ecrc : Fld := ⟨CFG_AERUSEV, 19, 19⟩
abbrev CFG_AERUSEV.Unsupported : Fld := ⟨CFG_AERUSEV, 20, 20⟩
abbrev CFG_AERUSEV.Internal : Fld := ⟨CFG_AERUSEV, 22, 22⟩
abbrev CFG_AERCOR : Nat := 0xa000110
abbrev CFG_AERCOR.Receiver : Fld := ⟨CFG_AERCOR, 0, 0⟩
abbrev CFG_AERCOR.BadTlp : Fld := ⟨CFG_AERCOR, 6, 6⟩
abbrev CFG_AERCOR.BadDllp : Fld := ⟨CFG_AERCOR, 7, 7⟩
abbrev CFG_AERCOR.ReplayRollover : Fld := ⟨CFG_AERCOR, 8, 8⟩
abbrev CFG_AERCOR.ReplayTimeout : Fld := ⟨CFG_AERCOR, 12, 12⟩
abbrev CFG_AERCOR.Advisory : Fld := ⟨CFG_AERCOR, 13, 13⟩
abbrev CFG_AERCOR.CorrectedInternal : Fld := ⟨CFG_AERCOR, 14, 14⟩
abbrev CFG_AERCMASK : Nat := 0xa000114
abbrev CFG_AERCMASK.Receiver : Fld := ⟨CFG_AERCMASK, 0, 0⟩
abbrev CFG_AERCMASK.BadTlp : Fld := ⟨CFG_AERCMASK, 6, 6⟩
abbrev CFG_AERCMASK.BadDllp : Fld := ⟨CFG_AERCMASK, 7, 7⟩
abbrev CFG_AERCMASK.ReplayRollover : Fld := ⟨CFG_AERCMASK, 8, 8⟩
abbrev CFG_AERCMASK.ReplayTimeout : Fld := ⟨CFG_AERCMASK, 12, 12⟩
abbrev CFG_AERCMASK.Advisory : Fld := ⟨CFG_AERCMASK, 13, 13⟩
abbrev CFG_AERCMASK.CorrectedInternal : Fld := ⟨CFG_AERCMASK, 14, 14⟩
abbrev CFG_AERCTL : Nat := 0xa000118
abbrev CFG_AERCTL.FirstError : Fld := ⟨CFG_AERCTL, 4, 0⟩
abbrev CFG_AERCTL.EcrcGenCap : Fld := ⟨CFG_AERCTL, 5, 5⟩
abbrev CFG_AERCTL.EcrcGenEn : Fld := ⟨CFG_AERCTL, 6, 6⟩
abbrev CFG_AERCTL.EcrcCheckCap : Fld := ⟨CFG_AERCTL, 7, 7⟩
abbrev CFG_AERCTL.EcrcCheckEn : Fld := ⟨CFG_AERCTL, 8, 8⟩
abbrev CFG_AERLOG (b : Nat) : Nat := 0xa00011c + 0x4 * b
abbrev CFG_AERLOG.Header (b : Nat) : Fld := ⟨CFG_AERLOG b, 31, 0⟩
abbrev CFG_DSN : Nat := 0xa000150
abbrev CFG_DSN.CapId : Fld := ⟨CFG_DSN, 15, 0⟩
abbrev CFG_DSN.Version : Fld := ⟨CFG_DSN, 19, 16⟩
abbrev CFG_DSN.Next : Fld := ⟨CFG_DSN, 31, 20⟩
abbrev CFG_PASIDHDR : Nat := 0xa000160
abbrev CFG_PASIDHDR.CapId : Fld := ⟨CFG_PASIDHDR, 15, 0⟩
abbrev CFG_PASIDHDR.Version : Fld := ⟨CFG_PASIDHDR, 19, 16⟩
abbrev CFG_PASIDHDR.Next : Fld := ⟨CFG_PASIDHDR, 31, 20⟩
abbrev CFG_PASID : Nat := 0xa000164
abbrev CFG_PASID.MaxWidth : Fld := ⟨CFG_PASID, 12, 8⟩
abbrev CFG_PASID.Enable : Fld := ⟨CFG_PASID, 16, 16⟩
abbrev CFG_LTRHDR : Nat := 0xa000170
abbrev CFG_LTRHDR.CapId : Fld := ⟨CFG_LTRHDR, 15, 0⟩
abbrev CFG_LTRHDR.Version : Fld := ⟨CFG_LTRHDR, 19, 16⟩
abbrev CFG_LTRHDR.Next : Fld := ⟨CFG_LTRHDR, 31, 20⟩
abbrev CFG_LTR : Nat := 0xa000174
abbrev CFG_LTR.MaxSnoop : Fld := ⟨CFG_LTR, 12, 0⟩
abbrev CFG_LTR.MaxNoSnoop : Fld := ⟨CFG_LTR, 28, 16⟩
abbrev CFG_L1SSHDR : Nat := 0xa000180
abbrev CFG_L1SSHDR.CapId : Fld := ⟨CFG_L1SSHDR, 15, 0⟩
abbrev CFG_L1SSHDR.Version : Fld := ⟨CFG_L1SSHDR, 19, 16⟩
abbrev CFG_L1SSHDR.Next : Fld := ⟨CFG_L1SSHDR, 31, 20⟩
abbrev CFG_L1SSCAP : Nat := 0xa000184
abbrev CFG_L1SSCAP.Supported : Fld := ⟨CFG_L1SSCAP, 4, 0⟩
abbrev CFG_L1SSCAP.CommonMode : Fld := ⟨CFG_L1SSCAP, 15, 8⟩
abbrev CFG_L1SSCAP.PowerOnScale : Fld := ⟨CFG_L1SSCAP, 17, 16⟩
abbrev CFG_L1SSCAP.PowerOnValue : Fld := ⟨CFG_L1SSCAP, 23, 19⟩
abbrev CFG_L1SSCTL1 : Nat := 0xa000188
abbrev CFG_L1SSCTL1.PcipmL12 : Fld := ⟨CFG_L1SSCTL1, 0, 0⟩
abbrev CFG_L1SSCTL1.PcipmL11 : Fld := ⟨CFG_L1SSCTL1, 1, 1⟩
abbrev CFG_L1SSCTL1.AspmL12 : Fld := ⟨CFG_L1SSCTL1, 2, 2⟩
abbrev CFG_L1SSCTL1.AspmL11 : Fld := ⟨CFG_L1SSCTL1, 3, 3⟩
abbrev CFG_L1SSCTL1.ThresholdValue : Fld := ⟨CFG_L1SSCTL1, 25, 16⟩
abbrev CFG_L1SSCTL1.ThresholdScale : Fld := ⟨CFG_L1SSCTL1, 31, 29⟩
abbrev CFG_L1SSCTL2 : Nat := 0xa00018c
abbrev CFG_L1SSCTL2.PowerOnScale : Fld := ⟨CFG_L1SSCTL2, 1, 0⟩
abbrev CFG_L1SSCTL2.PowerOnValue : Fld := ⟨CFG_L1SSCTL2, 7, 3⟩
abbrev CFG_SECPCIE : Nat := 0xa000190
abbrev CFG_SECPCIE.CapId : Fld := ⟨CFG_SECPCIE, 15, 0⟩
abbrev CFG_SECPCIE.Version : Fld := ⟨CFG_SECPCIE, 19, 16⟩
abbrev CFG_SECPCIE.Next : Fld := ⟨CFG_SECPCIE, 31, 20⟩
abbrev CFG_LNKCTL3 : Nat := 0xa000194
abbrev CFG_LNKCTL3.LowerSkp : Fld := ⟨CFG_LNKCTL3, 15, 9⟩
abbrev CFG_LANEERR : Nat := 0xa000198
abbrev CFG_LANEERR.Lanes : Fld := ⟨CFG_LANEERR, 15, 0⟩
abbrev CFG_LANEEQ (b : Nat) : Nat := 0xa00019c + 0x4 * b
abbrev CFG_LANEEQ.Presets (b : Nat) : Fld := ⟨CFG_LANEEQ b, 31, 0⟩
abbrev CFG_DLF : Nat := 0xa0001c0
abbrev CFG_DLF.CapId : Fld := ⟨CFG_DLF, 15, 0⟩
abbrev CFG_DLF.Version : Fld := ⟨CFG_DLF, 19, 16⟩
abbrev CFG_DLF.Next : Fld := ⟨CFG_DLF, 31, 20⟩
abbrev CFG_DLFCAP : Nat := 0xa0001c4
abbrev CFG_DLFCAP.Features : Fld := ⟨CFG_DLFCAP, 22, 0⟩
abbrev CFG_DLFCAP.Exchange : Fld := ⟨CFG_DLFCAP, 31, 31⟩
abbrev CFG_DLFSTS : Nat := 0xa0001c8
abbrev CFG_DLFSTS.Remote : Fld := ⟨CFG_DLFSTS, 22, 0⟩
abbrev CFG_DLFSTS.RemoteValid : Fld := ⟨CFG_DLFSTS, 31, 31⟩
abbrev CFG_PL16 : Nat := 0xa0001d0
abbrev CFG_PL16.CapId : Fld := ⟨CFG_PL16, 15, 0⟩
abbrev CFG_PL16.Version : Fld := ⟨CFG_PL16, 19, 16⟩
abbrev CFG_PL16.Next : Fld := ⟨CFG_PL16, 31, 20⟩
abbrev CFG_PL16STS : Nat := 0xa0001dc
abbrev CFG_PL16STS.Eq : Fld := ⟨CFG_PL16STS, 3, 0⟩
abbrev CFG_PL16STS.EqRequest : Fld := ⟨CFG_PL16STS, 4, 4⟩
abbrev CFG_PL16PAR (b : Nat) : Nat := 0xa0001e0 + 0x4 * b
abbrev CFG_PL16PAR.Lanes (b : Nat) : Fld := ⟨CFG_PL16PAR b, 15, 0⟩
abbrev CFG_PL16EQ (b : Nat) : Nat := 0xa0001f0 + 0x4 * b
abbrev CFG_PL16EQ.Presets (b : Nat) : Fld := ⟨CFG_PL16EQ b, 31, 0⟩
abbrev CFG_PL32 : Nat := 0xa000200
abbrev CFG_PL32.CapId : Fld := ⟨CFG_PL32, 15, 0⟩
abbrev CFG_PL32.Version : Fld := ⟨CFG_PL32, 19, 16⟩
abbrev CFG_PL32.Next : Fld := ⟨CFG_PL32, 31, 20⟩
abbrev CFG_PL32CTL : Nat := 0xa000208
abbrev CFG_PL32CTL.BypassDisable : Fld := ⟨CFG_PL32CTL, 0, 0⟩
abbrev CFG_PL32CTL.NoEqDisable : Fld := ⟨CFG_PL32CTL, 1, 1⟩
abbrev CFG_PL32CTL.ModifiedTs : Fld := ⟨CFG_PL32CTL, 10, 8⟩
abbrev CFG_PL32STS : Nat := 0xa00020c
abbrev CFG_PL32STS.Eq : Fld := ⟨CFG_PL32STS, 3, 0⟩
abbrev CFG_PL32STS.EqRequest : Fld := ⟨CFG_PL32STS, 4, 4⟩
abbrev CFG_PL32TS (b : Nat) : Nat := 0xa000210 + 0x4 * b
abbrev CFG_PL32TS.Data (b : Nat) : Fld := ⟨CFG_PL32TS b, 31, 0⟩
abbrev CFG_PL32EQ (b : Nat) : Nat := 0xa000220 + 0x4 * b
abbrev CFG_PL32EQ.Presets (b : Nat) : Fld := ⟨CFG_PL32EQ b, 31, 0⟩
abbrev CFG_PL64 : Nat := 0xa000230
abbrev CFG_PL64.CapId : Fld := ⟨CFG_PL64, 15, 0⟩
abbrev CFG_PL64.Version : Fld := ⟨CFG_PL64, 19, 16⟩
abbrev CFG_PL64.Next : Fld := ⟨CFG_PL64, 31, 20⟩
abbrev CFG_PL64STS : Nat := 0xa00023c
abbrev CFG_PL64STS.Eq : Fld := ⟨CFG_PL64STS, 3, 0⟩
abbrev CFG_PL64STS.EqRequest : Fld := ⟨CFG_PL64STS, 4, 4⟩
abbrev CFG_PL64EQ (b : Nat) : Nat := 0xa000240 + 0x4 * b
abbrev CFG_PL64EQ.Presets (b : Nat) : Fld := ⟨CFG_PL64EQ b, 31, 0⟩
abbrev CFG_MARGINHDR : Nat := 0xa000250
abbrev CFG_MARGINHDR.CapId : Fld := ⟨CFG_MARGINHDR, 15, 0⟩
abbrev CFG_MARGINHDR.Version : Fld := ⟨CFG_MARGINHDR, 19, 16⟩
abbrev CFG_MARGINHDR.Next : Fld := ⟨CFG_MARGINHDR, 31, 20⟩
abbrev CFG_MARGINPORT : Nat := 0xa000254
abbrev CFG_MARGINPORT.Ready : Fld := ⟨CFG_MARGINPORT, 16, 16⟩
abbrev CFG_MARGIN (b : Nat) : Nat := 0xa000258 + 0x4 * b
abbrev CFG_MARGIN.Receiver (b : Nat) : Fld := ⟨CFG_MARGIN b, 2, 0⟩
abbrev CFG_MARGIN.Type (b : Nat) : Fld := ⟨CFG_MARGIN b, 5, 3⟩
abbrev CFG_MARGIN.Usage (b : Nat) : Fld := ⟨CFG_MARGIN b, 6, 6⟩
abbrev CFG_MARGIN.Payload (b : Nat) : Fld := ⟨CFG_MARGIN b, 15, 8⟩
abbrev CFG_MARGIN.StatusReceiver (b : Nat) : Fld := ⟨CFG_MARGIN b, 18, 16⟩
abbrev CFG_MARGIN.StatusType (b : Nat) : Fld := ⟨CFG_MARGIN b, 21, 19⟩
abbrev CFG_MARGIN.StatusUsage (b : Nat) : Fld := ⟨CFG_MARGIN b, 22, 22⟩
abbrev CFG_MARGIN.StatusPayload (b : Nat) : Fld := ⟨CFG_MARGIN b, 31, 24⟩
abbrev CFG_VSEC : Nat := 0xa0002a0
abbrev CFG_VSEC.CapId : Fld := ⟨CFG_VSEC, 15, 0⟩
abbrev CFG_VSEC.Version : Fld := ⟨CFG_VSEC, 19, 16⟩
abbrev CFG_VSEC.Next : Fld := ⟨CFG_VSEC, 31, 20⟩
abbrev CFG_VSECHDR : Nat := 0xa0002a4
abbrev CFG_VSECHDR.VsecId : Fld := ⟨CFG_VSECHDR, 15, 0⟩
abbrev CFG_VSECHDR.Revision : Fld := ⟨CFG_VSECHDR, 19, 16⟩
abbrev CFG_VSECHDR.Length : Fld := ⟨CFG_VSECHDR, 31, 20⟩
abbrev CFG_VSECFOLIO : Nat := 0xa0002ac
abbrev CFG_VSECFOLIO.FolioOffset : Fld := ⟨CFG_VSECFOLIO, 19, 0⟩
abbrev CFG_VSECFOLIO.FolioLength : Fld := ⟨CFG_VSECFOLIO, 31, 20⟩

def cfgRows0 : List RegRow := [
  ⟨"CFG_ID", 0xa000000, 0x0, 1, 0x0, 1, .warmHost,
    [⟨"VendorId", 15, 0, .ro, 0x1f9a⟩, ⟨"DeviceId", 31, 16, .ro, 0x7260⟩]⟩,
  ⟨"CFG_CMDSTS", 0xa000004, 0x0, 1, 0x0, 1, .warmHost,
    [⟨"MemSpace", 1, 1, .rw, 0⟩, ⟨"BusMaster", 2, 2, .rw, 0⟩, ⟨"ParityResponse", 6, 6, .rw, 0⟩, ⟨"SerrEnable", 8, 8, .rw, 0⟩, ⟨"InterruptDisable", 10, 10, .rw, 0⟩, ⟨"CapList", 20, 20, .ro, 1⟩, ⟨"MasterParity", 24, 24, .w1c, 0⟩, ⟨"SignaledTargetAbort", 27, 27, .w1c, 0⟩, ⟨"ReceivedTargetAbort", 28, 28, .w1c, 0⟩, ⟨"ReceivedMasterAbort", 29, 29, .w1c, 0⟩, ⟨"SignaledSystemError", 30, 30, .w1c, 0⟩, ⟨"DetectedParity", 31, 31, .w1c, 0⟩]⟩,
  ⟨"CFG_CLASS", 0xa000008, 0x0, 1, 0x0, 1, .warmHost,
    [⟨"RevisionId", 7, 0, .ro, 0x10⟩, ⟨"ClassCode", 31, 8, .ro, 0x118000⟩]⟩,
  ⟨"CFG_LINE", 0xa00000c, 0x0, 1, 0x0, 1, .warmHost,
    [⟨"CacheLine", 7, 0, .rw, 0⟩]⟩,
  ⟨"CFG_BAR0", 0xa000010, 0x0, 1, 0x0, 1, .warmHost,
    [⟨"Type", 3, 0, .ro, 4⟩, ⟨"Addr", 31, 26, .rw, 0⟩]⟩,
  ⟨"CFG_BAR1", 0xa000014, 0x0, 1, 0x0, 1, .warmHost,
    [⟨"Addr", 31, 0, .rw, 0⟩]⟩,
  ⟨"CFG_BAR2", 0xa000018, 0x0, 1, 0x0, 1, .warmHost,
    [⟨"Type", 3, 0, .ro, 4⟩, ⟨"Addr", 31, 24, .rw, 0⟩]⟩,
  ⟨"CFG_BAR3", 0xa00001c, 0x0, 1, 0x0, 1, .warmHost,
    [⟨"Addr", 31, 0, .rw, 0⟩]⟩,
  ⟨"CFG_BAR4", 0xa000020, 0x0, 1, 0x0, 1, .warmHost,
    [⟨"Type", 3, 0, .ro, 0xc⟩, ⟨"Addr", 31, 30, .rw, 0⟩]⟩,
  ⟨"CFG_BAR5", 0xa000024, 0x0, 1, 0x0, 1, .warmHost,
    [⟨"Addr", 31, 0, .rw, 0⟩]⟩,
  ⟨"CFG_ROMBAR", 0xa000030, 0x0, 1, 0x0, 1, .warmHost,
    [⟨"Enable", 0, 0, .rw, 0⟩, ⟨"Addr", 31, 20, .rw, 0⟩]⟩,
  ⟨"CFG_CAPPTR", 0xa000034, 0x0, 1, 0x0, 1, .warmHost,
    [⟨"Pointer", 7, 0, .ro, 0x40⟩]⟩,
  ⟨"CFG_INTLINE", 0xa00003c, 0x0, 1, 0x0, 1, .warmHost,
    [⟨"Line", 7, 0, .rw, 0⟩, ⟨"Pin", 15, 8, .ro, 1⟩]⟩,
  ⟨"CFG_PMC", 0xa000040, 0x0, 1, 0x0, 1, .warmHost,
    [⟨"CapId", 7, 0, .ro, 1⟩, ⟨"Next", 15, 8, .ro, 0x50⟩, ⟨"Version", 18, 16, .ro, 3⟩, ⟨"PmeSupport", 31, 27, .ro, 9⟩]⟩,
  ⟨"CFG_PMCSR", 0xa000044, 0x0, 1, 0x0, 1, .warm,
    [⟨"PowerState", 1, 0, .rw, 0⟩, ⟨"NoSoftReset", 3, 3, .ro, 1⟩, ⟨"PmeEn", 8, 8, .rw, 0⟩, ⟨"PmeStatus", 15, 15, .w1c, 0⟩]⟩,
  ⟨"CFG_MSIX", 0xa000050, 0x0, 1, 0x0, 1, .warmHost,
    [⟨"CapId", 7, 0, .ro, 0x11⟩, ⟨"Next", 15, 8, .ro, 0x60⟩, ⟨"TableSize", 26, 16, .ro, 0x7ff⟩, ⟨"FunctionMask", 30, 30, .rw, 0⟩, ⟨"Enable", 31, 31, .rw, 0⟩]⟩]

def cfgRows1 : List RegRow := [
  ⟨"CFG_MSIXTAB", 0xa000054, 0x0, 1, 0x0, 1, .warmHost,
    [⟨"Bir", 2, 0, .ro, 0⟩, ⟨"Offset", 31, 3, .ro, 0x17000⟩]⟩,
  ⟨"CFG_MSIXPBA", 0xa000058, 0x0, 1, 0x0, 1, .warmHost,
    [⟨"Bir", 2, 0, .ro, 0⟩, ⟨"Offset", 31, 3, .ro, 0x16e00⟩]⟩,
  ⟨"CFG_PCIE", 0xa000060, 0x0, 1, 0x0, 1, .warmHost,
    [⟨"CapId", 7, 0, .ro, 0x10⟩, ⟨"Next", 15, 8, .ro, 0⟩, ⟨"Version", 19, 16, .ro, 2⟩, ⟨"PortType", 23, 20, .ro, 0⟩, ⟨"FlitSupported", 31, 31, .ro, 1⟩]⟩,
  ⟨"CFG_DEVCAP", 0xa000064, 0x0, 1, 0x0, 1, .warmHost,
    [⟨"Mps", 2, 0, .ro, 2⟩, ⟨"ExtTag", 5, 5, .ro, 1⟩, ⟨"L0sLatency", 8, 6, .ro, 7⟩, ⟨"L1Latency", 11, 9, .ro, 7⟩, ⟨"RoleBased", 15, 15, .ro, 1⟩, ⟨"Flr", 28, 28, .ro, 1⟩]⟩,
  ⟨"CFG_DEVCTL", 0xa000068, 0x0, 1, 0x0, 1, .warmHost,
    [⟨"CorrEn", 0, 0, .rw, 0⟩, ⟨"NonFatalEn", 1, 1, .rw, 0⟩, ⟨"FatalEn", 2, 2, .rw, 0⟩, ⟨"UrEn", 3, 3, .rw, 0⟩, ⟨"RelaxedOrder", 4, 4, .rw, 1⟩, ⟨"Mps", 7, 5, .rw, 0⟩, ⟨"ExtTagEn", 8, 8, .rw, 0⟩, ⟨"NoSnoop", 11, 11, .rw, 1⟩, ⟨"Mrrs", 14, 12, .rw, 2⟩, ⟨"InitiateFlr", 15, 15, .wo, 0⟩, ⟨"CorrDetected", 16, 16, .w1c, 0⟩, ⟨"NonFatalDetected", 17, 17, .w1c, 0⟩, ⟨"FatalDetected", 18, 18, .w1c, 0⟩, ⟨"UrDetected", 19, 19, .w1c, 0⟩]⟩,
  ⟨"CFG_LNKCAP", 0xa00006c, 0x0, 1, 0x0, 1, .warmHost,
    [⟨"Speed", 3, 0, .ro, 6⟩, ⟨"Width", 9, 4, .ro, 0x10⟩, ⟨"Aspm", 11, 10, .ro, 3⟩, ⟨"L0sExit", 14, 12, .ro, 5⟩, ⟨"L1Exit", 17, 15, .ro, 3⟩, ⟨"AspmCompliance", 22, 22, .ro, 1⟩]⟩,
  ⟨"CFG_LNKCTL", 0xa000070, 0x0, 1, 0x0, 1, .warmHost,
    [⟨"Aspm", 1, 0, .rw, 0⟩, ⟨"Rcb", 3, 3, .rw, 0⟩, ⟨"CommonClock", 6, 6, .rw, 0⟩, ⟨"ExtSynch", 7, 7, .rw, 0⟩]⟩,
  ⟨"CFG_DEVCAP2", 0xa000084, 0x0, 1, 0x0, 1, .warmHost,
    [⟨"TimeoutRanges", 3, 0, .ro, 0xf⟩, ⟨"TimeoutDisable", 4, 4, .ro, 1⟩, ⟨"Ltr", 11, 11, .ro, 1⟩, ⟨"Tag10Completer", 16, 16, .ro, 1⟩, ⟨"Tag10Requester", 17, 17, .ro, 1⟩, ⟨"ExtFmt", 20, 20, .ro, 1⟩]⟩,
  ⟨"CFG_DEVCTL2", 0xa000088, 0x0, 1, 0x0, 1, .warmHost,
    [⟨"CplTimeout", 3, 0, .rw, 0⟩, ⟨"CplTimeoutDisable", 4, 4, .rw, 0⟩, ⟨"IdoRequest", 8, 8, .rw, 0⟩, ⟨"IdoCompletion", 9, 9, .rw, 0⟩, ⟨"LtrEn", 10, 10, .rw, 0⟩, ⟨"Tag10ReqEn", 12, 12, .rw, 0⟩]⟩,
  ⟨"CFG_LNKCAP2", 0xa00008c, 0x0, 1, 0x0, 1, .warmHost,
    [⟨"Speeds", 7, 1, .ro, 0x3f⟩]⟩,
  ⟨"CFG_LNKCTL2", 0xa000090, 0x0, 1, 0x0, 1, .warmHost,
    [⟨"TargetSpeed", 3, 0, .rw, 6⟩, ⟨"EnterCompliance", 4, 4, .rw, 0⟩, ⟨"AutoSpeedDisable", 5, 5, .rw, 0⟩, ⟨"TransmitMargin", 9, 7, .rw, 0⟩, ⟨"ModCompliance", 10, 10, .rw, 0⟩, ⟨"ComplianceSos", 11, 11, .rw, 0⟩, ⟨"CompliancePreset", 15, 12, .rw, 0⟩, ⟨"EqRequest", 21, 21, .w1c, 0⟩]⟩,
  ⟨"CFG_AERHDR", 0xa000100, 0x0, 1, 0x0, 1, .warm,
    [⟨"CapId", 15, 0, .ro, 1⟩, ⟨"Version", 19, 16, .ro, 2⟩, ⟨"Next", 31, 20, .ro, 0x150⟩]⟩,
  ⟨"CFG_AERUNC", 0xa000104, 0x0, 1, 0x0, 1, .warm,
    [⟨"DataLink", 4, 4, .w1c, 0⟩, ⟨"Poisoned", 12, 12, .w1c, 0⟩, ⟨"FlowControl", 13, 13, .w1c, 0⟩, ⟨"CplTimeout", 14, 14, .w1c, 0⟩, ⟨"CompleterAbort", 15, 15, .w1c, 0⟩, ⟨"UnexpectedCpl", 16, 16, .w1c, 0⟩, ⟨"Overflow", 17, 17, .w1c, 0⟩, ⟨"Malformed", 18, 18, .w1c, 0⟩, ⟨"Ecrc", 19, 19, .w1c, 0⟩, ⟨"Unsupported", 20, 20, .w1c, 0⟩, ⟨"Internal", 22, 22, .w1c, 0⟩]⟩,
  ⟨"CFG_AERUMASK", 0xa000108, 0x0, 1, 0x0, 1, .warm,
    [⟨"DataLink", 4, 4, .rw, 0⟩, ⟨"Poisoned", 12, 12, .rw, 0⟩, ⟨"FlowControl", 13, 13, .rw, 0⟩, ⟨"CplTimeout", 14, 14, .rw, 0⟩, ⟨"CompleterAbort", 15, 15, .rw, 0⟩, ⟨"UnexpectedCpl", 16, 16, .rw, 0⟩, ⟨"Overflow", 17, 17, .rw, 0⟩, ⟨"Malformed", 18, 18, .rw, 0⟩, ⟨"Ecrc", 19, 19, .rw, 0⟩, ⟨"Unsupported", 20, 20, .rw, 0⟩, ⟨"Internal", 22, 22, .rw, 1⟩]⟩,
  ⟨"CFG_AERUSEV", 0xa00010c, 0x0, 1, 0x0, 1, .warm,
    [⟨"DataLink", 4, 4, .rw, 1⟩, ⟨"Poisoned", 12, 12, .rw, 0⟩, ⟨"FlowControl", 13, 13, .rw, 1⟩, ⟨"CplTimeout", 14, 14, .rw, 0⟩, ⟨"CompleterAbort", 15, 15, .rw, 0⟩, ⟨"UnexpectedCpl", 16, 16, .rw, 0⟩, ⟨"Overflow", 17, 17, .rw, 1⟩, ⟨"Malformed", 18, 18, .rw, 1⟩, ⟨"Ecrc", 19, 19, .rw, 0⟩, ⟨"Unsupported", 20, 20, .rw, 0⟩, ⟨"Internal", 22, 22, .rw, 1⟩]⟩,
  ⟨"CFG_AERCOR", 0xa000110, 0x0, 1, 0x0, 1, .warm,
    [⟨"Receiver", 0, 0, .w1c, 0⟩, ⟨"BadTlp", 6, 6, .w1c, 0⟩, ⟨"BadDllp", 7, 7, .w1c, 0⟩, ⟨"ReplayRollover", 8, 8, .w1c, 0⟩, ⟨"ReplayTimeout", 12, 12, .w1c, 0⟩, ⟨"Advisory", 13, 13, .w1c, 0⟩, ⟨"CorrectedInternal", 14, 14, .w1c, 0⟩]⟩]

def cfgRows2 : List RegRow := [
  ⟨"CFG_AERCMASK", 0xa000114, 0x0, 1, 0x0, 1, .warm,
    [⟨"Receiver", 0, 0, .rw, 0⟩, ⟨"BadTlp", 6, 6, .rw, 0⟩, ⟨"BadDllp", 7, 7, .rw, 0⟩, ⟨"ReplayRollover", 8, 8, .rw, 0⟩, ⟨"ReplayTimeout", 12, 12, .rw, 0⟩, ⟨"Advisory", 13, 13, .rw, 1⟩, ⟨"CorrectedInternal", 14, 14, .rw, 1⟩]⟩,
  ⟨"CFG_AERCTL", 0xa000118, 0x0, 1, 0x0, 1, .warm,
    [⟨"FirstError", 4, 0, .ro, 0⟩, ⟨"EcrcGenCap", 5, 5, .ro, 1⟩, ⟨"EcrcGenEn", 6, 6, .rw, 0⟩, ⟨"EcrcCheckCap", 7, 7, .ro, 1⟩, ⟨"EcrcCheckEn", 8, 8, .rw, 0⟩]⟩,
  ⟨"CFG_AERLOG", 0xa00011c, 0x4, 4, 0x0, 1, .warm,
    [⟨"Header", 31, 0, .ro, 0⟩]⟩,
  ⟨"CFG_DSN", 0xa000150, 0x0, 1, 0x0, 1, .warmHost,
    [⟨"CapId", 15, 0, .ro, 3⟩, ⟨"Version", 19, 16, .ro, 1⟩, ⟨"Next", 31, 20, .ro, 0x160⟩]⟩,
  ⟨"CFG_PASIDHDR", 0xa000160, 0x0, 1, 0x0, 1, .warmHost,
    [⟨"CapId", 15, 0, .ro, 0x1b⟩, ⟨"Version", 19, 16, .ro, 1⟩, ⟨"Next", 31, 20, .ro, 0x170⟩]⟩,
  ⟨"CFG_PASID", 0xa000164, 0x0, 1, 0x0, 1, .warmHost,
    [⟨"MaxWidth", 12, 8, .ro, 0x14⟩, ⟨"Enable", 16, 16, .rw, 0⟩]⟩,
  ⟨"CFG_LTRHDR", 0xa000170, 0x0, 1, 0x0, 1, .warmHost,
    [⟨"CapId", 15, 0, .ro, 0x18⟩, ⟨"Version", 19, 16, .ro, 1⟩, ⟨"Next", 31, 20, .ro, 0x180⟩]⟩,
  ⟨"CFG_LTR", 0xa000174, 0x0, 1, 0x0, 1, .warmHost,
    [⟨"MaxSnoop", 12, 0, .rw, 0⟩, ⟨"MaxNoSnoop", 28, 16, .rw, 0⟩]⟩,
  ⟨"CFG_L1SSHDR", 0xa000180, 0x0, 1, 0x0, 1, .warmHost,
    [⟨"CapId", 15, 0, .ro, 0x1e⟩, ⟨"Version", 19, 16, .ro, 2⟩, ⟨"Next", 31, 20, .ro, 0x190⟩]⟩,
  ⟨"CFG_L1SSCAP", 0xa000184, 0x0, 1, 0x0, 1, .warmHost,
    [⟨"Supported", 4, 0, .ro, 0x1f⟩, ⟨"CommonMode", 15, 8, .ro, 0xa⟩, ⟨"PowerOnScale", 17, 16, .ro, 1⟩, ⟨"PowerOnValue", 23, 19, .ro, 4⟩]⟩,
  ⟨"CFG_L1SSCTL1", 0xa000188, 0x0, 1, 0x0, 1, .warmHost,
    [⟨"PcipmL12", 0, 0, .rw, 0⟩, ⟨"PcipmL11", 1, 1, .rw, 0⟩, ⟨"AspmL12", 2, 2, .rw, 0⟩, ⟨"AspmL11", 3, 3, .rw, 0⟩, ⟨"ThresholdValue", 25, 16, .rw, 0⟩, ⟨"ThresholdScale", 31, 29, .rw, 0⟩]⟩,
  ⟨"CFG_L1SSCTL2", 0xa00018c, 0x0, 1, 0x0, 1, .warmHost,
    [⟨"PowerOnScale", 1, 0, .rw, 0⟩, ⟨"PowerOnValue", 7, 3, .rw, 5⟩]⟩,
  ⟨"CFG_SECPCIE", 0xa000190, 0x0, 1, 0x0, 1, .warmHost,
    [⟨"CapId", 15, 0, .ro, 0x19⟩, ⟨"Version", 19, 16, .ro, 1⟩, ⟨"Next", 31, 20, .ro, 0x1c0⟩]⟩,
  ⟨"CFG_LNKCTL3", 0xa000194, 0x0, 1, 0x0, 1, .warmHost,
    [⟨"LowerSkp", 15, 9, .rw, 0⟩]⟩,
  ⟨"CFG_LANEERR", 0xa000198, 0x0, 1, 0x0, 1, .warmHost,
    [⟨"Lanes", 15, 0, .w1c, 0⟩]⟩,
  ⟨"CFG_LANEEQ", 0xa00019c, 0x4, 8, 0x0, 1, .warmHost,
    [⟨"Presets", 31, 0, .ro, 0⟩]⟩]

def cfgRows3 : List RegRow := [
  ⟨"CFG_DLF", 0xa0001c0, 0x0, 1, 0x0, 1, .warmHost,
    [⟨"CapId", 15, 0, .ro, 0x25⟩, ⟨"Version", 19, 16, .ro, 1⟩, ⟨"Next", 31, 20, .ro, 0x1d0⟩]⟩,
  ⟨"CFG_DLFCAP", 0xa0001c4, 0x0, 1, 0x0, 1, .warmHost,
    [⟨"Features", 22, 0, .ro, 1⟩, ⟨"Exchange", 31, 31, .ro, 1⟩]⟩,
  ⟨"CFG_DLFSTS", 0xa0001c8, 0x0, 1, 0x0, 1, .warmHost,
    [⟨"Remote", 22, 0, .ro, 0⟩, ⟨"RemoteValid", 31, 31, .ro, 0⟩]⟩,
  ⟨"CFG_PL16", 0xa0001d0, 0x0, 1, 0x0, 1, .warmHost,
    [⟨"CapId", 15, 0, .ro, 0x26⟩, ⟨"Version", 19, 16, .ro, 1⟩, ⟨"Next", 31, 20, .ro, 0x200⟩]⟩,
  ⟨"CFG_PL16STS", 0xa0001dc, 0x0, 1, 0x0, 1, .warmHost,
    [⟨"Eq", 3, 0, .ro, 0⟩, ⟨"EqRequest", 4, 4, .w1c, 0⟩]⟩,
  ⟨"CFG_PL16PAR", 0xa0001e0, 0x4, 3, 0x0, 1, .warmHost,
    [⟨"Lanes", 15, 0, .w1c, 0⟩]⟩,
  ⟨"CFG_PL16EQ", 0xa0001f0, 0x4, 4, 0x0, 1, .warmHost,
    [⟨"Presets", 31, 0, .ro, 0⟩]⟩,
  ⟨"CFG_PL32", 0xa000200, 0x0, 1, 0x0, 1, .warmHost,
    [⟨"CapId", 15, 0, .ro, 0x2a⟩, ⟨"Version", 19, 16, .ro, 1⟩, ⟨"Next", 31, 20, .ro, 0x230⟩]⟩,
  ⟨"CFG_PL32CTL", 0xa000208, 0x0, 1, 0x0, 1, .warmHost,
    [⟨"BypassDisable", 0, 0, .rw, 0⟩, ⟨"NoEqDisable", 1, 1, .rw, 0⟩, ⟨"ModifiedTs", 10, 8, .rw, 0⟩]⟩,
  ⟨"CFG_PL32STS", 0xa00020c, 0x0, 1, 0x0, 1, .warmHost,
    [⟨"Eq", 3, 0, .ro, 0⟩, ⟨"EqRequest", 4, 4, .w1c, 0⟩]⟩,
  ⟨"CFG_PL32TS", 0xa000210, 0x4, 4, 0x0, 1, .warmHost,
    [⟨"Data", 31, 0, .ro, 0⟩]⟩,
  ⟨"CFG_PL32EQ", 0xa000220, 0x4, 4, 0x0, 1, .warmHost,
    [⟨"Presets", 31, 0, .ro, 0⟩]⟩,
  ⟨"CFG_PL64", 0xa000230, 0x0, 1, 0x0, 1, .warmHost,
    [⟨"CapId", 15, 0, .ro, 0x31⟩, ⟨"Version", 19, 16, .ro, 1⟩, ⟨"Next", 31, 20, .ro, 0x250⟩]⟩,
  ⟨"CFG_PL64STS", 0xa00023c, 0x0, 1, 0x0, 1, .warmHost,
    [⟨"Eq", 3, 0, .ro, 0⟩, ⟨"EqRequest", 4, 4, .w1c, 0⟩]⟩,
  ⟨"CFG_PL64EQ", 0xa000240, 0x4, 4, 0x0, 1, .warmHost,
    [⟨"Presets", 31, 0, .ro, 0⟩]⟩,
  ⟨"CFG_MARGINHDR", 0xa000250, 0x0, 1, 0x0, 1, .warmHost,
    [⟨"CapId", 15, 0, .ro, 0x27⟩, ⟨"Version", 19, 16, .ro, 1⟩, ⟨"Next", 31, 20, .ro, 0x2a0⟩]⟩]

def cfgRows4 : List RegRow := [
  ⟨"CFG_MARGINPORT", 0xa000254, 0x0, 1, 0x0, 1, .warmHost,
    [⟨"Ready", 16, 16, .ro, 0⟩]⟩,
  ⟨"CFG_MARGIN", 0xa000258, 0x4, 16, 0x0, 1, .warmHost,
    [⟨"Receiver", 2, 0, .rw, 0⟩, ⟨"Type", 5, 3, .rw, 7⟩, ⟨"Usage", 6, 6, .rw, 0⟩, ⟨"Payload", 15, 8, .rw, 0x9c⟩, ⟨"StatusReceiver", 18, 16, .ro, 0⟩, ⟨"StatusType", 21, 19, .ro, 0⟩, ⟨"StatusUsage", 22, 22, .ro, 0⟩, ⟨"StatusPayload", 31, 24, .ro, 0⟩]⟩,
  ⟨"CFG_VSEC", 0xa0002a0, 0x0, 1, 0x0, 1, .warmHost,
    [⟨"CapId", 15, 0, .ro, 0xb⟩, ⟨"Version", 19, 16, .ro, 1⟩, ⟨"Next", 31, 20, .ro, 0⟩]⟩,
  ⟨"CFG_VSECHDR", 0xa0002a4, 0x0, 1, 0x0, 1, .warmHost,
    [⟨"VsecId", 15, 0, .ro, 1⟩, ⟨"Revision", 19, 16, .ro, 1⟩, ⟨"Length", 31, 20, .ro, 0x20⟩]⟩,
  ⟨"CFG_VSECFOLIO", 0xa0002ac, 0x0, 1, 0x0, 1, .warm,
    [⟨"FolioOffset", 19, 0, .ro, 0⟩, ⟨"FolioLength", 31, 20, .ro, 0⟩]⟩]

/-- The CFG block's register table (R384). -/
def cfgRows : List RegRow := cfgRows0 ++ cfgRows1 ++ cfgRows2 ++ cfgRows3 ++ cfgRows4

/-! ## STG block (R399, 12_host_port.md) -/

abbrev STG_HWIN_LO (b : Nat) : Nat := 0xb040100 + 0x8 * b
abbrev STG_HWIN_LO.Enable (b : Nat) : Fld := ⟨STG_HWIN_LO b, 0, 0⟩
abbrev STG_HWIN_LO.HostBaseLow (b : Nat) : Fld := ⟨STG_HWIN_LO b, 31, 12⟩
abbrev STG_HWIN_HI (b : Nat) : Nat := 0xb040104 + 0x8 * b
abbrev STG_HWIN_HI.HostBaseHigh (b : Nat) : Fld := ⟨STG_HWIN_HI b, 31, 0⟩
abbrev STG_RWIN (b : Nat) : Nat := 0xb090400 + 0x4 * b
abbrev STG_RWIN.Enable (b : Nat) : Fld := ⟨STG_RWIN b, 0, 0⟩
abbrev STG_RWIN.Kind (b : Nat) : Fld := ⟨STG_RWIN b, 1, 1⟩
abbrev STG_RWIN.Cls (b : Nat) : Fld := ⟨STG_RWIN b, 2, 2⟩
abbrev STG_RWIN.Bank (b : Nat) : Fld := ⟨STG_RWIN b, 14, 8⟩
abbrev STG_RWIN.Node (b : Nat) : Fld := ⟨STG_RWIN b, 25, 16⟩
abbrev STG_WIN_CFG (b : Nat) : Nat := 0xb0a0100 + 0x8 * b
abbrev STG_WIN_CFG.Enable (b : Nat) : Fld := ⟨STG_WIN_CFG b, 0, 0⟩
abbrev STG_WIN_CFG.Remote (b : Nat) : Fld := ⟨STG_WIN_CFG b, 1, 1⟩
abbrev STG_WIN_CFG.Cls (b : Nat) : Fld := ⟨STG_WIN_CFG b, 2, 2⟩
abbrev STG_WIN_CFG.SizeLog (b : Nat) : Fld := ⟨STG_WIN_CFG b, 12, 8⟩
abbrev STG_WIN_CFG.BarOffset (b : Nat) : Fld := ⟨STG_WIN_CFG b, 31, 16⟩
abbrev STG_WIN_TGT (b : Nat) : Nat := 0xb0a0104 + 0x8 * b
abbrev STG_WIN_TGT.Bank (b : Nat) : Fld := ⟨STG_WIN_TGT b, 6, 0⟩
abbrev STG_WIN_TGT.Node (b : Nat) : Fld := ⟨STG_WIN_TGT b, 25, 16⟩

def stgRows0 : List RegRow := [
  ⟨"STG_HWIN_LO", 0xb040100, 0x8, 16, 0x0, 1, .system,
    [⟨"Enable", 0, 0, .rw, 0⟩, ⟨"HostBaseLow", 31, 12, .rw, 0⟩]⟩,
  ⟨"STG_HWIN_HI", 0xb040104, 0x8, 16, 0x0, 1, .system,
    [⟨"HostBaseHigh", 31, 0, .rw, 0⟩]⟩,
  ⟨"STG_RWIN", 0xb090400, 0x4, 64, 0x0, 1, .warm,
    [⟨"Enable", 0, 0, .rw, 0⟩, ⟨"Kind", 1, 1, .rw, 0⟩, ⟨"Cls", 2, 2, .rw, 0⟩, ⟨"Bank", 14, 8, .rw, 0⟩, ⟨"Node", 25, 16, .rw, 0⟩]⟩,
  ⟨"STG_WIN_CFG", 0xb0a0100, 0x8, 64, 0x0, 1, .warmHost,
    [⟨"Enable", 0, 0, .rw, 0⟩, ⟨"Remote", 1, 1, .rw, 0⟩, ⟨"Cls", 2, 2, .rw, 0⟩, ⟨"SizeLog", 12, 8, .rw, 0x14⟩, ⟨"BarOffset", 31, 16, .rw, 0⟩]⟩,
  ⟨"STG_WIN_TGT", 0xb0a0104, 0x8, 64, 0x0, 1, .warmHost,
    [⟨"Bank", 6, 0, .rw, 2⟩, ⟨"Node", 25, 16, .rw, 0⟩]⟩]

/-- The STG block's register table (R399). -/
def stgRows : List RegRow := stgRows0

/-- The register table that covers the key `a`. -/
def regRows (a : Nat) : List RegRow :=
  if 0x0 ≤ a ∧ a < 0x10000 then devRows
  else if 0x10000 ≤ a ∧ a < 0x20000 then cmdRows
  else if 0x20000 ≤ a ∧ a < 0x30000 then frmRows
  else if 0x30000 ≤ a ∧ a < 0x40000 then catRows
  else if 0x40000 ≤ a ∧ a < 0x50000 then engRows
  else if 0x50000 ≤ a ∧ a < 0x60000 then stkRows
  else if 0x60000 ≤ a ∧ a < 0x70000 then fltRows
  else if 0x70000 ≤ a ∧ a < 0x80000 then edgRows
  else if 0x80000 ≤ a ∧ a < 0x90000 then lnkRows
  else if 0x90000 ≤ a ∧ a < 0xa0000 then fabRows
  else if 0xa0000 ≤ a ∧ a < 0xb0000 then hptRows
  else if 0xb0000 ≤ a ∧ a < 0xc0000 then irqRows
  else if 0xc0000 ≤ a ∧ a < 0xd0000 then dmaRows
  else if 0xd0000 ≤ a ∧ a < 0xe0000 then crlRows
  else if 0xe0000 ≤ a ∧ a < 0xf0000 then pwrRows
  else if 0xf0000 ≤ a ∧ a < 0x100000 then rstRows
  else if 0x100000 ≤ a ∧ a < 0x110000 then mntRows
  else if 0x10000000 ≤ a ∧ a < 0x20000000 then crpRows
  else if 0x20000000 ≤ a then bayrRows
  else if 0xA000000 ≤ a ∧ a < 0xA001000 then cfgRows
  else if 0xB000000 ≤ a ∧ a < 0xC000000 then stgRows
  else []

/-- Every register row of the spec. -/
def allRegRows : List RegRow :=
  devRows ++ cmdRows ++ frmRows ++ catRows ++ engRows ++ stkRows ++ fltRows ++ edgRows ++ lnkRows ++ fabRows ++ hptRows ++ irqRows ++ dmaRows ++ crlRows ++ pwrRows ++ rstRows ++ mntRows ++ crpRows ++ bayrRows ++ cfgRows ++ stgRows

/-- Does the row describe the register at key `a`? -/
def RegRow.covers (r : RegRow) (a : Nat) : Bool :=
  if a < r.base then false else
  let d := a - r.base
  let i := if r.n1 == 1 then 0 else d / r.s1
  let e := d - i * r.s1
  let j := if r.n2 == 1 then 0 else e / r.s2
  decide (i < r.n1) && decide (j < r.n2) && (e == j * r.s2)

/-- The row of the register at key `a`; none where the block lists no register there. -/
def regRow (a : Nat) : Option RegRow := (regRows a).find? (fun r => r.covers a)

/-- The bits of the span hi:lo. -/
def spanMask (hi lo : Nat) : BitVec 32 := BitVec.ofNat 32 ((2 ^ (hi + 1 - lo) - 1) <<< lo)

/-- The reset value of a register row. -/
def RegRow.reset (r : RegRow) : BitVec 32 :=
  r.fields.foldl (fun v f => v ||| BitVec.ofNat 32 (f.reset <<< f.lo)) 0#32

/-- The bits of the row whose access code is `c`. -/
def RegRow.bits (r : RegRow) (c : Access) : BitVec 32 :=
  r.fields.foldl (fun v f => if f.acc = c then v ||| spanMask f.hi f.lo else v) 0#32

/-- What a register that nothing has changed since reset holds; 0 where no register is listed. -/
def regReset (a : Nat) : BitVec 32 :=
  match regRow a with
  | some r => r.reset
  | none => 0#32

end Sys2Proof.Machine
end

