-- ==== Sys2Proof/Machine/Table.lean ====
section
/-! DEFINITION. Machine/Table.lean: the sparse table every register file, memory and indexed unit of the
model is held in: a list of (key, value) pairs, keys strictly rising, no entry equal to what an
unlisted key reads as.  Also little-endian byte strings (R3), the R9 arbiter and the CRCs. -/

namespace Sys2Proof.Machine

/-- A sparse table of `α` (plain data). -/
abbrev Tab (α : Type) := List (Nat × α)

/-- The value at key `k`; an unlisted key reads as `d k`. -/
def tget {α : Type} (d : Nat → α) : Tab α → Nat → α
  | [], k => d k
  | (j, v) :: r, k => if k = j then v else tget d r k

/-- The table with `v` at key `k`, in canonical form. -/
def tset {α : Type} [DecidableEq α] (d : Nat → α) : Tab α → Nat → α → Tab α
  | [], k, v => if v = d k then [] else [(k, v)]
  | (j, w) :: r, k, v =>
    if k = j then (if v = d k then r else (k, v) :: r)
    else if k < j then (if v = d k then (j, w) :: r else (k, v) :: (j, w) :: r)
    else (j, w) :: tset d r k v

/-- The canonical form: keys strictly rising, no entry equal to the unlisted value. -/
def twf {α : Type} [DecidableEq α] (d : Nat → α) : Tab α → Bool
  | [] => true
  | [(j, w)] => decide (w ≠ d j)
  | (j, w) :: (k, x) :: r => decide (w ≠ d j) && decide (j < k) && twf d ((k, x) :: r)

/-- The table without the keys in [lo, hi). -/
def tclear {α : Type} (m : Tab α) (lo hi : Nat) : Tab α := m.filter (fun p => p.1 < lo || hi ≤ p.1)

/-! ## Bytes (R3: little-endian) -/

/-- `n` bytes of `v`, byte 0 first. -/
def leBytes : Nat → Nat → List Byte
  | 0, _ => []
  | n + 1, v => BitVec.ofNat 8 v :: leBytes n (v / 256)

/-- The number a little-endian byte string spells. -/
def leNat : List Byte → Nat
  | [] => 0
  | b :: r => b.toNat + 256 * leNat r

/-- Bytes `i` to `i + n - 1` of a string as a little-endian number; bytes past its end read 0. -/
def bytesAt (bs : List Byte) (i n : Nat) : Nat := leNat ((bs.drop i).take n)

/-- The string cut or padded with zeros to `n` bytes. -/
def padTo (n : Nat) (bs : List Byte) : List Byte := (bs ++ List.replicate n 0#8).take n

/-- The low `w` bits of `x`, as a signed number. -/
def signedOf (w x : Nat) : Int := (BitVec.ofNat w x).toInt

/-- Saturating count: `x + 1`, at most `m`. -/
def satInc (m x : Nat) : Nat := if x < m then x + 1 else m

/-! ## The arbiter of R9 -/

/-- Grants the least recently granted of `reqs`, the lower index first among those never granted.
`hist` lists the requesters that have been granted, the most recent last. -/
def arbPick (hist reqs : List Nat) : Option Nat :=
  match (reqs.filter (fun r => !hist.contains r)).min? with
  | some r => some r
  | none => hist.find? (fun r => reqs.contains r)

/-- The grant history after a grant to `r`. -/
def arbNote (hist : List Nat) (r : Nat) : List Nat := hist.filter (fun x => x != r) ++ [r]

/-! ## Check sequences -/

/-- One bit step of a reflected CRC with polynomial `p`. -/
def crcBit {w : Nat} (p : BitVec w) (c : BitVec w) : BitVec w :=
  if c.getLsbD 0 then (c >>> 1) ^^^ p else c >>> 1

/-- Eight bit steps. -/
def crcByte {w : Nat} (p : BitVec w) (c : BitVec w) (b : Byte) : BitVec w :=
  Nat.repeat (crcBit p) 8 (c ^^^ b.zeroExtend w)

/-- CRC-32C with the parameters of R284: reflected polynomial 0x82F63B78, initial value and final
exclusive-or all ones. -/
def crc32c (bs : List Byte) : Word := (bs.foldl (crcByte 0x82F63B78#32) 0xFFFFFFFF#32) ^^^ 0xFFFFFFFF#32

end Sys2Proof.Machine
end

