-- ==== Sys2Proof/Machine/State.lean ====
section
/-! DEFINITION. Machine/State.lean: the machine's whole state as plain data, the reasons a step can
stop, and the state right after a Cold reset.

Every 32-bit register of the register blocks, of configuration space, of the carrel pages and of the
bays is held in `State.regs` (see RegTable.lean: key, fields, reset value); the structures below hold
what the spec gives the machine beside its registers. -/

namespace Sys2Proof.Machine


/-! ## Frames and time (02) -/

/-- A commit in flight on this node, beside what FRM_COMMIT and FRM_TARGET hold (R53 to R61). -/
structure Commit where
  id : Word
  edition : Word
  epoch : Word
  participants : List Nat
  acks : List Nat
  dones : List Nat
  missed : List Nat
  goSent : Bool
  slip : Option SlipHdr
deriving DecidableEq, Repr

/-- STIME with its 16-bit fraction (R25) and a deferred step in ps (R27, R361). -/
structure TimeBase where
  stime : Dword
  frac : BitVec 16
  step : Option Int
  /-- What the rate has left over, in millionths of the fraction's unit: the dither of its 1 ppb (R359). -/
  dither : Nat
  /-- Ns of the system PLL's clock, which neither a step nor FAB_RATE moves: what a core's CYCLE counts by (R179). -/
  local_ : Nat
deriving DecidableEq, Repr

/-- The frame scheduler's state beside the FRM registers. -/
structure Frames where
  /-- The last boundary emitted, and its instant in ns (R27, R29). -/
  last : Nat
  lastAt : Nat
  /-- S of an accepted start (R32). -/
  startFrame : Nat
  /-- A stop waiting for the next boundary (R33). -/
  stopping : Bool
  /-- The gather end of the frame has passed (R36). -/
  gathered : Bool
  /-- The compute-start of the frame has been delivered (R37). -/
  computed : Bool
  /-- The outputs of the frame before have been released (R38). -/
  released : Bool
  /-- The pre-vote of the frame has been placed (R37). -/
  voted : Bool
  /-- A swap to a non-zero edition has occurred and its first boundary is to come (R65). -/
  firstFrame : Bool
  commit : Option Commit
  /-- The last CommitId this node assigned as coordinator (R53), and that of the commit whose F FRM_TARGET holds (R66). -/
  lastCommitId : Word
  targetId : Word
  /-- M and F of an accepted EDITION_ADOPT (R64). -/
  adopt : Option (Word × Dword)
  /-- M and Fj of an ADMIT (R63, R372). -/
  rejoin : Option (Word × Dword)
  /-- Shadow staging latches: register key and value, oldest first (R47, R49). -/
  latches : List (Nat × Word)
  /-- Combinations of Type, Sender and CommitId already acted on (R352). -/
  seen : List (Nat × Nat × Nat)
  /-- A fence is in force (R373). -/
  fence : Bool
  /-- The frame to be released ended in HELD, and the scheduler has stopped since (R33). -/
  stopHeld : Bool
  /-- The first boundary that a forward step of STIME has not jumped over; 0: no step has jumped over any (R27). -/
  jump : Nat
deriving DecidableEq, Repr

/-! ## Interrupts (13) -/

/-- The interrupt unit beside the IRQ registers, the MSI-X table and the bay controllers' registers. -/
structure IrqUnit where
  /-- Ticks of each running moderation timer (R423). -/
  timers : Tab (Option Nat)
  /-- Vectors whose message has fallen due (R425). -/
  due : List Nat
  /-- Grant history of the commit arbiter (R426). -/
  grants : List Nat
  /-- INTA is asserted (R433). -/
  inta : Bool
  /-- Enables and classes of the Curator's 256 sources, which firmware sets (R441). -/
  curEnable : BitVec 256
  curFast : BitVec 256
  /-- The Src registers of the Curator's fast and normal class: the source in service (R435). -/
  curFsrc : Option Nat
  curNsrc : Option Nat
deriving DecidableEq, Repr

/-! ## Accession log (07) -/

/-- An accession entry before Seq is given to it (R240). -/
structure LogEntry where
  stime : Dword
  event : BitVec 16
  unit : BitVec 16
  flags : Byte
  detail : List Byte
deriving DecidableEq, Repr

/-- The log writer's queue of up to 64 entries and its loss flag (R241). -/
structure LogUnit where
  queue : List LogEntry
  lossBefore : Bool
  /-- The events of the cycle being worked, in the order they arose, before they enter the queue. -/
  gathered : Option (List LogEntry)
deriving DecidableEq, Repr

/-! ## Fabric switch (11) -/

/-- A flit waiting for room in an output queue (R347): requester, link, class and flit. -/
structure Waiting where
  req : Nat
  link : Nat
  cls : Nat
  flit : Flit
deriving DecidableEq, Repr

/-- A flit delivered to this node, with its arrival stamp (R311, R346). -/
structure Delivered where
  flit : Flit
  link : Option Nat
  stamp : Dword
deriving DecidableEq, Repr

/-! ## Host port (12) -/

/-- What the bridge sends to the host (R402). -/
inductive Tlp
  | memWrite (addr : Nat) (data : List Byte) (pasid : Option Nat) (poison : Bool)
  | memRead (tag addr len : Nat) (pasid : Option Nat)
  /-- A completion: status 0 successful, 1 UR, 2 RRS, 4 CA. -/
  | completion (status : Nat) (data : List Byte) (poison : Bool)
  | assertInta
  | deassertInta
  | pmPme
  /-- An LTR message with its snoop and no-snoop latencies in ns; none: no requirement (R388). -/
  | ltr (snoop noSnoop : Option Nat)
  | errCor
  | errNonFatal
  | errFatal
deriving DecidableEq, Repr

/-- The requesters of R402 and what each waits for. -/
inductive Requester
  | mover (m : Nat)
  | slipFetch (index count : Nat)
  | engineLoad (e : Nat)
  | engineStore (e : Nat)
  | transfer (e : Nat)
deriving DecidableEq, Repr

/-- An outstanding non-posted request (R403). -/
structure Outstanding where
  tag : Nat
  requester : Requester
  addr : Nat
  len : Nat
  /-- Abandoned by an FLR: its completion is discarded without report (R406). -/
  abandoned : Bool
deriving DecidableEq, Repr

/-! ## Command channel (15) -/

/-- A return slip (R481). -/
structure ReturnSlip where
  opcode : BitVec 16
  seq : BitVec 16
  status : BitVec 16
  flags : Byte
  result : List Byte
deriving DecidableEq, Repr

/-- A call slip in the queue of 64 (R485). -/
structure QueuedSlip where
  bytes : List Byte
  path : SlipPath
deriving DecidableEq, Repr

/-- A relay entry (R497). -/
structure Relay where
  opcode : BitVec 16
  seq : BitVec 16
  target : BitVec 10
  path : SlipPath
  accepted : Bool
deriving DecidableEq, Repr

/-- One of the last 16 call slips executed (R487); `final` is none while the operation runs. -/
structure Repeat where
  opcode : BitVec 16
  seq : BitVec 16
  crc : Word
  final : Option ReturnSlip
deriving DecidableEq, Repr

/-- The unit a background operation holds busy (R486). -/
inductive BusyUnit
  | none
  | bay (b : Nat)
  | bank (b : Nat)
  | link (l : Nat)
  | lane (n : Nat)
  | carrel (k : Nat)
  /-- Every bank, bay or lane, of a self-test that names them all (R564). -/
  | banks
  | bays
  | lanes
deriving DecidableEq, Repr

/-- What a background operation carries out (R482), with the parameters its completion needs. -/
inductive BgCmd
  | commit
  | imageLoad (bay mask offset : Nat)
  | bankScrub (bank mode : Nat)
  | logCopy (first count offset : Nat)
  | linkRetrain (link : Nat)
  | laneMargin (lane : Nat)
  | carrelReset (carrel : Nat)
  | carrelDestroy (carrel : Nat)
  | bist (test unit options : Nat)
  | flashWrite (flash offset len : Nat)
  | reset (reach : Nat)
deriving DecidableEq, Repr

/-- A call slip that R94 or R118 holds back: its header, opcode and parameter bytes. -/
structure HeldCall where
  hdr : SlipHdr
  opcode : BitVec 16
  params : List Byte
deriving DecidableEq, Repr

/-- A background operation (R486): the slip that started it and the command it carries out. -/
structure Background where
  hdr : SlipHdr
  opcode : BitVec 16
  unit : BusyUnit
  cmd : BgCmd
deriving DecidableEq, Repr

/-- The command channel beside the CMD registers. -/
structure CmdUnit where
  queue : List QueuedSlip
  /-- Return slips held for the host path, oldest first (R15, R492). -/
  hold : List ReturnSlip
  relays : List Relay
  repeats : List Repeat
  background : List Background
  /-- Call slips that R94 or R118 holds back, oldest first. -/
  held : List HeldCall
  /-- A failed command-ring fetch has stopped fetching until RingEn goes from 0 to 1 (R493). -/
  fetchStopped : Bool
  lastSeq : BitVec 16
deriving DecidableEq, Repr

/-! ## Stacks (06) -/

/-- An access of a Stacks requester (R189): a read of `len` bytes, or a write of `data`, at a Stacks offset. -/
structure StkAccess where
  req : Nat
  offset : Nat
  len : Nat
  data : Option (List Byte)
  poison : Bool
deriving DecidableEq, Repr

/-- What the last granted access of STACKS_ACCESS returned. -/
structure StkReply where
  req : Nat
  offset : Nat
  /-- 0 performed, 1 poison, 2 error response, 3 discarded. -/
  outcome : Nat
  data : List Byte
deriving DecidableEq, Repr

/-- Stacks beside the STK registers. -/
structure StkUnit where
  /-- The 96 MB; an unlisted byte reads 0, as every bank is cleared before use (R204, R211). -/
  mem : List Host.Cell
  /-- ECC status by word (offset / 8): 0 good, 1 single-bit error, 2 uncorrectable, 3 poison (R196, R197). -/
  ecc : Tab Nat
  /-- Words whose accession entry has been written since they were last written (R198). -/
  reported : List Nat
  /-- Corrected words waiting for their bank's idle cycle (R196). -/
  writeback : List Nat
  /-- The line each bank's scrub would read next (R201). -/
  scrubLine : Tab Nat
  /-- Banks that have completed the current scrub pass. -/
  scrubbed : List Nat
  /-- Banks still powering on, before their clear (R204). -/
  powering : List Nat
  /-- Accesses waiting at banks in CLEARING or CHECKING, oldest first (R203). -/
  waiting : List StkAccess
  /-- Grant histories of the banks' arbiters (R190). -/
  grants : Tab (List Nat)
  /-- The last reply of STACKS_ACCESS. -/
  reply : Option StkReply
deriving DecidableEq, Repr

/-- A requester at a bank's arbiter, as STACKS_ACCESS names it, is turned into an access by its bank. -/
abbrev StkBanks : Nat := 96

/-! ## Catalogue (03) -/

/-- A queued catalogue event (R100): cause 1 Absent, 2 Uncorrectable. -/
structure CatEvent where
  stream : BitVec 16
  cause : BitVec 4
deriving DecidableEq, Repr

/-- Words 0 to 6 of a context (R69). -/
structure Ctx where
  w0 : Word
  w1 : Word
  w2 : Word
  w3 : Word
  w4 : Word
  w5 : Word
  w6 : Word
deriving DecidableEq, Repr

/-- Work that waits for the switch's ingress arbiter (R90, R91): its requester, a sample flit with its arrival link or the
samples of a Host block (context and value), and the arrival stamp. -/
structure Ingress where
  req : Nat
  flit : Option (Flit × Option Nat)
  samples : List (Nat × Nat)
  stamp : Nat
deriving DecidableEq, Repr

/-- The catalogue and the stream switch beside the CAT registers. -/
structure CatUnit where
  /-- The catalogue SRAM: word `w` of context `id` at key 16 * id + w (R69). -/
  mem : Tab Word
  /-- Contexts whose SRAM words hold an uncorrectable error, until a swap replaces them (R92). -/
  bad : List Nat
  /-- Contexts disabled for the current frame by such an error (R92). -/
  off : List Nat
  /-- Samples taken in the current frame, by context (R75). -/
  taken : Tab Nat
  /-- The bits last released and their WireFormat, by context, since the scheduler last left STOPPED (R84, R89). -/
  last : Tab (Option (Nat × Nat))
  events : List CatEvent
  /-- Events were lost since CAT_EVENT was last read (R100). -/
  overflow : Bool
  /-- Engines that produced outputs for the frame to be released; the contexts of every other are substituted (R83, R119). -/
  produced : List Nat
  /-- Ingress busy cycles of the current frame (R90). -/
  busy : Nat
  /-- The contexts of the edition under which the frame to be released was produced (R46, R94). -/
  relCtx : Tab Ctx
  /-- What the release sequencer read of that frame at its last boundary (R83): context, slot, and the converted value. -/
  read : List (Nat × Nat × Nat)
  /-- Records of that frame whose reads wait at a bank, and Engine contexts whose substitution waits there (R83, R203). -/
  unread : List (Nat × Nat)
  unsub : List Nat
  /-- Contexts sent at SendAt in the current frame (R73). -/
  sent : List Nat
  /-- Ingress work that arrived since the boundary and waits for its 200 ns to end (R91), oldest first. -/
  waiting : List Ingress
  /-- Grant histories of the ingress arbiter (R90) and of port B (R91). -/
  grants : List Nat
  portB : List Nat
  /-- Elements collected for the frame's outbound channels, by 4096 * ring + element (R461). -/
  hostOut : Tab Word
deriving DecidableEq, Repr

/-! ## Engines (04, 05) -/

/-- The architectural registers of a Limken core (R154, R179): g1 to g31, v0 to v15, p1 to p7, PC and the CSRs. -/
structure Regs where
  g : Tab Word
  v : Tab (BitVec 128)
  p : Tab Byte
  pc : Word
  csr : Tab Word
deriving DecidableEq, Repr

/-- Where an access goes (R109). -/
inductive Place
  | dmem (off : Nat)
  | bay (off : Nat)
  | edg (off : Nat)
  | stacks (off : Nat)
  | remote (device : Bool) (node cls off : Nat)
  | host (entry addr : Nat)
  /-- The Curator's SRAM (R187). -/
  | sram (off : Nat)
deriving DecidableEq, Repr

/-- A buffered store (R127), or an Accepted one whose completion is outstanding (R126). -/
structure Store where
  addr : Nat
  place : Place
  data : List Byte
  /-- The tag of its REMOTE request, or of the host port's zero-length read. -/
  tag : Option Nat
  /-- Its place in the order in which the core's stores issued (R132). -/
  seq : Nat
deriving DecidableEq, Repr

/-- A store declared lost (R130, R132). -/
structure Lost where
  addr : Nat
  /-- It had not been Accepted; otherwise only FENCE.D and the frame-end instruction wait for it. -/
  unaccepted : Bool
  seq : Nat
  /-- It was declared while an exception of this level drained: the handler's instructions do not wait for it (R133). -/
  level : Option Nat
deriving DecidableEq, Repr

/-- The register a load writes. -/
inductive LoadDest
  | g (r : Nat) (signed : Bool)
  | v (r : Nat)
deriving DecidableEq, Repr

/-- What a load or a transfer has received. -/
inductive Got
  | nothing
  | bytes (bs : List Byte)
  | error
deriving DecidableEq, Repr

/-- A load in the load queue (R128), with the registers of its engines as they stood when it issued. -/
structure Load where
  addr : Nat
  place : Place
  size : Nat
  dest : LoadDest
  tag : Option Nat
  got : Got
  before : List (Nat × Regs)
  /-- The place of its L entry in the pair's journal (R220). -/
  entry : Option Nat
deriving DecidableEq, Repr

/-- A transfer in flight (R171, R172). -/
structure Xfer where
  src : Nat
  place : Place
  dst : Nat
  size : Nat
  tag : Option Nat
  failed : Bool
  /-- The place of its L entry in the pair's journal (R220). -/
  entry : Option Nat
  /-- Data that has come and waits for an older transfer to overlapping bytes (R171). -/
  data : Option (List Byte)
deriving DecidableEq, Repr

/-- The memory path of a logical engine and its frame. -/
structure Port where
  sb : List Store
  /-- Stores Accepted and not yet Completed (R126). -/
  open_ : List Store
  lq : List Load
  xf : List Xfer
  /-- The stores declared lost since the last STORE_LOST, oldest store first (R132). -/
  lost : List Lost
  /-- The instant compute-start was delivered, and the frame-end time (R39). -/
  start : Nat
  fend : Option Nat
  /-- The frame number of the compute-start being run. -/
  frame : Nat
  /-- A compute-start waits for a wake, an IMEM repair or a migration (R111, R123, R228). -/
  deferred : Option Nat
  /-- Halted for the frame, or stopped for it, after a fault: its outputs are substituted (R119, R223). -/
  dead : Bool
  /-- Stores issued, which numbers them. -/
  issued : Nat
  /-- The system PLL's time at that compute-start, or at the Curator's reset (R179). -/
  clock : Nat
  /-- An exception waits for the drain of R134. -/
  draining : Bool
  /-- The instruction at the PC has been tried and waits at issue (R129, R131, R183). -/
  waiting : Bool
  /-- Waits that interrupts have cut short, the latest last: the level of the waiting instruction and the stores issued before it
  (R183). -/
  cuts : List (Nat × Nat)
deriving DecidableEq, Repr

/-- The image of a logical engine (R115). -/
structure Image where
  imemLen : Nat
  exceptionBase : Nat
  paramOffset : Nat
  paramLength : Nat
  crc : Word
deriving DecidableEq, Repr

/-- A phasor bin beside its registers (R144): the sums, 96-bit two's complement, and m. -/
structure Bin where
  re : BitVec 96
  im : BitVec 96
  m : Nat
  restart : Bool
deriving DecidableEq, Repr

/-- A phasor unit's update of frame `frame`, as the gather end began it (R144, R146): each enabled bin with descriptor words
0 and 1 and its context. -/
structure Gather where
  frame : Nat
  bins : List (Nat × Word × Word × Ctx)
deriving DecidableEq, Repr

/-- A journal entry (R220). -/
inductive JEntry
  | d (engine unit : Nat) (old : List Byte)
  | s (addr : Nat) (old new : List Byte)
  | x (addr : Nat) (bytes : List Byte)
  | l (addr size : Nat) (got : Got)
deriving DecidableEq, Repr

/-- A pair's journal and its recovery (R220 to R230). -/
structure Pair where
  journal : List JEntry
  overflow : Bool
  /-- Entries of the abandoned attempt that re-execution has not yet met (R222). -/
  left : List JEntry
  /-- Re-executing (R221). -/
  again : Bool
  /-- A mismatch found: compare point and instant; the rollback has not ended (R221). -/
  fault : Option (Nat × Nat)
  /-- The PAIR_FAULT to be written when the frame's outcome is known: compare point, entries, PC, rollback ns. -/
  report : Option (Nat × Nat × Nat × Nat)
  /-- Frames of the recovered mismatches that count toward FLT_HARD (R227). -/
  history : List Nat
  /-- The pair demoted and the migration still to come (R228). -/
  migrate : Bool
  /-- Interrupt state at the checkpoint: the bay's pending and active bits routed to the pair (R140). -/
  irqs : List (Nat × Bool × Bool)
deriving DecidableEq, Repr

/-- The engine array beside the ENG registers and the bay registers. -/
structure EngUnit where
  /-- Registers by engine 0 to 511; 512 is the Curator (R187). -/
  regs : Tab Regs
  /-- Memory paths by logical engine; 512 is the Curator. -/
  ports : Tab Port
  /-- IMEM word `w` of engine `e` at key 4096 * e + w. -/
  imem : Tab Word
  /-- DMEM byte `o` of engine `e` at key 32768 * e + o. -/
  dmem : Tab Byte
  /-- The Curator's 2 MB SRAM (R187). -/
  sram : Tab Byte
  /-- Engines of Single bays whose IMEM is under repair (R111). -/
  repairs : List Nat
  /-- The phasor updates under way, by bay (R144). -/
  gathers : Tab (Option Gather)
  /-- DMEM words that hold an uncorrectable error, by key of their first byte (R111). -/
  bad : List Nat
  /-- Engines whose result path an injection has corrupted (R244). -/
  hard : List Nat
  images : Tab (Option Image)
  /-- The current parameter copy, 0 or 1, by engine (R117). -/
  copy : Tab Nat
  /-- The post-swap or revert parameter copy is running (R117, R118). -/
  copying : Bool
  /-- Bins by 32 * bay + bin. -/
  bins : Tab Bin
  /-- Bays that hold the frame scheduler's vote and the phasor unit's vote (R122). -/
  frameVotes : List Nat
  phasorVotes : List Nat
  /-- Bays whose frame or phasor vote would have been withdrawn but for data in flight (R124). -/
  frameLate : List Nat
  phasorLate : List Nat
  pairs : Tab Pair
  /-- The spare pair's engine that carries a demoted logical engine, by logical engine (R228). -/
  moved : List (Nat × Nat)
  /-- Sort units waiting for or using a bay's network, by bay: engines in order of request (R149). -/
  sorts : Tab (List Nat)
  /-- Grant histories of the sort networks (R150). -/
  sortGrants : Tab (List Nat)
  /-- Grant histories of the bay ports to Stacks and fabric (R150). -/
  portGrants : Tab (List Nat)
  /-- Compute-start delays of the current frame's injection (R244). -/
  inject : Bool
  /-- The Curator's XSTAT.Level (R180). -/
  curLevel : Nat
deriving DecidableEq, Repr

/-! ## The fabric's remote requests (R355, R398) -/

/-- Who waits for a REMOTE response. -/
inductive RemoteUser
  | load (e : Nat)
  | store (e : Nat)
  | transfer (e : Nat)
  /-- A piece of the host read or write `id` (R398). -/
  | window (id : Nat) (read : Bool) (at_ : Nat)
deriving DecidableEq, Repr

/-- An outstanding REMOTE request. -/
structure RemoteReq where
  tag : Nat
  user : RemoteUser
  node : Nat
  offset : Nat
  size : Nat
  /-- The output link it was sent on; none: served by this node itself. -/
  link : Option Nat
deriving DecidableEq, Repr

/-- Outstanding REMOTE requests and the tag of the next one. -/
structure RemoteUnit where
  next : BitVec 16
  out : List RemoteReq
deriving DecidableEq, Repr

/-! ## Power domains (R518 to R522) -/

/-- A register access that waits for its power-gated domain (R522). -/
structure RegAccess where
  domain : Nat
  addr : Nat
  value : Option Word
  mask : Word
deriving DecidableEq, Repr

/-- Power management beside the PWR registers. -/
structure PwrUnit where
  /-- Domains that wait for the inrush sequencer, in arrival order; true for an access vote (R521). -/
  inrush : List (Nat × Bool)
  /-- Domains granted and not yet running. -/
  granted : List Nat
  accesses : List RegAccess
  /-- Ticks each domain has held no vote (R519, R123). -/
  idle : Tab Nat
deriving DecidableEq, Repr


/-! ## Edge I/O (08) -/

/-- A decimating sinc filter: its integrators, its differences, the bits captured of the present window and the whole windows
captured one after another since it restarted (R247). -/
structure Sinc where
  integ : List Int
  comb : List Int
  bits : Nat
  windows : Nat
deriving DecidableEq, Repr

/-- A modulator channel beside its registers. -/
structure ModChan where
  /-- The clock edge of the bit to be sampled next (R246). -/
  next : Nat
  slow : Sinc
  fast : Sinc
  /-- Length and level of the current run of equal bits (R249). -/
  run : Nat
  level : Bool
  /-- Outputs computed and not yet completed with their arrival stamps, oldest first (R247, R250). -/
  ready : List (Word × Dword)
  fastReady : List (BitVec 16)
  /-- The last 16 completed outputs since Enable was set, with their arrival stamps, oldest first (R76). -/
  outs : List (Word × Dword)
  /-- Consecutive fast outputs out of range (R250). -/
  beyond : Nat
  /-- A fast output has completed since reset: LastFast holds one (R256). -/
  judged : Bool
deriving DecidableEq, Repr

/-- A gate pair's outputs and the steps since each last changed (R263). -/
structure PairOut where
  h : Bool
  l : Bool
  sinceH : Nat
  sinceL : Nat
deriving DecidableEq, Repr

/-- A released value with the WireFormat it is decoded by (R260). -/
structure EdgVal where
  bits : Word
  fmt : Nat
deriving DecidableEq, Repr

/-- The edge ring beside the EDG registers. -/
structure EdgUnit where
  chans : Tab ModChan
  pairs : Tab PairOut
  /-- The value last released at each index (R262). -/
  vals : Tab (Option EdgVal)
  /-- Pairs that wait for a release instant after their last latch cleared or HOLD_N was released (R256, R268). -/
  parked : BitVec 24
  /-- The latest release instant and the step of the grid since (R263). -/
  origin : Nat
  step : Nat
  /-- The interlock path holds a configuration (R255). -/
  ilkLoaded : Bool
  /-- The levels of the ILK pins, and the ns each has stood at its own; the inputs active after polarity and filter are
  EDG_STATUS.IlkActive (R253). -/
  ilkPins : BitVec 8
  ilkFor : Tab Nat
  /-- MCLK pins that have left their fuse-map states (R245). -/
  mclkUsed : BitVec 4
  /-- Values have been released since the scheduler last left STOPPED (R265). -/
  released : Bool
  /-- Indices staged since the last boundary, the WireFormat of those a context staged at SendAt, and the staged values of the
  frame to be released (R260, R262). -/
  staged : List Nat
  stagedFmt : Tab (Option Nat)
  due : List (Nat × EdgVal)
  /-- The active copies of EDG_AUX_SH0 and EDG_AUX_SH1 (R271). -/
  auxLevel : Word
  auxHeld : Word
  /-- Last driven levels of the AUX outputs (R271). -/
  aux : BitVec 16
  /-- Grant history of the EDG_DYN staging arbiter (R262). -/
  grants : List Nat
deriving DecidableEq, Repr



/-! ## Rings, movers and carrels (14) -/

/-- A fetched descriptor (R445, R446). -/
structure Desc where
  host : Nat
  stk : Nat
  len : Nat
  ctl : Word
  code : Nat
  /-- Segments not started: offset and bytes (R451). -/
  todo : List (Nat × Nat)
  running : Nat
  /-- The lowest offset not transferred (Done). -/
  bad : Option Nat
deriving DecidableEq, Repr

/-- A pool ring beside DMA_RING_DB and DMA_RING_STAT (R443, R444). -/
structure Ring where
  /-- Carrel 0 to 255, 256 the manager, 257 none: the ring is free. -/
  owner : Nat
  sizeLog : Nat
  base : Nat
  vector : Nat
  /-- Descriptors fetched and not yet completed, from Head on. -/
  fetched : List Desc
  /-- Fetching has ended at a descriptor with Own 0 (R450). -/
  parked : Bool
deriving DecidableEq, Repr

/-- A host read of a mover's work and what it returned: none an error, otherwise the bytes and their poison. -/
structure Piece where
  addr : Nat
  len : Nat
  issued : Bool
  got : Option (Option (List Byte × Bool))
deriving DecidableEq, Repr

/-- A channel's transfer for a frame: frame, ring, Elems and the outbound block (R460, R461). -/
structure ChanDue where
  frame : Nat
  ring : Nat
  elems : Nat
  block : List Word
deriving DecidableEq, Repr

/-- A mover's work (R452). -/
inductive Job
  | idle
  | fetch (ring index : Nat)
  | segment (ring index off len : Nat)
  | writeback (ring : Nat)
  | chanDesc (chan : Nat) (due : ChanDue)
  | chanData (chan : Nat) (due : ChanDue) (host : Nat) (ctl : Word)
deriving DecidableEq, Repr

/-- A mover and the host reads of its work. -/
structure Mover where
  job : Job
  pieces : List Piece
deriving DecidableEq, Repr

/-- A carrel reset in progress: carrel, 0 call slip or 1 page, segments and reads abandoned, the round not yet passed, and
destruction at its end (R469, R471). -/
structure CarrelReset where
  carrel : Nat
  origin : Nat
  segs : Nat
  reads : Nat
  round : Bool
  destroy : Bool
deriving DecidableEq, Repr

/-- The movers and the carrel manager beside the DMA and CRL registers. -/
structure DmaUnit where
  rings : Tab Ring
  movers : Tab Mover
  /-- Channel transfers due, oldest first, by channel. -/
  due : Tab (List ChanDue)
  /-- The outbound channels of the frame to be released: channel, ring, Elems (R458). -/
  outbound : List (Nat × Nat × Nat)
  deficit : Tab Int
  /-- The weights the last scheduling round applied (R454). -/
  weight : Tab Nat
  ownerGrants : List Nat
  ringGrants : Tab (List Nat)
  chanGrants : List Nat
  /-- Grant history of the movers' Stacks port (R455), and the movers whose segment waits at a bank (R203). -/
  portGrants : List Nat
  stalled : List Nat
  /-- BULK flits accepted whose write waits for the hold of R456 to end: the ring, and bytes 0 to 119 (R465). -/
  bulk : List (Nat × List Byte)
  resets : List CarrelReset
deriving DecidableEq, Repr


/-! ## Serial lanes and Maelid links (09, 10) -/

/-- A serial lane beside its registers (R286 to R292). -/
structure LaneUnit where
  /-- Consecutive valid blocks, the polarity they were found in, and consecutive invalid blocks (R286, R287). -/
  good : Nat
  inverted : Bool
  bad : Nat
  /-- The link layer sends on the lane, so it checks no blocks (R286). -/
  taken : Bool
  /-- The order found in ALIGNED: true reversed (R288). -/
  order : Option Bool
  /-- The last comparison found more than 20 ns of skew: the error its LinkError is for (R289). -/
  skewed : Bool
  /-- The partner's last training block carried Ready (R336). -/
  partnerReady : Bool
  /-- The generator: the value its register started from, the bits it has sent, and the places in its stream of the bits yet to
  be sent that TxErrInject inverts (R292). -/
  seed : Nat
  sent : Nat
  flips : List Nat
  /-- The error count limit of the margining capability (R296). -/
  limit : Nat
  /-- A step of the margining capability measures: the disagreements of the eyes already measured (R296). -/
  step : Option Nat
  /-- The transmitter's scrambler: the last 58 bits the lane has sent, newest first (R283); none: 58 ones. -/
  scr : Option (List Bool)
deriving DecidableEq, Repr

/-- What a link's transmitter has yet to send before any sequenced flit (R320, R332). -/
inductive LinkItem
  /-- A link-local flit with its payload from byte 4. -/
  | flit (type : Nat) (payload : List Byte)
  /-- A TIME_PROBE and a TIME_REPLY, which take their departure stamp when they are sent (R309). -/
  | probe (id : Nat)
  | reply (id t1 t2 : Nat)
  /-- A LANE_DROP (2) or LANE_ADD (3), whose SwitchSeq is TxNext when it is sent (R332). -/
  | announce (type new old reason : Nat)
  /-- Switch blocks on every lane of a new set: NewMask, Purpose, Reason (R333). -/
  | blocks (mask purpose reason : Nat)
  /-- The usable lanes return to SEEK after a RETRAIN answer (R338). -/
  | retrain
deriving DecidableEq, Repr

/-- What a link has sent. -/
inductive LinkSent
  /-- A flit of 128 bytes on a lane set. -/
  | flit (mask : Nat) (bytes : List Byte)
  /-- A switch block of 128 bytes on each lane of a set, by LinkLane. -/
  | blocks (mask : Nat) (bytes : List (List Byte))
deriving DecidableEq, Repr

/-- A Maelid link beside its registers (R314 to R338). -/
structure LinkUnit where
  /-- The unacknowledged sequenced flits O to TxNext - 1; flits beyond the 256 newest lie in the spill region (R318). -/
  buf : List Flit
  /-- The flits it has freed since its last fresh bring-up, which place those that lie in the spill region (R194). -/
  base : Nat
  /-- The replay in progress: the place in `buf` it sends next (R315). -/
  replay : Option Nat
  /-- Nak goes into the next trailer (R312). -/
  nak : Bool
  /-- Pending link-local flits and switch blocks, oldest first. -/
  ctl : List LinkItem
  /-- The class of the next CrCount (R321). -/
  rot : Nat
  /-- The receive buffers: accepted flits with their stamps, in order of arrival (R311). -/
  rx : List (Flit × Dword)
  /-- Entries freed since link-up, flits first sent, and the last CrCount received, modulo 256, by class (R321). -/
  freed : Tab Nat
  used : Tab Nat
  counts : Tab Nat
  /-- Grant history of the C2 and C3 arbiter (R320). -/
  grants : List Nat
  /-- STIME of the failures counted under R312 in the last window (R324). -/
  fails : List Nat
  /-- Consecutive flits that failed every test (R334). -/
  failRun : Nat
  /-- A CREDIT_INIT has been received (R309); INIT was entered from RETRAIN (R327). -/
  seen : Bool
  resume : Bool
  /-- An own switch outstanding: its set, its Reason and the set before it (R337). -/
  mine : Option (Nat × Nat × Nat)
  /-- A retrain request outstanding: its Reason and the times it was sent (R338). -/
  request : Option (Nat × Nat)
  /-- The retrain in progress: its Reason, and whether this end answered it. -/
  retrain : Option (Nat × Bool)
  /-- A quiescing slot: no new sequenced flits are sent (R376). -/
  quiet : Bool
  /-- Flits to be disposed of by the switch after DOWN, those of the spill region with the offset they are read from (R195, R329,
  R351). -/
  handed : List (Flit × Option Nat)
  /-- ROUTE_FAILOVER is due. -/
  failover : Bool
  /-- What has been sent, oldest first, and the bytes of the stream since the last switch (R331). -/
  wire : List LinkSent
  place : Nat
  /-- The last 8 outbound delays, in ps (R358), and the ProbeId of the next probe. -/
  delays : List Int
  probeId : BitVec 16
  /-- The TIME flit last received: Stime, Period, Timekeeper, flags, Depth, Epoch (R362). -/
  time : Option (Nat × Nat × Nat × Nat × Nat × Nat)
  /-- The ROUTE parts last received: hops and ViaYou by destination (R353). -/
  adverts : Tab Nat
deriving DecidableEq, Repr

/-- The last beacon of a node (R366, R367). -/
structure Beacon where
  epoch : Word
  flags : Byte
  cause : Nat
  weight : Nat
  priority : Nat
  keystone : Nat
  keyEn : Bool
  edition : Word
  staged : Word
  /-- Its arrival, in nanoseconds of the bridge's own clock. -/
  arrived : Nat
  /-- Beacons in a row that showed HELD with a cause other than ResyncFailed (R370). -/
  heldRun : Nat
deriving DecidableEq, Repr

/-- A PROPOSE the leader, or the proposer of the formation, has sent (R368, R370, R371). -/
structure Proposal where
  epoch : Word
  nodes : List Nat
  total : Nat
  agrees : List Nat
  /-- Nodes it admits. -/
  joins : List Nat
  formation : Bool
deriving DecidableEq, Repr

/-- The time servo (R358 to R361). -/
structure Servo where
  /-- The last 8 offsets from the parent, in ps. -/
  offsets : List Int
  /-- Consecutive exchanges with the mean offset within LockWin, and outside 4 x LockWin. -/
  inside : Nat
  outside : Nat
deriving DecidableEq, Repr

/-- A piece of an inbound read (R398): offset in the read, size, and its answer: status of R355 and data. -/
structure InPiece where
  at_ : Nat
  size : Nat
  got : Option (Nat × List Byte)
deriving DecidableEq, Repr

/-- The target of an inbound request. -/
inductive Target
  /-- A register by its key: BAR0's blocks, or a carrel page of BAR2 (assumption log 3). -/
  | reg (key : Nat)
  /-- The catalogue table window or an engine window, by BAR0 offset. -/
  | window (off : Nat)
  | stacks (off : Nat)
  | remote (node cls off : Nat)
  | rom (off : Nat)
  /-- A BAR0 offset outside every region: it reads 0 and ignores writes (R393). -/
  | void
  | absent
  /-- A configuration request: a read of a DW, or a write of it (R401). -/
  | config (dw : Nat)
  | configWrite (dw : Nat) (data : Word) (be : BitVec 4)
deriving DecidableEq, Repr

/-- An inbound non-posted request (R401): its target, translated at its arrival (R400), its byte enables (R394), the tags of older
remote writes it waits for, and, once it has issued, its pieces. -/
structure InRead where
  id : Nat
  target : Target
  len : Nat
  be : List Bool
  header : List Byte
  after : List Nat
  pieces : Option (List InPiece)
  /-- Its completion: status, data, poison. -/
  done : Option (Nat × List Byte × Bool)
deriving DecidableEq, Repr

/-- The host port beside the HPT registers and configuration space. -/
structure HostUnit where
  /-- TLPs sent to the host, oldest first. -/
  sent : List Tlp
  /-- TLPs that wait for the link to reach L0 (R410, R430). -/
  waiting : List Tlp
  outstanding : List Outstanding
  /-- Quarantined tags (R405). -/
  quarantine : List Nat
  /-- The latency requirement of the last LTR message; none: none sent since the last reset (R388). -/
  ltr : Option (Option Nat)
  /-- The expansion ROM's check failed, so the ROM BAR is hardwired to 0 (R395). -/
  romBad : Bool
  /-- Ticks since PERST# was released (R417). -/
  perstTicks : Nat
  /-- Inbound reads not yet completed, in order of arrival, and the number of the next (R401). -/
  reads : List InRead
  nextRead : Nat
  /-- Grant history of the outbound queues and tags (R402, R403). -/
  grants : List Nat
  /-- The host aperture's accesses that wait for a tag, in order of arrival: the core, and true for a store (R402, R403). -/
  aperture : List (Nat × Bool)
deriving DecidableEq, Repr

/-- A REMOTE request that waits at a bank in CLEARING or CHECKING, or behind one of its link that does (R356). -/
structure RemoteWait where
  link : Option Nat
  write : Bool
  msg : RemoteMsg
  cls : BitVec 2
deriving DecidableEq, Repr

/-- The fabric switch and the membership and time state beside the FAB registers. -/
structure FabricUnit where
  /-- Output queues, keyed 4 * link + class (R347). -/
  queues : Tab (List Flit)
  waiting : List Waiting
  /-- Grant histories of the output queues, keyed as `queues`. -/
  grants : Tab (List Nat)
  /-- Flits delivered locally and not yet acted on, oldest first (R346). -/
  inbox : List Delivered
  /-- Period carried in the TIME flits of the time parent, if any has been heard (R32, R362). -/
  parentPeriod : Option Nat
  servo : Servo
  /-- The last beacon by node (R367). -/
  beacons : Tab (Option Beacon)
  /-- Members whose beacons have lapsed, with the Beats since (R367, R370). -/
  lapsed : List (Nat × Nat)
  proposal : Option Proposal
  /-- Joiners to be admitted by the next PROPOSE (R372). -/
  joins : List Nat
  /-- Nodes of the last adopted roster that were admitted, and are to receive ADMIT. -/
  admits : List Nat
  /-- Combinations of Msg, Sender, Epoch and Part acted on (R352). -/
  seen : List (Nat × Nat × Nat × Nat)
  /-- Halves of the PROPOSE and ROSTER bit maps received: Msg, Sender, Epoch, Part and the nodes (R366). -/
  halves : List (Nat × Nat × Nat × Nat × List Nat)
  /-- The place in FAB_FORM of the node that JOIN is sent to next (R372). -/
  joinAt : Nat
  /-- REMOTE requests that wait, in order of arrival (R356). -/
  remoteWait : List RemoteWait
deriving DecidableEq, Repr

/-- How the console answers a call slip of a text command (R553). -/
inductive TextAns
  | fields (name : String)
  | ok
  | bist (test : Nat) (unit : Nat)
  | word
deriving DecidableEq, Repr

/-- The last run of a self-test (R564). -/
structure BistRun where
  outcome : Nat
  unit : Nat
  detail : Word
  duration : Word
deriving DecidableEq, Repr

/-- The maintenance port beside the MNT registers (17). -/
structure MntUnit where
  /-- Bytes sent on MUART_TXD, oldest first. -/
  tx : List Byte
  /-- The line being typed in text mode; none: a line too long is being discarded (R551). -/
  line : Option (List Byte)
  /-- The last character accepted was a CR (R551). -/
  cr : Bool
  /-- The call-frame bytes collected so far in framed mode (R494). -/
  frame : List Byte
  /-- The console's own Sequence counter, and how its slips are answered, by Sequence (R553). -/
  seq : BitVec 16
  texts : List (Nat × TextAns)
  /-- The M2W pointer and the bytes of the last M2W read (R555). -/
  m2wPtr : Byte
  m2wOut : List Byte
  /-- The TAP's instruction (R567). -/
  tap : Byte
  /-- The last run of each test since the last reset (R564). -/
  runs : Tab (Option BistRun)
deriving DecidableEq, Repr

/-- The boot flash and the booted firmware image (R537 to R543). -/
structure BootUnit where
  build : BitVec 16
  verified : Bool
  digest : List Byte
  /-- The QSPI flash; an unlisted byte reads 0xFF (log entry 20). -/
  flash : Tab Byte
  /-- Slots rejected in this boot, and the failed slot's reason (R543, R545). -/
  tried : Nat
  reason : Nat
  /-- The image has been accepted and the ROM check has not ended (R542). -/
  booting : Bool
  /-- The OTP words, and the copy of words 0x400 to 0x41F that fuse sensing latched (R537). -/
  otp : Tab Word
  fuses : Tab Word
  /-- The folio words of the last option loading, 0 where it was invalid (R541). -/
  folio : Tab Word
  /-- Crc read and computed by an option loading that found the folio invalid, not yet written (R545). -/
  optInvalid : Option (Word × Word)
deriving DecidableEq, Repr

/-- Where the start-up of a reset episode stands (R534, R542, R544). -/
inductive StartPhase
  /-- No episode: the Curator has been released. -/
  | none
  /-- A source is asserted, or was until less than 2 ticks ago. -/
  | asserted
  | fuses
  | core
  | pll
  | options
deriving DecidableEq, Repr

/-- The way into deep sleep (R524, R528). -/
inductive SleepStage
  | awake
  /-- Step 1 of R524. -/
  | draining
  /-- The drain of R529. -/
  | pfailDrain
  /-- Banks 2 to 95, then banks 0 and 1 (R206). -/
  | sealing
  | sealingLow
  | asleep
deriving DecidableEq, Repr

/-- The reset sources and the episode (R532 to R534), and deep sleep (R524 to R531). -/
structure RstUnit where
  /-- Source bits asserted now. -/
  asserted : List Nat
  /-- Source bits seen in the episode. -/
  seen : List Nat
  /-- The widest reach of the episode: 0 Cold, 1 System, 2 Warm. -/
  reach : Nat
  phase : StartPhase
  /-- Ticks since the first assertion, and restarts of the sequencing. -/
  ticks : Nat
  restarts : Nat
  /-- The core the start-up self-check fenced, whose CURATOR_SOLO is to be written (R237). -/
  solo : Option Nat
  stage : SleepStage
  /-- The sealing belongs to a PFAIL sequence; its entry is to be written (R531). -/
  pfail : Bool
  entry : Bool
  /-- STIME at the recognition of PFAIL_N; stores lost, segments abandoned and links taken DOWN since. -/
  drainFrom : Nat
  lost : Nat
  segments : Nat
  links : Nat
  /-- Banks that have not been sealed yet and are to be (R206). -/
  toSeal : List Nat
  /-- The episode follows deep sleep (R527). -/
  slept : Bool
  /-- Ticks in deep sleep; the wake entry to be written: code and those ticks (R545). -/
  sleepTicks : Nat
  woke : Option (Nat × Nat)
  /-- The AO timer ends the present standby (R523). -/
  standbyTimer : Bool
  /-- Supplies outside their range, by number in the order of R514. -/
  low : List Nat
  /-- Lanes whose WakeEn the wake detector has copied (R524). -/
  wakeLanes : List Nat
  /-- The codes of the wake sources that were active when entry ended (R526). -/
  wakeNow : List Nat
  /-- An option loading has ended since VDD_AON became good (R576). -/
  optionsRead : Bool
  /-- AOCLK has fallen back from the crystal, or the crystal has not started (R516). -/
  xtalFallen : Bool
  /-- Ticks before the VDD_CORE target may change again (R576). -/
  avsWait : Nat
  /-- The command byte 0x02 of M2W waits for VDD_CORE (R557). -/
  holdDue : Bool
deriving DecidableEq, Repr

/-- The machine. -/
structure State where
  /-- The queue of waiting commands, first in, first out (the model's own). -/
  pending : List Instr
  /-- Every 32-bit register, by key (RegTable.lean); canonical over `regReset`. -/
  regs : Tab Word
  /-- STIME. -/
  time : TimeBase
  /-- The frame scheduler. -/
  frm : Frames
  /-- The interrupt unit. -/
  irq : IrqUnit
  /-- The accession log's writer. -/
  log : LogUnit
  /-- The host port. -/
  host : HostUnit
  /-- The fabric switch, time and membership. -/
  fab : FabricUnit
  /-- The command channel. -/
  cmd : CmdUnit
  /-- The model's own counter of free values taken (log entry 6); not the spec's. -/
  free : Nat
  /-- The maintenance port. -/
  mnt : MntUnit
  /-- The booted firmware image. -/
  boot : BootUnit
  /-- Stacks. -/
  stk : StkUnit
  /-- The catalogue and the stream switch. -/
  cat : CatUnit
  /-- The engine array. -/
  eng : EngUnit
  /-- Outstanding REMOTE requests. -/
  rem : RemoteUnit
  /-- Power domains. -/
  pwr : PwrUnit
  /-- The edge ring. -/
  edg : EdgUnit
  /-- Serial lanes 0 to 63 (R278). -/
  lanes : Tab LaneUnit
  /-- Maelid links 0 to 47 (R303). -/
  links : Tab LinkUnit
  /-- Rings, movers, channels and carrels. -/
  dma : DmaUnit
  /-- Reset episodes and deep sleep. -/
  rst : RstUnit
  /-- What the last REGISTER_READ returned; none while it waits for its domain (R522). The model's own output; not the spec's. -/
  readData : Option Word
  /-- The HI halves latched by reads of their LO halves, by the HI half's key (R26, R250, R293). -/
  hiLatch : Tab Word
deriving DecidableEq, Repr

/-- Why the machine stops with a fault. -/
inductive Fault
  /-- No command raises it: the model has no faulting access (safe). -/
  | unreachable
deriving DecidableEq, Repr

/-- Why a command is refused. -/
inductive Refusal
  /-- A command whose meaning is not written yet (safe). -/
  | notModelled (mnemonic : String)
deriving DecidableEq, Repr

/-- The outcome of a command. -/
abbrev Result := Host.Outcome State Fault Refusal

/-- The machine right after a Cold reset: every register at its Reset value, nothing in any queue. -/
def State.reset : State where
  pending := []
  regs := []
  time := { stime := 0#64, frac := 0#16, step := none, dither := 0, local_ := 0 }
  frm := { last := 0, lastAt := 0, startFrame := 0, stopping := false, gathered := false, computed := false, released := true,
           voted := false, firstFrame := false, commit := none, lastCommitId := 0#32, targetId := 0#32, adopt := none, rejoin := none,
           latches := [], seen := [], fence := false, stopHeld := false, jump := 0 }
  irq := { timers := [], due := [], grants := [], inta := false, curEnable := 0#256, curFast := 0#256, curFsrc := none, curNsrc := none }
  log := { queue := [], lossBefore := false, gathered := none }
  host := { sent := [], waiting := [], outstanding := [], quarantine := [], ltr := none, romBad := false, perstTicks := 0,
            reads := [], nextRead := 0, grants := [], aperture := [] }
  fab := { queues := [], waiting := [], grants := [], inbox := [], parentPeriod := none, servo := { offsets := [], inside := 0, outside := 0 },
           beacons := [], lapsed := [], proposal := none, joins := [], admits := [], seen := [], halves := [], joinAt := 0, remoteWait := [] }
  dma := { rings := [], movers := [], due := [], outbound := [], deficit := [], weight := [], ownerGrants := [], ringGrants := [],
           chanGrants := [], portGrants := [], stalled := [], bulk := [], resets := [] }
  lanes := []
  links := []
  cmd := { queue := [], hold := [], relays := [], repeats := [], background := [], held := [], fetchStopped := false, lastSeq := 0#16 }
  mnt := { tx := [], line := some [], cr := false, frame := [], seq := 0#16, texts := [], m2wPtr := 0#8, m2wOut := [], tap := 1#8, runs := [] }
  boot := { build := 0#16, verified := false, digest := [], flash := [], tried := 0, reason := 0, booting := false, otp := [], fuses := [],
            folio := [], optInvalid := none }
  rst := { asserted := [], seen := [0], reach := 0, phase := .fuses, ticks := 0, restarts := 0, solo := none, stage := .awake,
           pfail := false, entry := false, drainFrom := 0, lost := 0, segments := 0, links := 0, toSeal := [], slept := false,
           sleepTicks := 0, woke := none, standbyTimer := false, low := [6], wakeLanes := [], wakeNow := [],
           optionsRead := false, xtalFallen := false, avsWait := 0, holdDue := false }
  readData := none
  hiLatch := []
  stk := { mem := [], ecc := [], reported := [], writeback := [], scrubLine := [], scrubbed := [], powering := [], waiting := [],
           grants := [], reply := none }
  cat := { mem := [], bad := [], off := [], taken := [], last := [], events := [], overflow := false, produced := [], busy := 0, relCtx := [],
           read := [], unread := [], unsub := [], sent := [], waiting := [], grants := [], portB := [], hostOut := [] }
  eng := { regs := [], ports := [], imem := [], dmem := [], sram := [], bad := [], hard := [], images := [], copy := [],
           copying := false, bins := [], frameVotes := [], phasorVotes := [], frameLate := [], phasorLate := [], pairs := [], moved := [], sorts := [], sortGrants := [], portGrants := [], repairs := [], gathers := [],
           inject := false, curLevel := 2 }
  rem := { next := 0#16, out := [] }
  pwr := { inrush := [], granted := [], accesses := [], idle := [] }
  edg := { chans := [], pairs := [], vals := [], parked := 0#24, origin := 0, step := 0, ilkLoaded := false, ilkPins := 0#8, ilkFor := [],
           mclkUsed := 0#4, released := false, staged := [], stagedFmt := [], due := [], auxLevel := 0#32, auxHeld := 0#32, aux := 0#16, grants := [] }
  free := 0

end Sys2Proof.Machine
end

