-- ==== Sys2Proof/Machine/Ops.lean ====
section
/-! DEFINITION. Machine/Ops.lean: the named operations over the register file, the block event flags with
the interrupts they raise (R420 to R434), the accession log's queue (R239 to R241), free values and the
TLPs sent to the host. -/

namespace Sys2Proof.Machine

/-! ## Registers and fields -/

/-- The register at key `a`. -/
def State.rd (s : State) (a : Nat) : Word := tget regReset s.regs a

/-- The register at key `a` set to `v`. -/
def State.wr (s : State) (a : Nat) (v : Word) : State := { s with regs := tset regReset s.regs a v }

/-- The field `f` of the word `w`. -/
def Fld.get (f : Fld) (w : Word) : Nat := (w.toNat / 2 ^ f.lo) % 2 ^ (f.hi + 1 - f.lo)

/-- The word `w` with the field `f` set to `v`, taken modulo the field's width. -/
def Fld.put (f : Fld) (w : Word) (v : Nat) : Word :=
  (w &&& ~~~ spanMask f.hi f.lo) ||| (BitVec.ofNat 32 (v <<< f.lo) &&& spanMask f.hi f.lo)

/-- The value of a field. -/
def State.fld (s : State) (f : Fld) : Nat := f.get (s.rd f.reg)

/-- A field set to `v`. -/
def State.setF (s : State) (f : Fld) (v : Nat) : State := s.wr f.reg (f.put (s.rd f.reg) v)

/-- Is a field non-zero? -/
def State.on (s : State) (f : Fld) : Bool := s.fld f != 0

/-- A one-bit field set from a Bool. -/
def State.setB (s : State) (f : Fld) (b : Bool) : State := s.setF f b.toNat

/-- A 32-bit counter register incremented, saturating at 0xFFFFFFFF. -/
def State.inc (s : State) (a : Nat) : State :=
  s.wr a (BitVec.ofNat 32 (satInc 0xFFFFFFFF (s.rd a).toNat))

/-- A counter register increased by `n`, saturating at 0xFFFFFFFF. -/
def State.incBy (s : State) (a n : Nat) : State :=
  s.wr a (BitVec.ofNat 32 (min 0xFFFFFFFF ((s.rd a).toNat + n)))

/-- A counter field incremented, saturating at its largest value. -/
def State.incF (s : State) (f : Fld) : State := s.setF f (satInc (2 ^ (f.hi + 1 - f.lo) - 1) (s.fld f))

/-- A register raised to `v` if it is below it. -/
def State.maxR (s : State) (a v : Nat) : State :=
  if (s.rd a).toNat < v then s.wr a (BitVec.ofNat 32 (min 0xFFFFFFFF v)) else s

/-- The 64-bit value of two halves. -/
def State.rd64 (s : State) (lo hi : Nat) : Nat := (s.rd lo).toNat + (s.rd hi).toNat * 2 ^ 32

/-- Two halves written with a 64-bit value. -/
def State.wr64 (s : State) (lo hi v : Nat) : State :=
  (s.wr lo (BitVec.ofNat 32 v)).wr hi (BitVec.ofNat 32 (v / 2 ^ 32))

/-- `f` applied for every element of a list, in order. -/
def State.each {α : Type} (s : State) (l : List α) (f : α → State → State) : State := l.foldl (fun t x => f x t) s

/-- `f` applied when `c` holds. -/
def State.when (s : State) (c : Bool) (f : State → State) : State := if c then f s else s

/-! ## Free values (assumption log 6) -/

/-- The free value the next command takes, and the state with the counter advanced. -/
def State.takeFree (s : State) : Word × State := (Config.freeWord s.free, { s with free := s.free + 1 })

/-- The bytes of `n` free words. -/
def State.freeBytes (s : State) : Nat → State × List Byte
  | 0 => (s, [])
  | n + 1 =>
    let f := s.takeFree
    let r := State.freeBytes f.2 n
    (r.1, leBytes 4 f.1.toNat ++ r.2)

/-! ## Time and identity -/

/-- STIME in ns. -/
def State.now (s : State) : Nat := s.time.stime.toNat

/-- STIME brought up to `t` where it stands below it: an event that the spec places at the instant `t`. -/
def State.atLeast (s : State) (t : Nat) : State :=
  if s.now < t then { s with time := { s.time with stime := BitVec.ofNat 64 t, frac := 0#16, local_ := s.time.local_ + (t - s.now) } } else s

/-- A word of the option folio as loaded; 0 where it was invalid (R541). -/
def State.folioWord (s : State) (w : Nat) : Word := tget (fun _ => 0#32) s.boot.folio w

/-- Is supply `n`, numbered in the order of R514, within its range? -/
def State.supplied (s : State) (n : Nat) : Bool := !s.rst.low.contains n

/-- PFAIL_N is recognised, or its sequence is under way (R528, R531). -/
def State.pfail (s : State) : Bool := s.on PWR_STATUS.Pfail || s.rst.pfail

/-- P, the frame period (R28). -/
def State.period (s : State) : Nat := s.fld FRM_PERIOD.Period

/-- c, the current frame number (R30). -/
def State.frame (s : State) : Nat := s.now / s.period

/-- The own node ID (R345). -/
def State.nodeId (s : State) : Nat := s.fld FAB_NODE.NodeId

/-- The scheduler states of R31. -/
abbrev stopped : Nat := 0
abbrev armed : Nat := 1
abbrev run : Nat := 2
abbrev held : Nat := 3

/-- The scheduler state. -/
def State.sched (s : State) : Nat := s.fld FRM_STATUS.State

/-- The scheduler is in RUN or HELD, where boundaries are generated (R31). -/
def State.running (s : State) : Bool := s.sched == run || s.sched == held

/-- The Curator's firmware is running (RST_STATUS.BootState 2). -/
def State.curatorUp (s : State) : Bool := s.fld RST_STATUS.BootState == 2

/-- HOLD_N is asserted. -/
def State.holdAsserted (s : State) : Bool := s.on EDG_HOLD.State

/-! ## TLPs to the host -/

/-- The host link is up and may carry requests of the bridge (the negation of R412). -/
def State.canRequest (s : State) : Bool :=
  !s.on HPT_STATUS.Perst && s.on HPT_STATUS.LinkUp && !s.on HPT_STATUS.FlrActive &&
  s.on CFG_CMDSTS.BusMaster && s.fld CFG_PMCSR.PowerState == 0

/-- L1.2 is enabled, and the latency the bridge has told the host it tolerates reaches the LTR threshold; without a requirement any
latency is tolerated (R388, R410). -/
def State.l12Open (s : State) : Bool :=
  let limit := s.fld CFG_L1SSCTL1.ThresholdValue * 32 ^ s.fld CFG_L1SSCTL1.ThresholdScale
  s.on CFG_L1SSCTL1.AspmL12 && s.host.ltr.all (fun need => need.all (fun n => decide (limit ≤ n)))

/-- A TLP is sent, or, while the link is in L0s or L1, waits for L0 (R410, R430). -/
def State.sendTlp (s : State) (t : Tlp) : State :=
  if s.fld HPT_STATUS.LinkPower = 0 then { s with host := { s.host with sent := s.host.sent ++ [t] } }
  else { s with host := { s.host with waiting := s.host.waiting ++ [t] } }

/-- A requester of R402 has been granted entry to the outbound queues. -/
def State.hostGrant (s : State) (r : Nat) : State := { s with host := { s.host with grants := arbNote s.host.grants r } }

/-- A TLP that is sent only while the link is up. -/
def State.sendIfUp (s : State) (t : Tlp) : State := if s.on HPT_STATUS.LinkUp then s.sendTlp t else s

/-! ## Block event flags, manager vectors and INTx (R420 to R433) -/

/-- The manager vector (R420) of the event-flag register at key `a`; none if `a` is no event-flag register. -/
def flagVector (a : Nat) : Option Nat :=
  let off := a % 0x10000
  let blk := a / 0x10000
  if blk = 8 then
    let o := off % 0x1000
    if off < 0xC000 ∧ ((0x200 ≤ o ∧ o < 0x600 ∧ o % 0x100 = 0x78) ∨ (0xC00 ≤ o ∧ o % 0x100 = 0x38)) then some 7 else none
  else if blk = 0xA ∧ 0xF000 ≤ off ∧ off % 0x100 = 0x38 then some 9
  else if off ≠ 0x78 then none
  else match blk with
    | 1 => some 0
    | 2 => some 1
    | 3 => some 2
    | 4 => some 3
    | 5 => some 4
    | 6 => some 5
    | 7 => some 6
    | 9 => some 8
    | 0xA => some 9
    | 0xB => some 15
    | 0xC => some 10
    | 0xD => some 11
    | 0xE => some 12
    | 0xF => some 13
    | 0x10 => some 14
    | _ => none

/-- IRQ_VSTAT(v) (R421): the manager's sixteen vectors, then the pool's. -/
def vstat (v : Nat) : Nat := if v < 16 then IRQ_VSTAT_MGR v else IRQ_VSTAT_POOL (v - 16)

/-- The count C of a vector (R423). -/
def vstatCount (v : Nat) : Fld := ⟨vstat v, 23, 16⟩

/-- The timer-running flag of a vector (R423). -/
def vstatTimer (v : Nat) : Fld := ⟨vstat v, 24, 24⟩

/-- Has the event-flag register at `a`, holding `w`, an enabled flag set? -/
def State.flagsOn (s : State) (a : Nat) (w : Word) : Bool := (w &&& s.rd (a + 4)) != 0#32

/-- IRQ_INTX.Cause bit `v` (R433): for vector 0, a return slip waits in the reply ring. -/
def State.intxCause (s : State) (v : Nat) : Bool :=
  if v = 0 then s.fld CMD_RQ_TAIL.Index != s.fld CMD_RQ_HEAD.Index
  else s.regs.any (fun p => flagVector p.1 == some v && s.flagsOn p.1 p.2)

/-- Some INTx cause is active. -/
def State.intxAny (s : State) : Bool := (List.range 16).any s.intxCause

/-- Assert_INTA or Deassert_INTA is sent when the condition of R433 changes; while the link is down or an FLR is in progress
the host knows of no INTA. -/
def State.intxUpdate (s : State) : State :=
  let want := !s.on CFG_MSIX.Enable && !s.on CFG_CMDSTS.InterruptDisable && s.fld CFG_PMCSR.PowerState == 0 && s.on HPT_STATUS.LinkUp &&
    !s.on HPT_STATUS.FlrActive && s.intxAny
  if want = s.irq.inta then s
  else
    let t := { s with irq := { s.irq with inta := want } }
    t.sendIfUp (if want then .assertInta else .deassertInta)

/-- The vector's message falls due (R423). -/
def State.vectorDue (s : State) (v : Nat) : State :=
  if s.irq.due.contains v then s else { s with irq := { s.irq with due := s.irq.due ++ [v] } }

/-- VECTOR_EVENT (R422, R423): an event counts toward vector `v` and may make its message due. -/
def State.vectorEvent (s : State) (v : Nat) : State :=
  if !s.on CFG_MSIX.Enable then s
  else
    let c := s.fld (vstatCount v)
    let s1 := s.setF (vstatCount v) (satInc 255 c)
    let s2 := if c = 0 ∧ s.fld (IRQ_MOD.Timer v) ≠ 0 then
        { (s1.setF (vstatTimer v) 1) with irq := { s1.irq with timers := tset (fun _ => none) s1.irq.timers v (some 0) } }
      else s1
    if max 1 (s.fld (IRQ_MOD.CountThr v)) ≤ s2.fld (vstatCount v) then s2.vectorDue v else s2

/-- PME_SIGNAL (R431): PME_Status is set and, with PME_En, a PM_PME message sent.  Its flag counts toward vector 15 (R422); it
signals no further PME, since PME_Status is 1 by then. -/
def State.pmeSignal (s : State) : State :=
  if s.on CFG_PMCSR.PmeStatus then s
  else
    let t := s.setF CFG_PMCSR.PmeStatus 1
    if t.on CFG_PMCSR.PmeEn then
      let u := ((t.sendTlp .pmPme).inc IRQ_PMECNT).setF IRQ_IRQ_STATUS.PmeSignalled 1
      if !t.on IRQ_IRQ_STATUS.PmeSignalled && t.on ⟨IRQ_IRQ_EN, 1, 1⟩ then u.vectorEvent 15 else u
    else t

/-- A block's flag becomes 1 (R422): if it was 0 and is enabled, it counts toward the block's vector, acts on
INTx while MSI-X is disabled, and in D3hot signals PME where it makes the vector's cause active (R433). -/
def State.raise (s : State) (f : Fld) : State :=
  let t := s.setF f 1
  if s.on f ∨ !s.on ⟨f.reg + 4, f.hi, f.lo⟩ then t
  else match flagVector f.reg with
    | none => t
    | some v =>
      if s.on CFG_MSIX.Enable then t.vectorEvent v
      else if s.fld CFG_PMCSR.PowerState = 3 then t.when (!s.intxCause v && t.intxCause v) State.pmeSignal
      else t.intxUpdate

/-! ## Bay and Curator interrupt sources (R434, R440, R441) -/

/-- An edge source of bay `b` becomes pending. -/
def State.bayEdge (s : State) (b src : Nat) : State :=
  if src < 32 then s.setF ⟨BAYR_BIC_PEND_LO b, src, src⟩ 1 else s.setF ⟨BAYR_BIC_PEND_HI b, src - 32, src - 32⟩ 1

/-- An edge source becomes pending in every bay. -/
def State.allBaysEdge (s : State) (src : Nat) : State := s.each (List.range 64) (fun b t => t.bayEdge b src)

/-- An edge source of the Curator becomes pending. -/
def State.curEdge (s : State) (src : Nat) : State := s.setF ⟨IRQ_CUR_PEND (src / 32), src % 32, src % 32⟩ 1

/-! ## The accession log's queue (R239 to R241, R590) -/

/-- The entry of an event that occurs now (R240). -/
def State.entryNow (s : State) (event unit : Nat) (detail : List Byte) : LogEntry where
  stime := s.time.stime
  event := BitVec.ofNat 16 event
  unit := BitVec.ofNat 16 unit
  flags := BitVec.ofNat 8 ((s.sched == held).toNat + 2 * s.fld FLT_STATUS.CuratorSolo)
  detail := padTo 16 detail

/-- An entry enters the log writer's queue, marked where the event before it was lost; one that finds 64 queued is lost
(R241). -/
def State.requeue (s : State) (e : LogEntry) : State :=
  if 64 ≤ s.log.queue.length then
    { ((s.inc FLT_LOG_LOST).raise FLT_IRQ_STATUS.LogLost) with log := { s.log with lossBefore := true } }
  else
    { s with log := { s.log with
        queue := s.log.queue ++ [{ e with flags := e.flags ||| (if s.log.lossBefore then 4#8 else 0#8) }], lossBefore := false } }

/-- Writes an accession event into the log writer's queue.  While the firmware is not running no event is
queued (R590); an event that finds 64 entries queued is counted in FLT_LOG_LOST (R241). -/
def State.logEvent (s : State) (event unit : Nat) (detail : List Byte) : State :=
  if !s.curatorUp then s
  else match s.log.gathered with
    | some es => { s with log := { s.log with gathered := some (es ++ [s.entryNow event unit detail]) } }
    | none => s.requeue (s.entryNow event unit detail)

/-- `f` acts in one cycle: the events it writes are gathered, then enter the queue in ascending Event code (R241). -/
def State.inOneCycle (s : State) (f : State → State) : State :=
  if s.log.gathered.isSome then f s
  else
    let t := f { s with log := { s.log with gathered := some [] } }
    let es := (t.log.gathered.getD []).insertionSort (fun a b => a.event.toNat ≤ b.event.toNat)
    { t with log := { t.log with gathered := none } }.each es (fun e u => u.requeue e)

/-! ## Modulator channels (R246) -/

/-- A filter restarted from empty. -/
def Sinc.empty : Sinc := ⟨[], [], 0, 0⟩

/-- A channel at reset. -/
def ModChan.init : ModChan := ⟨0, Sinc.empty, Sinc.empty, 0, false, [], [], [], 0, false⟩

/-- Channel `c` beside its registers. -/
def State.chan (s : State) (c : Nat) : ModChan := tget (fun _ => ModChan.init) s.edg.chans c

/-- Channel `c` set. -/
def State.setChan (s : State) (c : Nat) (m : ModChan) : State :=
  { s with edg := { s.edg with chans := tset (fun _ => ModChan.init) s.edg.chans c m } }

/-- The period of channel `c`'s clock (R245). -/
def State.modPeriod (s : State) (c : Nat) : Nat := s.fld (EDG_MCLK.Period (s.fld (EDG_MOD_CFG.Clock c)))

/-- The instant of the selected transition of edge `j` of channel `c`'s clock: edges rise at j × Period and fall ⌊Period / 2⌋
later (R245). -/
def State.edgeInstant (s : State) (c j : Nat) : Nat :=
  j * s.modPeriod c + if s.on (EDG_MOD_CFG.FallingEdge c) then s.modPeriod c / 2 else 0

/-- Channel `c` samples next at the first selected edge from now on (DESIGN CHOICE, log entry 52). -/
def State.edgeFromNow (s : State) (c : Nat) : State :=
  let off := s.edgeInstant c 0
  s.setChan c { s.chan c with next := (s.now - off + s.modPeriod c - 1) / s.modPeriod c }

/-- A core of the Curator is fenced: it runs on the other core alone (R237). -/
def State.fenceCore (s : State) (core : Nat) : State :=
  ((s.setF FLT_STATUS.CuratorSolo 1).setF FLT_STATUS.FencedCore core).raise FLT_IRQ_STATUS.CuratorSolo

/-- A core's registers at their reset values (R154, R155, R180). -/
def Regs.zero : Regs := ⟨[], [], [], 0#32, []⟩

/-! ## The TAP's instruction (R567) -/

/-- RESET_N is recognised low: source 3 of R532 is asserted. -/
def State.resetLow (s : State) : Bool := s.rst.asserted.contains 3

/-- The TAP holds a test instruction. -/
def State.tapTest (s : State) : Bool := [0x00#8, 0x04#8, 0x05#8, 0x08#8, 0x09#8].contains s.mnt.tap

/-- The instruction that acts: with RESET_N high a test instruction acts as BYPASS (R567). -/
def State.tapActs (s : State) : Byte := if s.tapTest && !s.resetLow then 0xFF#8 else s.mnt.tap

/-- A test instruction holds the pins (R567). -/
def State.jtagTest (s : State) : Bool := s.tapTest && s.resetLow

end Sys2Proof.Machine
end

