-- ==== Sys2Proof/Machine/Switch.lean ====
section
/-! DEFINITION. Machine/Switch.lean: the fabric switch (R345 to R350): routes, output queues and their arbiters,
local delivery, and the flits this node originates. -/

namespace Sys2Proof.Machine

/-- A per-link register function at link `l` = 4p + k (R303). -/
abbrev onLink {α : Type} (f : Nat → Nat → α) (l : Nat) : α := f (l / 4) (l % 4)

/-- Does the port's split create link `l` (R303)? -/
def State.linkExists (s : State) (l : Nat) : Bool :=
  match s.fld (LNK_PORT.Split (l / 4)) with
  | 0 => l % 4 == 0
  | 1 => decide (l % 4 < 2)
  | 2 => true
  | _ => false

/-- The states of a link (LNK_STATUS.State). -/
abbrev lkDisabled : Nat := 0
abbrev lkTraining : Nat := 1
abbrev lkInit : Nat := 2
abbrev lkActive : Nat := 3
abbrev lkRetrain : Nat := 4
abbrev lkDown : Nat := 5

/-- The state of link `l`. -/
def State.linkState (s : State) (l : Nat) : Nat := s.fld (onLink LNK_STATUS.State l)

/-- A link is live when it is ACTIVE or in RETRAIN and its partner is not a leaf (R350). -/
def State.linkLive (s : State) (l : Nat) : Bool :=
  decide (l < 48) && s.linkExists l && (s.linkState l == lkActive || s.linkState l == lkRetrain) &&
  !s.on (onLink LNK_STATUS.PartnerLeaf l)

/-- The live fabric links, ascending. -/
def State.liveLinks (s : State) : List Nat := (List.range 48).filter s.linkLive

/-- The leaf links in ACTIVE, ascending. -/
def State.activeLeaves (s : State) : List Nat :=
  (List.range 48).filter (fun l => s.linkExists l && s.linkState l == lkActive && s.on (onLink LNK_STATUS.PartnerLeaf l))

/-- Steps 2 to 4 of R350 for destination `d`: the output link, if any, and whether the other entry was used
because the candidate is the arrival link. -/
def State.routeLink (s : State) (d : Nat) (arrival : Option Nat) : Option (Nat × Bool) :=
  if !s.on (FAB_ROUTE.Valid d) then none
  else
    let p := s.fld (FAB_ROUTE.Primary d)
    let a := s.fld (FAB_ROUTE.Alternate d)
    let altOk := s.on (FAB_ROUTE.AltEn d) && s.linkLive a
    let cand := if s.linkLive p then some (p, altOk, a) else if altOk then some (a, s.linkLive p, p) else none
    match cand with
    | none => none
    | some (l, otherOk, o) =>
      if some l = arrival then (if otherOk ∧ o ≠ l then some (o, true) else none) else some (l, false)

/-- The depth of an output queue by class (R347). -/
def queueDepth (c : Nat) : Nat :=
  match c with
  | 0 => 8
  | 1 => 4
  | 2 => 32
  | _ => 16

/-- The output queue of a link and class. -/
def State.outQueue (s : State) (l c : Nat) : List Flit := tget (fun _ => []) s.fab.queues (4 * l + c)

/-- Requester `r`, an input link below 48, puts a flit in an output queue, or waits for room (R347). -/
def State.enqueueFlit (s : State) (r l : Nat) (f : Flit) : State :=
  let c := f.cls.toNat
  let k := 4 * l + c
  let q := s.outQueue l c
  if q.length < queueDepth c then
    { s with fab := { s.fab with
        queues := tset (fun _ => []) s.fab.queues k (q ++ [{ f with came := if r < 48 then some r else none }]),
        grants := tset (fun _ => []) s.fab.grants k (arbNote (tget (fun _ => []) s.fab.grants k) r) } }
  else { s with fab := { s.fab with waiting := s.fab.waiting ++ [⟨r, l, c, f⟩] } }

/-- A flit discarded for want of a route (R350). -/
def State.noRoute (s : State) : State := (s.inc FAB_NOROUTE).raise FAB_IRQ_STATUS.NoRoute

/-- Local delivery (R346): the flit waits for the unit its type names; a flit for the Curator is lost while its firmware
is not running (DEDUCED, assumption log 12). -/
def State.deliver (s : State) (f : Flit) (link : Option Nat) (stamp : Dword) : State :=
  if !s.curatorUp && (f.type == 10#4 || f.type == 11#4 || f.type == 12#4) then s
  else { s with fab := { s.fab with inbox := s.fab.inbox ++ [⟨f, link, stamp⟩] } }

/-- R350 for a flit of requester `r` that arrived on `arrival`: delivered, queued on a link, or discarded (false). -/
def State.switchFlit (s : State) (r : Nat) (f : Flit) (arrival : Option Nat) (stamp : Dword) : State × Bool :=
  if f.dest.toNat = s.nodeId then (s.deliver f arrival stamp, true)
  else match s.routeLink f.dest.toNat arrival with
    | none => (s.noRoute, false)
    | some (l, uturn) => ((s.when uturn (·.inc FAB_UTURN)).enqueueFlit r l f, true)

/-- The flit types of R306 that this node originates. -/
abbrev ftSample : BitVec 4 := 8#4
abbrev ftCommand : BitVec 4 := 9#4
abbrev ftCommit : BitVec 4 := 10#4
abbrev ftSlip : BitVec 4 := 11#4
abbrev ftMember : BitVec 4 := 12#4
abbrev ftTime : BitVec 4 := 13#4
abbrev ftBulk : BitVec 4 := 14#4
abbrev ftRemote : BitVec 4 := 15#4

/-- A flit of class `c` with its payload padded to bytes 4 to 119. -/
def mkFlit (t : BitVec 4) (c dest stream : Nat) (payload : List Byte) : Flit :=
  ⟨t, BitVec.ofNat 2 c, BitVec.ofNat 10 dest, BitVec.ofNat 16 stream, padTo 116 payload, none⟩

/-- A flit the Curator (requester 49) originates. -/
def State.curatorFlit (s : State) (t : BitVec 4) (dest : Nat) (payload : List Byte) : State × Bool :=
  s.switchFlit 49 (mkFlit t 0 dest 0 payload) none s.time.stime

/-- The oldest delivered flit of type `t` is taken out of the inbox (the command that acts on it carries what it says). -/
def State.popInbox (s : State) (t : BitVec 4) : State :=
  { s with fab := { s.fab with inbox := s.fab.inbox.eraseP (fun d => d.flit.type == t) } }

end Sys2Proof.Machine
end

