-- ==== Sys2Proof/Machine/Slip.lean ====
section
/-! DEFINITION. Machine/Slip.lean: how a call slip runs and how its return slip goes back (R479 to R500): the
repeat rule, background operations, the reply ring with its hold, the console and the fabric path. -/

namespace Sys2Proof.Machine

/-! ## Status codes (R501) -/

abbrev stOk : Nat := 0x0000
abbrev stAccepted : Nat := 0x0001
abbrev stCrcError : Nat := 0x0101
abbrev stUnknownOpcode : Nat := 0x0102
abbrev stLengthInvalid : Nat := 0x0103
abbrev stFlagsInvalid : Nat := 0x0104
abbrev stTargetInvalid : Nat := 0x0105
abbrev stReservedNonzero : Nat := 0x0106
abbrev stScheduleInvalid : Nat := 0x0110
abbrev stValueRange : Nat := 0x0111
abbrev stContextInvalid : Nat := 0x0112
abbrev stAddressInvalid : Nat := 0x0113
abbrev stImageInvalid : Nat := 0x0114
abbrev stTimingInvalid : Nat := 0x0115
abbrev stWindowInvalid : Nat := 0x0116
abbrev stRingInvalid : Nat := 0x0117
abbrev stLate : Nat := 0x0201
abbrev stSwapMissed : Nat := 0x0202
abbrev stStageFrozen : Nat := 0x0203
abbrev stNotRunning : Nat := 0x0204
abbrev stNodeHeld : Nat := 0x0205
abbrev stEditionMismatch : Nat := 0x0206
abbrev stEpochMismatch : Nat := 0x0207
abbrev stCommitAborted : Nat := 0x0208
abbrev stCommitBusy : Nat := 0x0209
abbrev stScope : Nat := 0x020A
abbrev stPeriodMismatch : Nat := 0x020B
abbrev stHoldNotAsserted : Nat := 0x020C
abbrev stBayRunning : Nat := 0x020D
abbrev stBayEmpty : Nat := 0x020E
abbrev stModeMismatch : Nat := 0x020F
abbrev stBayIdle : Nat := 0x0210
abbrev stBankBusy : Nat := 0x0211
abbrev stBankUnusable : Nat := 0x0212
abbrev stLinkUp : Nat := 0x0213
abbrev stHoldRefused : Nat := 0x0214
abbrev stTripActive : Nat := 0x0215
abbrev stChannelBusy : Nat := 0x0216
abbrev stLaneBusy : Nat := 0x0217
abbrev stLaneNotReady : Nat := 0x0218
abbrev stLinkNotActive : Nat := 0x0219
abbrev stWidthRefused : Nat := 0x021A
abbrev stMemberState : Nat := 0x021B
abbrev stSlotState : Nat := 0x021C
abbrev stNotFenced : Nat := 0x021D
abbrev stCarrelState : Nat := 0x021E
abbrev stRingState : Nat := 0x021F
abbrev stPasidInUse : Nat := 0x0220
abbrev stUnitBusy : Nat := 0x0221
abbrev stFuseState : Nat := 0x0222
abbrev stVppAbsent : Nat := 0x0223
abbrev stTimeUnlocked : Nat := 0x0224
abbrev stStageFull : Nat := 0x0310
abbrev stSpillOverlap : Nat := 0x0311
abbrev stPoolExhausted : Nat := 0x0312
abbrev stQueueFull : Nat := 0x0313
abbrev stBackgroundFull : Nat := 0x0314
abbrev stRelayFull : Nat := 0x0315
abbrev stReplyTimeout : Nat := 0x0401
abbrev stNoRoute : Nat := 0x0402
abbrev stMediaError : Nat := 0x0403
abbrev stFlashError : Nat := 0x0404
abbrev stSignatureInvalid : Nat := 0x0405
abbrev stBistFailed : Nat := 0x0406

/-! ## Return slips -/

/-- Bytes 0 to 27 of a return slip (R481). -/
def ReturnSlip.body (r : ReturnSlip) : List Byte :=
  leBytes 2 r.opcode.toNat ++ leBytes 2 r.seq.toNat ++ leBytes 2 r.status.toNat ++ [r.flags] ++
  leBytes 1 r.result.length ++ padTo 20 r.result

/-- The 32 bytes of a return slip, its Crc last (R481). -/
def ReturnSlip.bytes (r : ReturnSlip) : List Byte := r.body ++ leBytes 4 (crc32c r.body).toNat

/-- A first or final return slip; Final is 0 only with ACCEPTED (R481). -/
def mkReturn (opcode : BitVec 16) (seq : BitVec 16) (status : Nat) (result : List Byte) : ReturnSlip :=
  ⟨opcode, seq, BitVec.ofNat 16 status, if status = stAccepted then 0#8 else 1#8, result.take 20⟩

/-- The ASCII bytes of a string. -/
def ascii (t : String) : List Byte := t.toList.map (fun c => BitVec.ofNat 8 c.toNat)

/-- One hexadecimal digit, capital. -/
def hexDigit (n : Nat) : Byte := if n < 10 then BitVec.ofNat 8 (48 + n) else BitVec.ofNat 8 (55 + n)

/-- `n` hexadecimal digits of `v`, most significant first. -/
def hexN : Nat → Nat → List Byte
  | 0, _ => []
  | n + 1, v => hexN n (v / 16) ++ [hexDigit (v % 16)]

/-- The bytes of a string as hexadecimal pairs. -/
def hexBytes (bs : List Byte) : List Byte := bs.flatMap (fun b => hexN 2 b.toNat)

/-- The names of the status codes (R501). -/
def statusName (c : Nat) : String :=
  match c with
  | 0x0000 => "OK" | 0x0001 => "ACCEPTED" | 0x0101 => "CRC_ERROR" | 0x0102 => "UNKNOWN_OPCODE"
  | 0x0103 => "LENGTH_INVALID" | 0x0104 => "FLAGS_INVALID" | 0x0105 => "TARGET_INVALID" | 0x0106 => "RESERVED_NONZERO"
  | 0x0110 => "SCHEDULE_INVALID" | 0x0111 => "VALUE_RANGE" | 0x0112 => "CONTEXT_INVALID" | 0x0113 => "ADDRESS_INVALID"
  | 0x0114 => "IMAGE_INVALID" | 0x0115 => "TIMING_INVALID" | 0x0116 => "WINDOW_INVALID" | 0x0117 => "RING_INVALID"
  | 0x0201 => "LATE" | 0x0202 => "SWAP_MISSED" | 0x0203 => "STAGE_FROZEN" | 0x0204 => "NOT_RUNNING"
  | 0x0205 => "NODE_HELD" | 0x0206 => "EDITION_MISMATCH" | 0x0207 => "EPOCH_MISMATCH" | 0x0208 => "COMMIT_ABORTED"
  | 0x0209 => "COMMIT_BUSY" | 0x020A => "SCOPE" | 0x020B => "PERIOD_MISMATCH" | 0x020C => "HOLD_NOT_ASSERTED"
  | 0x020D => "BAY_RUNNING" | 0x020E => "BAY_EMPTY" | 0x020F => "MODE_MISMATCH" | 0x0210 => "BAY_IDLE"
  | 0x0211 => "BANK_BUSY" | 0x0212 => "BANK_UNUSABLE" | 0x0213 => "LINK_UP" | 0x0214 => "HOLD_REFUSED"
  | 0x0215 => "TRIP_ACTIVE" | 0x0216 => "CHANNEL_BUSY" | 0x0217 => "LANE_BUSY" | 0x0218 => "LANE_NOT_READY"
  | 0x0219 => "LINK_NOT_ACTIVE" | 0x021A => "WIDTH_REFUSED" | 0x021B => "MEMBER_STATE" | 0x021C => "SLOT_STATE"
  | 0x021D => "NOT_FENCED" | 0x021E => "CARREL_STATE" | 0x021F => "RING_STATE" | 0x0220 => "PASID_IN_USE"
  | 0x0221 => "UNIT_BUSY" | 0x0222 => "FUSE_STATE" | 0x0223 => "VPP_ABSENT" | 0x0224 => "TIME_UNLOCKED"
  | 0x0310 => "STAGE_FULL" | 0x0311 => "SPILL_OVERLAP" | 0x0312 => "POOL_EXHAUSTED" | 0x0313 => "QUEUE_FULL"
  | 0x0314 => "BACKGROUND_FULL" | 0x0315 => "RELAY_FULL" | 0x0401 => "REPLY_TIMEOUT" | 0x0402 => "NO_ROUTE"
  | 0x0403 => "MEDIA_ERROR" | 0x0404 => "FLASH_ERROR" | 0x0405 => "SIGNATURE_INVALID" | 0x0406 => "BIST_FAILED"
  | _ => ""

/-- Bytes sent on the console. -/
def State.consoleOut (s : State) (bs : List Byte) : State :=
  { s with mnt := { s.mnt with tx := s.mnt.tx ++ bs } }

/-- A decimal number of at least three digits. -/
def dec3 (n : Nat) : List Byte :=
  let d (k : Nat) : Byte := BitVec.ofNat 8 (48 + n / k % 10)
  if n < 1000 then [d 100, d 10, d 1] else [d 1000, d 100, d 10, d 1]

/-- The end of an answer in text mode: CR LF and the prompt (R551). -/
def State.prompt (s : State) : List Byte := [13#8, 10#8] ++ ascii "n" ++ dec3 s.nodeId ++ ascii "> "

/-- The names of the self-tests (R563). -/
def bistName (t : Nat) : String :=
  match t with
  | 0x01 => "CURATOR" | 0x02 => "CATALOGUE" | 0x03 => "STACKS_ECC" | 0x04 => "STACKS_MARCH" | 0x05 => "ENGINE"
  | 0x06 => "LANE" | 0x07 => "EDGE" | 0x08 => "TIMEBASE" | 0x09 => "FUSE" | 0x0A => "FLASH" | 0xF0 => "ALL" | _ => ""

/-- The answer line of a text command (R553); a status other than OK or ACCEPTED is printed by its name. -/
def TextAns.line (a : TextAns) (r : ReturnSlip) : List Byte :=
  let st := r.status.toNat
  let final : List Byte :=
    (match bytesAt r.result 0 1 with
     | 0 => ascii "PASS"
     | 1 => ascii "FAIL"
     | _ => ascii "NOTRUN") ++ ascii " " ++ hexN 8 (bytesAt r.result 4 4) ++ ascii " " ++ hexN 8 (bytesAt r.result 8 4)
  match a with
  | .bist t u =>
    let head := ascii "BIST " ++ ascii (bistName t) ++ ascii " " ++ hexN 4 (if u = 0x10000 then bytesAt r.result 2 2 else u) ++ ascii " "
    if st = stAccepted then head ++ ascii "ACCEPTED"
    else if st = stOk ∨ st = stBistFailed then head ++ final
    else ascii (statusName st)
  | .ok => ascii (if st = stOk ∨ st = stAccepted then "OK" else statusName st)
  | .word => if st = stOk then hexN 8 (bytesAt r.result 0 4) else ascii (statusName st)
  | .fields name => if st = stOk then ascii name ++ ascii " " ++ hexBytes r.result else ascii (statusName st)

/-- A return frame (R494). -/
def ReturnSlip.frame (r : ReturnSlip) : List Byte := [0x7E#8, 0x82#8] ++ r.bytes

/-- The answer to a SLIP line (R495). -/
def ReturnSlip.rslip (r : ReturnSlip) : List Byte :=
  ascii "RSLIP " ++ hexN 4 r.seq.toNat ++ ascii " " ++ ascii (statusName r.status.toNat) ++ ascii " " ++
    hexN 2 r.flags.toNat ++ ascii " " ++ hexBytes r.result

/-- A return slip on the console, in its current mode (R489). -/
def State.consoleReturn (s : State) (r : ReturnSlip) : State :=
  if s.on MNT_STATUS.ConsoleMode then s.consoleOut r.frame
  else
    let t := match s.mnt.texts.find? (fun x => x.1 == r.seq.toNat) with
      | some (_, a) => s.consoleOut (a.line r)
      | none => s.consoleOut r.rslip
    (t.when (r.flags.getLsbD 0) (fun t => { t with mnt := { t.mnt with texts := t.mnt.texts.filter (fun x => x.1 != r.seq.toNat) } })).consoleOut
      t.prompt

/-- The number of slots of the reply ring. -/
def State.replySlots (s : State) : Nat := 2 ^ s.fld CMD_RQ_SIZE.SizeLog

/-- The reply ring is full (R492). -/
def State.replyFull (s : State) : Bool :=
  (s.fld CMD_RQ_TAIL.Index + 1) % s.replySlots == s.fld CMD_RQ_HEAD.Index % s.replySlots

/-- The reply ring can be written: the host path is in use and reachable (R15, R493). -/
def State.replyUsable (s : State) : Bool := s.on CMD_CTRL.RingEn && s.canRequest

/-- RETURN_SLIP_WRITE (R492), granted to requester 33, the Curator (R402): the return slip, then the tail, then the tail copy, then the flag. -/
def State.replyWrite (s : State) (r : ReturnSlip) : State :=
  let t := s.fld CMD_RQ_TAIL.Index
  let base := s.rd64 CMD_RQ_BASE_LO CMD_RQ_BASE_HI
  let n := (t + 1) % s.replySlots
  let s1 := ((s.hostGrant 33).sendTlp (.memWrite (base + 32 * t) r.bytes none false)).setF CMD_RQ_TAIL.Index n
  let s2 := if s1.on CMD_RQ_TAILADDR_LO.En then
      s1.sendTlp (.memWrite (4 * s1.fld CMD_RQ_TAILADDR_LO.AddrLow + s1.fld CMD_RQ_TAILADDR_HI.BaseHigh * 2 ^ 32)
        (leBytes 4 n) none false)
    else s1
  (s2.raise CMD_IRQ_STATUS.Reply).intxUpdate

/-- A host-path return slip is written, or held while the ring is full or unreachable, behind those already held. -/
def State.replyHost (s : State) (r : ReturnSlip) : State :=
  if s.cmd.hold.isEmpty && s.replyUsable && !s.replyFull then s.replyWrite r
  else { s with cmd := { s.cmd with hold := s.cmd.hold ++ [r] } }

/-- Held return slips are written, oldest first, while the ring is reachable and has room (R15, R492). -/
def State.replyFlush : Nat → State → State
  | 0, s => s
  | n + 1, s =>
    match s.cmd.hold with
    | [] => s
    | r :: rest =>
      if s.replyUsable && !s.replyFull then
        State.replyFlush n ({ s with cmd := { s.cmd with hold := rest } }.replyWrite r)
      else s

/-- The payload of a SLIP flit (R496): Kind, sender and the slip's bytes. -/
def slipPayload (kind sender : Nat) (bs : List Byte) : List Byte :=
  leBytes 1 kind ++ [0#8] ++ leBytes 2 sender ++ bs

/-- A return slip goes back on the path its call slip came from (R489). -/
def State.sendReturn (s : State) (path : SlipPath) (r : ReturnSlip) : State :=
  match path with
  | .host => s.replyHost r
  | .console => s.consoleReturn r
  | .fabric n => (s.curatorFlit ftSlip n.toNat (slipPayload 2 s.nodeId r.bytes)).1

/-- Quiet suppresses OK and ACCEPTED (R480). -/
def State.answer (s : State) (h : SlipHdr) (r : ReturnSlip) : State :=
  if h.quiet ∧ (r.status = 0#16 ∨ r.status = 1#16) then s else s.sendReturn h.path r

/-! ## Running a call slip -/

/-- What a call slip's command answers: a status with its result, a background operation, or a wait ordered by
R94 or R118. -/
inductive SlipAns
  | done (status : Nat) (result : List Byte)
  | accepted (cmd : BgCmd)
  | held (opcode : Nat) (params : List Byte)
deriving DecidableEq, Repr

/-- OK without a result. -/
abbrev okAns : SlipAns := .done stOk []

/-- The state as it was, with a refusing status. -/
abbrev refuse (s : State) (status : Nat) : State × SlipAns := (s, .done status [])

/-- The units of the bank, bay and lane kinds that a self-test may name all at once. -/
def BusyUnit.whole : BusyUnit → Option BusyUnit
  | .bank _ => some .banks
  | .banks => some .banks
  | .bay _ => some .bays
  | .bays => some .bays
  | .lane _ => some .lanes
  | .lanes => some .lanes
  | _ => none

/-- Do two sets of units have one in common (R486)? -/
def BusyUnit.meets (u v : BusyUnit) : Bool :=
  u == v || u.whole == some v || v.whole == some u

/-- A unit with a background operation in flight (R486). -/
def State.unitBusy (s : State) (u : BusyUnit) : Bool :=
  match u with
  | .none => false
  | u => s.cmd.background.any (fun b => b.unit.meets u)

/-- An executed call slip enters the repeat record of the last 16 (R487), CMD_EXEC and the last Sequence. -/
def State.recordSlip (s : State) (op : Nat) (h : SlipHdr) (final : Option ReturnSlip) : State :=
  let e : Repeat := ⟨BitVec.ofNat 16 op, h.seq, h.crc, final⟩
  let rs := s.cmd.repeats ++ [e]
  { (s.inc CMD_EXEC) with cmd := { s.cmd with repeats := rs.drop (rs.length - 16), lastSeq := h.seq } }

/-- The Curator takes call slips: its firmware runs or it is in recovery (R543), no first return slip is outstanding and
the hold has room (R486, R492). -/
def State.takesSlip (s : State) : Bool :=
  (s.curatorUp || s.fld RST_STATUS.BootState == 3) && decide (s.cmd.hold.length < 64) && s.cmd.held.isEmpty

/-- The opcodes recovery accepts: DEV_INFO, DEV_SERIAL, FW_INFO, ECHO, RST_REQUEST, RST_CAUSE, FLASH_WRITE and
FLASH_VERIFY (R543). -/
def recoveryOps : List Nat := [0x0000, 0x0001, 0x0002, 0x0003, 0x0807, 0x0808, 0x0909, 0x090A]

/-- Runs the call slip `h` of opcode `op` that passed the checks of R483: the repeat rule, UNIT_BUSY,
the command itself, BACKGROUND_FULL, and its first return slip. -/
def State.runSlip (s : State) (h : SlipHdr) (op : Nat) (unit : BusyUnit)
    (body : State → State × SlipAns) : State :=
  if !s.takesSlip then s
  else if !s.curatorUp && !recoveryOps.contains op then s.answer h (mkReturn (BitVec.ofNat 16 op) h.seq stUnknownOpcode [])
  else
    let op16 := BitVec.ofNat 16 op
    match s.cmd.repeats.find? (fun e => e.seq == h.seq && e.crc == h.crc) with
    | some e =>
      let r := e.final.getD (mkReturn e.opcode h.seq stAccepted [])
      (s.inc CMD_REPEAT).answer h { r with flags := r.flags ||| 2#8 }
    | none =>
      if s.unitBusy unit then s.answer h (mkReturn op16 h.seq stUnitBusy [])
      else
        match body s with
        | (t, .done status result) =>
          let r := mkReturn op16 h.seq status result
          (t.recordSlip op h (some r)).answer h r
        | (t, .accepted cmd) =>
          if 8 ≤ s.cmd.background.length then s.answer h (mkReturn op16 h.seq stBackgroundFull [])
          else
            let u := { t with cmd := { t.cmd with background := t.cmd.background ++ [(⟨h, op16, unit, cmd⟩ : Background)] } }
            (u.recordSlip op h none).answer h (mkReturn op16 h.seq stAccepted [])
        | (_, .held o ps) => { s with cmd := { s.cmd with held := s.cmd.held ++ [(⟨h, BitVec.ofNat 16 o, ps⟩ : HeldCall)] } }

/-- A background operation ends with its final return slip (R482); the repeat record keeps it (R487). -/
def State.finishBackground (s : State) (b : Background) (status : Nat) (result : List Byte) : State :=
  let r := mkReturn b.opcode b.hdr.seq status result
  let rs := s.cmd.repeats.map (fun e => if e.seq = b.hdr.seq ∧ e.crc = b.hdr.crc then { e with final := some r } else e)
  { s with cmd := { s.cmd with background := s.cmd.background.erase b, repeats := rs } }.answer b.hdr r

/-- The background operation of opcode `op` on a unit. -/
def State.backgroundOf (s : State) (op : Nat) (u : BusyUnit) : Option Background :=
  s.cmd.background.find? (fun b => b.opcode == BitVec.ofNat 16 op && b.unit == u)

/-- The result bytes of registers, in order. -/
def State.words (s : State) (rs : List Nat) : List Byte := rs.flatMap (fun a => leBytes 4 (s.rd a).toNat)

end Sys2Proof.Machine
end

