-- ==== Sys2Proof/Machine/Frames.lean ====
section
/-! DEFINITION. Machine/Frames.lean: STIME, the frame scheduler's start and stop, HELD, and the commit exchange
(R25 to R68, R591).  What a boundary itself does is in Boundary.lean. -/

namespace Sys2Proof.Machine

/-! ## HELD (R591) -/

/-- The HeldCause codes of FRM_STATUS and of the fabric chapter. -/
abbrev hcSwapMissed : Nat := 1
abbrev hcQuorumLost : Nat := 2
abbrev hcResyncFailed : Nat := 3
abbrev hcManagerFence : Nat := 4
abbrev hcTimeLost : Nat := 5
abbrev hcNotMember : Nat := 6

/-- The nodes of a bit map held in 32 registers `reg 0` to `reg 31`. -/
def State.bitNodes (s : State) (reg : Nat → Nat) : List Nat :=
  (List.range 32).flatMap (fun w =>
    let v := s.rd (reg w)
    if v = 0#32 then [] else ((List.range 32).filter (fun i => v.getLsbD i)).map (fun i => 32 * w + i))

/-- The members of the roster (R367). -/
def State.roster (s : State) : List Nat := s.bitNodes FAB_ROSTER

/-- FAB_FORM names a node other than this one (R372). -/
def State.formsOthers (s : State) : Bool := (s.bitNodes FAB_FORM).any (fun n => n != s.nodeId)

/-- The first cause that stands at entry to RUN, in the order of R591. -/
def State.standingCause (s : State) : Option Nat :=
  if s.frm.fence then some hcManagerFence
  else if s.on FAB_STATUS.Member && !s.on FAB_STATUS.Quorum then some hcQuorumLost
  else if s.on FAB_STATUS.Member && !s.on FAB_STATUS.TimeLocked then some hcTimeLost
  else if s.formsOthers && !s.on FAB_STATUS.Member then some hcNotMember
  else none

/-- The commit messages of R53. -/
abbrev cmPrepareType : Nat := 1
abbrev cmAckType : Nat := 2
abbrev cmNackType : Nat := 3
abbrev cmGoType : Nat := 4
abbrev cmAbortType : Nat := 5
abbrev cmDoneType : Nat := 6
abbrev cmMissedType : Nat := 7

/-- The 32 payload bytes of a commit message (R53). -/
def commitBytes (m : CommitMsg) (type : Nat) : List Byte :=
  leBytes 1 type ++ [m.reason] ++ leBytes 2 m.coordinator.toNat ++ leBytes 4 m.commitId.toNat ++
  leBytes 4 m.edition.toNat ++ leBytes 8 m.target.toNat ++ leBytes 4 m.epoch.toNat ++ [m.guard] ++ leBytes 3 0 ++
  leBytes 2 m.sender.toNat ++ leBytes 2 0

/-- F of the commit in flight or last completed. -/
def State.target (s : State) : Nat := s.rd64 FRM_TARGET_LO FRM_TARGET_HI

/-- G of the commit. -/
def State.commitGuard (s : State) : Nat := s.fld FRM_COMMIT.Guard

/-- The commit message of this node's commit in flight. -/
def State.commitMsg (s : State) (c : Commit) (reason : Nat) : CommitMsg :=
  ⟨BitVec.ofNat 8 reason, BitVec.ofNat 10 (s.fld FRM_COMMIT.Coordinator), c.id, c.edition,
   BitVec.ofNat 64 s.target, c.epoch, BitVec.ofNat 8 s.commitGuard, BitVec.ofNat 10 s.nodeId⟩

/-- A commit message sent to a node on class C0. -/
def State.sendCommit (s : State) (dest type : Nat) (m : CommitMsg) : State :=
  (s.curatorFlit ftCommit dest (commitBytes m type)).1

/-- A commit message sent to every participant but this node. -/
def State.sendParticipants (s : State) (c : Commit) (type : Nat) : State :=
  s.each (c.participants.filter (fun n => n != s.nodeId)) (fun n t => t.sendCommit n type (s.commitMsg c 0))

/-- Latched shadow writes enter their registers, oldest first (R47, R49). -/
def State.latchesEnter (s : State) : State :=
  { (s.each s.frm.latches (fun p t => t.wr p.1 p.2)) with frm := { s.frm with latches := [] } }

/-- The staged edition's freeze ends without a swap: the latches enter, unless a guard window still locks the sets. -/
def State.unfreeze (s : State) : State :=
  let t := s.setF FRM_STATUS.StagedFrozen 0
  if t.on FRM_STATUS.InGuardWindow then t else t.latchesEnter

/-- Does `n` belong to the commit's participants, and is it not yet counted in `l`? -/
def addOnce (l : List Nat) (n : Nat) : List Nat := if l.contains n then l else l ++ [n]

/-- The commit record replaced. -/
def State.setCommit (s : State) (c : Option Commit) : State := { s with frm := { s.frm with commit := c } }

/-- The coordinator's final return slip of a system-wide commit (R61). -/
def State.commitReturn (s : State) (status : Nat) (result : List Byte) : State :=
  let t := match s.backgroundOf 0x0111 .none with
    | some b => s.finishBackground b status result
    | none => s
  ((t.setF FRM_STATUS.CommitInFlight 0).setCommit none).raise FRM_IRQ_STATUS.CommitFinal

/-- COMMIT_FINAL (R61): when every participant has reported, or at boundary F + 2 (`force`), the final status. -/
def State.commitFinal (s : State) (force : Bool) : State :=
  match s.frm.commit with
  | none => s
  | some c =>
    if !s.on FRM_COMMIT.IsCoordinator || !s.on FRM_COMMIT.System then s
    else
      let unrep := c.participants.filter (fun n => !c.dones.contains n)
      if !force && c.participants.any (fun n => !c.dones.contains n && !c.missed.contains n) then s
      else
        let res := leBytes 4 c.edition.toNat ++ leBytes 8 s.target ++ leBytes 2 (c.participants.length - unrep.length) ++
          leBytes 2 unrep.length ++ leBytes 2 (unrep.min?.getD 0xFFFF)
        s.commitReturn (if unrep.isEmpty then stOk else stSwapMissed) res

/-- This node's own DONE or MISSED: recorded by a coordinator, sent to it by a participant (R59, R60). -/
def State.commitReport (s : State) (type : Nat) : State :=
  match s.frm.commit with
  | none => s
  | some c =>
    if !s.on FRM_COMMIT.System then s
    else if s.on FRM_COMMIT.IsCoordinator then
      let c' := if type = cmDoneType then { c with dones := addOnce c.dones s.nodeId }
                else { c with missed := addOnce c.missed s.nodeId }
      (s.setCommit (some c')).commitFinal false
    else s.sendCommit (s.fld FRM_COMMIT.Coordinator) type (s.commitMsg c 0)

/-- The phases of FRM_COMMIT.Phase. -/
abbrev phPrepared : Nat := 1
abbrev phArmed : Nat := 2
abbrev phSwapped : Nat := 3
abbrev phAborted : Nat := 4
abbrev phMissed : Nat := 5
abbrev phCancelled : Nat := 6

/-- An armed swap is cancelled (R60): the editions stay as they are and the staged edition stays frozen.  A
coordinator's commit stays open until its final return slip. -/
def State.cancelSwap (s : State) : State :=
  if !s.on FRM_STATUS.SwapArmed then s
  else
    let t := (s.setF FRM_STATUS.SwapArmed 0).setF FRM_COMMIT.Phase phCancelled
    if t.on FRM_COMMIT.System && t.on FRM_COMMIT.IsCoordinator then t
    else (t.setF FRM_STATUS.CommitInFlight 0).setCommit none

/-- HELD_ENTER: HeldCause is recorded, the entry written and HeldEntry set (R591). -/
def State.recordHeld (s : State) (cause : Nat) : State :=
  let t := s.setF FRM_STATUS.HeldCause cause
  (t.logEvent 0x0103 cause (leBytes 4 (t.rd FRM_EDITION).toNat)).raise FRM_IRQ_STATUS.HeldEntry

/-- A cause of HELD arises (R591): in RUN the node enters HELD and an armed swap is cancelled (R60); in HELD it replaces
the recorded cause, unless that is ManagerFence; in STOPPED and ARMED it does nothing. -/
def State.enterHeld (s : State) (cause : Nat) : State :=
  if s.sched = run then ((s.setF FRM_STATUS.State held).recordHeld cause).cancelSwap
  else if s.sched = held ∧ s.fld FRM_STATUS.HeldCause ≠ hcManagerFence ∧ s.fld FRM_STATUS.HeldCause ≠ cause then
    s.recordHeld cause
  else s

/-- The freeze that a missed or cancelled swap has left ends, unless a commit is in flight: the commit has ended without a
swap (R47, R63).  When it ends is DESIGN CHOICE (log entry 47). -/
def State.thaw (s : State) : State :=
  if s.on FRM_STATUS.StagedFrozen && !s.on FRM_STATUS.CommitInFlight then s.unfreeze else s

/-- The node leaves HELD for RUN (R63, R64), and a freeze kept by R59 or R60 ends. -/
def State.leaveHeld (s : State) : State :=
  if s.sched ≠ held then s
  else
    let t := (s.thaw.setF FRM_STATUS.State run).setF FRM_STATUS.HeldCause 0
    (t.logEvent 0x0104 0 (leBytes 4 (t.rd FRM_EDITION).toNat)).raise FRM_IRQ_STATUS.HeldExit

/-! ## Start and stop (R32, R33) -/

/-- The phase offsets meet R35. -/
def State.scheduleOk (s : State) : Bool :=
  let g := s.fld FRM_GATHER.Offset
  let c := s.fld FRM_COMPUTE.Offset
  let st := s.fld FRM_STAGE.Offset
  let sg := s.fld FRM_SHGUARD.Offset
  decide (0 < g) && decide (g ≤ c) && decide (s.fld FRM_PREWAKE.Offset ≤ c) && decide (c < st) &&
  decide (st < s.period) && decide (200 ≤ sg) && decide (sg ≤ s.period / 2)

/-- The first check of R32 that a start at frame `S` fails. -/
def State.startCheck (s : State) (S : Nat) : Option Nat :=
  if s.sched ≠ stopped then some stNotRunning
  else if !s.on FAB_STATUS.TimeLocked then some stTimeUnlocked
  else if !s.on FAB_STATUS.Timekeeper && (s.fab.parentPeriod.any (fun p => p != s.period)) then some stPeriodMismatch
  else if !s.scheduleOk then some stScheduleInvalid
  else if S ≤ s.frame + 1 then some stLate
  else none

/-- Deep-sleep entry is abandoned (R524) with the given reason code. -/
def State.abandonSleep (s : State) (reason : Nat) : State :=
  if s.rst.stage ≠ .draining then s
  else (({ s with rst := { s.rst with stage := .awake } }.setF PWR_STATUS.Entering 0).logEvent 0x0804 0 (leBytes 1 reason)).raise PWR_IRQ_STATUS.SleepAborted

/-- A start at frame `S` (R32): refused by its first failing check, or the scheduler is ARMED.  An accepted start
ends standby (R523); a start that arrives during deep-sleep entry abandons it (R524). -/
def State.startFrames (s0 : State) (S : Nat) : State × Nat :=
  let s := s0.abandonSleep 2
  match s.startCheck S with
  | some st => (s.setF FRM_STATUS.StartRefused 1, st)
  | none =>
    let t := { (s.setF FRM_STATUS.State armed) with frm := { s.frm with startFrame := S, stopping := false } }
    ((t.setF PWR_STATUS.Standby 0).setF PWR_CTRL.Standby 0, stOk)

/-- Entry to STOPPED: FirstFrameDone clears (R65), and HeldCause reads 4 only while a fence is in force (R591).  The guard
window closes and, without a freeze, its latched writes enter; the last frame of a node in HELD is still released as HELD
(R33); a commit in flight, an armed swap and a freeze stand until a reset (DESIGN CHOICE, log entry 48). -/
def State.enterStopped (s : State) : State :=
  let t := (((s.setF FRM_STATUS.State stopped).setF FRM_STATUS.FirstFrameDone 0).setF FRM_STATUS.HeldCause
    (if s.frm.fence then hcManagerFence else 0)).setF FRM_STATUS.InGuardWindow 0
  let u := if t.on FRM_STATUS.StagedFrozen then t else t.latchesEnter
  { u with frm := { u.frm with stopping := false, firstFrame := false, stopHeld := s.sched == held } }

/-- A stop (R33). -/
def State.stopFrames (s : State) : State × Nat :=
  if s.sched = stopped then (s, stOk)
  else if s.sched = armed then (s.enterStopped, stOk)
  else if s.holdAsserted then ({ s with frm := { s.frm with stopping := true } }, stOk)
  else (s.setF FRM_STATUS.StopRefused 1, stHoldNotAsserted)

/-- FRAME_START call slip: the Curator writes FRM_START and starts (R68). -/
def execFrameStart (h : SlipHdr) (S : Dword) (s : State) : Result :=
  .next (s.runSlip h 0x0102 .none (fun s =>
    let r := (s.wr64 FRM_START_LO FRM_START_HI S.toNat).startFrames S.toNat
    (r.1, .done r.2 [])))

/-- FRAME_STOP call slip. -/
def execFrameStop (h : SlipHdr) (s : State) : Result :=
  .next (s.runSlip h 0x0103 .none (fun s =>
    let r := s.stopFrames
    (r.1, .done r.2 [])))

/-- S as FRM_START holds it. -/
def State.startRegister (s : State) : Nat := s.rd64 FRM_START_LO FRM_START_HI

/-- A write of 1 to FRM_CTRL.Start. -/
def execFrmCtrlStart (s : State) : Result := .next (s.startFrames s.startRegister).1

/-- A write of 1 to FRM_CTRL.Stop. -/
def execFrmCtrlStop (s : State) : Result := .next s.stopFrames.1

/-- A write of 1 to FRM_CTRL.ClearSlackMin. -/
def execFrmCtrlClearSlackMin (s : State) : Result := .next (s.wr FRM_SLACK_MIN 0xFFFFFFFF#32)

/-- A write of the whole of FRM_CTRL: Start and Stop together perform neither and set StartRefused (R68). -/
def State.writeFrmCtrl (s : State) (v : Word) : State :=
  let t := s.when (v.getLsbD 2) (fun s => s.wr FRM_SLACK_MIN 0xFFFFFFFF#32)
  if v.getLsbD 0 && v.getLsbD 1 then t.setF FRM_STATUS.StartRefused 1
  else if v.getLsbD 0 then (t.startFrames t.startRegister).1
  else if v.getLsbD 1 then t.stopFrames.1
  else t

/-! ## Commands -/

/-- FRAME_INFO: state, HeldCause, P, c and the edition numbers (R504). -/
def execFrameInfo (h : SlipHdr) (s : State) : Result :=
  .next (s.runSlip h 0x0100 .none (fun s =>
    (s, .done stOk (leBytes 4 (s.sched + 4 * s.fld FRM_STATUS.HeldCause + 4096 * s.period) ++ leBytes 8 s.frame ++
      s.words [FRM_EDITION, FRM_STAGED]))))

/-- FRAME_CONFIG: period, phase offsets and guard, in STOPPED (R66). -/
def execFrameConfig (h : SlipHdr) (period gather compute stage prewake shguard : Word) (guard : Byte) (s : State) : Result :=
  .next (s.runSlip h 0x0101 .none (fun s =>
    if s.sched ≠ stopped then refuse s stNotRunning
    else if period.toNat < 2000 ∨ 1000000 < period.toNat ∨ guard.toNat < 2 ∨ 64 < guard.toNat ∨
        2 ^ 20 ≤ gather.toNat ∨ 2 ^ 20 ≤ compute.toNat ∨ 2 ^ 20 ≤ stage.toNat ∨ 2 ^ 20 ≤ prewake.toNat ∨
        2 ^ 20 ≤ shguard.toNat then refuse s stValueRange
    else
      (((((((s.setF FRM_PERIOD.Period period.toNat).setF FRM_GATHER.Offset gather.toNat).setF FRM_COMPUTE.Offset
        compute.toNat).setF FRM_STAGE.Offset stage.toNat).setF FRM_PREWAKE.Offset prewake.toNat).setF FRM_SHGUARD.Offset
        shguard.toNat).setF FRM_GUARD.Guard guard.toNat, okAns)))

/-- EDITION_INFO: edition numbers, F, flags and CommitId (R504). -/
def execEditionInfo (h : SlipHdr) (s : State) : Result :=
  .next (s.runSlip h 0x0110 .none (fun s =>
    let flags := s.fld FRM_STATUS.StagedFrozen + 2 * s.fld FRM_COMMIT.System + 4 * s.fld FRM_COMMIT.IsCoordinator +
      8 * s.fld FRM_COMMIT.Phase
    (s, .done stOk (s.words [FRM_EDITION, FRM_STAGED] ++ leBytes 7 s.target ++ leBytes 1 flags ++
      leBytes 4 s.frm.targetId.toNat))))

/-! ## Commits -/

/-- The staged edition is frozen and FRM_COMMIT and FRM_TARGET record a commit. -/
def State.openCommit (s : State) (c : Commit) (coordinator F guard phase : Nat) (system isCoord : Bool) : State :=
  let t := ((s.setF FRM_STATUS.StagedFrozen 1).setF FRM_STATUS.CommitInFlight 1).wr64 FRM_TARGET_LO FRM_TARGET_HI F
  let u := (((((t.setF FRM_COMMIT.Coordinator coordinator).setB FRM_COMMIT.System system).setB FRM_COMMIT.IsCoordinator
    isCoord).setF FRM_COMMIT.Phase phase).setF FRM_COMMIT.Guard guard)
  { u with frm := { u.frm with commit := some c, targetId := c.id } }

/-- The swap is armed (R52, R57). -/
def State.armSwap (s : State) : State := (s.setF FRM_STATUS.SwapArmed 1).setF FRM_COMMIT.Phase phArmed

/-- A GO stamped at `stamp` (R57): in time it arms the swap, late it is counted. -/
def State.takeGo (s : State) (stamp : Nat) : State :=
  let deadline := (s.target - s.commitGuard) * s.period
  if stamp < deadline then (s.armSwap).wr FRM_LASTGO (BitVec.ofNat 32 (min 0xFFFFFFFF (deadline - stamp)))
  else s.inc FRM_LATEGO

/-- The coordinator sends GO to every participant, itself included (R56). -/
def State.sendGo (s : State) (c : Commit) : State :=
  let t := (s.setCommit (some { c with goSent := true })).sendParticipants c cmGoType
  t.takeGo t.now

/-- The coordinator sends ABORT to every participant and ends with COMMIT_ABORTED, naming a node and a reason (R56). -/
def State.commitAbort (s : State) (c : Commit) (node reason : Nat) : State :=
  let t := (s.sendParticipants c cmAbortType).setF FRM_COMMIT.Phase phAborted
  t.unfreeze.commitReturn stCommitAborted (leBytes 2 node ++ leBytes 1 reason)

/-- The lowest participant whose ACK the coordinator does not hold. -/
def Commit.firstUnacked (c : Commit) : Nat := ((c.participants.filter (fun n => !c.acks.contains n)).min?).getD 0

/-- ACK_DEADLINE and the epoch rule (R56): before GO, a changed epoch (or, with `deadline`, the passing of boundary
F - 2G without every ACK) aborts. -/
def State.commitCheck (s : State) (deadline : Bool) : State :=
  match s.frm.commit with
  | none => s
  | some c =>
    if !s.on FRM_COMMIT.IsCoordinator || !s.on FRM_COMMIT.System || c.goSent then s
    else if c.epoch ≠ s.rd FAB_EPOCH ∨ deadline then s.commitAbort c c.firstUnacked 0
    else s

/-- With every ACK held, GO is sent (R56). -/
def State.commitAcked (s : State) : State :=
  match s.frm.commit with
  | none => s
  | some c => if !c.goSent && c.participants.all (fun n => c.acks.contains n) then s.sendGo c else s

/-- EDITION_COMMIT (R51, R52, R54). -/
def execEditionCommit (h : SlipHdr) (system : Bool) (F : Dword) (E : Word) (s : State) : Result :=
  .next (s.runSlip h 0x0111 .none (fun s =>
    let G := s.fld FRM_GUARD.Guard
    let id := s.frm.lastCommitId + 1#32
    let epoch := s.rd FAB_EPOCH
    if s.sched = held then refuse s stNodeHeld
    else if s.sched ≠ run ∨ s.pfail then refuse s stNotRunning
    else if s.on FRM_STATUS.CommitInFlight then refuse s stCommitBusy
    else if system then
      if E ≠ s.rd FRM_STAGED then refuse s stEditionMismatch
      else if F.toNat < s.frame + 2 * G + 2 then refuse s stLate
      else
        let parts := if s.on FAB_STATUS.Member then s.roster else [s.nodeId]
        let c : Commit := ⟨id, E, epoch, parts, [s.nodeId], [], [], false, some h⟩
        let t := s.openCommit c s.nodeId F.toNat G phPrepared true true
        let u := { t with frm := { t.frm with lastCommitId := id } }
        ((u.sendParticipants c cmPrepareType).commitAcked, .accepted .commit)
    else
      if 1 < s.roster.length then refuse s stScope
      else if F.toNat ≤ s.frame + G then refuse s stLate
      else if E ≠ s.rd FRM_STAGED then refuse s stEditionMismatch
      else
        let c : Commit := ⟨id, E, epoch, [s.nodeId], [s.nodeId], [], [], true, none⟩
        let t := (s.openCommit c s.nodeId F.toNat G phPrepared false true).armSwap
        ({ t with frm := { t.frm with lastCommitId := id } },
         .done stOk (leBytes 4 E.toNat ++ leBytes 8 F.toNat ++ leBytes 2 1 ++ leBytes 2 0 ++ leBytes 2 0xFFFF))))

/-- EDITION_ABORT (R66): LATE once GO has been sent, or on an accepted single-node commit; OK without effect on a node
that coordinates nothing. -/
def execEditionAbort (h : SlipHdr) (s : State) : Result :=
  .next (s.runSlip h 0x0112 .none (fun s =>
    match s.frm.commit with
    | none => (s, okAns)
    | some c =>
      if !s.on FRM_COMMIT.IsCoordinator then (s, okAns)
      else if c.goSent then refuse s stLate
      else (s.commitAbort c c.firstUnacked 0, okAns)))

/-- EDITION_ADOPT (R64). -/
def execEditionAdopt (h : SlipHdr) (M : Word) (F : Dword) (s : State) : Result :=
  .next (s.runSlip h 0x0113 .none (fun s =>
    if F.toNat ≤ s.frame + 2 then refuse s stLate
    else if s.sched = run ∨ (s.sched = held ∧ s.fld FRM_STATUS.HeldCause = hcResyncFailed) ∨
        (s.sched = armed ∧ s.frm.startFrame ≤ F.toNat) then
      ({ s with frm := { s.frm with adopt := some (M, F) } }, okAns)
    else refuse s stNotRunning))

/-- An entry joins the list unless it is in it. -/
def addOnce3 (l : List (Nat × Nat × Nat)) (x : Nat × Nat × Nat) : List (Nat × Nat × Nat) := if l.contains x then l else l ++ [x]

/-- A repeat of a COMMIT message already acted on (R352)? -/
def State.commitSeen (s : State) (type : Nat) (m : CommitMsg) : Bool :=
  s.frm.seen.contains (type, m.sender.toNat, m.commitId.toNat)

/-- The message is taken from the inbox; a repeat is counted and discarded (R352), otherwise `f` acts on it. -/
def State.takeCommit (s : State) (type : Nat) (m : CommitMsg) (f : State → State) : State :=
  let t := s.popInbox ftCommit
  if t.commitSeen type m then t.inc FAB_DUPMSG
  else f { t with frm := { t.frm with seen := addOnce3 t.frm.seen (type, m.sender.toNat, m.commitId.toNat) } }

/-- The message belongs to the commit this node takes part in (R53). -/
def State.commitMatches (s : State) (m : CommitMsg) : Bool :=
  match s.frm.commit with
  | none => false
  | some c => c.id == m.commitId && s.fld FRM_COMMIT.Coordinator == m.coordinator.toNat

/-- A message of the commit this node takes part in: `f` acts on it, once (R352).  One of another commit is discarded and
counted in FRM_STALEMSG, each time it comes (R53). -/
def State.withCommit (s : State) (type : Nat) (m : CommitMsg) (f : Commit → State → State) : State :=
  if !s.commitMatches m && !s.commitSeen type m then (s.popInbox ftCommit).inc FRM_STALEMSG
  else s.takeCommit type m (fun s => match s.frm.commit with
    | none => s
    | some c => f c s)

/-- The first NACK reason of R55 that applies to a PREPARE. -/
def State.nackReason (s : State) (m : CommitMsg) : Option Nat :=
  if s.sched ≠ run ∨ s.pfail then some 1
  else if m.epoch ≠ s.rd FAB_EPOCH then some 3
  else if s.on FRM_STATUS.CommitInFlight then some 4
  else if m.edition ≠ s.rd FRM_STAGED then some 2
  else if m.target.toNat ≤ s.frame + 2 * m.guard.toNat then some 5
  else none

/-- PREPARE at a participant (R55). -/
def execCmPrepare (m : CommitMsg) (s : State) : Result :=
  .next (s.takeCommit cmPrepareType m (fun s =>
    match s.nackReason m with
    | some r => s.sendCommit m.coordinator.toNat cmNackType { m with reason := BitVec.ofNat 8 r, sender := BitVec.ofNat 10 s.nodeId }
    | none =>
      let c : Commit := ⟨m.commitId, m.edition, m.epoch, [], [], [], [], false, none⟩
      (s.openCommit c m.coordinator.toNat m.target.toNat m.guard.toNat phPrepared true false).sendCommit
        m.coordinator.toNat cmAckType { m with reason := 0#8, sender := BitVec.ofNat 10 s.nodeId }))

/-- ACK at the coordinator (R56). -/
def execCmAck (m : CommitMsg) (s : State) : Result :=
  .next (s.withCommit cmAckType m (fun c s =>
    if !s.on FRM_COMMIT.IsCoordinator || c.goSent then s
    else ((s.setCommit (some { c with acks := addOnce c.acks m.sender.toNat })).commitCheck false).commitAcked))

/-- NACK at the coordinator (R56). -/
def execCmNack (m : CommitMsg) (s : State) : Result :=
  .next (s.withCommit cmNackType m (fun c s =>
    if !s.on FRM_COMMIT.IsCoordinator || c.goSent then s else s.commitAbort c m.sender.toNat m.reason.toNat))

/-- GO at a participant, stamped by the link layer (R57); one that comes after the deadline has been missed is late. -/
def execCmGo (m : CommitMsg) (stamp : Dword) (s : State) : Result :=
  .next (s.withCommit cmGoType m (fun _ s =>
    if s.on FRM_COMMIT.IsCoordinator then s
    else if s.fld FRM_COMMIT.Phase = phPrepared then s.takeGo stamp.toNat
    else if s.fld FRM_COMMIT.Phase = phMissed ∧ (s.target - s.commitGuard) * s.period ≤ stamp.toNat then s.inc FRM_LATEGO
    else s))

/-- ABORT at a participant (R58). -/
def execCmAbort (m : CommitMsg) (s : State) : Result :=
  .next (s.withCommit cmAbortType m (fun _ s =>
    if s.fld FRM_COMMIT.Phase = phPrepared ∧ !s.on FRM_COMMIT.IsCoordinator then
      ((s.setF FRM_COMMIT.Phase phAborted).setF FRM_STATUS.CommitInFlight 0).unfreeze.setCommit none
    else s))

/-- DONE at the coordinator (R61). -/
def execCmDone (m : CommitMsg) (s : State) : Result :=
  .next (s.withCommit cmDoneType m (fun c s =>
    (s.setCommit (some { c with dones := addOnce c.dones m.sender.toNat })).commitFinal false))

/-- MISSED at the coordinator (R61). -/
def execCmMissed (m : CommitMsg) (s : State) : Result :=
  .next (s.withCommit cmMissedType m (fun c s =>
    (s.setCommit (some { c with missed := addOnce c.missed m.sender.toNat })).commitFinal false))

/-- GO_DEADLINE (R59): a participant that has sent ACK and is not armed at boundary F - G.  The commit's record stays, so that a
GO that comes later is known for late (R57); SwapMissed arises only in RUN (R591). -/
def State.goMissed (s : State) : State :=
  match s.frm.commit with
  | none => s
  | some c =>
    let t := (s.setF FRM_COMMIT.Phase phMissed).commitReport cmMissedType
    let u := ((t.logEvent 0x0102 t.nodeId (leBytes 4 c.edition.toNat ++ leBytes 8 t.target)).inc FRM_MISSED).raise
      FRM_IRQ_STATUS.Missed
    let v := u.setF FRM_STATUS.CommitInFlight 0
    if v.sched = run then v.enterHeld hcSwapMissed else v

/-! ## Time (R25 to R27) and the guard window (R49) -/

/-- A step of `d` ps applied to STIME, its fraction too (R25, R27): the boundaries a forward step jumps over do not occur. -/
def State.stepStime (s : State) (d : Int) : State :=
  let n := (Int.ofNat (65536 * s.now + s.time.frac.toNat) + 65536 * d / 1000).toNat
  let t := { s with time := { s.time with stime := BitVec.ofNat 64 (n / 65536), frac := BitVec.ofNat 16 n, step := none } }
  let next := (n + 65536 * s.period - 1) / (65536 * s.period)
  if s.running && decide (s.frm.last + 1 < next) then
    { t with frm := { t.frm with jump := next, gathered := true, computed := true, voted := true } }
  else t

/-- A step applied; the edges of the modulator clocks are those of the new STIME (R27, R245). -/
def State.stepTime (s : State) (d : Int) : State :=
  (s.stepStime d).each ((List.range 32).filter (fun c => s.on (EDG_MOD_CFG.Enable c))) (fun c t => t.edgeFromNow c)

/-- TIME_STEP: a pending step is applied in STOPPED or HELD (R27, R361). -/
def execTimeStep (s : State) : Result :=
  .next (match s.time.step with
    | none => s
    | some d =>
      if s.sched = stopped ∨ s.sched = held then
        { (s.stepTime d) with fab := { s.fab with servo := { s.fab.servo with offsets := [] } } }.logEvent 0x0616 0 (leBytes 8 (BitVec.ofInt 64 (d / 500)).toNat)
      else s)

/-- The number of the next boundary: in RUN and HELD one more than the last emitted, or the first that a step has not jumped
over; in ARMED S, but none before STIME passes
the first multiple of P above the last boundary emitted, so that no frame number is used twice (R27, R29, R32; that the start
then waits for that boundary is DESIGN CHOICE, log entry 48). -/
def State.nextBoundary (s : State) : Nat :=
  if s.sched = armed then max s.frm.startFrame (s.frm.lastAt / s.period + 1) else max (s.frm.last + 1) s.frm.jump

/-- GUARD_WINDOW_OPEN: from the next boundary less FRM_SHGUARD every shadow set is locked (R49). -/
def execGuardWindowOpen (s : State) : Result :=
  .next (if s.running ∨ s.sched = armed then
      (s.atLeast (s.nextBoundary * s.period - s.fld FRM_SHGUARD.Offset)).setF FRM_STATUS.InGuardWindow 1
    else s)

/-- The value a shadow register will have: its latch's, if one is held, otherwise its own. -/
def State.shadowNow (s : State) (a : Nat) : Word :=
  match s.frm.latches.find? (fun p => p.1 == a) with
  | some p => p.2
  | none => s.rd a

/-- A write to the shadow register at key `a` (R47, R49): to its staging latch while the staged edition is frozen or the
guard window is open, otherwise to the set.  A second write to a latch leaves the later value. -/
def State.writeShadow (s : State) (a : Nat) (v : Word) : State :=
  if s.on FRM_STATUS.StagedFrozen || s.on FRM_STATUS.InGuardWindow then
    { s with frm := { s.frm with latches := s.frm.latches.filter (fun p => p.1 != a) ++ [(a, v)] } }
  else s.wr a v

end Sys2Proof.Machine
end

