-- ==== Sys2Proof/Machine/Irq.lean ====
section
/-! DEFINITION. Machine/Irq.lean: MSI-X delivery and moderation (R420 to R432), INTx (R433) and the bays' and the
Curator's interrupt controllers (R434 to R442). -/

namespace Sys2Proof.Machine

/-! ## MSI-X -/

/-- A vector is sendable (R425). -/
def State.sendable (s : State) (v : Nat) : Bool :=
  s.on CFG_MSIX.Enable && !s.on CFG_MSIX.FunctionMask && !s.on (IRQ_MSIX_W3.Mask v) && s.fld CFG_PMCSR.PowerState == 0

/-- The pending bit of a vector in the PBA. -/
def pbaBit (v : Nat) : Fld := ⟨IRQ_PBA (v / 32), v % 32, v % 32⟩

/-- The vectors whose pending bit is set, ascending. -/
def State.pendingVectors (s : State) : List Nat :=
  (List.range 64).flatMap (fun j =>
    let w := s.rd (IRQ_PBA j)
    if w = 0#32 then [] else ((List.range 32).filter (fun i => w.getLsbD i)).map (fun i => 32 * j + i))

/-- C returns to 0 and the timer stops (R423, R425). -/
def State.vectorClear (s : State) (v : Nat) : State :=
  let t := (s.setF (vstatCount v) 0).setF (vstatTimer v) 0
  { t with irq := { t.irq with timers := tset (fun _ => none) t.irq.timers v none, due := t.irq.due.filter (fun x => x != v) } }

/-- The message of a due vector (R425): committed to the outbound queue as requester 32 (R426), or the vector goes pending and, in D3hot, PME is
signalled (R431). -/
def State.vectorCommit (s : State) (v : Nat) : State :=
  let t := s.vectorClear v
  if s.sendable v then
    let addr := 4 * s.fld (IRQ_MSIX_W0.AddrLow v) + s.fld (IRQ_MSIX_W1.AddrHigh v) * 2 ^ 32
    (((t.setF (pbaBit v) 0).hostGrant 32).sendTlp (.memWrite addr (leBytes 4 (s.fld (IRQ_MSIX_W2.Data v))) none false)).inc IRQ_MSGCNT
  else
    let u := ((t.setF (pbaBit v) 1).inc IRQ_MASKED).raise IRQ_IRQ_STATUS.Withheld
    u.when (u.fld CFG_PMCSR.PowerState == 3) State.pmeSignal

/-- The due vectors whose message can be handled: one that is sendable waits while the bridge cannot issue requests (R384, R412). -/
def State.committable (s : State) : List Nat := s.irq.due.filter (fun v => !s.sendable v || s.canRequest)

/-- MSIX_MESSAGE_COMMIT: the due vector that R9 grants (R426). -/
def execMsixMessageCommit (s : State) : Result :=
  .next (match arbPick s.irq.grants s.committable with
    | none => s
    | some v =>
      let t := s.vectorCommit v
      { t with irq := { t.irq with grants := arbNote t.irq.grants v } })

/-- MODERATION_TIMER_EXPIRY: the running timer reaches Timer and the message falls due (R423). -/
def execModerationTimerExpiry (v : Fin 2048) (s : State) : Result :=
  .next (if s.on CFG_MSIX.Enable ∧ s.on (vstatTimer v) ∧ s.on (IRQ_MOD.Timer v) then
      { s with irq := { s.irq with timers := tset (fun _ => none) s.irq.timers v (some (s.fld (IRQ_MOD.Timer v))) } }.vectorDue v
    else s)

/-- A write of IRQ_MOD(v) applies at once (R424). -/
def State.writeIrqMod (s : State) (v : Nat) (thr timer : Nat) : State :=
  let t := (s.setF (IRQ_MOD.CountThr v) thr).setF (IRQ_MOD.Timer v) timer
  let c := t.fld (vstatCount v)
  if t.on CFG_MSIX.Enable ∧ 0 < c ∧ (max 1 (t.fld (IRQ_MOD.CountThr v)) ≤ c ∨
      (t.on (vstatTimer v) ∧ 0 < t.fld (IRQ_MOD.Timer v) ∧
        t.fld (IRQ_MOD.Timer v) ≤ (tget (fun _ => none) t.irq.timers v).getD 0)) then t.vectorDue v
  else if t.fld (IRQ_MOD.Timer v) = 0 then
    { (t.setF (vstatTimer v) 0) with irq := { t.irq with timers := tset (fun _ => none) t.irq.timers v none } }
  else t

/-- IRQ_MOD_WRITE. -/
def execIrqModWrite (v : Fin 2048) (thr : Byte) (timer : BitVec 16) (s : State) : Result :=
  .next (s.writeIrqMod v thr.toNat timer.toNat)

/-- Every pending vector that is sendable falls due (R428). -/
def State.releasePending (s : State) : State :=
  s.each (s.pendingVectors.filter s.sendable) (fun v t => t.vectorDue v)

/-- A write of an entry's Mask (R427, R428). -/
def State.writeVectorMask (s : State) (v : Nat) (mask : Bool) : State :=
  let t := s.setB (IRQ_MSIX_W3.Mask v) mask
  if !mask && t.on (pbaBit v) && t.sendable v then t.vectorDue v else t

/-- VECTOR_MASK_WRITE. -/
def execVectorMaskWrite (v : Fin 2048) (mask : Bool) (s : State) : Result := .next (s.writeVectorMask v mask)

/-- Every vector's count, timer and pending bit cleared, and nothing due (R422). -/
def State.vectorsIdle (s : State) : State :=
  let t := s.each (s.regs.filter (fun p => IRQ_VSTAT_MGR 0 ≤ p.1 && p.1 < IRQ_VSTAT_MGR 2048)) (fun p t =>
    (t.setF ⟨p.1, 23, 16⟩ 0).setF ⟨p.1, 24, 24⟩ 0)
  { t with regs := tclear t.regs (IRQ_PBA 0) (IRQ_PBA 64), irq := { t.irq with timers := [], due := [] } }

/-- A write of MSI-X Enable and Function Mask (R422, R427, R433). -/
def State.writeMsixControl (s : State) (enable fmask : Bool) : State :=
  let t := (s.setB CFG_MSIX.Enable enable).setB CFG_MSIX.FunctionMask fmask
  let u := if enable then t.releasePending else t.vectorsIdle
  u.intxUpdate

/-- MSIX_CONTROL_WRITE. -/
def execMsixControlWrite (enable fmask : Bool) (s : State) : Result := .next (s.writeMsixControl enable fmask)

/-- A carrel reset's effect on a vector (R429). -/
def State.vectorReset (s : State) (v : Nat) : State :=
  ((s.vectorClear v).setF (IRQ_MSIX_W3.Mask v) 1).setF (pbaBit v) 0

/-- What every host-port reset does to the interrupt unit (R432).  The configuration fields and the table's registers
return to their reset values with the other host-port registers. -/
def State.irqHostReset (s : State) : State :=
  let t := s.vectorsIdle
  { t with regs := tclear (tclear t.regs (IRQ_MOD 0) (IRQ_MOD 2048)) (IRQ_MSIX_W0 0) (IRQ_MSIX_W0 2048),
           irq := { t.irq with inta := false }, host := { t.host with waiting := [] } }

/-- A write of an X_IRQ_EN register (R422): a flag that is already 1 and becomes enabled counts one event. -/
def State.writeIrqEnable (s : State) (a : Nat) (v : Word) : State :=
  let old := s.rd a
  let t := s.wr a v
  let fresh := s.rd (a - 4) &&& v &&& ~~~ old
  match flagVector (a - 4) with
  | none => t
  | some vec =>
    if fresh = 0#32 then t.intxUpdate
    else if t.on CFG_MSIX.Enable then
      t.each ((List.range 32).filter (fun i => fresh.getLsbD i)) (fun _ t => t.vectorEvent vec)
    else if t.fld CFG_PMCSR.PowerState = 3 then t.when (!s.intxCause vec && t.intxCause vec) State.pmeSignal
    else t.intxUpdate

/-! ## The bay controllers -/

/-- Any latch of EDG_TRIP_ILK or EDG_TRIP_MOD is set. -/
def State.tripLatched (s : State) : Bool := s.rd EDG_TRIP_ILK != 0#32 || s.rd EDG_TRIP_MOD != 0#32

/-- The level sources of a bay's controller (R440). -/
def bayLevelSource (src : Nat) : Bool := decide (src < 8) || (decide (12 ≤ src) && decide (src ≤ 15))

/-- The input of a bay's level source (R440). -/
def State.bayLevel (s : State) (b src : Nat) : Bool :=
  if src < 8 then s.on (BAYR_SS.Done b src)
  else match src with
    | 12 => s.sched == held
    | 13 => s.tripLatched
    | 14 => s.holdAsserted
    | 15 => s.pfail
    | _ => false

/-- The bit of source `src` in a pair of LO, HI registers of bay `b`. -/
def bicBit (lo hi : Nat → Nat) (b src : Nat) : Fld :=
  if src < 32 then ⟨lo b, src, src⟩ else ⟨hi b, src - 32, src - 32⟩

/-- A source is active (R435). -/
def State.bayActive (s : State) (b src : Nat) : Bool := s.on (bicBit BAYR_BIC_ACT_LO BAYR_BIC_ACT_HI b src)

/-- A source is pending (R434): an edge source by its bit, a level source while its input is asserted and it is not active. -/
def State.bayPending (s : State) (b src : Nat) : Bool :=
  s.on (bicBit BAYR_BIC_PEND_LO BAYR_BIC_PEND_HI b src) || (s.bayLevel b src && !s.bayActive b src)

/-- The bay is Paired (R105). -/
def State.paired (s : State) (b : Nat) : Bool := s.on (ENG_BAY_CFG.Mode b)

/-- The engine of the bay a source is routed to; in a Paired bay bit 0 is ignored (R439). -/
def State.bayRoute (s : State) (b src : Nat) : Nat :=
  let e := s.fld (BAYR_BIC_ROUTE.Engine b src)
  if s.paired b then e / 2 * 2 else e

/-- The class of a source: fast where true.  An active source keeps the class it was taken in until its completion, whatever
BIC_CLS says by then (R440). -/
def State.bayFast (s : State) (b src : Nat) : Bool :=
  if s.bayActive b src then
    (List.range 8).any (fun i => s.on (BAYR_BIC_FSRC.Valid b i) && s.fld (BAYR_BIC_FSRC.Source b i) == src)
  else s.on (bicBit BAYR_BIC_CLS_LO BAYR_BIC_CLS_HI b src)

/-- The lowest-numbered source of a class that engine `i` of bay `b` may take (R435). -/
def State.bayPick (s : State) (b i : Nat) (fast : Bool) : Option Nat :=
  (List.range 56).find? (fun src =>
    s.on (bicBit BAYR_BIC_EN_LO BAYR_BIC_EN_HI b src) && (s.bayFast b src == fast) &&
    s.bayRoute b src == i && s.bayPending b src)

/-- The selection of R435 for engine `i` of bay `b`: the fast class first; a class with an active source selects none. -/
def State.baySelect (s : State) (b i : Nat) : Option (Nat × Bool) :=
  match (if s.on (BAYR_BIC_FSRC.Valid b i) then none else s.bayPick b i true) with
  | some src => some (src, true)
  | none =>
    match (if s.on (BAYR_BIC_NSRC.Valid b i) then none else s.bayPick b i false) with
    | some src => some (src, false)
    | none => none

/-- The engine takes a selection: the source becomes active, an edge source's pending bit clears, the class's Src
register records it (R435). -/
def State.bayTake (s : State) (b i src : Nat) (fast : Bool) : State :=
  let t := (s.setF (bicBit BAYR_BIC_PEND_LO BAYR_BIC_PEND_HI b src) 0).setF (bicBit BAYR_BIC_ACT_LO BAYR_BIC_ACT_HI b src) 1
  if fast then (t.setF (BAYR_BIC_FSRC.Source b i) src).setF (BAYR_BIC_FSRC.Valid b i) 1
  else (t.setF (BAYR_BIC_NSRC.Source b i) src).setF (BAYR_BIC_NSRC.Valid b i) 1

/-- A write of `src` by engine `who` of bay `b` to the Comp register of a class in the bank of engine `i`; one to another
engine's bank is stray (R437, R438). -/
def State.bayComp (s : State) (who b i : Nat) (fast : Bool) (src : Nat) : State :=
  let valid := if fast then BAYR_BIC_FSRC.Valid b i else BAYR_BIC_NSRC.Valid b i
  let cur := if fast then BAYR_BIC_FSRC.Source b i else BAYR_BIC_NSRC.Source b i
  if who = i ∧ s.on valid ∧ s.fld cur = src then
    ((s.setF valid 0).setF cur 0).setF (bicBit BAYR_BIC_ACT_LO BAYR_BIC_ACT_HI b src) 0
  else ((s.inc (BAYR_BIC_STRAY b)).inc IRQ_BAY_STRAY).raise IRQ_IRQ_STATUS.Stray

/-- DOORBELL_WRITE: bits of BIC_DOORBELL or IRQ_BAYDB(b) raise sources 48 to 55 (R440). -/
def State.ringDoorbell (s : State) (b : Nat) (mask : Byte) : State :=
  s.each ((List.range 8).filter (fun k => mask.getLsbD k)) (fun k t => t.bayEdge b (48 + k))

/-- DOORBELL_WRITE. -/
def execDoorbellWrite (b : Fin 64) (mask : Byte) (s : State) : Result := .next (s.ringDoorbell b mask)

/-- BIC_PEND as a read returns it, sources `base` to `base + 31`. -/
def State.bayPendWord (s : State) (b base : Nat) : Word :=
  (List.range 32).foldl (fun w i => if s.bayPending b (base + i) then w ||| BitVec.ofNat 32 (2 ^ i) else w) 0#32

/-! ## The Curator's controller -/

/-- Some enabled flag of the event-flag registers selected by `p` is 1. -/
def State.anyFlag (s : State) (p : Nat → Bool) : Bool :=
  s.regs.any (fun e => (flagVector e.1).isSome && p e.1 && s.flagsOn e.1 e.2)

/-- The block index (BAR0 offset / 0x10000) behind each of the Curator sources 20 to 33 (R441). -/
def curBlock (src : Nat) : Nat :=
  match src with
  | 20 => 2 | 21 => 3 | 22 => 4 | 23 => 5 | 24 => 6 | 25 => 7 | 26 => 9 | 27 => 0xA | 28 => 0xB | 29 => 0xC
  | 30 => 0xD | 31 => 0xE | 32 => 0xF | _ => 0x10

/-- The input of a Curator level source (R441). -/
def State.curLevel (s : State) (src : Nat) : Bool :=
  match src with
  | 0 => s.pfail
  | 1 => s.tripLatched
  | 4 => s.fab.inbox.any (fun d => d.flit.type == ftCommit || d.flit.type == ftMember || d.flit.type == ftSlip)
  | 16 => s.on CMD_CTRL.RingEn && s.fld CMD_CQ_HEAD.Index != s.fld CMD_DOORBELL.Index
  | 17 => !(s.mnt.line.getD []).isEmpty
  | _ =>
    if 20 ≤ src ∧ src ≤ 33 then s.anyFlag (fun a => a / 0x10000 == curBlock src)
    else if 48 ≤ src ∧ src < 96 then
      let l := src - 48
      s.anyFlag (fun a => a == onLink LNK_IRQ_STATUS l || a == onLink LNK_LN_IRQ_STATUS l)
    else false

/-- A Curator source is active. -/
def State.curActive (s : State) (src : Nat) : Bool := s.on ⟨IRQ_CUR_ACT (src / 32), src % 32, src % 32⟩

/-- A Curator source is pending (R434). -/
def State.curPending (s : State) (src : Nat) : Bool :=
  s.on ⟨IRQ_CUR_PEND (src / 32), src % 32, src % 32⟩ || (s.curLevel src && !s.curActive src)

/-- The lowest-numbered source of a class that the Curator may take (R435). -/
def State.curSelect (s : State) : Option (Nat × Bool) :=
  let pick (fast : Bool) : Option Nat :=
    if (if fast then s.irq.curFsrc else s.irq.curNsrc).isSome then none
    else (List.range 96).find? (fun x => s.irq.curEnable.getLsbD x && (s.irq.curFast.getLsbD x == fast) && s.curPending x)
  match pick true with
  | some x => some (x, true)
  | none => (pick false).map (fun x => (x, false))

/-- The Curator takes a source: it becomes active, its pending bit clears, and the class's Src register records it (R435). -/
def State.curTake (s : State) (src : Nat) (fast : Bool) : State :=
  let t := (s.setF ⟨IRQ_CUR_PEND (src / 32), src % 32, src % 32⟩ 0).setF ⟨IRQ_CUR_ACT (src / 32), src % 32, src % 32⟩ 1
  { t with irq := if fast then { t.irq with curFsrc := some src } else { t.irq with curNsrc := some src } }

/-- A write to the Curator's Comp register of a class (R437, R438). -/
def State.curComp (s : State) (fast : Bool) (src : Nat) : State :=
  if (if fast then s.irq.curFsrc else s.irq.curNsrc) = some src then
    let t := s.setF ⟨IRQ_CUR_ACT (src / 32), src % 32, src % 32⟩ 0
    { t with irq := if fast then { t.irq with curFsrc := none } else { t.irq with curNsrc := none } }
  else (s.inc IRQ_CUR_STRAY).raise IRQ_IRQ_STATUS.Stray

/-- COMP_WRITE (R437, R438); both engines of a pair are one logical engine (R439). -/
def execCompWrite (bank : CompBank) (src : Byte) (s : State) : Result :=
  .next (match bank with
    | .bay b w i fast =>
      let one (x : Nat) : Nat := if s.paired b then x / 2 * 2 else x
      s.bayComp (one w) b (one i) fast src.toNat
    | .curator fast => s.curComp fast src.toNat)

/-- IRQ_CUR_PEND(k) as a read returns it. -/
def State.curPendWord (s : State) (k : Nat) : Word :=
  (List.range 32).foldl (fun w i => if s.curPending (32 * k + i) then w ||| BitVec.ofNat 32 (2 ^ i) else w) 0#32

end Sys2Proof.Machine
end

