-- ==== Sys2Proof/Machine/Lanes.lean ====
section
/-! DEFINITION. Machine/Lanes.lean: the serial lanes' states, taps, PRBS and margin measurements (R278 to R302); what a
lane's change does to its link is in Link.lean. -/

namespace Sys2Proof.Machine

/-- Lane states (R285). -/
abbrev lnDisabled : Nat := 0
abbrev lnSeek : Nat := 1
abbrev lnLock : Nat := 2
abbrev lnAligned : Nat := 3
abbrev lnReady : Nat := 4
abbrev lnPrbs : Nat := 5
abbrev lnLoopback : Nat := 6

/-- The lane set of lane `n` (R278, R302). -/
def laneBase (n : Nat) : Nat :=
  if n < 16 then 0xAF000 + 0x100 * n else 0x80000 + 0x1000 * ((n - 16) / 4) + 0xC00 + 0x100 * ((n - 16) % 4)

/-- A field of a lane's register set. -/
abbrev laneFld (n off hi lo : Nat) : Fld := ⟨laneBase n + off, hi, lo⟩

abbrev lnEnable (n : Nat) : Fld := laneFld n 0x00 0 0
abbrev lnWakeEn (n : Nat) : Fld := laneFld n 0x00 1 1
abbrev lnRxForce (n : Nat) : Fld := laneFld n 0x00 3 3
abbrev lnRxInvert (n : Nat) : Fld := laneFld n 0x00 4 4
abbrev lnLoop (n : Nat) : Fld := laneFld n 0x00 6 5
abbrev lnState (n : Nat) : Fld := laneFld n 0x04 2 0
abbrev lnSigDet (n : Nat) : Fld := laneFld n 0x04 3 3
abbrev lnCdr (n : Nat) : Fld := laneFld n 0x04 4 4
abbrev lnInverted (n : Nat) : Fld := laneFld n 0x04 5 5
abbrev lnReversed (n : Nat) : Fld := laneFld n 0x04 6 6
abbrev lnError (n : Nat) : Fld := laneFld n 0x04 7 7
abbrev lnLinkLane (n : Nat) : Fld := laneFld n 0x04 9 8
abbrev lnWidth (n : Nat) : Fld := laneFld n 0x04 11 10
abbrev lnAdaptEn (n : Nat) : Fld := laneFld n 0x0C 0 0
abbrev lnTxPat (n : Nat) : Fld := laneFld n 0x10 2 0
abbrev lnRxPat (n : Nat) : Fld := laneFld n 0x10 6 4
abbrev lnRxSync (n : Nat) : Fld := laneFld n 0x10 8 8
abbrev lnMarginStart (n : Nat) : Fld := laneFld n 0x20 31 31
abbrev lnFlag (n i : Nat) : Fld := laneFld n 0x38 i i

/-- A lane nothing has happened on. -/
def LaneUnit.zero : LaneUnit := ⟨0, false, 0, false, none, false, false, 0, 0, [], 4, none, none⟩

/-- Lane `n` beside its registers. -/
def State.lane (s : State) (n : Nat) : LaneUnit := tget (fun _ => LaneUnit.zero) s.lanes n

/-- Lane `n` replaced. -/
def State.setLane (s : State) (n : Nat) (u : LaneUnit) : State := { s with lanes := tset (fun _ => LaneUnit.zero) s.lanes n u }

/-- The state of a lane. -/
def State.laneState (s : State) (n : Nat) : Nat := s.fld (lnState n)

/-- A Maelid lane's link by the split of its port, its position and its link's width in lanes (R303). -/
def State.laneLink (s : State) (n : Nat) : Nat × Nat × Nat :=
  let p := (n - 16) / 4
  let k := (n - 16) % 4
  match s.fld (LNK_PORT.Split p) with
  | 0 => (4 * p, k, 4)
  | 1 => (4 * p + k / 2, k % 2, 2)
  | _ => (4 * p + k, 0, 1)

/-- The first lane and the number of lanes of link `l` (R303). -/
def State.linkLanes (s : State) (l : Nat) : Nat × Nat :=
  match s.fld (LNK_PORT.Split (l / 4)) with
  | 0 => (16 + 4 * (l / 4), 4)
  | 1 => (16 + 4 * (l / 4) + 2 * (l % 4), 2)
  | _ => (16 + l, 1)

/-- The width code of R284. -/
def widthCode (w : Nat) : Nat := if w = 4 then 2 else if w = 2 then 1 else 0

/-- Own position and width, which LN_STATUS reports (R288). -/
def State.lanePlace (s : State) (n : Nat) : State :=
  if n < 16 then s
  else
    let p := s.laneLink n
    (s.setF (lnLinkLane n) p.2.1).setF (lnWidth n) (widthCode p.2.2)

/-! ## Scrambling (R282, R283) -/

/-- Bytes as bits in the order they are sent: each byte least significant bit first (R282). -/
def sentBits (bytes : List Byte) : List Bool := bytes.flatMap (fun b => (List.range 8).map (fun i => b.getLsbD i))

/-- The byte that eight bits make, the first the least significant (R282). -/
def byteOfBits (bits : List Bool) : Byte := BitVec.ofNat 8 ((bits.take 8).zipIdx.foldl (fun a x => a + x.1.toNat * 2 ^ x.2) 0)

/-- The scrambler's register after DISABLED: the last 58 bits sent, newest first, are ones (R283). -/
def scramblerStart : List Bool := List.replicate 58 true

/-- The scrambler, out(i) = in(i) + out(i - 39) + out(i - 58), its last 58 bits newest first in `past` (R283). -/
def scramble : List Bool → List Bool → List Bool
  | _, [] => []
  | past, b :: rest =>
    let o := b != (past.getD 38 false != past.getD 57 false)
    o :: scramble ((o :: past).take 58) rest

/-- The receiver's inverse, in(i) = out(i) + out(i - 39) + out(i - 58) over the bits received (R283). -/
def descramble : List Bool → List Bool → List Bool
  | _, [] => []
  | past, o :: rest => (o != (past.getD 38 false != past.getD 57 false)) :: descramble ((o :: past).take 58) rest

/-- The register after `sent` bits have followed those of `past`. -/
def scramblerAfter (past sent : List Bool) : List Bool := (sent.reverse ++ past).take 58

/-- The 128 bytes of a block out of the bits received, in the stream as received or in the inverted one (R283, R287). -/
def descrambled (b : RxBlock) : List Byte :=
  let bits := descramble (b.past.map (· != b.inverted)) ((sentBits b.bytes).map (· != b.inverted))
  (List.range b.bytes.length).map (fun i => byteOfBits (bits.drop (8 * i)))

/-- The state of lane `n`'s scrambler: all ones after the lane has left DISABLED (R283). -/
def State.scrambler (s : State) (n : Nat) : List Bool := ((s.lane n).scr).getD scramblerStart

/-- Lane `n` sends bytes under its scrambler (R283). -/
def State.laneSent (s : State) (n : Nat) (bytes : List Byte) : State :=
  s.setLane n { s.lane n with scr := some (scramblerAfter (s.scrambler n) (scramble (s.scrambler n) (sentBits bytes))) }

/-- The link layer takes lane `n` over: what the training blocks, whose number the model does not count, have left in its
scrambler is free (R283, R285; log 53). -/
def State.laneTaken (s : State) (n : Nat) : State :=
  if (s.lane n).taken then s
  else
    let a := s.takeFree
    let b := a.2.takeFree
    let x := a.1.toNat + 2 ^ 32 * b.1.toNat
    b.2.setLane n { b.2.lane n with taken := true, scr := some ((List.range 58).map x.testBit) }

/-- A margin measurement ends (R295): Start clears, the disagreements are written, and LANE_MARGIN has its final return slip. -/
def State.marginEnd (s : State) (n : Nat) (errors : Word) : State :=
  let s := s.when (s.lane n).step.isSome (fun s => s.setLane n { s.lane n with step := none })
  let t := ((s.setF (lnMarginStart n) 0).wr (laneBase n + 0x24) errors).raise (lnFlag n 4)
  match t.backgroundOf 0x0685 (.lane n) with
  | some b => t.finishBackground b stOk (leBytes 4 errors.toNat)
  | none => t

/-- The receiver's adaptation reaches values of its own while AdaptEn is 1, in LOCK and every later state (R291): free values, but
that Adapted, once 1, stays until the lane is back in SEEK (R302). -/
def State.laneAdapt (s : State) (n : Nat) : State :=
  if !s.on (lnAdaptEn n) || decide (s.laneState n < lnLock) then s
  else
    let r := s.takeFree
    (r.2.setF (laneFld n 0x0C 15 2) (r.1.toNat / 2)).when (!s.on (laneFld n 0x0C 1 1)) (·.setF (laneFld n 0x0C 1 1) (r.1.toNat))

/-- The receiver of a DISABLED lane is off, its checker with it, and its signal detector too unless WakeEn is 1 (R285, R297). -/
def State.laneDark (s : State) (n : Nat) : State :=
  ((s.setF (lnCdr n) 0).setF (lnRxSync n) 0).when (!s.on (lnWakeEn n)) (·.setF (lnSigDet n) 0)

/-- A lane enters another state: a measurement ends early (R295), the block streaks restart, and outside ALIGNED and READY
nothing of the partner's order stands; the receiver goes off in DISABLED and adapts from LOCK on. -/
def State.laneTo (s : State) (n st : Nat) : State :=
  if s.laneState n = st then s
  else
    let t := s.when (s.on (lnMarginStart n)) (fun s => s.marginEnd n 0xFFFFFFFF#32)
    let u := (t.setF (lnState n) st).when (st == lnDisabled) (·.laneDark n)
    let u := u.laneAdapt n
    let keep := st = lnReady
    let x := u.lane n
    let v := u.setLane n { x with good := 0, bad := 0, taken := false, order := if keep then x.order else none, skewed := false,
                                  partnerReady := keep && x.partnerReady,
                                  scr := if s.laneState n = lnDisabled then none else x.scr }
    if keep then v else (v.setF (lnError n) 0).setF (lnReversed n) 0

/-- A lane returns to SEEK (R286, R290): its latched polarity is released (R287) and its adaptation starts again. -/
def State.laneSeek (s : State) (n : Nat) : State :=
  ((s.laneTo n lnSeek).setF (lnInverted n) 0).setF (laneFld n 0x0C 1 1) 0

/-- The slot of the port holds its lanes DISABLED: PGOOD of an enabled slot is not asserted (R375). -/
def State.laneBarred (s : State) (n : Nat) : Bool :=
  decide (16 ≤ n) && s.on (FAB_SLOT_CTRL.SlotEn ((n - 16) / 4)) && !s.on (FAB_SLOT_STAT.PowerGood ((n - 16) / 4))

/-- The state a lane has outside training: LOOPBACK, PRBS, SEEK or DISABLED (R292, R294); a host lane without a pattern
reads 0. -/
def State.laneIdle (s : State) (n : Nat) : State :=
  if s.laneBarred n then s.laneTo n lnDisabled
  else if s.on (lnLoop n) then s.laneTo n lnLoopback
  else if s.on (lnTxPat n) || s.on (lnRxPat n) then s.laneTo n lnPrbs
  else if decide (16 ≤ n) && s.on (lnEnable n) then s.laneSeek n
  else s.laneTo n lnDisabled

/-- The host port keeps its lanes from tests: they are permitted only while it holds its link disabled (R293). -/
def State.laneBusy (s : State) (n : Nat) : Bool := decide (n < 16) && !s.on HPT_STATUS.Perst

/-- All four lanes of port `p` are DISABLED (R279). -/
def State.portDark (s : State) (p : Nat) : Bool := (List.range 4).all (fun k => s.laneState (16 + 4 * p + k) == lnDisabled)

/-- The default taps of a rate (R291). -/
def defaultTaps (rate : Nat) : Nat × Nat × Nat :=
  match rate with
  | 0 => (0, 58, 6)
  | 1 => (4, 50, 10)
  | _ => (6, 50, 8)

/-- The taps of a lane set. -/
def State.setTaps (s : State) (n pre main post : Nat) : State :=
  ((s.setF (laneFld n 0x08 3 0) pre).setF (laneFld n 0x08 10 5) main).setF (laneFld n 0x08 15 11) post

/-- Taps that R291 admits. -/
def tapsOk (pre main post : Nat) : Bool := decide (pre + main + post ≤ 64) && decide (32 ≤ main)

/-- A write of LN_TXEQ (R291); in a host lane every field is read-only. -/
def State.writeTaps (s : State) (n pre main post : Nat) : State :=
  if n < 16 then s
  else if tapsOk pre main post then s.setTaps n pre main post
  else s.raise (lnFlag n 6)

/-- A write of LNK_PHY.Rate (R279): accepted while the port's lanes are DISABLED and the code is 0 to 2. -/
def State.writeRate (s : State) (p rate : Nat) : State :=
  if rate < 3 ∧ s.portDark p then
    let t := (s.setF (LNK_PHY.Rate p) rate).setF (LNK_PHY.PllLock p) 0
    let d := defaultTaps rate
    t.each (List.range 4) (fun k u => u.setTaps (16 + 4 * p + k) d.1 d.2.1 d.2.2)
  else s

/-- RATE_WRITE. -/
def execRateWrite (p : Fin 12) (rate : BitVec 2) (s : State) : Result := .next (s.writeRate p rate.toNat)

/-- PLL_RELOCK. -/
def execPllRelock (p : Fin 12) (s : State) : Result := .next (s.setF (LNK_PHY.PllLock p) 1)

/-- TXEQ_WRITE. -/
def execTxeqWrite (n : Fin 64) (pre : BitVec 4) (main : BitVec 6) (post : BitVec 5) (s : State) : Result :=
  .next (s.writeTaps n pre.toNat main.toNat post.toNat)

/-- SIGNAL_DETECT: a signal on the lane's input (R286); a DISABLED Maelid lane sees it only with WakeEn 1, and sets Wake (R285,
R297). -/
def execSignalDetect (n : Fin 64) (s : State) : Result :=
  .next (if !s.supplied 3 ∨ (s.laneState n = lnDisabled ∧ 16 ≤ n.val ∧ !s.on (lnWakeEn n)) then s
    else (s.setF (lnSigDet n) 1).when (s.laneState n == lnDisabled && decide (16 ≤ n.val)) (·.raise (lnFlag n 5)))

/-- CDR_LOCK: in SEEK with a signal, the lane enters LOCK (R286); the receiver of a DISABLED lane is off (R285). -/
def execCdrLock (n : Fin 64) (s : State) : Result :=
  .next (if !s.on (lnSigDet n) ∨ s.laneState n = lnDisabled then s
    else
      let t := s.setF (lnCdr n) 1
      if t.laneState n = lnSeek then t.laneTo n lnLock else t)

/-- A lane back in SEEK with its signal and the clock recovery's lock still there goes on to LOCK (R286). -/
def State.laneRelock (s : State) (n : Nat) : State :=
  if s.laneState n = lnSeek ∧ s.on (lnSigDet n) ∧ s.on (lnCdr n) then s.laneTo n lnLock else s

/-- LOCK_TIMEOUT: 100 ticks in LOCK (R286). -/
def execLockTimeout (n : Fin 64) (s : State) : Result :=
  .next (if s.laneState n = lnLock then ((s.laneSeek n).setF (lnCdr n) 0).incF (laneFld n 0x28 31 16) else s)

/-- The delays of a pattern's polynomial x^N + x^M + 1 (R292). -/
def prbsTaps (pattern : Nat) : Nat × Nat :=
  match pattern with
  | 1 => (7, 6)
  | 2 => (15, 14)
  | 3 => (23, 18)
  | _ => (31, 28)

/-- Each bit of a sequence is the sum of those N and M places before it (R292). -/
def prbsHolds (pattern : Nat) (bits : List Bool) : Bool :=
  let d := prbsTaps pattern
  (List.range (bits.length - d.1)).all (fun i =>
    bits.getD (i + d.1) false == (bits.getD i false != bits.getD (i + d.1 - d.2) false))

/-- The generator's register after `k` bits, the bit sent last in bit 0 (R292). -/
def prbsReg (pattern seed : Nat) : Nat → Nat
  | 0 => seed % 2 ^ (prbsTaps pattern).1
  | k + 1 =>
    let d := prbsTaps pattern
    let r := prbsReg pattern seed k
    (2 * r + (r.testBit (d.1 - 1) != r.testBit (d.2 - 1)).toNat) % 2 ^ d.1

/-- Bit `k` of the stream that lane `n`'s generator sends from its `sent`th bit on (R292). -/
def State.prbsBit (s : State) (n k : Nat) : Bool :=
  (prbsReg (s.fld (lnTxPat n)) (s.lane n).seed (k + 1)).testBit 0 != (s.lane n).flips.contains k

/-- The generator runs: it has a pattern, and the lane is not in far-end loopback (R292, R294). -/
def State.generates (s : State) (n : Nat) : Bool := s.on (lnTxPat n) && s.fld (lnLoop n) != 2

/-- The generator starts, from a value of its register that the spec does not state: free, but not 0, from which it would never
move (R292). -/
def State.startPrbs (s : State) (n : Nat) : State :=
  let r := s.takeFree
  let f := r.1.toNat % 2 ^ (prbsTaps (r.2.fld (lnTxPat n))).1
  r.2.setLane n { r.2.lane n with seed := if f = 0 then 1 else f, sent := 0, flips := [] }

/-- A write of 1 to TxErrInject: the next bit of the generated stream is inverted (R292); in far-end loopback the generator
is ignored (R294), and so is the write on a host lane in use (R293). -/
def State.injectBit (s : State) (n : Nat) : State :=
  if s.generates n && !s.laneBusy n then s.setLane n { s.lane n with flips := (s.lane n).flips.erase (s.lane n).sent ++ [(s.lane n).sent] } else s

/-- TX_ERR_INJECT. -/
def execTxErrInject (n : Fin 64) (s : State) : Result := .next (s.injectBit n)

/-- A checker that loaded its register from the bits before finds the last 64 of `bits` without error (R293). -/
def prbsSynced (pattern : Nat) (bits : List Bool) : Bool :=
  let k := (prbsTaps pattern).1 + 64
  decide (k ≤ bits.length) && prbsHolds pattern (bits.drop (bits.length - k))

/-- PRBS_SYNC: the checker has received `x.bits` and declares RxSync after 64 consecutive ones without error (R293). -/
def execPrbsSync (x : LaneBits) (s : State) : Result :=
  .next (if s.on (lnRxPat x.lane) ∧ s.laneState x.lane ≠ lnDisabled ∧ !s.on (lnRxSync x.lane) ∧ prbsSynced (s.fld (lnRxPat x.lane)) x.bits then
      let b := laneBase x.lane
      (((s.setF (lnRxSync x.lane) 1).wr (b + 0x14) 0#32).wr (b + 0x18) 0#32).wr (b + 0x1C) 0#32
    else s)

/-- Bits checked and mismatches counted while RxSync is 1 (R293). -/
def State.prbsCount (s : State) (n bits errors : Nat) : State :=
  if !s.on (lnRxSync n) then s
  else
    let b := laneBase n
    let total := min (2 ^ 48 - 1) (s.rd64 (b + 0x18) (b + 0x1C) + bits)
    (s.incBy (b + 0x14) errors).wr64 (b + 0x18) (b + 0x1C) total

/-- PRBS_SYNC_LOST: more than 64 mismatches within 256 bits; the operands are what was checked since the last count (R293). -/
def execPrbsSyncLost (n : Fin 64) (bits errors : Word) (s : State) : Result :=
  .next (if s.on (lnRxSync n) ∧ 64 < errors.toNat then
      ((s.prbsCount n bits.toNat errors.toNat).setF (lnRxSync n) 0).raise (lnFlag n 3)
    else s)

/-! ## What a lane sends (R282 to R285) -/

/-- A training block of 128 bytes (R284). -/
def trainingBytes (linkLane width : Nat) (aligned ready : Bool) (rate sender : Nat) : List Byte :=
  let b : List Byte := [0x3C#8, 0x5A#8, 0xA5#8, 0xC3#8,
    BitVec.ofNat 8 (linkLane + 4 * width + 16 * aligned.toNat + 32 * ready.toNat), BitVec.ofNat 8 rate] ++ leBytes 2 sender ++
    List.replicate 116 0#8
  b ++ leBytes 4 (crc32c b).toNat

/-- The training blocks a Maelid lane sends: its place in its link, Aligned in ALIGNED and READY, Ready in READY, and the node
ID; the bridge is no leaf (R284, R285). -/
def State.ownTraining (s : State) (n : Nat) : List Byte :=
  let p := s.laneLink n
  let st := s.laneState n
  trainingBytes p.2.1 (widthCode p.2.2) (st == lnAligned || st == lnReady) (st == lnReady) (s.fld (LNK_PHY.Rate ((n - 16) / 4)))
    s.nodeId

/-- What a Maelid lane's transmitter sends (R285). -/
inductive LaneTx
  /-- Electrical idle. -/
  | idle
  /-- Training blocks back to back. -/
  | training (block : List Byte)
  /-- The link layer's data. -/
  | link
  /-- The generator's stream. -/
  | pattern
  /-- The recovered bits, unscrambled and unchanged. -/
  | echo
  /-- A checker alone runs: the spec names nothing that is sent. -/
  | unstated
deriving DecidableEq, Repr

/-- The transmitter column of R285, with R294. -/
def State.laneSends (s : State) (n : Nat) : LaneTx :=
  let st := s.laneState n
  if st = lnSeek ∨ st = lnLock ∨ st = lnAligned then .training (s.ownTraining n)
  else if st = lnReady then if (s.lane n).taken then .link else .training (s.ownTraining n)
  else if st = lnPrbs then if s.on (lnTxPat n) then .pattern else .unstated
  else if st = lnLoopback ∧ s.fld (lnLoop n) = 2 then .echo
  else .idle

/-- A received training block: valid when its Marker and its Crc are both correct (R284). -/
def trainBlockOf (bytes : List Byte) (inverted spaced skewed : Bool) : TrainBlock :=
  let b4 := bytesAt bytes 4 1
  { valid := bytes.length == 128 && bytes.take 4 == [0x3C#8, 0x5A#8, 0xA5#8, 0xC3#8] &&
      (crc32c (bytes.take 124)).toNat == bytesAt bytes 124 4
    spaced, inverted, skewed, linkLane := BitVec.ofNat 2 b4, width := BitVec.ofNat 2 (b4 / 4), aligned := b4.testBit 4,
    ready := b4.testBit 5, leaf := b4.testBit 6, rate := BitVec.ofNat 2 (bytesAt bytes 5 1), sender := BitVec.ofNat 10 (bytesAt bytes 6 2) }

/-- Margining is permitted in READY, PRBS and LOOPBACK (R295). -/
def State.marginReady (s : State) (n : Nat) : Bool :=
  let st := s.laneState n
  st == lnReady || st == lnPrbs || st == lnLoopback

/-- The lane runs at a PAM4 rate (R279, R281). -/
def State.lanePam4 (s : State) (n : Nat) : Bool :=
  if n < 16 then s.fld HPT_STATUS.Rate == 5 else s.fld (LNK_PHY.Rate ((n - 16) / 4)) == 2

/-- The fields of LN_MARGIN in range (R295, R302). -/
def State.marginRange (s : State) (n : Nat) (time volt : Int) (eye bitsLog : Nat) : Bool :=
  decide (-31 ≤ time) && decide (time ≤ 31) && decide (-31 ≤ volt) && decide (volt ≤ 31) && decide (10 ≤ bitsLog) &&
  decide (bitsLog ≤ 31) && decide (eye ≤ if s.lanePam4 n then 2 else 0)

/-- A write of LN_MARGIN's fields. -/
def State.setMargin (s : State) (n time volt eye bitsLog : Nat) : State :=
  (((s.setF (laneFld n 0x20 5 0) time).setF (laneFld n 0x20 11 6) volt).setF (laneFld n 0x20 13 12) eye).setF
    (laneFld n 0x20 18 14) bitsLog

/-- A write of LN_MARGIN with Start 1 begins a measurement where R295 permits one; otherwise it is ignored. -/
def State.startMargin (s : State) (n time volt eye bitsLog : Nat) : State :=
  if s.marginReady n ∧ s.marginRange n (signedOf 6 time) (signedOf 6 volt) eye bitsLog then
    (s.setMargin n time volt eye bitsLog).setF (lnMarginStart n) 1
  else s

/-! ## Lane Margining at the Receiver (R296, R386) -/

/-- The status half of lane `n`'s margining registers: the answer to its control half. -/
def State.marginAnswer (s : State) (n type payload : Nat) : State :=
  (((s.setF (CFG_MARGIN.StatusReceiver n) (s.fld (CFG_MARGIN.Receiver n))).setF (CFG_MARGIN.StatusType n) type).setF
    (CFG_MARGIN.StatusUsage n) 0).setF (CFG_MARGIN.StatusPayload n) payload

/-- The capability's parameters by the payload that asks for them (R296): independent up, down, left and right and an error
sampler of its own; 31 steps each way, 48 % of a UI, 155 mV in hundredths of a volt, the bits sampled as three times their
logarithm, and 16 lanes less one. -/
def State.marginParam (s : State) (n payload : Nat) : Option Nat :=
  match payload with
  | 0x88 => some 0x17
  | 0x89 => some 31
  | 0x8A => some 31
  | 0x8B => some 48
  | 0x8C => some 15
  | 0x8F => some (3 * s.fld (laneFld n 0x20 18 14))
  | 0x90 => some 15
  | _ => none

/-- A step to an offset: the lane's sampler measures there, at 64.0 GT/s on the lower eye first and then on the others, or the
step is refused (R295, R296). -/
def State.marginStep (s : State) (n type : Nat) (time volt : Int) : State :=
  if s.marginReady n ∧ -31 ≤ time ∧ time ≤ 31 ∧ -31 ≤ volt ∧ volt ≤ 31 then
    let b := s.fld (laneFld n 0x20 18 14)
    let t := (s.setMargin n (BitVec.ofInt 6 time).toNat (BitVec.ofInt 6 volt).toNat 0 b).setF (lnMarginStart n) 1
    (t.setLane n { t.lane n with step := some 0 }).marginAnswer n type 0x80
  else s.marginAnswer n type 0xC0

/-- Go to normal settings: the sampler leaves its offset, and a measurement ends early (R295, R296). -/
def State.marginNormal (s : State) (n : Nat) : State :=
  let t := s.when (s.on (lnMarginStart n)) (·.marginEnd n 0xFFFFFFFF#32)
  t.setMargin n 0 0 0 (t.fld (laneFld n 0x20 18 14))

/-- The control half of host lane `n`'s margining registers has been written (R296; the encodings are PCI Express 6.0's, log
entry 53): Receiver 6 names the bridge's receiver and 0 all of them; at 16.0 GT/s and above. -/
def State.marginControl (s : State) (n : Nat) : State :=
  let rcv := s.fld (CFG_MARGIN.Receiver n)
  let type := s.fld (CFG_MARGIN.Type n)
  let pay := s.fld (CFG_MARGIN.Payload n)
  if !s.on HPT_STATUS.LinkUp || decide (s.fld HPT_STATUS.Rate < 3) || s.on (CFG_MARGIN.Usage n) then s
  else if type = 7 ∧ rcv = 0 ∧ pay = 0x9C then s.marginAnswer n 7 0x9C
  else if type = 2 ∧ (rcv = 0 ∨ rcv = 6) ∧ pay = 0x0F then
    (s.marginNormal n).marginAnswer n 2 pay
  else if type = 2 ∧ (rcv = 0 ∨ rcv = 6) ∧ pay = 0x55 then (s.wr (laneBase n + 0x24) 0#32).marginAnswer n 2 pay
  else if rcv ≠ 6 then s
  else if type = 2 ∧ 0xC0 ≤ pay then (s.setLane n { s.lane n with limit := pay % 64 }).marginAnswer n 2 pay
  else match type with
    | 1 => match s.marginParam n pay with
      | some v => s.marginAnswer n 1 v
      | none => s
    | 3 => s.marginStep n 3 (if pay.testBit 6 then -Int.ofNat (pay % 64) else Int.ofNat (pay % 64)) 0
    | 4 => s.marginStep n 4 0 (if pay.testBit 7 then -Int.ofNat (pay % 128) else Int.ofNat (pay % 128))
    | _ => s

/-- The error count of a margining step as its lane reports it, and past the limit the return to the default (R296). -/
def State.marginCount (s : State) (n errors : Nat) : State :=
  s.setF (CFG_MARGIN.StatusPayload n) (min 63 errors + if (s.lane n).limit < errors then 0 else 0x80)

/-- A measurement has run to its end with `errors` disagreements; a step of the capability at a PAM4 rate goes on with the next
eye, until the offset has been on each of the three (R295, R296). -/
def State.marginRan (s : State) (n : Nat) (errors : Word) : State :=
  match (s.lane n).step with
  | none => s.marginEnd n errors
  | some before =>
    let sum := min (2 ^ 32 - 1) (before + errors.toNat)
    let eye := s.fld (laneFld n 0x20 13 12)
    if s.lanePam4 n ∧ eye < 2 then (s.setF (laneFld n 0x20 13 12) (eye + 1)).setLane n { s.lane n with step := some sum }
    else (s.marginEnd n (BitVec.ofNat 32 sum)).marginCount n sum

/-- MARGIN_START. -/
def execMarginStart (n : Fin 64) (time volt : BitVec 6) (eye : BitVec 2) (bitsLog : BitVec 5) (s : State) : Result :=
  .next (s.startMargin n time.toNat volt.toNat eye.toNat bitsLog.toNat)

/-- MARGIN_DONE. -/
def execMarginDone (n : Fin 64) (errors : Word) (s : State) : Result :=
  .next (if s.on (lnMarginStart n) then s.marginRan n errors else s)

/-- LANE_INFO. -/
def execLaneInfo (h : SlipHdr) (n : Byte) (s : State) : Result :=
  .next (s.runSlip h 0x0680 (.lane n.toNat) (fun s =>
    if 64 ≤ n.toNat then refuse s stValueRange
    else
      let b := laneBase n.toNat
      (s, .done stOk (s.words [b + 0x04, b + 0x0C, b + 0x28]))))

/-- LANE_RATE. -/
def execLaneRate (h : SlipHdr) (p rate : Byte) (s : State) : Result :=
  .next (s.runSlip h 0x0682 .none (fun s =>
    if 12 ≤ p.toNat ∨ 3 ≤ rate.toNat then refuse s stValueRange
    else if !s.portDark p.toNat then refuse s stLaneBusy
    else (s.writeRate p.toNat rate.toNat, okAns)))

/-- LANE_PRBS_READ. -/
def execLanePrbsRead (h : SlipHdr) (n : Byte) (s : State) : Result :=
  .next (s.runSlip h 0x0684 (.lane n.toNat) (fun s =>
    if 64 ≤ n.toNat then refuse s stValueRange
    else
      let b := laneBase n.toNat
      (s, .done stOk (s.words [b + 0x14] ++ leBytes 6 (s.rd64 (b + 0x18) (b + 0x1C)) ++
        leBytes 1 (s.fld (lnRxSync n.toNat))))))

/-- LANE_MARGIN: the final return slip carries the disagreements. -/
def execLaneMargin (h : SlipHdr) (n time volt eye bitsLog : Byte) (s : State) : Result :=
  .next (s.runSlip h 0x0685 (.lane n.toNat) (fun s =>
    if 64 ≤ n.toNat ∨ !s.marginRange n.toNat time.toInt volt.toInt eye.toNat bitsLog.toNat then refuse s stValueRange
    else if !s.marginReady n.toNat then refuse s stLaneNotReady
    else ((s.setMargin n.toNat time.toNat volt.toNat eye.toNat bitsLog.toNat).setF (lnMarginStart n.toNat) 1,
      .accepted (.laneMargin n.toNat))))

end Sys2Proof.Machine
end

