-- ==== Sys2Proof/Machine/Host.lean ====
section
/-! DEFINITION. Machine/Host.lean: the host port's configuration space, error reporting, power states, windows and
link states (R382 to R419).  Inbound memory requests are in Bus.lean, the host-port resets in HostReset.lean. -/

namespace Sys2Proof.Machine

/-! ## Writes by access code (R5) -/

/-- The bits of the bytes whose enable is 1. -/
def byteMask (be : BitVec 4) : Word :=
  (List.range 4).foldl (fun m i => if be.getLsbD i then m ||| BitVec.ofNat 32 (0xFF <<< (8 * i)) else m) 0#32

/-- A register's new value after a write of `v` with the byte mask `m`: RW bits take the written bits, a 1 clears W1C
bits and sets W1S bits; RO, RC, WO and reserved bits keep their value (R5, R6, R394). -/
def RegRow.write (r : RegRow) (old v m : Word) : Word :=
  let rw := r.bits .rw &&& m
  let c := r.bits .w1c &&& m &&& v
  let st := r.bits .w1s &&& m &&& v
  (((old &&& ~~~ rw) ||| (v &&& rw)) &&& ~~~ c) ||| st

/-- A register's value after a read: its RC fields clear (R5). -/
def RegRow.afterRead (r : RegRow) (old : Word) : Word := old &&& ~~~ r.bits .rc

/-- What a read returns: WO fields read 0 (R5). -/
def RegRow.readValue (r : RegRow) (old : Word) : Word := old &&& ~~~ r.bits .wo

/-- The generic write by access code; a key that names no register ignores it. -/
def State.writeByCode (s : State) (a : Nat) (v m : Word) : State :=
  match regRow a with
  | none => s
  | some r => s.wr a (r.write (s.rd a) v m)

/-! ## Derived host-port values -/

/-- Max_Payload_Size and Max_Read_Request_Size in bytes (R383). -/
def State.mps (s : State) : Nat := 128 * 2 ^ s.fld CFG_DEVCTL.Mps
def State.mrrs (s : State) : Nat := 128 * 2 ^ s.fld CFG_DEVCTL.Mrrs

/-- The usable tags (R403). -/
def State.tagLimit (s : State) : Nat :=
  if s.on CFG_DEVCTL2.Tag10ReqEn then 768 else if s.on CFG_DEVCTL.ExtTagEn then 256 else 32

/-- The completion timeout in ticks, 0 when disabled (R404). -/
def State.cplTimeout (s : State) : Nat :=
  if s.on CFG_DEVCTL2.CplTimeoutDisable then 0
  else match s.fld CFG_DEVCTL2.CplTimeout with
    | 1 => 80
    | 2 => 8000
    | 5 => 40000
    | 6 => 160000
    | 9 => 600000
    | 10 => 2000000
    | 13 => 8000000
    | 14 => 32000000
    | _ => 16000

/-- HPT_STATUS as a read returns it: DState and BusMaster copy configuration space (R419). -/
def State.hptStatus (s : State) : Word :=
  let w := HPT_STATUS.DState.put (s.rd HPT_STATUS) (s.fld CFG_PMCSR.PowerState)
  HPT_STATUS.BusMaster.put w (s.fld CFG_CMDSTS.BusMaster)

/-- HPT_TAGS as a read returns it (R403, R405). -/
def State.hptTags (s : State) : Word :=
  BitVec.ofNat 32 (s.host.outstanding.length + 2 ^ 10 * s.host.quarantine.length + 2 ^ 20 * s.tagLimit)

/-- The latency an LTR capability word allows: value times 32 ^ scale. -/
def ltrMax (v : Nat) : Nat := (v % 1024) * 32 ^ (v / 1024 % 8)

/-- Mover 31 has a call-slip read outstanding. -/
def State.slipBusy (s : State) : Bool := s.host.outstanding.any (fun o => match o.requester with
  | .slipFetch _ _ => true
  | _ => false)

/-- DMA_MOVER(31) as a read returns it (R476). -/
def State.mover31 (s : State) : Word := if s.slipBusy then 7#32 else 0#32

/-- The latency requirement of R388 in ns; none: no requirement. -/
def State.ltrNeed (s : State) : Option Nat :=
  if s.fld CFG_PMCSR.PowerState = 3 then none
  else if (List.range 64).any (fun c => s.on (DMA_CH_ACFG.Enable c) && s.on (DMA_CH_ACFG.Dir c)) ||
      (List.range 31).any (fun m => s.on (DMA_MOVER.Busy m)) || s.slipBusy then some 2000
  else some 100000

/-- An LTR message is sent whenever the requirement changes while LTR is enabled (R388). -/
def State.ltrUpdate (s : State) : State :=
  if !s.on CFG_DEVCTL2.LtrEn || !s.on HPT_STATUS.LinkUp then s
  else
    let need := s.ltrNeed
    if s.host.ltr = some need then s
    else
      let sn := need.map (fun n => min n (ltrMax (s.fld CFG_LTR.MaxSnoop)))
      let ns := need.map (fun n => min n (ltrMax (s.fld CFG_LTR.MaxNoSnoop)))
      { s with host := { s.host with ltr := some need } }.sendTlp (.ltr sn ns)

/-! ## Errors (R407, R408) -/

/-- An error message: none goes out in D3hot or while an FLR is in progress (R409, R413). -/
def State.sendError (s : State) (t : Tlp) : State :=
  if s.fld CFG_PMCSR.PowerState = 3 || s.on HPT_STATUS.FlrActive then s else s.sendIfUp t

/-- A correctable error: its status bit, the counter, and ERR_COR unless masked or its reporting is disabled. -/
def State.aerCorrectable (s : State) (bit : Nat) (told : Bool) : State :=
  let t := ((s.setF ⟨CFG_AERCOR, bit, bit⟩ 1).setF CFG_DEVCTL.CorrDetected 1).inc HPT_CORRCNT
  if !t.on ⟨CFG_AERCMASK, bit, bit⟩ && t.on CFG_DEVCTL.CorrEn && told then t.sendError .errCor else t

/-- The Device Control register lets messages of the error go out: an Unsupported Request only with its own reporting enable
(R408). -/
def State.errorTold (s : State) (bit : Nat) : Bool := bit != 20 || s.on CFG_DEVCTL.UrEn

/-- The header log and First Error Pointer take an unmasked error when no error is logged yet. -/
def State.aerLog (s : State) (bit : Nat) (header : List Byte) : State :=
  if s.rd CFG_AERUNC &&& ~~~ s.rd CFG_AERUMASK ≠ 0#32 then s
  else
    (s.each (List.range 4) (fun i t => t.wr (CFG_AERLOG i) (BitVec.ofNat 32 (bytesAt header (4 * i) 4)))).setF
      CFG_AERCTL.FirstError bit

/-- An uncorrectable error that is logged: its header, HOST_AER and the flag (R408); a masked error is not (R408). -/
def State.aerReport (s : State) (bit : Nat) (header : List Byte) : State :=
  ((s.aerLog bit header).logEvent 0x0703 bit header).raise HPT_IRQ_STATUS.Uncorrectable

/-- An uncorrectable error of status bit `bit`, reported as advisory non-fatal where R407 says so and its severity is
not fatal. -/
def State.aerUncorrectable (s : State) (bit : Nat) (advisory : Bool) (header : List Byte) : State :=
  let fatal := s.on ⟨CFG_AERUSEV, bit, bit⟩
  let masked := s.on ⟨CFG_AERUMASK, bit, bit⟩
  if advisory && !fatal then
    let t := s.aerCorrectable 13 (s.errorTold bit)
    if t.on CFG_AERCMASK.Advisory then t
    else (t.when (!masked) (·.aerReport bit header)).setF ⟨CFG_AERUNC, bit, bit⟩ 1
  else
    let t := s.setF (if fatal then CFG_DEVCTL.FatalDetected else CFG_DEVCTL.NonFatalDetected) 1
    let w := (t.when (!masked) (·.aerReport bit header)).setF ⟨CFG_AERUNC, bit, bit⟩ 1
    if masked then w
    else
      let en := w.errorTold bit && (if fatal then w.on CFG_DEVCTL.FatalEn else w.on CFG_DEVCTL.NonFatalEn)
      if en || w.on CFG_CMDSTS.SerrEnable then
        (w.when (w.on CFG_CMDSTS.SerrEnable) (·.setF CFG_CMDSTS.SignaledSystemError 1)).sendError (if fatal then .errFatal else .errNonFatal)
      else w

/-- An Unsupported Request (R407): advisory for a non-posted request. -/
def State.unsupported (s : State) (posted : Bool) (header : List Byte) : State :=
  ((s.inc HPT_URCNT).setF CFG_DEVCTL.UrDetected 1).aerUncorrectable 20 (!posted) header

/-- A Completer Abort (R407). -/
def State.completerAbort (s : State) (posted : Bool) (header : List Byte) : State :=
  (((s.inc HPT_CACNT).setB CFG_CMDSTS.SignaledTargetAbort (!posted || s.on CFG_CMDSTS.SignaledTargetAbort)).aerUncorrectable
    15 (!posted) header)

/-- A poisoned TLP received (R407). -/
def State.poisonedTlp (s : State) (advisory : Bool) (header : List Byte) : State :=
  ((s.inc HPT_POISONRX).setF CFG_CMDSTS.DetectedParity 1).aerUncorrectable 12 advisory header

/-- The status bit of a link-layer error. -/
def linkErrorBit : LinkError → Nat
  | .receiver => 0
  | .badTlp => 6
  | .badDllp => 7
  | .replayRollover => 8
  | .replayTimeout => 12

/-- A TLP received: what the link or the port mends is counted and the TLP taken; with any other finding the TLP is discarded and
the error reported, and where the port's own buffers lost it, `lost` tells its requester (R407).  ECRC is judged while its check is
enabled (R383). -/
def State.receive (s : State) (h : TlpHead) (lost take : State → State) : State :=
  match h.finding with
  | .sound => take s
  | .unknown => take s
  | .mended e => take (s.aerCorrectable (linkErrorBit e) true)
  | .corrected => take (s.aerCorrectable 14 true)
  | .protocol flow => take (s.aerUncorrectable (if flow then 13 else 4) false [])
  | .ecrc => if s.on CFG_AERCTL.EcrcCheckEn then s.aerUncorrectable 19 false h.bytes else take s
  | .malformed => s.aerUncorrectable 18 false h.bytes
  | .overflow => s.aerUncorrectable 17 false []
  | .internal => lost (s.aerUncorrectable 22 false [])

/-- Master Data Parity Error: a poisoned completion received or a poisoned write sent, while Parity Error Response is set
(R384). -/
def State.masterParity (s : State) : State := s.when (s.on CFG_CMDSTS.ParityResponse) (·.setF CFG_CMDSTS.MasterParity 1)

/-! ## Power states (R409) -/

/-- A write of PowerState (R409, R428, R431): D1 and D2 are ignored; restoring D0 commits the messages of pending
vectors whose Mask is 0, in ascending order. -/
def State.writePowerState (s : State) (v : Nat) : State :=
  if v = 1 ∨ v = 2 ∨ v = s.fld CFG_PMCSR.PowerState then s
  else
    let t := (s.setF CFG_PMCSR.PowerState v).raise HPT_IRQ_STATUS.DState
    let u := if v = 0 then t.each (t.pendingVectors.filter t.sendable) (fun x t =>
        if t.canRequest then t.vectorCommit x else t.vectorDue x) else t
    u.intxUpdate.ltrUpdate

/-! ## Expansion ROM and resource folio (R395, R396) -/

/-- A byte of the ROM region in the QSPI NOR (R395). -/
def State.romByte (s : State) (o : Nat) : Byte := tget (fun _ => 0xFF#8) s.boot.flash ((s.folioWord 4).toNat + o)

/-- A record of the resource folio (R396). -/
structure FolioRecord where
  kind : Nat
  bar : Nat
  id : Nat
  count : Nat
  offset : Nat
  size : Nat
  name : List Byte
deriving DecidableEq, Repr

/-- The 32 bytes of a record. -/
def FolioRecord.bytes (r : FolioRecord) : List Byte :=
  leBytes 1 r.kind ++ leBytes 1 r.bar ++ leBytes 2 r.id ++ leBytes 4 r.count ++ leBytes 8 r.offset ++ leBytes 8 r.size ++
    padTo 8 r.name

/-- The resource folio of a list of records: the header with its Crc, and the records (R396). -/
def resourceFolio (rs : List FolioRecord) : List Byte :=
  let head := leBytes 4 0x46525648 ++ leBytes 2 1 ++ leBytes 2 rs.length ++ leBytes 1 0xB0 ++ leBytes 19 0
  let body := rs.flatMap FolioRecord.bytes
  head ++ leBytes 4 (crc32c (head ++ body)).toNat ++ body

/-- The record of register block `i` (R393). -/
def blockRecord (i : Nat) (name : List Byte) : FolioRecord := ⟨1, 0, i, 1, 0x10000 * i, 0x10000, name⟩

/-- The limits by their codes 1 to 11 (R396). -/
def State.folioLimit (s : State) (code : Nat) : Nat :=
  [2048, 4096, 256, 64, 16, 64, 1024, 65536, 32, 512, s.fld DEV_BAR4.Bar4Log].getD (code - 1) 0

/-- The record of a limit. -/
def State.limitRecord (s : State) (code : Nat) (name : List Byte) : FolioRecord := ⟨3, 0xFF, code, 1, s.folioLimit code, 0, name⟩

/-- The place of the folio in the ROM, and its header there. -/
def folioAt : Nat := 0xF0000
def State.folioHeader (s : State) : List Byte := (List.range 32).map (fun i => s.romByte (folioAt + i))

/-- FolioOffset and FolioLength (R390): 0 where the ROM's check failed, or where the region holds no folio. -/
def State.folioPlace (s : State) : Word :=
  let h := s.folioHeader
  if s.host.romBad || bytesAt h 0 4 != 0x46525648 then 0#32
  else BitVec.ofNat 32 (folioAt + 2 ^ 20 * ((32 + 32 * bytesAt h 6 2 + 63) / 64))

/-! ## Configuration space (R384 to R392) -/

/-- The link is up at the rate of code `r` or above, so equalisation at that rate is complete (PRESUMED, assumption log 26). -/
def State.equalised (s : State) (r : Nat) : Bool := s.on HPT_STATUS.LinkUp && decide (r ≤ s.fld HPT_STATUS.Rate)

/-- The configuration register at a dword offset as a read returns it. -/
def State.configWord (s : State) (off : Nat) : Word :=
  if off = 0x02C then s.rd DEV_SUBSYS
  else if off = 0x154 then s.rd DEV_SERIAL_LO
  else if off = 0x158 then s.rd DEV_SERIAL_HI
  else if off = 0x2A8 then s.rd DEV_IDENT
  else if off = 0x2AC then s.folioPlace
  else if off = 0x2B0 then BitVec.ofNat 32 (s.nodeId + 2 ^ 16 * s.fld FAB_STATUS.Member)
  else if off = 0x2B4 then BitVec.ofNat 32 (s.fld DEV_BAR4.Bar4Log + 2 ^ 8 * 64)
  else if off = 0x004 then (s.rd CFG_CMDSTS) ||| (if s.intxAny then 0x00080000#32 else 0#32)
  else if off = 0x090 then (s.rd CFG_LNKCTL2) ||| BitVec.ofNat 32 (0x1E0000 * (s.equalised 2).toNat)
  else if off = 0x1C8 then BitVec.ofNat 32 (0x80000001 * (s.fld HPT_STATUS.LinkUp))
  else if off = 0x1DC then (s.rd CFG_PL16STS) ||| BitVec.ofNat 32 (15 * (s.equalised 3).toNat)
  else if off = 0x20C then (s.rd CFG_PL32STS) ||| BitVec.ofNat 32 (15 * (s.equalised 4).toNat)
  else if off = 0x23C then (s.rd CFG_PL64STS) ||| BitVec.ofNat 32 (15 * (s.equalised 5).toNat)
  else if off = 0x254 then BitVec.ofNat 32 (0x10000 * (s.equalised 3).toNat)
  else if off = 0x070 then
    (s.rd CFG_LNKCTL) ||| BitVec.ofNat 32 (2 ^ 16 * (s.fld HPT_STATUS.Rate + 1) + 2 ^ 20 * s.fld HPT_STATUS.Width)
  else if off = 0x068 then
    (s.rd CFG_DEVCTL) ||| (if s.host.outstanding.isEmpty then 0#32 else 0x00200000#32)
  else match regRow (0xA000000 + off) with
    | none => 0#32
    | some r => r.readValue (s.rd (0xA000000 + off))

/-- BAR4's writable address bits by Bar4Log (R392), for its low and high halves. -/
def State.bar4Mask (s : State) (high : Bool) : Word :=
  let all := 2 ^ 64 - 2 ^ s.fld DEV_BAR4.Bar4Log
  if high then BitVec.ofNat 32 (all / 2 ^ 32) else BitVec.ofNat 32 all

/-- An Initiate FLR write starts (R413): the reset itself is the FLR's host-port reset. -/
def State.configEffect (s : State) (off : Nat) (v m : Word) (flr : State → State) : State :=
  if off = 0x044 then
    let t := s.writeByCode CFG_PMCSR (CFG_PMCSR.PowerState.put v (s.fld CFG_PMCSR.PowerState)) m
    if m.getLsbD 0 then t.writePowerState (CFG_PMCSR.PowerState.get v) else t
  else if off = 0x050 then
    if m.getLsbD 31 then s.writeMsixControl (v.getLsbD 31) (v.getLsbD 30) else s
  else if off = 0x020 then s.writeByCode CFG_BAR4 v (m &&& s.bar4Mask false)
  else if off = 0x024 then s.writeByCode CFG_BAR5 v (m &&& s.bar4Mask true)
  else if off = 0x030 then if s.host.romBad then s else s.writeByCode CFG_ROMBAR v m
  else if off = 0x068 then
    let t := s.writeByCode CFG_DEVCTL v m
    if m.getLsbD 15 && v.getLsbD 15 then flr t else t
  else if 0x258 ≤ off ∧ off < 0x298 then
    let t := s.writeByCode (0xA000000 + off) v m
    if m.truncate 16 = 0#16 then t else t.marginControl ((off - 0x258) / 4)
  else ((s.writeByCode (0xA000000 + off) v m).intxUpdate).ltrUpdate

/-! ## Windows (R397 to R400) -/

/-- The first staged host window that breaks R399, with its status. -/
def State.windowFault (s : State) : Option (Nat × Nat) :=
  let en (i : Nat) : Bool := s.on (STG_WIN_CFG.Enable i)
  let start (i : Nat) : Nat := s.fld (STG_WIN_CFG.BarOffset i) * 2 ^ 20
  let size (i : Nat) : Nat := 2 ^ s.fld (STG_WIN_CFG.SizeLog i)
  (List.range 64).findSome? (fun i =>
    if !en i then none
    else if s.fld (STG_WIN_CFG.SizeLog i) < 20 ∨ 26 < s.fld (STG_WIN_CFG.SizeLog i) ∨ start i % size i ≠ 0 ∨
        2 ^ s.fld DEV_BAR4.Bar4Log < start i + size i ∨
        (List.range 64).any (fun j => j != i && en j && decide (start i < start j + size j) && decide (start j < start i + size i))
      then some (i, stWindowInvalid)
    else if !s.on (STG_WIN_CFG.Remote i) ∧
        (s.fld (STG_WIN_TGT.Bank i) < 2 ∨ 96 * 2 ^ 20 < s.fld (STG_WIN_TGT.Bank i) * 2 ^ 20 + size i)
      then some (i, stAddressInvalid)
    else none)

/-- Is the key a current window register, that is, a BAR0 offset with a staged copy? -/
def isWindowKey (a : Nat) : Bool :=
  (decide (0x40100 ≤ a) && decide (a < 0x40180)) || (decide (0x90400 ≤ a) && decide (a < 0x90500)) ||
  (decide (0xA0100 ≤ a) && decide (a < 0xA0300))

/-- All staged copies become current at once (R399). -/
def State.windowsCommit (s : State) : State :=
  let staged := s.regs.filter (fun p => decide (0xB000000 ≤ p.1) && isWindowKey (p.1 - 0xB000000))
  let t := { s with regs := s.regs.filter (fun p => !isWindowKey p.1) }
  t.each staged (fun p t => t.wr (p.1 - 0xB000000) p.2)

/-- The current copies are copied over the staged copies (R399). -/
def State.windowsRevert (s : State) : State :=
  let cur := s.regs.filter (fun p => isWindowKey p.1)
  let t := { s with regs := tclear s.regs 0xB000000 0xC000000 }
  t.each cur (fun p t => t.wr (p.1 + 0xB000000) p.2)

/-- A window commit: refused with the first failing window and its status, or performed (R399). -/
def State.commitWindows (s : State) (byCall : Bool) : State × Option (Nat × Nat) :=
  match s.windowFault with
  | some f => (s.raise HPT_IRQ_STATUS.WinRefused, some f)
  | none =>
    let t := s.windowsCommit
    let u := t.wr HPT_WINCOUNT (t.rd HPT_WINCOUNT + 1#32)
    ((u.raise HPT_IRQ_STATUS.WinCommitted).logEvent 0x0705 byCall.toNat (leBytes 4 (u.rd HPT_WINCOUNT).toNat), none)

/-- A write of 1 to HPT_WINCTRL.Commit. -/
def State.winctrlCommit (s : State) : State :=
  match s.commitWindows false with
  | (t, none) => t
  | (t, some (i, st)) =>
    ((t.setF HPT_WINCTRL.Refused 1).setF HPT_WINCTRL.RefuseCode (if st = stWindowInvalid then 1 else 2)).setF
      HPT_WINCTRL.RefuseWin i

/-- WINCTRL_COMMIT. -/
def execWinctrlCommit (s : State) : Result := .next s.winctrlCommit

/-- WINCTRL_REVERT. -/
def execWinctrlRevert (s : State) : Result := .next s.windowsRevert

/-- WIN_COMMIT call slip. -/
def execWinCommit (h : SlipHdr) (s : State) : Result :=
  .next (s.runSlip h 0x0702 .none (fun s =>
    match s.commitWindows true with
    | (t, none) => (t, .done stOk (t.words [HPT_WINCOUNT]))
    | (t, some (i, st)) => (t, .done st [BitVec.ofNat 8 i, 0#8])))

/-- WIN_REVERT call slip. -/
def execWinRevert (h : SlipHdr) (s : State) : Result :=
  .next (s.runSlip h 0x0703 .none (fun s => (s.windowsRevert, okAns)))

/-- The two registers of a window entry, current or staged; none where the set or index does not exist. -/
def windowEntry (set index : Nat) (staged : Bool) : Option (Nat × Option Nat) :=
  let d := if staged then 0xB000000 else 0
  if set = 0 ∧ index < 64 then some (HPT_WIN_CFG index + d, some (HPT_WIN_TGT index + d))
  else if set = 1 ∧ index < 16 then some (ENG_HWIN_LO index + d, some (ENG_HWIN_HI index + d))
  else if set = 2 ∧ index < 64 then some (FAB_RWIN index + d, none)
  else none

/-- A write to a register by access code, reserved bits dropped. -/
def State.putReg (s : State) (a : Nat) (v : Word) : State := s.writeByCode a v 0xFFFFFFFF#32

/-- WIN_STAGE call slip. -/
def execWinStage (h : SlipHdr) (set index : Byte) (w0 w1 : Word) (s : State) : Result :=
  .next (s.runSlip h 0x0701 .none (fun s =>
    match if set.toNat < 2 then windowEntry set.toNat index.toNat true else none with
    | some (a, some b) => ((s.putReg a w0).putReg b w1, okAns)
    | _ => refuse s stValueRange))

/-- WIN_READ call slip. -/
def execWinRead (h : SlipHdr) (set index view : Byte) (s : State) : Result :=
  .next (s.runSlip h 0x0704 .none (fun s =>
    match if view.toNat < 2 then windowEntry set.toNat index.toNat (view == 1#8) else none with
    | some (a, some b) => (s, .done stOk (s.words [a, b]))
    | some (a, none) => (s, .done stOk (s.words [a] ++ leBytes 4 0))
    | none => refuse s stValueRange))

/-- HOST_INFO call slip. -/
def execHostInfo (h : SlipHdr) (s : State) : Result :=
  .next (s.runSlip h 0x0700 .none (fun s =>
    (s, .done stOk (leBytes 4 s.hptStatus.toNat ++ leBytes 4 s.hptTags.toNat ++ s.words [HPT_WINCOUNT]))))

/-- HOST_COUNTERS call slip. -/
def execHostCounters (h : SlipHdr) (s : State) : Result :=
  .next (s.runSlip h 0x0705 .none (fun s =>
    (s, .done stOk (s.words [HPT_UNEXPCPL, HPT_CPLTOCNT, HPT_URCNT, HPT_CACNT, HPT_CORRCNT]))))

/-! ## Link states -/

/-- The host port places lane `n` into service, equalised: READY, with the coefficients it has set and the values the receiver
has reached, which are free (R281, R291, R302). -/
def State.hostLaneUp (s : State) (n : Nat) : State :=
  let r := (s.laneTo n lnReady).takeFree
  r.2.wr (laneBase n + 0x08) (r.1 &&& 0xFFEF#32)

/-- The host port takes its lanes out of service (R281, R302). -/
def State.hostLanesDown (s : State) : State :=
  s.each (List.range 16) (fun n t => if t.laneState n = lnReady then t.laneTo n lnDisabled else t)

/-- HOST_LINK_UP: the host link completes training (R382), and its lanes are in service (R281). -/
def execHostLinkUp (rate : Fin 6) (width : Fin 5) (flit : Bool) (s : State) : Result :=
  .next (if s.on HPT_STATUS.Perst || s.on HPT_STATUS.LinkUp then s
    else
      let fm := flit || rate.val == 5
      let t := ((((s.setF HPT_STATUS.LinkUp 1).setF HPT_STATUS.Rate rate.val).setF HPT_STATUS.Width (2 ^ width.val)).setB
        HPT_STATUS.FlitMode fm).setF HPT_STATUS.LinkPower 0
      let t := t.each (List.range (2 ^ width.val)) (fun n x => x.hostLaneUp n)
      (t.logEvent 0x0702 1 [BitVec.ofNat 8 rate.val, BitVec.ofNat 8 (2 ^ width.val), BitVec.ofNat 8 fm.toNat]).raise
        HPT_IRQ_STATUS.LinkUp |>.intxUpdate)

/-- CFG_READY: the link is up, option loading and the ROM check have ended (R414). -/
def execCfgReady (s : State) : Result :=
  .next (if s.on HPT_STATUS.LinkUp ∧ !s.on HPT_STATUS.CfgReady ∧ 2 ≤ s.fld RST_STATUS.BootState then
      (s.setF HPT_STATUS.CfgReady 1).logEvent 0x0706 0 (leBytes 2 (min 0xFFFF s.host.perstTicks))
    else s)

/-- The link goes on into L1.1 or L1.2 (R410). -/
def State.l1Substate (s : State) : Bool := s.on CFG_L1SSCTL1.AspmL11 || s.l12Open

/-- L1_ENTRY: L1Idle ticks without traffic, with nothing queued or outstanding (R410). -/
def execL1Entry (s : State) : Result :=
  .next (if s.on HPT_STATUS.LinkUp ∧ s.fld HPT_STATUS.LinkPower ≤ 1 ∧ (s.fld CFG_LNKCTL.Aspm = 2 ∨ s.fld CFG_LNKCTL.Aspm = 3) ∧
      s.host.waiting.isEmpty ∧ s.host.outstanding.isEmpty then
      s.setF HPT_STATUS.LinkPower (if s.l1Substate then 3 else 2)
    else s)

/-- L0S_ENTRY: 2 µs with nothing to send, in non-Flit Mode (R410). -/
def execL0sEntry (s : State) : Result :=
  .next (if s.on HPT_STATUS.LinkUp ∧ s.fld HPT_STATUS.LinkPower = 0 ∧ !s.on HPT_STATUS.FlitMode ∧
      (s.fld CFG_LNKCTL.Aspm = 1 ∨ s.fld CFG_LNKCTL.Aspm = 3) ∧ s.host.waiting.isEmpty then
      s.setF HPT_STATUS.LinkPower 1
    else s)

/-- L0_REACHED: the exit to L0 completes and the waiting TLPs are sent in order (R410, R430). -/
def execL0Reached (s : State) : Result :=
  .next (if s.on HPT_STATUS.LinkUp then
      let t := s.setF HPT_STATUS.LinkPower 0
      { t with host := { t.host with sent := t.host.sent ++ t.host.waiting, waiting := [] } }
    else s)

/-! ## Tags (R403, R405) -/

/-- A tag that is neither outstanding nor quarantined, within the usable range. -/
def State.freeTag (s : State) : Option Nat :=
  let base := if s.on CFG_DEVCTL2.Tag10ReqEn then 0x100 else 0
  if s.tagLimit ≤ s.host.outstanding.length + s.host.quarantine.length then none
  else ((List.range (s.host.outstanding.length + s.host.quarantine.length + 1)).map (· + base)).find? (fun t =>
    !s.host.outstanding.any (fun o => o.tag == t) && !s.host.quarantine.contains t)

/-- The bytes of the 64 KB completion buffer in use (R403). -/
def State.bufferUsed (s : State) : Nat := (s.host.outstanding.map (·.len)).sum

/-- The movers that have reads to issue. -/
def State.readers (s : State) : List Nat :=
  (s.dma.movers.filter (fun m => m.2.pieces.any (fun p => !p.issued))).map (·.1)

/-- The requesters that wait to issue a request: movers 0 to 30, and the host aperture as 31 (R402). -/
def State.hostAsking (s : State) : List Nat := s.readers ++ (if s.host.aperture.isEmpty then [] else [31])

/-- An access of the host aperture may issue as it comes: none of the aperture waits before it, and R9 grants it (R402, R403). -/
def State.apertureOpen (s : State) : Bool := s.host.aperture.isEmpty && arbPick s.host.grants (31 :: s.readers) == some 31

/-- An access of core `e` joins those of the aperture that wait for a tag. -/
def State.apertureWait (s : State) (e : Nat) (store : Bool) : State :=
  { s with host := { s.host with aperture := s.host.aperture ++ [(e, store)] } }

/-- A requester's index at the arbiter of R402. -/
def Requester.index : Requester → Nat
  | .mover m => m
  | .slipFetch _ _ => 33
  | _ => 31

/-- The tags and the buffer bytes of mover 31's requests. -/
def State.slipTags (s : State) : Nat × Nat :=
  let xs := s.host.outstanding.filter (fun o => match o.requester with
    | .slipFetch _ _ => true
    | _ => false)
  (xs.length, (xs.map (·.len)).sum)

/-- A non-posted read is issued when a tag and buffer space are free (R403); mover 31 holds 8 tags and 4 KB in reserve, less
what it has in use. -/
def State.issueRead (s : State) (r : Requester) (addr len : Nat) (pasid : Option Nat) : Option State :=
  let m31 := match r with
    | .slipFetch _ _ => true
    | _ => false
  let tagsHeld := s.host.outstanding.length + s.host.quarantine.length
  if !s.canRequest then none
  else if !m31 ∧ (s.tagLimit ≤ tagsHeld + (8 - s.slipTags.1) ∨ 0x10000 < s.bufferUsed + len + (0x1000 - s.slipTags.2)) then none
  else if 0x10000 < s.bufferUsed + len then none
  else match s.freeTag with
    | none => none
    | some t =>
      let o : Outstanding := ⟨t, r, addr, len, false⟩
      let u : State := { s with host := { s.host with
        outstanding := s.host.outstanding ++ [o], grants := arbNote s.host.grants r.index } }
      some (u.sendTlp (.memRead t addr len pasid))

/-- TAG_QUARANTINE_END: a quarantined tag is freed (R405). -/
def execTagQuarantineEnd (tag : BitVec 10) (s : State) : Result :=
  .next { s with host := { s.host with quarantine := s.host.quarantine.erase tag.toNat } }

end Sys2Proof.Machine
end

