-- ==== Sys2Proof/Machine/Cmd.lean ====
section
/-! DEFINITION. Machine/Cmd.lean: the command channel's paths (R485 to R499) and the identity commands (R503).  The
execution of queued slips is in SlipExec.lean. -/

namespace Sys2Proof.Machine

/-! ## The queue (R485) -/

/-- The path's enable in CMD_CTRL. -/
def State.pathEnabled (s : State) (p : SlipPath) : Bool :=
  match p with
  | .host => s.on CMD_CTRL.RingEn
  | .console => s.on CMD_CTRL.ConsoleEn
  | .fabric _ => s.on CMD_CTRL.FabricEn

/-- The queue entries that mover 31's outstanding read will fill (R491). -/
def State.slipsComing (s : State) : Nat :=
  (s.host.outstanding.map (fun o => match o.requester with
    | .slipFetch _ n => if o.abandoned then 0 else n
    | _ => 0)).sum

/-- The queue is full for a path: 64 slips are queued; entries of a read under way are the host ring's (R485, R491). -/
def State.queueFull (s : State) (p : SlipPath) : Bool :=
  decide (64 ≤ s.cmd.queue.length + if p = .host then 0 else s.slipsComing)

/-- Recovery accepts nothing from path `p`: it takes slips from the host ring and the console alone (R543). -/
def State.recoveryBars (s : State) (p : SlipPath) : Bool :=
  s.fld RST_STATUS.BootState == 3 && match p with
    | .fabric _ => true
    | _ => false

/-- A call slip arrives on a path: dropped if the path is disabled, or not one of recovery's, answered QUEUE_FULL if 64 are queued
(R485, R543). -/
def State.queueSlip (s : State) (p : SlipPath) (bs : List Byte) : State :=
  if !s.pathEnabled p then s.inc CMD_PATHDROP
  else if s.recoveryBars p then s
  else if s.queueFull p then
    (s.raise CMD_IRQ_STATUS.QueueFull).sendReturn p
      (mkReturn (BitVec.ofNat 16 (bytesAt bs 0 2)) (BitVec.ofNat 16 (bytesAt bs 2 2)) stQueueFull [])
  else { s with cmd := { s.cmd with queue := s.cmd.queue ++ [⟨bs, p⟩] } }

/-! ## Host path (R490 to R493) -/

/-- Mover 31 fetches the next command-ring slips: at most 512 bytes and Max_Read_Request_Size, contiguous in the ring and within
4 KB, as many as the queue has room for (R383, R491).  No slip is fetched while deep-sleep entry is under way (R524). -/
def State.fetchSlips (s : State) : State :=
  let size := 2 ^ s.fld CMD_CQ_SIZE.SizeLog
  let head := s.fld CMD_CQ_HEAD.Index
  let tail := s.fld CMD_DOORBELL.Index
  let busy := s.host.outstanding.any (fun o => match o.requester with
    | .slipFetch _ _ => !o.abandoned
    | _ => false)
  let run := if head ≤ tail then tail - head else size - head
  let n := min (min run (64 - s.cmd.queue.length)) (min (min 8 (s.mrrs / 64)) (64 - head % 64))
  if !s.on CMD_CTRL.RingEn || s.cmd.fetchStopped || busy || n == 0 || s.on PWR_STATUS.Entering then s
  else (s.issueRead (.slipFetch head n) (s.rd64 CMD_CQ_BASE_LO CMD_CQ_BASE_HI + 64 * head) (64 * n) none).getD s

/-- A write of CMD_DOORBELL: Tail modulo the ring size, then fetching starts (R491); a ring not in use is not fetched, and counted
(R485). -/
def State.cmdDoorbell (s : State) (v : Nat) : State :=
  let t := s.setF CMD_DOORBELL.Index (v % 4096 % 2 ^ s.fld CMD_CQ_SIZE.SizeLog)
  if t.on CMD_CTRL.RingEn then t.fetchSlips else t.inc CMD_PATHDROP

/-- CMD_DOORBELL_WRITE. -/
def execCmdDoorbellWrite (v : BitVec 12) (s : State) : Result := .next (s.cmdDoorbell v.toNat)

/-- `n` slips of 64 bytes cut from the data of a read. -/
def cutSlips : Nat → List Byte → List (List Byte)
  | 0, _ => []
  | n + 1, bs => padTo 64 (bs.take 64) :: cutSlips n (bs.drop 64)

/-- A command-ring read of `n` slips completes: they enter the queue, Head advances past them (R491). -/
def State.slipsFetched (s : State) (o : Outstanding) (n : Nat) (data : List Byte) : State :=
  let t := { s with host := { s.host with outstanding := s.host.outstanding.erase o } }
  if o.abandoned then t
  else if !t.on CMD_CTRL.RingEn then t.incBy CMD_PATHDROP n
  else
    let u := t.each (cutSlips n data) (fun bs t => t.queueSlip .host bs)
    (u.setF CMD_CQ_HEAD.Index ((u.fld CMD_CQ_HEAD.Index + n) % 2 ^ u.fld CMD_CQ_SIZE.SizeLog)).fetchSlips

/-- A command-ring read fails (R493): 0 UR, 1 CA, 2 poison, 3 timeout. -/
def State.fetchFailed (s : State) (o : Outstanding) (code : Nat) : State :=
  let r := { s with host := { s.host with outstanding := s.host.outstanding.erase o } }
  let t := { r with cmd := { s.cmd with fetchStopped := true } }
  if o.abandoned then r
  else ((t.setF CMD_STATUS.FetchError 1).raise CMD_IRQ_STATUS.FetchError).logEvent 0x0A04 0
    (leBytes 2 (t.fld CMD_CQ_HEAD.Index) ++ leBytes 1 code)

/-- SLIP_FETCHED: the oldest command-ring read completes. -/
def execSlipFetched (data : List Byte) (s : State) : Result :=
  .next (match s.host.outstanding.find? (fun o => match o.requester with
      | .slipFetch _ _ => true
      | _ => false) with
    | some o =>
      match o.requester with
      | .slipFetch _ n => s.slipsFetched o n data
      | _ => s
    | none => s)

/-- A write of CMD_CTRL.RingEn (R490, R493): a 1 sets the four indices to 0, clears FetchError and, after a 0, restarts
fetching; held return slips are then written in order. -/
def State.writeRingEn (s : State) (en : Bool) : State :=
  if !en then s.setF CMD_CTRL.RingEn 0
  else
    let was := s.on CMD_CTRL.RingEn
    let t := ((((s.setF CMD_CTRL.RingEn 1).setF CMD_CQ_HEAD.Index 0).setF CMD_DOORBELL.Index 0).setF CMD_RQ_TAIL.Index
      0).setF CMD_RQ_HEAD.Index 0
    let os := t.host.outstanding.map (fun o => match o.requester with
      | .slipFetch _ _ => { o with abandoned := true }
      | _ => o)
    let u := { (t.setF CMD_STATUS.FetchError 0) with
      host := { t.host with outstanding := os },
      cmd := { t.cmd with fetchStopped := if was then t.cmd.fetchStopped else false } }
    (State.replyFlush u.cmd.hold.length u).intxUpdate

/-- RING_EN_WRITE. -/
def execRingEnWrite (en : Bool) (s : State) : Result := .next (s.writeRingEn en)

/-- CMD_RQ_HEAD_WRITE: reply slots are freed and held return slips written (R492). -/
def execCmdRqHeadWrite (v : BitVec 12) (s : State) : Result :=
  let t := s.setF CMD_RQ_HEAD.Index (v.toNat % s.replySlots)
  .next (State.replyFlush t.cmd.hold.length t).intxUpdate

/-- HOLD_TIMEOUT: the oldest held return slip is discarded and logged, CMD_HOLDTO ms after the host-port reset has ended (R15,
R493). -/
def execHoldTimeout (s : State) : Result :=
  .next (match s.cmd.hold with
    | [] => s
    | r :: rest =>
      if s.replyUsable || s.on HPT_STATUS.Perst || s.on HPT_STATUS.FlrActive then s
      else { s with cmd := { s.cmd with hold := rest } }.logEvent 0x0A01 0 (leBytes 2 r.opcode.toNat ++ leBytes 2 r.seq.toNat))

/-! ## Console path (R494) -/

/-- A format failure: CMD_FMTERR and its flag. -/
def State.formatError (s : State) : State := (s.inc CMD_FMTERR).raise CMD_IRQ_STATUS.FormatError

/-- The Crc of a call slip is correct (R479). -/
def slipCrcOk (bs : List Byte) : Bool := (crc32c (bs.take 60)).toNat == bytesAt bs 60 4

/-- The frame receiver works through the bytes it holds: it drops what cannot begin a frame, queues a whole frame with a
correct Crc, and resumes after the 0x7E of one with a bad Crc (R494). -/
def State.scanFrame : Nat → State → State
  | 0, s => s
  | n + 1, s =>
    let bs := s.mnt.frame
    let drop : State := { s with mnt := { s.mnt with frame := bs.drop 1 } }
    match bs with
    | [] => s
    | b0 :: rest =>
      if b0 ≠ 0x7E#8 then State.scanFrame n drop
      else match rest with
        | [] => s
        | b1 :: slip =>
          if b1 ≠ 0x81#8 then State.scanFrame n drop
          else if slip.length < 64 then s
          else if slipCrcOk (slip.take 64) then
            State.scanFrame n ({ s with mnt := { s.mnt with frame := slip.drop 64 } }.queueSlip .console (slip.take 64))
          else State.scanFrame n drop.formatError

/-- The console runs: firmware or recovery (R550). -/
def State.consoleRuns (s : State) : Bool := s.curatorUp || s.fld RST_STATUS.BootState == 3

/-- CALL_FRAME: in framed mode a collected call frame is queued, or abandoned on a bad Crc and searched for another. -/
def execCallFrame (slip : List Byte) (s : State) : Result :=
  let bs := [0x7E#8, 0x81#8] ++ padTo 64 slip
  .next (if !s.on MNT_STATUS.ConsoleMode || !s.consoleRuns then s
    else State.scanFrame (bs.length + 1) { s with mnt := { s.mnt with frame := bs } })

/-- FRAME_GAP_TIMEOUT: more than 10 ticks between two bytes abandon the frame being collected. -/
def execFrameGapTimeout (s : State) : Result := .next { s with mnt := { s.mnt with frame := [] } }

/-! ## Fabric path (R496 to R499) -/

/-- SLIP_CALL: a SLIP flit's call slip is queued with the fabric as its path (R498). -/
def execSlipCall (sender : BitVec 10) (slip : List Byte) (s : State) : Result :=
  .next ((s.popInbox ftSlip).queueSlip (.fabric sender) (padTo 64 slip))

/-- The return slip spelled by 32 bytes. -/
def parseReturn (bs : List Byte) : ReturnSlip :=
  ⟨BitVec.ofNat 16 (bytesAt bs 0 2), BitVec.ofNat 16 (bytesAt bs 2 2), BitVec.ofNat 16 (bytesAt bs 4 2),
   BitVec.ofNat 8 (bytesAt bs 6 1), (bs.drop 8).take (min 20 (bytesAt bs 7 1))⟩

/-- SLIP_RETURN: passed back on the oldest matching relay entry's path; the final one frees the entry, ACCEPTED restarts
its timer; a late one is counted (R499). -/
def execSlipReturn (sender : BitVec 10) (slip : List Byte) (s0 : State) : Result :=
  let s := s0.popInbox ftSlip
  let r := parseReturn (padTo 32 slip)
  .next (match s.cmd.relays.find? (fun e => e.target == sender && e.seq == r.seq) with
    | none => s.inc CMD_LATEREPLY
    | some e =>
      let relays := if r.flags.getLsbD 0 then s.cmd.relays.erase e
        else s.cmd.relays.map (fun x => if x = e then { x with accepted := true } else x)
      { s with cmd := { s.cmd with relays := relays } }.sendReturn e.path r)

/-- RELAY_TIMEOUT: a relay entry without a return slip ends with REPLY_TIMEOUT, Relayed set (R499). -/
def execRelayTimeout (target : BitVec 10) (seq : BitVec 16) (s : State) : Result :=
  .next (match s.cmd.relays.find? (fun e => e.target == target && e.seq == seq) with
    | none => s
    | some e =>
      let t := { s with cmd := { s.cmd with relays := s.cmd.relays.erase e } }
      let u := ((t.inc CMD_RELAYTOCNT).raise CMD_IRQ_STATUS.RelayTimeout).logEvent 0x0A05 target.toNat
        (leBytes 2 e.opcode.toNat ++ leBytes 2 e.seq.toNat ++ leBytes 1 e.accepted.toNat)
      u.sendReturn e.path { mkReturn e.opcode e.seq stReplyTimeout [] with flags := 5#8 })

/-! ## Identity and information (R503) -/

/-- DEV_INFO. -/
def execDevInfo (h : SlipHdr) (s : State) : Result :=
  .next (s.runSlip h 0x0000 .none (fun s =>
    (s, .done stOk (s.words [DEV_IDENT, DEV_SUBSYS] ++ leBytes 2 s.nodeId ++ leBytes 1 (s.fld DEV_BAR4.Bar4Log) ++
      leBytes 1 (s.fld FAB_STATUS.Member + 2 * s.fld FLT_STATUS.CuratorSolo + 4 * s.fld HPT_STATUS.LinkUp) ++
      s.words [RST_FWVER]))))

/-- DEV_SERIAL. -/
def execDevSerial (h : SlipHdr) (s : State) : Result :=
  .next (s.runSlip h 0x0001 .none (fun s => (s, .done stOk (s.words [DEV_SERIAL_LO, DEV_SERIAL_HI]))))

/-- FW_INFO: version, build, slot, flags and the manifest digest's first 12 bytes. -/
def execFwInfo (h : SlipHdr) (s : State) : Result :=
  .next (s.runSlip h 0x0002 .none (fun s =>
    (s, .done stOk (s.words [RST_FWVER] ++ leBytes 2 s.boot.build.toNat ++ leBytes 1 (s.fld RST_STATUS.BootSlot) ++
      leBytes 1 (s.boot.verified.toNat + 2 * s.fld RST_STATUS.DebugUnlocked) ++ padTo 12 s.boot.digest))))

/-- ECHO. -/
def execEcho (h : SlipHdr) (bytes : List Byte) (s : State) : Result :=
  .next (s.runSlip h 0x0003 .none (fun s => (s, .done stOk (bytes.take 20))))

/-- CMD_INFO; it counts itself in the last Sequence and in CMD_EXEC. -/
def execCmdInfo (h : SlipHdr) (s : State) : Result :=
  .next (s.runSlip h 0x0004 .none (fun s =>
    (s, .done stOk (leBytes 2 s.cmd.queue.length ++ leBytes 2 h.seq.toNat ++
      leBytes 4 (satInc 0xFFFFFFFF (s.rd CMD_EXEC).toNat) ++ s.words [CMD_FMTERR] ++
      leBytes 1 s.cmd.background.length ++ leBytes 1 s.cmd.relays.length ++ leBytes 1 (s.rd CMD_CTRL).toNat))))

/-- CMD_CONFIG: VALUE_RANGE when it would clear the enable of its own path, or for a timer out of range. -/
def execCmdConfig (h : SlipHdr) (consoleEn fabricEn : Bool) (relayTo holdTo : Word) (s : State) : Result :=
  .next (s.runSlip h 0x0005 .none (fun s =>
    let own := match h.path with
      | .host => true
      | .console => consoleEn
      | .fabric _ => fabricEn
    if !own ∨ relayTo.toNat < 10 ∨ 1000000 < relayTo.toNat ∨ holdTo.toNat < 1 ∨ 65535 < holdTo.toNat then refuse s stValueRange
    else ((((s.setB CMD_CTRL.ConsoleEn consoleEn).setB CMD_CTRL.FabricEn fabricEn).setF CMD_RELAYTO.Ticks relayTo.toNat).setF
      CMD_HOLDTO.Ms holdTo.toNat, okAns)))

/-- CMD_STATUS as a read returns it (R513). -/
def State.cmdStatus (s : State) : Word :=
  BitVec.ofNat 32 (s.cmd.queue.length + 2 ^ 8 * s.cmd.background.length + 2 ^ 12 * s.cmd.relays.length +
    2 ^ 19 * min 64 s.cmd.hold.length + 2 ^ 26 * s.fld CMD_STATUS.FetchError +
    2 ^ 27 * (s.on CMD_CTRL.RingEn && s.replyFull).toNat)

end Sys2Proof.Machine
end

