-- ==== Sys2Proof/Machine/Stacks.lean ====
section
/-! DEFINITION. Machine/Stacks.lean: Stacks memory (R188 to R216): banks and their states, ECC and poison, access
controls, scrubbing, seals, spill regions. -/

namespace Sys2Proof.Machine

/-! ## Bytes and banks -/

/-- The byte at a Stacks offset. -/
def State.stkByte (s : State) (o : Nat) : Byte := tget (fun _ => 0#8) s.stk.mem o

/-- `n` bytes from a Stacks offset, without any effect. -/
def State.stkBytes (s : State) (o n : Nat) : List Byte := (List.range n).map (fun i => s.stkByte (o + i))

/-- A byte stored at a Stacks offset. -/
def State.stkSetByte (s : State) (o : Nat) (b : Byte) : State :=
  { s with stk := { s.stk with mem := tset (fun _ => 0#8) s.stk.mem o b } }

/-- Bytes stored from a Stacks offset on. -/
def State.stkSetBytes : State → Nat → List Byte → State
  | s, _, [] => s
  | s, o, b :: r => State.stkSetBytes (s.stkSetByte o b) (o + 1) r

/-- The size of a bank. -/
abbrev bankSize : Nat := 0x100000

/-- The end of Stacks. -/
abbrev stkEnd : Nat := 96 * bankSize

/-- The key of STK_BANK(b). -/
def bankReg (b : Nat) : Nat := if b < 2 then STK_BANK01 b else STK_BANK_HI (b - 2)

/-- STK_BANK(b).State. -/
def bankStateF (b : Nat) : Fld := ⟨bankReg b, 2, 0⟩

/-- STK_BANK(b).CorrCount. -/
def bankCorrF (b : Nat) : Fld := ⟨bankReg b, 15, 8⟩

/-- The bank states of R203. -/
abbrev bkOn : Nat := 0
abbrev bkClearing : Nat := 1
abbrev bkOff : Nat := 2
abbrev bkSealing : Nat := 3
abbrev bkRetained : Nat := 4
abbrev bkChecking : Nat := 5
abbrev bkUnsealed : Nat := 6

/-- The state of bank `b`. -/
def State.bankState (s : State) (b : Nat) : Nat := s.fld (bankStateF b)

/-- The requesters of R190 beyond the bay ports. -/
abbrev rqIngress : Nat := 64
abbrev rqEgress : Nat := 65
abbrev rqMover : Nat := 66
abbrev rqFabric : Nat := 67
abbrev rqHost : Nat := 68
abbrev rqSpill : Nat := 69
abbrev rqCurator : Nat := 70
abbrev rqPool : Nat := 71
abbrev rqScrub : Nat := 72
abbrev rqSeal : Nat := 73

/-- Does the access control of bank `b` admit requester `r` (R192, R202)? -/
def State.admits (s : State) (r b : Nat) : Bool :=
  if b < 2 then decide (69 ≤ r)
  else match r with
    | 66 => s.on ⟨bankReg b, 4, 4⟩
    | 67 => s.on ⟨bankReg b, 5, 5⟩
    | 68 => s.on ⟨bankReg b, 6, 6⟩
    | _ => true

/-- What becomes of an access (R202, R203). -/
inductive Verdict | perform | wait | poison | refused | denied | discarded
deriving DecidableEq, Repr

/-- STACKS_MARCH holds bank `b`: other requesters wait (R564). -/
def State.marched (s : State) (b : Nat) : Bool :=
  s.cmd.background.any (fun g => g.unit == .bank b && match g.cmd with
    | .bist t _ _ => t == 4
    | _ => false)

/-- STACKS_ECC holds the last line of a bank, and writes of STK_INJECT are ignored while it runs (R564). -/
def State.eccTested (s : State) (hit : BusyUnit → Bool) : Bool :=
  s.cmd.background.any (fun g => hit g.unit && match g.cmd with
    | .bist t _ _ => t == 3
    | _ => false)

/-- An access of `n` bytes at `o` reaches a line that STACKS_ECC holds (R564). -/
def State.lineTested (s : State) (o n : Nat) : Bool :=
  s.eccTested (fun u => match u with
    | .bank b => decide ((b + 1) * bankSize - 64 < o + max n 1) && decide (o < (b + 1) * bankSize)
    | _ => false)

/-- While PFAIL_N's sealing runs, only requesters 69 to 73 are granted at a bank that is still ON (R213). -/
def State.sealHold (s : State) (r : Nat) : Bool :=
  s.rst.pfail && (s.rst.stage == .sealing || s.rst.stage == .sealingLow) && decide (r < 69)

/-- The verdict on one bank. -/
def State.bankVerdict (s : State) (r b : Nat) (write : Bool) : Verdict :=
  if 96 ≤ b then .denied
  else if !s.admits r b then .denied
  else match s.bankState b with
    | 0 => if s.marched b || s.sealHold r then .wait else .perform
    | 1 => .wait
    | 5 => .wait
    | 3 => .refused
    | 4 => .refused
    | _ => if write then .discarded else .poison

/-- The banks an access of `n` bytes touches. -/
def banksOf (o n : Nat) : List Nat :=
  (List.range ((o + max n 1 - 1) / bankSize - o / bankSize + 1)).map (· + o / bankSize)

/-- The verdict on an access: that of the first bank it touches that does not perform it. -/
def State.verdict (s : State) (r o n : Nat) (write : Bool) : Verdict :=
  let v := ((banksOf o n).map (fun b => s.bankVerdict r b write)).foldl (fun a v => if a = .perform then v else a) Verdict.perform
  if v = .perform ∧ s.lineTested o n then .wait else v

/-- The counters and flags of an access that is not performed (R202, R203). -/
def State.countVerdict (s : State) (v : Verdict) : State :=
  match v with
  | .perform => s
  | .wait => s
  | .denied => (s.inc STK_DENIED).raise STK_IRQ_STATUS.Denied
  | .poison => (s.inc STK_DENIED).raise STK_IRQ_STATUS.Denied
  | .refused => s.inc STK_DENIED
  | .discarded => s.inc STK_DENIED

/-! ## ECC (R196 to R200) -/

/-- The ECC status of a word. -/
def State.wordEcc (s : State) (w : Nat) : Nat := tget (fun _ => 0) s.stk.ecc w

/-- The ECC status of a word set. -/
def State.setEcc (s : State) (w v : Nat) : State := { s with stk := { s.stk with ecc := tset (fun _ => 0) s.stk.ecc w v } }

/-- A single-bit error is corrected and counted (R196). -/
def State.countCorrected (s : State) (w : Nat) : State := (s.inc STK_CORR).incF (bankCorrF (8 * w / bankSize))

/-- A bad word is read (R198): counted, its offset recorded, and one entry written for it. -/
def State.reportBad (s : State) (w : Nat) : State :=
  let p := s.wordEcc w == 3
  let t := s.inc (if p then STK_POISONRD else STK_UNCOR)
  let u := (((t.setF STK_ERR_ADDR.Valid 1).setB STK_ERR_ADDR.Poison p).setF STK_ERR_ADDR.Offset w).raise
    STK_IRQ_STATUS.Uncorrectable
  if u.stk.reported.contains w then u
  else
    { u with stk := { u.stk with reported := u.stk.reported ++ [w] } }.logEvent 0x0401 (8 * w / bankSize)
      (leBytes 4 (8 * w) ++ leBytes 1 p.toNat)

/-- The effect of reading word `w` (R196, R198). -/
def State.readWord (s : State) (w : Nat) : State :=
  match s.wordEcc w with
  | 0 => s
  | 1 =>
    let t := s.countCorrected w
    if t.stk.writeback.contains w then t else { t with stk := { t.stk with writeback := t.stk.writeback ++ [w] } }
  | _ => s.reportBad w

/-- The words that `n` bytes from offset `o` touch. -/
def wordsOf (o n : Nat) : List Nat :=
  if n = 0 then [] else (List.range ((o + n - 1) / 8 - o / 8 + 1)).map (· + o / 8)

/-- What a Stacks read gives its reader. -/
inductive StkData
  | data (bytes : List Byte)
  | poison
  | error
  | wait
deriving DecidableEq, Repr

/-- The grant history of a bank. -/
def State.bankGrants (s : State) (b : Nat) : List Nat := tget (fun _ => []) s.stk.grants b

/-- A grant noted. -/
def State.noteGrant (s : State) (b r : Nat) : State :=
  { s with stk := { s.stk with grants := tset (fun _ => []) s.stk.grants b (arbNote (s.bankGrants b) r) } }

/-- The line accesses that `n` bytes from offset `o` are split into (R189): offset and length. -/
def linesOf (o n : Nat) : List (Nat × Nat) :=
  (List.range ((o + max n 1 - 1) / 64 - o / 64 + 1)).map (fun i =>
    (max o (64 * (o / 64 + i)), min (o + n) (64 * (o / 64 + i + 1)) - max o (64 * (o / 64 + i))))

/-- A read within one line by requester `r`, granted by the bank's arbiter (R190, R196 to R203). -/
def State.readLine (s : State) (r o n : Nat) : State × StkData :=
  match s.verdict r o n false with
  | .wait => (s, .wait)
  | v =>
    let t := s.noteGrant (o / bankSize) r
    match v with
    | .perform =>
      let bad := (wordsOf o n).any (fun w => 2 ≤ s.wordEcc w)
      (t.each (wordsOf o n) (fun w t => t.readWord w), if bad then .poison else .data (s.stkBytes o n))
    | .poison => (t.countVerdict .poison, .poison)
    | v => (t.countVerdict v, .error)

/-- What the line accesses of one read give its reader together: an error response before poison, poison before data. -/
def StkData.join : StkData → StkData → StkData
  | .data a, .data b => .data (a ++ b)
  | .wait, _ => .wait
  | _, .wait => .wait
  | .error, _ => .error
  | _, .error => .error
  | _, _ => .poison

/-- A read of `n` bytes by requester `r`, split into line accesses (R189, R196 to R203); it waits as a whole while one of
its banks makes it wait. -/
def State.stkRead (s : State) (r o n : Nat) : State × StkData :=
  if (linesOf o n).any (fun l => s.verdict r l.1 l.2 false == .wait) then (s, .wait)
  else (linesOf o n).foldl (fun a l => let x := a.1.readLine r l.1 l.2; (x.1, a.2.join x.2)) (s, .data [])

/-- The new ECC status of word `w` after a write (R197): fresh for a whole word, poison when the data is poisoned or a
partial write merges into a bad word. -/
def State.writeWordEcc (s : State) (o : Nat) (data : List (Option Byte)) (poison : Bool) (w : Nat) : State :=
  let touched := (List.range 8).filter (fun i =>
    let a := 8 * w + i
    decide (o ≤ a) && decide (a < o + data.length) && ((data[a - o]?).getD none).isSome)
  if touched.isEmpty then s
  else
    let e := s.wordEcc w
    let v := if poison then 3 else if touched.length = 8 then 0 else if 2 ≤ e then 3 else 0
    let t := if e = 1 ∧ touched.length < 8 then s.countCorrected w else s
    let u := t.setEcc w v
    { u with stk := { u.stk with reported := u.stk.reported.erase w, writeback := u.stk.writeback.erase w } }

/-- Bit `i` of word `w` inverted, where it is a data bit (bits 0 to 63 of the codeword). -/
def State.flipBit (s : State) (w i : Nat) : State :=
  if i < 64 then s.stkSetByte (8 * w + i / 8) (s.stkByte (8 * w + i / 8) ^^^ BitVec.ofNat 8 (2 ^ (i % 8))) else s

/-- STK_INJECT corrupts the covered word of a write and clears Armed (R200). -/
def State.applyInject (s : State) (w : Nat) : State :=
  let a := s.fld STK_INJECT.BitA
  let b := s.fld STK_INJECT.BitB
  let t := s.setF STK_INJECT.Armed 0
  if t.wordEcc w = 3 then t
  else if s.on STK_INJECT.Double ∧ a ≠ b then ((t.flipBit w a).flipBit w b).setEcc w 2
  else t.setEcc w 1

/-- Does a write from offset `o` cover word `w`, wholly or in part? -/
def writeCovers (o : Nat) (data : List (Option Byte)) (w : Nat) : Bool :=
  (List.range 8).any (fun i => decide (o ≤ 8 * w + i) && ((data[8 * w + i - o]?).getD none).isSome)

/-- The word of a write that an armed injection corrupts: one that the write covers wholly or in part (R200). -/
def State.injectWord (s : State) (o : Nat) (data : List (Option Byte)) : Option Nat :=
  if !s.on STK_INJECT.Armed then none
  else (wordsOf o data.length).find? (fun w =>
    8 * w / bankSize == s.fld STK_INJECT.Bank && w % 8 == s.fld STK_INJECT.Word && writeCovers o data w)

/-- The bytes of a write whose enables are set. -/
def State.storeBytes : State → Nat → List (Option Byte) → State
  | s, _, [] => s
  | s, o, none :: r => State.storeBytes s (o + 1) r
  | s, o, some b :: r => State.storeBytes (s.stkSetByte o b) (o + 1) r

/-- What becomes of a Stacks write. -/
inductive StkDone | done | discarded | refused | denied | wait
deriving DecidableEq, Repr

/-- A write performed in banks that are ON. -/
def State.performWrite (s : State) (o : Nat) (data : List (Option Byte)) (poison : Bool) : State :=
  let t := s.each (wordsOf o data.length) (fun w t => t.writeWordEcc o data poison w)
  let u := t.storeBytes o data
  match s.injectWord o data with
  | some w => u.applyInject w
  | none => u

/-- A write within one line by requester `r`, granted by the bank's arbiter (R190, R197 to R203). -/
def State.writeLine (s : State) (r o : Nat) (data : List (Option Byte)) (poison : Bool) : State × StkDone :=
  match s.verdict r o data.length true with
  | .wait => (s, .wait)
  | v =>
    let t := s.noteGrant (o / bankSize) r
    match v with
    | .perform => (t.performWrite o data poison, .done)
    | .denied => (t.countVerdict .denied, .denied)
    | .refused => (t.countVerdict .refused, .refused)
    | _ => (t.countVerdict .discarded, .discarded)

/-- What the line accesses of one write come to together: the first that is not performed. -/
def StkDone.join (a b : StkDone) : StkDone := if a = .done then b else a

/-- A write by requester `r`, split into line accesses (R189, R197 to R203); it waits as a whole while one of its banks
makes it wait. -/
def State.stkWrite (s : State) (r o : Nat) (data : List (Option Byte)) (poison : Bool) : State × StkDone :=
  if (linesOf o data.length).any (fun l => s.verdict r l.1 l.2 true == .wait) then (s, .wait)
  else (linesOf o data.length).foldl (fun a l =>
    let x := a.1.writeLine r l.1 ((data.drop (l.1 - o)).take l.2) poison
    (x.1, a.2.join x.2)) (s, .done)

/-- Would a read by requester `r` have to wait at one of its banks (R203)? -/
def State.readWaits (s : State) (r o n : Nat) : Bool := (linesOf o n).any (fun l => s.verdict r l.1 l.2 false == .wait)

/-- A write that must wait joins the waiting accesses as the line accesses it is split into (R189). -/
def State.fileWrite (s : State) (r o : Nat) (data : List Byte) (poison : Bool) : State :=
  { s with stk := { s.stk with waiting := s.stk.waiting ++ (linesOf o data.length).map (fun l =>
      ⟨r, l.1, l.2, some ((data.drop (l.1 - o)).take l.2), poison⟩) } }

/-- A write of whole bytes by requester `r`, not poisoned, line by line; a line that must wait joins its bank's waiting accesses. -/
def State.stkPut (s : State) (r o : Nat) (bytes : List Byte) : State :=
  s.each (linesOf o bytes.length) (fun l t =>
    let part := (bytes.drop (l.1 - o)).take l.2
    match t.writeLine r l.1 (part.map some) false with
    | (u, .wait) => u.fileWrite r l.1 part false
    | (u, _) => u)

/-! ## STACKS_ACCESS and the waiting accesses (R189, R190, R203) -/

/-- An access is performed, or joins the waiting accesses of its bank. -/
def State.access (s : State) (a : StkAccess) : State :=
  match a.data with
  | none =>
    match s.stkRead a.req a.offset a.len with
    | (t, .data d) => { t with stk := { t.stk with reply := some ⟨a.req, a.offset, 0, d⟩ } }
    | (t, .poison) => { t with stk := { t.stk with reply := some ⟨a.req, a.offset, 1, []⟩ } }
    | (t, .error) => { t with stk := { t.stk with reply := some ⟨a.req, a.offset, 2, []⟩ } }
    | (t, .wait) => { t with stk := { t.stk with waiting := t.stk.waiting ++ [a] } }
  | some d =>
    match s.stkWrite a.req a.offset (d.map some) a.poison with
    | (t, .done) => { t with stk := { t.stk with reply := some ⟨a.req, a.offset, 0, []⟩ } }
    | (t, .wait) => { t with stk := { t.stk with waiting := t.stk.waiting ++ [a] } }
    | (t, .refused) => { t with stk := { t.stk with reply := some ⟨a.req, a.offset, 2, []⟩ } }
    | (t, _) => { t with stk := { t.stk with reply := some ⟨a.req, a.offset, 3, []⟩ } }

/-- A request cut to the line it starts in (R189). -/
def StkReq.cut (bank : Nat) (q : StkReq) : StkAccess :=
  let room := 64 - q.offset.val % 64
  ⟨q.req.val, bank * bankSize + q.offset.val, min q.len.val room, q.data.map (·.take room), q.poison⟩

/-- STACKS_ACCESS: of the requests present the bank's arbiter grants one, and its access is performed; at a bank that makes it wait
it waits ungranted (R190, R203). -/
def execStacksAccess (bank : Fin 96) (reqs : List StkReq) (s : State) : Result :=
  .next (match arbPick (s.bankGrants bank) (reqs.map (·.req.val)) with
    | none => s
    | some r =>
      match reqs.find? (fun q => q.req.val == r) with
      | none => s
      | some q => s.access (StkReq.cut bank.val q))

/-- The accesses waiting at bank `b` that need wait no more. -/
def State.readyAt (s : State) (b : Nat) : List StkAccess :=
  s.stk.waiting.filter (fun a => a.offset / bankSize == b && s.verdict a.req a.offset a.len a.data.isSome != .wait)

/-- ECC_WRITEBACK: the corrected word is written back, unless a write to it came between (R196). -/
def execEccWriteback (word : Fin 12582912) (s : State) : Result :=
  .next (if s.stk.writeback.contains word.val then
      { (s.setEcc word.val 0) with stk := { (s.setEcc word.val 0).stk with writeback := s.stk.writeback.erase word.val } }
    else s)

/-- STK_INJECT_ARM: a write of 1 to Armed (R200), ignored while STACKS_ECC runs (R564). -/
def execStkInjectArm (s : State) : Result := .next (if s.eccTested (fun _ => true) then s else s.setF STK_INJECT.Armed 1)

/-! ## Scrubbing (R201) -/

/-- The bad words of a line: the only words a scrub of it acts on. -/
def State.badWords (s : State) (lo hi : Nat) : List Nat :=
  (s.stk.ecc.map (·.1)).filter (fun w => decide (lo ≤ w) && decide (w < hi))

/-- The scrubber reads the next line of bank `b`. -/
def State.scrubBank (s : State) (b : Nat) : State :=
  let l := tget (fun _ => 0) s.stk.scrubLine b
  let w0 := b * 131072 + 8 * l
  let t := s.each (s.badWords w0 (w0 + 8)) (fun w t => t.readWord w)
  let n := (l + 1) % 16384
  let t := t.noteGrant b rqScrub
  { t with stk := { t.stk with scrubLine := tset (fun _ => 0) t.stk.scrubLine b n,
                               scrubbed := if n = 0 then addOnce t.stk.scrubbed b else t.stk.scrubbed } }

/-- The banks in ON, ascending. -/
def State.onBanks (s : State) : List Nat := (List.range 96).filter (fun b => s.bankState b == bkOn)

/-- SCRUB_LINE: one line in every bank in ON; a pass ends when every such bank has completed one. -/
def execScrubLine (s : State) : Result :=
  .next (if !s.on STK_SCRUB.Enable then s
    else
      let t := s.each s.onBanks (fun b t => t.scrubBank b)
      if t.onBanks.isEmpty || t.onBanks.any (fun b => !t.stk.scrubbed.contains b) then t
      else { (t.wr STK_SCRUB_PASS (t.rd STK_SCRUB_PASS + 1#32)) with stk := { t.stk with scrubbed := [] } }.raise
        STK_IRQ_STATUS.ScrubPass)

/-! ## Bank states (R204) -/

/-- Every word of a bank written to 0 with valid check bits. -/
def State.zeroBank (s : State) (b : Nat) : State :=
  let lo := b * bankSize
  { s with stk := { s.stk with
      mem := tclear s.stk.mem lo (lo + bankSize),
      ecc := tclear s.stk.ecc (lo / 8) ((lo + bankSize) / 8),
      reported := s.stk.reported.filter (fun w => 8 * w / bankSize != b),
      writeback := s.stk.writeback.filter (fun w => 8 * w / bankSize != b) } }

/-- A bank that is OFF powers on: CLEARING, its clear starting when the powering ends. -/
def State.powerBank (s : State) (b : Nat) : State :=
  { (s.setF (bankStateF b) bkClearing) with stk := { s.stk with powering := addOnce s.stk.powering b } }

/-- A bank turned off loses its contents. -/
def State.offBank (s : State) (b : Nat) : State := (s.setF (bankStateF b) bkOff).zeroBank b

/-- BANK_POWERED: powering finishes and the clear starts. -/
def execBankPowered (bank : Fin 96) (s : State) : Result :=
  .next { s with stk := { s.stk with powering := s.stk.powering.erase bank.val } }

/-! ## Seals (R205 to R209) -/

/-- One byte of the seal's CRC-64, most significant bit first. -/
def crc64Byte (c : Dword) (b : Byte) : Dword :=
  Nat.repeat (fun c => if c.getLsbD 63 then (c <<< 1) ^^^ 0x42F0E1EBA9EA3693#64 else c <<< 1) 8 (c ^^^ (b.zeroExtend 64 <<< 56))

/-- The seal of a bank: CRC-64 over its bytes in ascending offset order (R205). -/
def State.sealOf (s : State) (b : Nat) : Dword :=
  ((List.range bankSize).foldl (fun c i => crc64Byte c (s.stkByte (b * bankSize + i))) 0xFFFFFFFFFFFFFFFF#64) ^^^
    0xFFFFFFFFFFFFFFFF#64

/-- The retain bit of a bank. -/
def State.retained (s : State) (b : Nat) : Bool := s.on ⟨STK_RETAIN (b / 32), b % 32, b % 32⟩

/-- The seal engine's reads of a bank (requester 73): only its bad words have an effect (R196, R198). -/
def State.sealReads (s : State) (b : Nat) : State :=
  (s.each (s.badWords (b * 131072) ((b + 1) * 131072)) (fun w t => t.readWord w)).noteGrant b rqSeal

/-- A bank in SEALING is sealed: its seal recorded, RETAINED (R204, R206). -/
def State.sealBank (s : State) (b : Nat) : State :=
  ((s.sealReads b).wr64 (STK_SEAL_LO b) (STK_SEAL_HI b) (s.sealOf b).toNat).setF (bankStateF b) bkRetained

/-- A bank's check takes its turn: banks 0 and 1 first, then banks 2 to 95 in ascending order, 8 at a time (R207). -/
def State.checkTurn (s : State) (b : Nat) : Bool :=
  let before := (List.range b).filter (fun x => s.bankState x == bkChecking)
  decide (b < 2) || (!before.any (fun x => decide (x < 2)) && decide (before.length < 8))

/-- A check that ends in the cleared contents of bank 0 or 1: the bank clears and returns to ON (R209). -/
def State.checkLost (s : State) (b : Nat) : State :=
  (s.setF (bankStateF b) bkClearing).setF (if b = 1 then STK_STATUS.LogLost else STK_STATUS.PoolLost) 1

/-- STK_STATUS as a read returns it: ClearBusy while a bank clears. -/
def State.stkStatus (s : State) : Word :=
  STK_STATUS.ClearBusy.put (s.rd STK_STATUS) ((List.range 96).any (fun b => s.bankState b == bkClearing)).toNat

/-! ## Commands (R214) -/

/-- How many banks are in state `x`. -/
def State.banksIn (s : State) (x : Nat) : Nat := ((List.range 96).filter (fun b => s.bankState b == x)).length

/-- STK_INFO. -/
def execStkInfo (h : SlipHdr) (s : State) : Result :=
  .next (s.runSlip h 0x0400 .none (fun s =>
    (s, .done stOk ((List.range 7).map (fun x => BitVec.ofNat 8 (s.banksIn x)) ++
      leBytes 1 ((List.range 96).filter s.retained).length ++ s.words [STK_SCRUB_PASS, STK_CORR, STK_UNCOR]))))

/-- STK_BANK_STATUS. -/
def execStkBankStatus (h : SlipHdr) (bank : Byte) (s : State) : Result :=
  .next (s.runSlip h 0x0401 (.bank bank.toNat) (fun s =>
    let b := bank.toNat
    if 95 < b then refuse s stValueRange
    else (s, .done stOk (s.words [bankReg b, STK_SEAL_LO b, STK_SEAL_HI b]))))

/-- A bank in CLEARING, SEALING, RETAINED or CHECKING. -/
def State.bankBusy (s : State) (b : Nat) : Bool :=
  s.bankState b == bkClearing || s.bankState b == bkSealing || s.bankState b == bkRetained || s.bankState b == bkChecking

/-- STK_BANK_SCRUB: a clear (mode 0) or a scrub pass (mode 1). -/
def execStkBankScrub (h : SlipHdr) (bank mode : Byte) (s : State) : Result :=
  .next (s.runSlip h 0x0402 (.bank bank.toNat) (fun s =>
    let b := bank.toNat
    if 95 < b ∨ 1 < mode.toNat then refuse s stValueRange
    else if b < 2 ∧ mode = 0#8 then refuse s stAddressInvalid
    else if s.bankBusy b then refuse s stBankBusy
    else if s.bankState b = bkOff ∨ (s.bankState b = bkUnsealed ∧ mode = 1#8) then refuse s stBankUnusable
    else (s.when (mode == 0#8) (·.setF (bankStateF b) bkClearing), .accepted (.bankScrub b mode.toNat))))

/-- BANK_SCRUB_DONE: a clear that has made its bank ON, or a scrub pass, writes its final return slip (R214). -/
def execBankScrubDone (bank : Fin 96) (s : State) : Result :=
  .next (match s.backgroundOf 0x0402 (.bank bank) with
    | none => s
    | some bg =>
      match bg.cmd with
      | .bankScrub b 0 => if s.bankState b = bkOn then s.finishBackground bg stOk [] else s
      | .bankScrub b _ =>
        let ws := s.badWords (b * 131072) ((b + 1) * 131072)
        let cor := (ws.filter (fun w => s.wordEcc w == 1)).length
        let unc := (ws.filter (fun w => s.wordEcc w == 2)).length
        (s.each ws (fun w t => t.readWord w)).finishBackground bg stOk (leBytes 4 cor ++ leBytes 4 unc)
      | _ => s)

/-- STK_BANK_POWER. -/
def execStkBankPower (h : SlipHdr) (bank on : Byte) (s : State) : Result :=
  .next (s.runSlip h 0x0403 (.bank bank.toNat) (fun s =>
    let b := bank.toNat
    if 95 < b ∨ 1 < on.toNat then refuse s stValueRange
    else if b < 2 then refuse s stAddressInvalid
    else if s.bankBusy b then refuse s stBankBusy
    else if on = 1#8 then
      (if s.bankState b = bkOn then s else if s.bankState b = bkOff then s.powerBank b else s.setF (bankStateF b) bkClearing, okAns)
    else (if s.bankState b = bkOff then s else s.offBank b, okAns)))

/-- STK_RETAIN_SET. -/
def execStkRetainSet (h : SlipHdr) (mask : BitVec 96) (s : State) : Result :=
  .next (s.runSlip h 0x0404 .none (fun s =>
    (s.each (List.range 3) (fun k t => t.wr (STK_RETAIN k) (BitVec.ofNat 32 (mask.toNat / 2 ^ (32 * k)))), okAns)))

/-- STK_ACL_SET. -/
def execStkAclSet (h : SlipHdr) (bank mover remote host : Byte) (s : State) : Result :=
  .next (s.runSlip h 0x0405 (.bank bank.toNat) (fun s =>
    let b := bank.toNat
    if 95 < b ∨ 1 < mover.toNat ∨ 1 < remote.toNat ∨ 1 < host.toNat then refuse s stValueRange
    else if b < 2 then refuse s stAddressInvalid
    else (((s.setF ⟨bankReg b, 4, 4⟩ mover.toNat).setF ⟨bankReg b, 5, 5⟩ remote.toNat).setF ⟨bankReg b, 6, 6⟩ host.toNat, okAns)))

/-- The status of setting link `l`'s spill region: a field out of range first (R214), then the checks of R194. -/
def State.spillCheck (s : State) (l base size : Nat) : Nat :=
  if 11263 < base ∨ 1791 < size then stValueRange
  else if s.linkState l ≠ lkDisabled ∧ s.linkState l ≠ lkDown then stLinkUp
  else if 11264 < base + size then stValueRange
  else if 0 < size ∧ (List.range 48).any (fun m => m != l && decide (0 < s.fld (STK_SPILL.Size m)) &&
      decide (base < s.fld (STK_SPILL.Base m) + s.fld (STK_SPILL.Size m)) && decide (s.fld (STK_SPILL.Base m) < base + size))
    then stSpillOverlap
  else stOk

/-- A spill region set. -/
def State.setSpill (s : State) (l base size : Nat) : State :=
  (s.setF (STK_SPILL.Base l) base).setF (STK_SPILL.Size l) size

/-- STK_SPILL_SET. -/
def execStkSpillSet (h : SlipHdr) (link : Byte) (base size : BitVec 16) (s : State) : Result :=
  .next (s.runSlip h 0x0406 (.link link.toNat) (fun s =>
    let l := link.toNat
    if 47 < l then refuse s stValueRange
    else
      let st := s.spillCheck l base.toNat size.toNat
      if st = stOk then (s.setSpill l base.toNat size.toNat, okAns) else refuse s st))

/-- A write to STK_SPILL(l) (R194). -/
def State.writeSpill (s : State) (l : Nat) (v : Word) : State :=
  let base := (STK_SPILL.Base l).get v
  let size := (STK_SPILL.Size l).get v
  if s.spillCheck l base size = stOk then s.setSpill l base size else s.setF STK_STATUS.SpillRefused 1

/-- STK_SPILL_WRITE. -/
def execStkSpillWrite (link : Fin 48) (v : Word) (s : State) : Result := .next (s.writeSpill link v)

/-- A spill slot's Stacks offset (R193). -/
def spillOffset (slot : Nat) : Nat := if slot < 4096 then 0x80000 + 128 * slot else 0x120000 + 128 * (slot - 4096)

end Sys2Proof.Machine
end

