-- ==== Sys2Proof/Machine/Power.lean ====
section
/-! DEFINITION. Machine/Power.lean: power domains, votes and the inrush sequencer (R518 to R522, R122, R123). -/

namespace Sys2Proof.Machine

/-- The states of PWR_DOM(d).State. -/
abbrev domOff : Nat := 0
abbrev domWaking : Nat := 1
abbrev domGated : Nat := 2
abbrev domRunning : Nat := 3

/-- An enabled interrupt is pending for an engine of bay `b` (R122). -/
def State.bayIrqPending (s : State) (b : Nat) : Bool :=
  (List.range 56).any (fun src => s.on (bicBit BAYR_BIC_EN_LO BAYR_BIC_EN_HI b src) && s.bayPending b src)

/-- The bay's image is being loaded or repaired (R122). -/
def State.bayLoading (s : State) (b : Nat) : Bool :=
  s.on (ENG_BAY_STATUS.ImageRepair b) || s.cmd.background.any (fun g => g.opcode == 0x0302#16 && g.unit == .bay b)

/-- A host window or register access waits for domain `d` (R114, R522). -/
def State.accessWaits (s : State) (d : Nat) : Bool := s.pwr.accesses.any (fun a => a.domain == d)

/-- A modulator clock is enabled, or an enabled channel selects it (R518). -/
def State.modClockUsed (s : State) (m : Nat) : Bool :=
  s.on (EDG_MCLK.Enable m) ||
  (List.range 32).any (fun c => s.on (EDG_MOD_CFG.Enable c) && s.fld (EDG_MOD_CFG.Clock c) == m)

/-- A link of port `p` has left DISABLED. -/
def State.portUsed (s : State) (p : Nat) : Bool :=
  (List.range 4).any (fun k => s.linkExists (4 * p + k) && s.linkState (4 * p + k) != lkDisabled)

/-- A lane of port `p` sends or checks a test pattern, is looped back or is being margined (R518). -/
def State.portTested (s : State) (p : Nat) : Bool :=
  (List.range 4).any (fun k =>
    let n := 16 + 4 * p + k
    s.laneState n == lnPrbs || s.laneState n == lnLoopback || s.on (lnMarginStart n))

/-- A mover has work, or an ACTIVE ring has work for one (R518). -/
def State.moversWork (s : State) : Bool :=
  s.dma.movers.any (fun m => m.2.job != .idle) || s.dma.rings.any (fun r => s.fld (DMA_RING_STAT.State r.1) == 2)

/-- Some engine of bay `b` has a non-empty store buffer or load queue (R124). -/
def State.dataInFlight (s : State) (b : Nat) : Bool :=
  s.eng.ports.any (fun p => decide (p.1 < 512) && p.1 / 8 == b && !(p.2.sb.isEmpty && p.2.lq.isEmpty))

/-- Votes on bay `b` whose withdrawal waited for its data in flight are withdrawn once there is none (R124). -/
def State.settleVotes (s : State) (b : Nat) : State :=
  if !(s.eng.frameLate.contains b || s.eng.phasorLate.contains b) || s.dataInFlight b then s
  else { s with eng := { s.eng with
    frameVotes := if s.eng.frameLate.contains b then s.eng.frameVotes.erase b else s.eng.frameVotes,
    phasorVotes := if s.eng.phasorLate.contains b then s.eng.phasorVotes.erase b else s.eng.phasorVotes,
    frameLate := s.eng.frameLate.erase b, phasorLate := s.eng.phasorLate.erase b } }

/-- The clients that hold a vote on domain `d` (R518, R122), each as a Bool; the manager's Hold is counted beside them.  While
data is in flight in a bay the last vote on it, the frame scheduler's, is not withdrawn (R124). -/
def State.clientVotes (s : State) (d : Nat) : List Bool :=
  let bay := d - 32
  if 32 ≤ d then
    let others := [s.eng.phasorVotes.contains bay, s.bayIrqPending bay, s.accessWaits d, s.bayLoading bay]
    (s.eng.frameVotes.contains bay || (s.dataInFlight bay && !others.any id)) :: others
  else if 20 ≤ d then [s.portUsed (d - 20), s.portTested (d - 20), s.accessWaits d]
  else match d with
    | 4 => [s.banksIn bkSealing != 0 || s.banksIn bkChecking != 0]
    | 5 => [s.sched != stopped, s.on CAT_STATUS.CopyBusy, s.accessWaits d]
    | 7 => [(List.range 12).any s.portUsed, !s.fab.inbox.isEmpty]
    | 8 => [s.moversWork, s.on CMD_CTRL.RingEn, (List.range 64).any (fun c => s.on (DMA_CH_ACFG.Enable c)), s.accessWaits d]
    | 9 => [!s.on HPT_STATUS.Perst]
    | 10 => [s.on HPT_STATUS.LinkUp && !(s.fld HPT_STATUS.LinkPower == 3 && s.l12Open)]
    | 12 => [s.modClockUsed 0]
    | 13 => [s.modClockUsed 1]
    | 14 => [s.modClockUsed 2]
    | 15 => [s.modClockUsed 3]
    | 18 => [s.rst.phase == .options]
    | 19 => [s.jtagTest]
    | _ => [true]

/-- Votes held on domain `d`, the manager's Hold among them. -/
def State.domVotes (s : State) (d : Nat) : Nat :=
  ((s.clientVotes d).filter id).length + s.fld (PWR_DOM.Hold d)

/-- A domain's state set, with the bay's Power field beside it (0 awake, 1 doze, 2 sleep, 3 waking). -/
def State.setDom (s : State) (d v : Nat) : State :=
  let t := s.setF (PWR_DOM.State d) v
  if d < 32 then t
  else t.setF (ENG_BAY_STATUS.Power (d - 32)) (match v with
    | 0 => 2
    | 1 => 3
    | 2 => 1
    | _ => 0)

/-- A domain's state: a gated domain with a vote runs; one that bears no vote, other than a bay, is gated (R519). -/
def State.domState (s : State) (d : Nat) : Nat :=
  let v := s.fld (PWR_DOM.State d)
  if v = domGated ∧ s.domVotes d ≠ 0 then domRunning
  else if v = domRunning ∧ d < 32 ∧ s.domVotes d = 0 then domGated
  else v

/-- Is bay `b` awake (R122)? -/
def State.bayAwake (s : State) (b : Nat) : Bool :=
  let p := s.fld (ENG_BAY_STATUS.Power b)
  p == 0 || (p == 1 && s.domVotes (32 + b) != 0)

/-- May the domain be power-gated when idle (R518)? -/
def gateable (d : Nat) : Bool :=
  d == 4 || d == 5 || d == 7 || d == 8 || d == 9 || d == 10 || (decide (12 ≤ d) && decide (d < 16)) || decide (18 ≤ d)

/-- The ticks domain `d` has held no vote. -/
def State.idleTicks (s : State) (d : Nat) : Nat := tget (fun _ => 0) s.pwr.idle d

/-- A vote has stood on domain `d`: its consecutive ticks without one start anew (R123, R519). -/
def State.restartIdle (s : State) (d : Nat) : State :=
  { s with pwr := { s.pwr with idle := tset (fun _ => 0) s.pwr.idle d 0 } }

/-- A vote is placed on domain `d`: a gated one runs at once; one that is off waits for the inrush sequencer (R519, R521),
in arrival order when the vote is an access's. -/
def State.voteDom (s : State) (d : Nat) (access : Bool) : State :=
  let s := s.restartIdle d
  if s.fld (PWR_DOM.State d) = domGated ∨ (32 ≤ d ∧ s.fld (ENG_BAY_STATUS.Power (d - 32)) = 1) then s.setDom d domRunning
  else if access ∧ s.fld (PWR_DOM.State d) = domOff ∧ !s.pwr.inrush.any (fun x => x.1 == d) then
    { s with pwr := { s.pwr with inrush := s.pwr.inrush ++ [(d, true)] } }
  else s

/-- An access to a bay that has its power votes on it while it lasts: the bay wakes from its doze and its idle time starts
anew (R114, R122). -/
def State.touchBay (s : State) (b : Nat) : State :=
  (s.when (s.fld (ENG_BAY_STATUS.Power b) == 1) (·.setDom (32 + b) domRunning)).restartIdle (32 + b)

/-- The domains that wait for the inrush sequencer because of a vote. -/
def State.waitingDomains (s : State) : List Nat :=
  (List.range 96).filter (fun d => s.fld (PWR_DOM.State d) == domOff && !s.pwr.granted.contains d && s.domVotes d != 0)

/-- The domain the inrush sequencer grants next: one that an access has voted, in arrival order, otherwise the lowest-numbered
(R521). -/
def State.inrushNext (s : State) : Option Nat :=
  match s.pwr.inrush.find? (fun x => x.2 && !s.pwr.granted.contains x.1) with
  | some (d, _) => some d
  | none => (List.range 96).find? (fun d => s.waitingDomains.contains d || (s.pwr.inrush.any (fun x => x.1 == d) && !s.pwr.granted.contains d))

/-- INRUSH_GRANT: one waiting domain is granted (R521). -/
def execInrushGrant (s : State) : Result :=
  .next (match s.inrushNext with
    | some d => { (s.setDom d domWaking) with pwr := { s.pwr with inrush := s.pwr.inrush.filter (fun x => x.1 != d),
                                                                  granted := s.pwr.granted ++ [d] } }
    | none => s)

/-- A granted domain runs (R521). -/
def State.domainRuns (s : State) (d : Nat) : State :=
  { ((s.setDom d domRunning).inc (PWR_DOMWAKE d)) with pwr := { s.pwr with granted := s.pwr.granted.erase d } }

/-- Engine `c`'s registers hold nothing in sleep; PC and the control registers, which no compute-start clears, stay (R123,
R180; DESIGN CHOICE, assumption log 51). -/
def State.sleepCore (s : State) (c : Nat) : State :=
  let r := tget (fun _ => Regs.zero) s.eng.regs c
  { s with eng := { s.eng with regs := tset (fun _ => Regs.zero) s.eng.regs c { r with g := [], v := [], p := [] } } }

/-- A domain loses power (R519); a bay's engine registers then hold nothing, as its store buffers and load queues do for want
of a vote (R123, R124). -/
def State.gateOff (s : State) (d : Nat) : State :=
  let t := s.setDom d domOff
  if d < 32 then t else t.each (List.range 8) (fun i t => t.sleepCore (8 * (d - 32) + i))

/-- DOMAIN_IDLE_TIMEOUT: PWR_IDLE ticks without a vote gate an idle domain's power (R519). -/
def execDomainIdleTimeout (d : Fin 96) (s : State) : Result :=
  .next (if d.val < 32 ∧ gateable d ∧ s.domVotes d = 0 ∧ s.fld PWR_IDLE.Ticks ≤ s.idleTicks d ∧ s.fld (PWR_DOM.State d) ≠ domOff ∧ s.fld (PWR_DOM.State d) ≠ domWaking
    then s.gateOff d else s)

/-- BAY_DOZE: a bay that holds no vote has its clock gated (R122). -/
def execBayDoze (b : Fin 64) (s : State) : Result :=
  .next (if s.domVotes (32 + b.val) = 0 ∧ s.fld (ENG_BAY_STATUS.Power b) = 0 then s.setDom (32 + b.val) domGated else s)

/-- BAY_SLEEP: 500 ticks without a vote gate the bay's power, unless NoSleep is set (R123); in standby neither counts (R523). -/
def execBaySleep (b : Fin 64) (s : State) : Result :=
  .next (if s.domVotes (32 + b.val) = 0 ∧
      (s.on PWR_STATUS.Standby ∨ (500 ≤ s.idleTicks (32 + b.val) ∧ !s.on (ENG_BAY_CFG.NoSleep b))) ∧ s.fld (ENG_BAY_STATUS.Power b) < 2 then
      s.gateOff (32 + b.val)
    else s)

end Sys2Proof.Machine
end

