-- ==== Sys2Proof/Machine/Contexts.lean ====
section
/-! DEFINITION. Machine/Contexts.lean: the catalogue's contexts (R69, R70), the two copies an edition swap leaves of them
(R94), records and their formats (R77 to R79). -/

namespace Sys2Proof.Machine

/-- Bits `hi` to `lo` of a word. -/
def cut (w : Word) (hi lo : Nat) : Nat := (w.toNat / 2 ^ lo) % 2 ^ (hi + 1 - lo)

/-- A word with bits `hi` to `lo` set to `v`. -/
def paste (w : Word) (hi lo v : Nat) : Word := Fld.put ⟨0, hi, lo⟩ w v

/-! ## The catalogue SRAM and the staging pool -/

/-- Word `w` of context `id` in the catalogue SRAM. -/
def State.catWord (s : State) (id w : Nat) : Word := tget (fun _ => 0#32) s.cat.mem (16 * id + w)

/-- Word `w` of context `id` written. -/
def State.setCatWord (s : State) (id w : Nat) (v : Word) : State :=
  { s with cat := { s.cat with mem := tset (fun _ => 0#32) s.cat.mem (16 * id + w) v } }

/-- A staged replacement sits in the staging pool (word 7 bit 0). -/
def State.pending7 (s : State) (id : Nat) : Bool := (s.catWord id 7).getLsbD 0

/-- The pool entry of a pending context. -/
def State.poolIndex (s : State) (id : Nat) : Nat := cut (s.catWord id 7) 12 1

/-- The pending contexts, ascending. -/
def State.pendingIds (s : State) : List Nat :=
  s.cat.mem.filterMap (fun p => if p.1 % 16 = 7 ∧ p.2.getLsbD 0 then some (p.1 / 16) else none)

/-- The contexts that hold anything, ascending. -/
def State.catIds (s : State) : List Nat := (s.cat.mem.map (fun p => p.1 / 16)).dedup

/-- Word `w` of pool entry `i` (Stacks bank 0, R191). -/
def State.poolWord (s : State) (i w : Nat) : Word := BitVec.ofNat 32 (leNat (s.stkBytes (64 * i + 4 * w) 4))

/-- A word of a pool entry written by the catalogue (requester 71). -/
def State.setPoolWord (s : State) (i w : Nat) (v : Word) : State := s.stkPut rqPool (64 * i + 4 * w) (leBytes 4 v.toNat)

/-- A pool entry holds an uncorrectable or poisoned word. -/
def State.poolBad (s : State) (i : Nat) : Bool := (wordsOf (64 * i) 32).any (fun w => 2 ≤ s.wordEcc w)

/-- Does the pool copy of a pending context stand for it: from the swap until its copy-in (R94)? -/
def State.swapped (s : State) (id : Nat) : Bool := s.on CAT_STATUS.CopyBusy && s.pending7 id

/-- A disabled context. -/
def Ctx.disabled : Ctx := ⟨0#32, 0#32, 0#32, 0#32, 0#32, 0#32, 0#32⟩

/-- Words 0 to 6 as the catalogue SRAM stores them. -/
def State.ctxStored (s : State) (id : Nat) : Ctx :=
  ⟨s.catWord id 0, s.catWord id 1, s.catWord id 2, s.catWord id 3, s.catWord id 4, s.catWord id 5, s.catWord id 6⟩

/-- Words 0 to 6 as a pool entry stores them. -/
def State.ctxPool (s : State) (i : Nat) : Ctx :=
  ⟨s.poolWord i 0, s.poolWord i 1, s.poolWord i 2, s.poolWord i 3, s.poolWord i 4, s.poolWord i 5, s.poolWord i 6⟩

/-- The context disabled by an uncorrectable catalogue error (R92). -/
def State.ctxLost (s : State) (id : Nat) : Bool := !s.swapped id && (s.cat.bad.contains id || s.cat.off.contains id)

/-- The context of the current edition (R94, R95). -/
def State.ctx (s : State) (id : Nat) : Ctx :=
  if !s.on CAT_STATUS.Live || s.ctxLost id then Ctx.disabled
  else if s.swapped id then (if s.poolBad (s.poolIndex id) then Ctx.disabled else s.ctxPool (s.poolIndex id))
  else s.ctxStored id

/-- The context under which the frame now being released was produced: the contents before the last boundary's swap (R46). -/
def State.ctxReleased (s : State) (id : Nat) : Ctx := tget (fun _ => Ctx.disabled) s.cat.relCtx id

/-- The context as the table window shows it: the stored contents while Live is 0 (R96). -/
def State.ctxWindow (s : State) (id : Nat) : Ctx :=
  if s.swapped id then s.ctxPool (s.poolIndex id) else s.ctxStored id

/-- The context of the staged edition (R97). -/
def State.ctxStaged (s : State) (id : Nat) : Ctx := if s.pending7 id then s.ctxPool (s.poolIndex id) else s.ctxStored id

/-- Word `w` (0 to 6) of a context's words. -/
def Ctx.word (c : Ctx) (w : Nat) : Word :=
  match w with
  | 0 => c.w0 | 1 => c.w1 | 2 => c.w2 | 3 => c.w3 | 4 => c.w4 | 5 => c.w5 | 6 => c.w6
  | _ => 0#32

/-! ## Fields (R69) -/

def Ctx.source (c : Ctx) : Nat := cut c.w0 3 0
def Ctx.sink (c : Ctx) : Nat := cut c.w0 7 4
def Ctx.wire (c : Ctx) : Nat := cut c.w0 10 8
def Ctx.store (c : Ctx) : Nat := cut c.w0 12 11
def Ctx.tsMode (c : Ctx) : Nat := cut c.w0 14 13
def Ctx.holdLast (c : Ctx) : Bool := c.w0.getLsbD 15
def Ctx.decimated (c : Ctx) : Bool := c.w0.getLsbD 16
def Ctx.k (c : Ctx) : Nat := cut c.w0 20 17 + 1
def Ctx.chain (c : Ctx) : Bool := c.w0.getLsbD 21
def Ctx.head (c : Ctx) : Bool := c.w0.getLsbD 22
def Ctx.forwards (c : Ctx) : Bool := c.w0.getLsbD 23
def Ctx.heldDefault (c : Ctx) : Bool := c.w0.getLsbD 24
def Ctx.irqEn (c : Ctx) : Bool := c.w0.getLsbD 25
def Ctx.absentLimit (c : Ctx) : Nat := cut c.w0 31 26
def Ctx.divider (c : Ctx) : Nat := cut c.w1 15 0
def Ctx.phaseSendAt (c : Ctx) : Nat := cut c.w1 31 16
def Ctx.next (c : Ctx) : Nat := cut c.w4 15 0
def Ctx.flitStream (c : Ctx) : Nat := cut c.w4 31 16
/-- The Stacks offset of the buffer. -/
def Ctx.base (c : Ctx) : Nat := cut c.w5 26 6 * 64
def Ctx.depthLog (c : Ctx) : Nat := cut c.w5 31 27
/-- Default in StoreFormat; Q15 uses bits 15:0. -/
def Ctx.default (c : Ctx) : Nat := if c.store = 0 then cut c.w6 15 0 else c.w6.toNat

def Ctx.enabled (c : Ctx) : Bool := c.source != 0

/-- Inbound contexts have SourceKind Modulator, Leaf, Host or Remote (R72). -/
def Ctx.inbound (c : Ctx) : Bool := c.source == 1 || c.source == 2 || c.source == 4 || c.source == 5

/-- Is the context due in frame `n` (R75)? -/
def Ctx.due (c : Ctx) (n : Nat) : Bool := !c.decimated || n % c.divider == c.phaseSendAt

/-- The samples expected in frame `n` (R75). -/
def Ctx.expects (c : Ctx) (n : Nat) : Nat := if !c.decimated then c.k else if c.due n then 1 else 0

/-- The rate fields RateMode, K, D and Phase (R85, R88). -/
def Ctx.rate (c : Ctx) : Bool × Nat × Nat × Nat :=
  (c.decimated, c.k, if c.decimated then c.divider else 0, if c.decimated then c.phaseSendAt else 0)

/-! ## Formats (R78) -/

/-- The width of a sample in a format: 0 Q15, 1 Q31, 2 FP32, 3 P12, 4 P14. -/
def fmtWidth (f : Nat) : Nat :=
  match f with
  | 0 => 16
  | 3 => 12
  | 4 => 14
  | _ => 32

/-- Q of a fixed-point format (R78). -/
def fmtFrac (f : Nat) : Nat := fmtWidth f - 1

/-- A value as unsigned bits of a width. -/
def toBits (w : Nat) (x : Int) : Nat := (BitVec.ofInt w x).toNat

/-- A fixed-point value of fraction `f` as `w`-bit fixed point of fraction w − 1: shifted left, or rounded and saturated. -/
def requant (f w : Nat) (x : Int) : Int × Bool :=
  if f ≤ w - 1 then (x * 2 ^ (w - 1 - f), false) else satInt w (rneInt x (2 ^ (f - (w - 1))))

/-- One conversion to Q15, Q31 or FP32, with whether it saturated or met a NaN (R78). -/
def convertStore (src dst raw : Nat) : Nat × Bool :=
  if src = dst then (raw % 2 ^ fmtWidth src, false)
  else if src = 2 then
    let w := fmtWidth dst
    let r := fpToFixed w (w - 1) (BitVec.ofNat 32 raw)
    (toBits w r.1, r.2.1 || r.2.2.isNan)
  else
    let x := signedOf (fmtWidth src) raw
    if dst = 2 then ((fpOfFixed x (fmtFrac src)).1.toNat, false)
    else
      let r := requant (fmtFrac src) (fmtWidth dst) x
      (toBits (fmtWidth dst) r.1, r.2)

/-- A conversion between any two formats: toward P12 or P14 by way of Q15 (R78). -/
def convertSample (src dst raw : Nat) : Nat × Bool :=
  if dst = 3 ∨ dst = 4 then
    if src = dst then (raw % 2 ^ fmtWidth src, false)
    else
      let q := convertStore src 0 raw
      let r := requant 15 (fmtWidth dst) (signedOf 16 q.1)
      (toBits (fmtWidth dst) r.1, q.2 || r.2)
  else convertStore src dst raw

/-! ## Status words (R69, R70, R94) -/

/-- Status word `w` (8 to 15): in the pool entry from a swap until the copy-in, otherwise in the SRAM. -/
def State.statWord (s : State) (id w : Nat) : Word :=
  if s.swapped id then s.poolWord (s.poolIndex id) w else s.catWord id w

/-- A status word written. -/
def State.setStat (s : State) (id w : Nat) (v : Word) : State :=
  if s.swapped id then s.setPoolWord (s.poolIndex id) w v else s.setCatWord id w v

/-- A status field increased by `n`, saturating at its largest value. -/
def State.statAdd (s : State) (id w hi lo n : Nat) : State :=
  let v := s.statWord id w
  s.setStat id w (paste v hi lo (min (2 ^ (hi + 1 - lo) - 1) (cut v hi lo + n)))

/-- The status words cleared (R70). -/
def State.clearStat (s : State) (id : Nat) : State := s.each (List.range 8) (fun i t => t.setStat id (8 + i) 0#32)

/-- A conversion that saturated or met a NaN is counted (R78). -/
def State.convError (s : State) (id : Nat) (e : Bool) : State :=
  if e then (s.statAdd id 11 31 16 1).inc CAT_CONVERR else s

/-! ## Records (R77, R79) -/

/-- RecordSize. -/
def Ctx.recSize (c : Ctx) : Nat :=
  match c.tsMode with
  | 0 => if c.store = 0 then 2 else 4
  | 3 => 8
  | _ => 16

/-- The Stacks offset of the record of slot `j` of frame `n`. -/
def Ctx.recOffset (c : Ctx) (n j : Nat) : Nat :=
  let i := if c.decimated then n / c.divider else n * c.k + j
  c.base + c.recSize * (i % 2 ^ c.depthLog)

/-- The bytes of a sample in StoreFormat. -/
def Ctx.sampleBytes (c : Ctx) : Nat := if c.store = 0 then 2 else 4

/-- A record: the sample, its stamp (all ones for a default), and zeros. -/
def Ctx.record (c : Ctx) (value : Nat) (stamp : Option Nat) : List Byte :=
  let st := stamp.getD (2 ^ 64 - 1)
  match c.tsMode with
  | 0 => leBytes c.sampleBytes value
  | 3 => padTo 4 (leBytes c.sampleBytes value) ++ leBytes 4 st
  | _ => padTo 8 (leBytes c.sampleBytes value) ++ leBytes 8 st

/-- The stamp a sample's record carries (R79); a frame offset is the difference as 32 bits, below 0 for a filter output that
was completed before the boundary. -/
def State.stampOf (s : State) (c : Ctx) (arrival origin : Nat) : Nat :=
  match c.tsMode with
  | 2 => origin
  | 3 => toBits 32 (Int.ofNat arrival - Int.ofNat (s.frm.last * s.period))
  | _ => arrival

/-- A record written by the switch. -/
def State.writeRecord (s : State) (c : Ctx) (n j value : Nat) (stamp : Option Nat) : State :=
  s.stkPut rqIngress (c.recOffset n j) (c.record value stamp)

/-- The sample of a record read by requester `r`; none: poison or an error. -/
def State.readSample (s : State) (r : Nat) (c : Ctx) (n j : Nat) : State × Option Nat :=
  match s.stkRead r (c.recOffset n j) c.sampleBytes with
  | (t, .data d) => (t, some (leNat d))
  | (t, _) => (t, none)

/-- Would the read of that record's sample have to wait (R203)? -/
def State.sampleWaits (s : State) (r : Nat) (c : Ctx) (n j : Nat) : Bool := s.readWaits r (c.recOffset n j) c.sampleBytes

/-- A sample from a source is written: record, SampleCount, LastStime and LastValue (R69, R77, R79). -/
def State.storeSample (s : State) (id : Nat) (c : Ctx) (j value arrival origin : Nat) : State :=
  let t := s.writeRecord c s.frm.last j value (some (s.stampOf c arrival origin))
  let u := (t.setStat id 8 (t.statWord id 8 + 1#32)).setStat id 12 (BitVec.ofNat 32 arrival)
  (u.setStat id 13 (BitVec.ofNat 32 (arrival / 2 ^ 32))).setStat id 14 (BitVec.ofNat 32 value)

/-- Samples taken in the current frame by a context. -/
def State.taken (s : State) (id : Nat) : Nat := tget (fun _ => 0) s.cat.taken id

/-- The number of samples taken set. -/
def State.setTaken (s : State) (id n : Nat) : State :=
  { s with cat := { s.cat with taken := tset (fun _ => 0) s.cat.taken id n } }

/-! ## Events (R100, R92) -/

/-- An event enters the CAT event queue of 64, or is lost (R100). -/
def State.catEvent (s : State) (id cause : Nat) : State :=
  if 64 ≤ s.cat.events.length then { s with cat := { s.cat with overflow := true } }
  else
    let t := { s with cat := { s.cat with events := s.cat.events ++ [(⟨BitVec.ofNat 16 id, BitVec.ofNat 4 cause⟩ : CatEvent)] } }
    t.when s.cat.events.isEmpty (·.raise CAT_IRQ_STATUS.EventQueued)

/-- A lookup's read of a pool copy (requester 71): it has an effect only where a word of the entry is bad (R196, R198). -/
def State.poolLookup (s : State) (i : Nat) : State :=
  if (wordsOf (64 * i) 64).any (fun w => s.wordEcc w != 0) then (s.stkRead rqPool (64 * i) 64).1 else s

/-- A lookup of a context whose words hold an uncorrectable error: it acts as disabled for the frame (R92).  While Live is 0
the switch looks nothing up (R95). -/
def State.meetBad (s : State) (id : Nat) : State :=
  if s.swapped id then s.poolLookup (s.poolIndex id)
  else if !s.on CAT_STATUS.Live || !s.cat.bad.contains id || s.cat.off.contains id then s
  else
    let t := { s with cat := { s.cat with off := s.cat.off ++ [id] } }
    let u := (t.logEvent 0x0201 id []).raise CAT_IRQ_STATUS.Uncorrectable
    u.when (s.ctxStored id).irqEn (·.catEvent id 2)

/-- Lookups of several contexts. -/
def State.meetAll (s : State) (ids : List Nat) : State := s.each ids (fun id t => t.meetBad id)

/-- The oldest event as CAT_EVENT shows it, and the state after the read removes it (R100). -/
def State.popEvent (s : State) : Word × State :=
  let ov := if s.cat.overflow then 0x40000000#32 else 0#32
  let t := { s with cat := { s.cat with overflow := false } }
  match s.cat.events with
  | [] => (ov, t)
  | e :: r =>
    (BitVec.ofNat 32 (e.stream.toNat + e.cause.toNat * 2 ^ 16) ||| 0x80000000#32 ||| ov,
     { t with cat := { t.cat with events := r } })

end Sys2Proof.Machine
end

