-- ==== Sys2Proof/Machine/Words.lean ====
section
/-! DEFINITION. Machine/Words.lean: the control registers of R179 and the instruction words that raise ILLEGAL (R157 to
R159, R187). -/

namespace Sys2Proof.Machine

/-- The CSR numbers of R179. -/
def csrKnown (k : Nat) : Bool :=
  decide (k ≤ 6) || decide (0x10 ≤ k ∧ k ≤ 0x13) || k == 0x18 || k == 0x1A || k == 0x20 || k == 0x22

/-- The CSRs marked RO. -/
def csrReadOnly (k : Nat) : Bool := (decide (1 ≤ k) && decide (k ≤ 4)) || k == 6 || k == 0x11 || k == 0x12

/-- Bits `hi` to `lo` of an instruction word. -/
def wordField (w : Word) (hi lo : Nat) : Nat := w.toNat / 2 ^ lo % 2 ^ (hi + 1 - lo)

/-- A word of major 0x01 (R161): F is a row of the table and the fields it leaves unused are 0; the atomics are the
Curator's (R187). -/
def legalScalar (curator : Bool) (d a b c f : Nat) : Bool :=
  if f ≤ 0x0D ∨ (0x12 ≤ f ∧ f ≤ 0x1E) then c == 0
  else if f = 0x0E ∨ f = 0x0F ∨ f = 0x10 ∨ f = 0x30 then b == 0 && c == 0
  else if f = 0x11 then decide (c < 8)
  else if f = 0x20 then decide (d < 8) && decide (c < 6)
  else if 0x21 ≤ f ∧ f ≤ 0x24 then decide (d < 8) && decide (a < 8) && decide (b < 8) && c == 0
  else if f = 0x25 ∨ f = 0x26 then decide (d < 8) && decide (a < 8) && b == 0 && c == 0
  else if f = 0x27 then decide (a < 8) && b == 0 && c == 0
  else if f = 0x28 then decide (d < 8) && b == 0 && c == 0
  else if f = 0x38 ∨ f = 0x39 then curator && c == 0
  else if f = 0x3A then curator
  else false

/-- A word of major 0x0C (R168). -/
def legalFloat (d b c f : Nat) : Bool :=
  if f ≤ 5 ∨ f = 7 ∨ f = 8 then c == 0
  else if f = 6 ∨ f = 9 ∨ f = 0xA ∨ f = 0xC ∨ f = 0xD then b == 0 && c == 0
  else if f = 0xB then decide (d < 8) && decide (c < 4)
  else if f = 0xE ∨ f = 0xF then b == 0
  else false

/-- A word of major 0x30 (R175): the lane type is one the operation permits; `t` is 0 FP32, 1 Q31, 2 Q15, 3 INT. -/
def legalVector (vd vb vc t f : Nat) : Bool :=
  if f ≤ 2 ∨ f = 5 ∨ f = 6 ∨ f = 0xA then vc == 0
  else if f = 3 ∨ f = 4 then true
  else if f = 7 ∨ f = 8 ∨ f = 0x13 ∨ f = 0x14 then vb == 0 && vc == 0
  else if f = 9 then decide (vd < 8) && decide (vc < 4)
  else if 0xB ≤ f ∧ f ≤ 0xD then t == 3 && vc == 0
  else if f = 0xE ∨ f = 0xF then t != 0 && decide (16 * vb + vc < (if t = 2 then 16 else 32))
  else if f = 0x10 then decide (vb < 4) && decide (vc < 2)
  else if f = 0x11 then t == 1 && vc == 0
  else if f = 0x12 then t != 2
  else false

/-- A word of major 0x31 (R177). -/
def legalMove (g lane t zero f : Nat) : Bool :=
  zero == 0 && (if f ≤ 1 then decide (lane < (if t = 2 then 8 else 4))
    else if f = 2 then lane == 0
    else f == 3 && g == 0 && lane == 0 && t == 0)

/-- A word of major 0x38 (R178, R187). -/
def legalSystem (curator : Bool) (d a f imm : Nat) : Bool :=
  if f ≤ 2 ∨ f = 5 then d == 0 && a == 0 && imm == 0
  else if f = 3 then !curator && d == 0 && a == 0 && imm == 0
  else if f = 4 then d == 0 && a == 0
  else if f = 6 then a == 0 && csrKnown imm
  else if f ≤ 9 then d == 0 && csrKnown imm && !csrReadOnly imm
  else if f = 0xA then !curator && a == 0 && imm == 0
  else if f = 0xB then !curator && decide (d < 16) && a == 0 && decide (imm < 32)
  else if f = 0xC then curator && d == 0 && a == 0 && imm == 0
  else false

/-- A word that encodes an instruction of the core: an engine's, or the Curator's (R158, R159, R187). -/
def legalWord (curator : Bool) (w : Word) : Bool :=
  let d := wordField w 25 21
  let a := wordField w 20 16
  let b := wordField w 15 11
  let c := wordField w 10 6
  let f := wordField w 5 0
  match wordField w 31 26 with
  | 0x01 => legalScalar curator d a b c f
  | 0x02 => true
  | 0x03 => true
  | 0x04 => true
  | 0x05 => true
  | 0x06 => wordField w 15 7 == 0
  | 0x07 => a == 0
  | 0x08 => true
  | 0x0C => legalFloat d b c f
  | 0x10 => true
  | 0x11 => true
  | 0x12 => true
  | 0x13 => true
  | 0x14 => true
  | 0x15 => !curator && decide (d < 16)
  | 0x18 => true
  | 0x19 => true
  | 0x1A => true
  | 0x1B => !curator && decide (d < 16)
  | 0x1C => !curator
  | 0x1D => !curator
  | 0x1E => !curator
  | 0x20 => wordField w 21 16 == 0
  | 0x21 => true
  | 0x30 => !curator && legalVector (wordField w 25 22) (wordField w 17 14) (wordField w 13 10) (wordField w 6 5) (wordField w 4 0)
  | 0x31 => !curator && legalMove d (wordField w 16 14) (wordField w 13 12) (wordField w 11 4) (wordField w 3 0)
  | 0x38 => legalSystem curator d a (wordField w 15 10) (wordField w 9 0)
  | _ => false

end Sys2Proof.Machine
end

