-- ==== Sys2Proof/Machine/Engine.lean ====
section
/-! DEFINITION. Machine/Engine.lean: a Limken core's registers, levels, exceptions and memory path, and the shared
forms of its instructions (R101 to R138, R154 to R185).  Core 512 is the Curator (R187). -/

namespace Sys2Proof.Machine

/-- The Curator's core. -/
abbrev curator : Nat := 512

/-! ## Registers (R154, R155, R179) -/

/-- CSR reset values: IEN 0b11 (R180). -/
def csrReset (k : Nat) : Word := if k = 5 then 3#32 else 0#32

/-- g register `i`; g0 reads 0. -/
def Regs.rg (r : Regs) (i : Nat) : Word := if i = 0 then 0#32 else tget (fun _ => 0#32) r.g i

/-- g register `i` written; g0 discards. -/
def Regs.wg (r : Regs) (i : Nat) (x : Word) : Regs := if i = 0 then r else { r with g := tset (fun _ => 0#32) r.g i x }

/-- v register `i`. -/
def Regs.rv (r : Regs) (i : Nat) : BitVec 128 := tget (fun _ => 0#128) r.v i

/-- v register `i` written. -/
def Regs.wv (r : Regs) (i : Nat) (x : BitVec 128) : Regs := { r with v := tset (fun _ => 0#128) r.v i x }

/-- p register `i`; p0 reads 0xFF. -/
def Regs.rp (r : Regs) (i : Nat) : Byte := if i = 0 then 0xFF#8 else tget (fun _ => 0#8) r.p i

/-- p register `i` written; p0 discards. -/
def Regs.wp (r : Regs) (i : Nat) (x : Byte) : Regs := if i = 0 then r else { r with p := tset (fun _ => 0#8) r.p i x }

/-- The condition of B and SEL: bit 0 of a predicate (R155). -/
def Regs.cond (r : Regs) (i : Nat) : Bool := (r.rp i).getLsbD 0

/-- A control register's stored value. -/
def Regs.rc (r : Regs) (k : Nat) : Word := tget csrReset r.csr k

/-- A control register's stored value set. -/
def Regs.wc (r : Regs) (k : Nat) (x : Word) : Regs := { r with csr := tset csrReset r.csr k x }

/-- FSTAT bits set (R166). -/
def Regs.flag (r : Regs) (f : Word) : Regs := if f = 0#32 then r else r.wc 0 (r.rc 0 ||| f)

/-- PC advanced past an instruction that does not branch (R156). -/
def Regs.next (r : Regs) : Regs := { r with pc := r.pc + 4#32 }

/-- PC set. -/
def Regs.goto (r : Regs) (x : Word) : Regs := { r with pc := x }

/-- A field of XSTAT's saved levels: PrevExc at bit 3, PrevFast at 6, PrevNorm at 9 (R180). -/
def Regs.prev (r : Regs) (bit : Nat) : Nat := (r.rc 6).toNat / 2 ^ bit % 8

/-- A saved level set. -/
def Regs.setPrev (r : Regs) (bit lvl : Nat) : Regs :=
  r.wc 6 ((r.rc 6 &&& ~~~ BitVec.ofNat 32 (7 * 2 ^ bit)) ||| BitVec.ofNat 32 (lvl * 2 ^ bit))

/-- The registers of core `c`. -/
def State.core (s : State) (c : Nat) : Regs := tget (fun _ => Regs.zero) s.eng.regs c

/-- The registers of core `c` set. -/
def State.setCore (s : State) (c : Nat) (r : Regs) : State :=
  { s with eng := { s.eng with regs := tset (fun _ => Regs.zero) s.eng.regs c r } }

/-! ## Ports, images and pairs -/

/-- A memory path with nothing in it. -/
def Port.zero : Port := ⟨[], [], [], [], [], 0, none, 0, none, false, 0, 0, false, false, []⟩

/-- The memory path of core `e`. -/
def State.port (s : State) (e : Nat) : Port := tget (fun _ => Port.zero) s.eng.ports e

/-- The memory path of core `e` set, with SbCount and LqCount beside it. -/
def State.setPort (s : State) (e : Nat) (p : Port) : State :=
  let t := { s with eng := { s.eng with ports := tset (fun _ => Port.zero) s.eng.ports e p } }
  if e < 512 then (t.setF (ENG_E_STATUS.SbCount e) p.sb.length).setF (ENG_E_STATUS.LqCount e) p.lq.length else t

/-- A pair with an empty journal. -/
def Pair.zero : Pair := ⟨[], false, [], false, none, none, [], false, []⟩

/-- The pair whose even engine is `e`. -/
def State.pair (s : State) (e : Nat) : Pair := tget (fun _ => Pair.zero) s.eng.pairs e

/-- The pair whose even engine is `e` set. -/
def State.setPair (s : State) (e : Nat) (p : Pair) : State :=
  { s with eng := { s.eng with pairs := tset (fun _ => Pair.zero) s.eng.pairs e p } }

/-- Is `e` an engine of a Paired bay? -/
def State.inPair (s : State) (e : Nat) : Bool := decide (e < 512) && s.paired (e / 8)

/-- The cores that execute for core `e`: both engines of a pair, otherwise itself (R105). -/
def State.cores (s : State) (e : Nat) : List Nat := if s.inPair e then [e, e + 1] else [e]

/-- The image of engine `e`, if it has one. -/
def State.image (s : State) (e : Nat) : Option Image := tget (fun _ => none) s.eng.images e

/-- Is `e` an engine of the spare pair of its bay (R108)? -/
def State.isSpare (s : State) (e : Nat) : Bool :=
  s.inPair e && s.on (ENG_BAY_CFG.SpareEn (e / 8)) && s.fld (ENG_BAY_CFG.SparePair (e / 8)) == e % 8 / 2

/-- The logical engine number of engine `e` (R102); a spare pair carries the demoted pair's (R228). -/
def State.logical (s : State) (e : Nat) : Nat :=
  let own := if s.inPair e then e / 2 * 2 else e
  match s.eng.moved.find? (fun m => m.2 == own) with
  | some m => m.1
  | none => own

/-- The engine that carries logical engine `n` (R228). -/
def State.carrier (s : State) (n : Nat) : Nat :=
  match s.eng.moved.find? (fun m => m.1 == n) with
  | some m => m.2
  | none => n

/-- The level of core `c` (R180): ENG_E_STATUS.Run. -/
def State.level (s : State) (c : Nat) : Nat := if c = curator then s.eng.curLevel else s.fld (ENG_E_STATUS.Run c)

/-- The level of core `c` set. -/
def State.setLevel (s : State) (c v : Nat) : State :=
  if c = curator then { s with eng := { s.eng with curLevel := v } } else s.setF (ENG_E_STATUS.Run c) v

/-- The base of the handlers (R134, R187). -/
def State.handlerBase (s : State) (c : Nat) : Word :=
  if c = curator then Config.curatorBase else BitVec.ofNat 32 (((s.image c).map (·.exceptionBase)).getD 0)

/-- A core stops for the frame with a HaltCause (R106, R138, R40). -/
def State.haltCore (s : State) (c cause : Nat) : State :=
  let t := s.setLevel c 0
  if c = curator then t
  else (t.setF (ENG_E_STATUS.HaltCause c) cause).wr (ENG_E_PC c) (s.core c).pc

/-! ## Exceptions (R134 to R138, R181, R182) -/

/-- Bay `b` executes: RUNNING, or STOPPING until its boundary (R103). -/
def State.bayRuns (s : State) (b : Nat) : Bool :=
  s.fld (ENG_BAY_STATUS.State b) == 3 || s.fld (ENG_BAY_STATUS.State b) == 4

/-- Core `c` enters exception level with `code`, EPC and EADDR, or, at exception level already, halts for the frame. -/
def State.enterException (s : State) (c code : Nat) (epc eaddr : Word) : State :=
  let r := s.core c
  let t := if c = curator then s
    else
      let u := (s.inc (ENG_E_EXCCNT c)).wr (ENG_E_PC c) r.pc
      let u := (u.setF (ENG_E_FCAUSE.Code c) code).setF (ENG_E_FCAUSE.FrameLow c) s.frm.last
      if 4 ≤ code then u.wr (ENG_E_FADDR c) eaddr else u
  if s.level c = 5 then
    let u := t.haltCore c 1
    if c = curator then u else u.raise ENG_IRQ_STATUS.DoubleFault
  else
    (t.setCore c ((((((r.setPrev 3 (s.level c)).wc 0x10 epc).wc 0x11 (BitVec.ofNat 32 code)).wc 0x12 eaddr)).goto
      (s.handlerBase c + BitVec.ofNat 32 (32 * code)))).setLevel c 5

/-- An exception of core `e`, taken by every core that executes for it; EPC and EADDR as each core has them. -/
def State.exception (s : State) (e code : Nat) (epc eaddr : Regs → Word) : State :=
  let dbl := s.level e == 5 && e != curator
  let t := s.each (s.cores e) (fun c u => u.enterException c code (epc (s.core c)) (eaddr (s.core c)))
  let t := if e < 512 then t.inc (ENG_BAY_EXC (e / 8)) else t
  let u := t.when ((t.port e).draining || (t.port e).waiting) (fun t => t.setPort e { t.port e with draining := false, waiting := false })
  if dbl then
    (u.setPort e { u.port e with dead := true }).logEvent 0x0305 (s.logical e)
      (leBytes 4 code ++ leBytes 4 (s.core e).pc.toNat)
  else u

/-! ## Issue (R156, R160) -/

/-- Every older load has returned and every older store is Accepted or declared lost (R133, R134). -/
def Port.drained (p : Port) : Bool := p.sb.isEmpty && p.lq.isEmpty

/-- An exception of the instruction at the PC, after the drain of R134; until then it waits. -/
def State.fault (s : State) (e code : Nat) (eaddr : Regs → Word) : State :=
  if (s.port e).drained then s.exception e code (fun r => r.pc) eaddr else s.setPort e { s.port e with draining := true }

/-- May core `e` issue instructions: computing or at a handler level, its bay awake, not in a rollback, and an engine not
stopped by PFAIL_N (R133, R221)? -/
def State.canIssue (s : State) (e : Nat) : Bool :=
  decide (2 ≤ s.level e) && decide (s.level e ≤ 5) &&
  (if e = curator then s.curatorUp
   else !s.pfail && s.bayAwake (e / 8) && (!s.paired (e / 8) || e % 2 == 0) && (s.pair e).fault.isNone)

/-- Does a register the instruction reads or writes await an older load? -/
def State.awaits (s : State) (e : Nat) (gs vs : List Nat) : Bool :=
  (s.port e).lq.any (fun l => match l.dest with
    | .g r _ => r != 0 && gs.contains r
    | .v r => vs.contains r)

/-- The end of the memory a core fetches from (R156, R187). -/
def fetchEnd (e : Nat) : Nat := if e = curator then 0x200000 else 0x4000

/-- An instruction of core `e` issues: FETCH where the PC cannot be fetched, unchanged while it waits, otherwise `f`. -/
def State.issue (s : State) (e : Nat) (gs vs : List Nat) (f : State → State) : State :=
  if !s.canIssue e then s
  else if (s.core e).pc.toNat % 4 ≠ 0 ∨ fetchEnd e ≤ (s.core e).pc.toNat then s.fault e 1 (fun r => r.pc)
  else if s.awaits e gs vs then s
  else f s

/-- An instruction word that raises ILLEGAL. -/
def State.illegal (s : State) (e : Nat) (word : Word) : State := s.issue e [] [] (fun t => t.fault e 2 (fun _ => word))

/-- An instruction the Curator's profile lacks (R187). -/
def State.engineOnly (s : State) (e : Nat) (word : Word) (f : State → State) : State :=
  if e = curator then s.illegal e word else f s

/-! ## Instruction words (R157) -/

def wordOP (maj d a b c f : Nat) : Word := BitVec.ofNat 32 (maj * 2 ^ 26 + d * 2 ^ 21 + a * 2 ^ 16 + b * 2 ^ 11 + c * 2 ^ 6 + f)
def wordIM (maj d a imm : Nat) : Word := BitVec.ofNat 32 (maj * 2 ^ 26 + d * 2 ^ 21 + a * 2 ^ 16 + imm)
def wordVE (vd va vb vc pm t f : Nat) : Word :=
  BitVec.ofNat 32 (0x30 * 2 ^ 26 + vd * 2 ^ 22 + va * 2 ^ 18 + vb * 2 ^ 14 + vc * 2 ^ 10 + pm * 2 ^ 7 + t * 2 ^ 5 + f)
def wordVX (g v lane t f : Nat) : Word :=
  BitVec.ofNat 32 (0x31 * 2 ^ 26 + g * 2 ^ 21 + v * 2 ^ 17 + lane * 2 ^ 14 + t * 2 ^ 12 + f)
def wordSY (d a f imm : Nat) : Word := BitVec.ofNat 32 (0x38 * 2 ^ 26 + d * 2 ^ 21 + a * 2 ^ 16 + f * 2 ^ 10 + imm)

/-! ## Register instructions -/

/-- What a core's result path delivers: an engine with a hard injection delivers a free value (R244). -/
def State.viaPath (s : State) (c : Nat) (x : Word) : Word × State := if s.eng.hard.contains c then s.takeFree else (x, s)

/-- A vector through the result path. -/
def State.viaPathV (s : State) (c : Nat) (x : BitVec 128) : BitVec 128 × State :=
  if s.eng.hard.contains c then
    let a := s.takeFree
    let b := a.2.takeFree
    let d := b.2.takeFree
    let f := d.2.takeFree
    (f.1 ++ d.1 ++ b.1 ++ a.1, f.2)
  else (x, s)

/-- An instruction that writes g(d) and the flags it sets; `srcs` are the g registers it reads. -/
def State.aluG (s : State) (e : Fin 513) (d : BitVec 5) (srcs : List (BitVec 5)) (f : Regs → Flagged) : State :=
  s.issue e (d.toNat :: srcs.map (·.toNat)) [] (fun t => t.each (t.cores e) (fun c u =>
    let r := u.core c
    let x := u.viaPath c (f r).1
    x.2.setCore c (((r.wg d.toNat x.1).flag (f r).2).next)))

/-- An instruction that writes p(d). -/
def State.aluP (s : State) (e : Fin 513) (d : BitVec 3) (gs : List (BitVec 5)) (vs : List (BitVec 4)) (f : Regs → Byte × Word) :
    State :=
  s.issue e (gs.map (·.toNat)) (vs.map (·.toNat)) (fun t => t.each (t.cores e) (fun c u =>
    let r := u.core c
    let x := u.viaPath c ((f r).1.zeroExtend 32)
    x.2.setCore c (((r.wp d.toNat (x.1.truncate 8)).flag (f r).2).next)))

/-- An instruction that writes v(d). -/
def State.aluV (s : State) (e : Fin 513) (d : BitVec 4) (gs : List (BitVec 5)) (vs : List (BitVec 4))
    (f : Regs → BitVec 128 × Word) : State :=
  s.issue e (gs.map (·.toNat)) (d.toNat :: vs.map (·.toNat)) (fun t => t.each (t.cores e) (fun c u =>
    let r := u.core c
    let x := u.viaPathV c (f r).1
    x.2.setCore c (((r.wv d.toNat x.1).flag (f r).2).next)))

/-- An instruction on the registers alone that may branch. -/
def State.aluR (s : State) (e : Fin 513) (gs : List (BitVec 5)) (f : Regs → Regs) : State :=
  s.issue e (gs.map (·.toNat)) [] (fun t => t.each (t.cores e) (fun c u => u.setCore c (f (u.core c))))

end Sys2Proof.Machine
end

