-- ==== Sys2Proof/Machine/Pairs.lean ====
section
/-! DEFINITION. Machine/Pairs.lean: DMEM, the checkpoint journal, mismatch, rollback, demotion and migration of pairs,
fault injection, and the accession log's writer and commands (R105, R120, R140, R217 to R244). -/

namespace Sys2Proof.Machine

/-! ## Local memories -/

/-- `n` bytes of engine `c`'s DMEM. -/
def State.dmBytes (s : State) (c o n : Nat) : List Byte :=
  (List.range n).map (fun i => tget (fun _ => 0#8) s.eng.dmem (32768 * c + o + i))

/-- A DMEM word of engine `c`. -/
def State.dmWord (s : State) (c o : Nat) : Nat := leNat (s.dmBytes c o 4)

/-- Bytes written to engine `c`'s DMEM; a written word is no longer uncorrectable (R111). -/
def State.dmPut (s : State) (c o : Nat) (bs : List Byte) : State :=
  let k := 32768 * c + o
  { s with eng := { s.eng with
      dmem := (bs.zipIdx).foldl (fun m b => tset (fun _ => 0#8) m (k + b.2) b.1) s.eng.dmem,
      bad := s.eng.bad.filter (fun w => decide (w + 4 ≤ k) || decide (k + bs.length ≤ w)) } }

/-- The IMEM words of engine `c` from `o` on replaced. -/
def State.imPut (s : State) (c o : Nat) (ws : List Word) : State :=
  { s with eng := { s.eng with
      imem := (ws.zipIdx).foldl (fun m w => tset (fun _ => 0#32) m (4096 * c + o + w.2) w.1) s.eng.imem } }

/-- Both memories of engine `c` written to 0. -/
def State.wipeEngine (s : State) (c : Nat) : State :=
  { s with eng := { s.eng with
      imem := tclear s.eng.imem (4096 * c) (4096 * (c + 1)), dmem := tclear s.eng.dmem (32768 * c) (32768 * (c + 1)),
      bad := s.eng.bad.filter (fun w => decide (w < 32768 * c) || decide (32768 * (c + 1) ≤ w)) } }

/-! ## Parameter copies (R117) -/

/-- Span: ParamLength rounded up to a multiple of 64. -/
def Image.span (i : Image) : Nat := (i.paramLength + 63) / 64 * 64

/-- The current copy of engine `c`, 0 or 1. -/
def State.copyOf (s : State) (c : Nat) : Nat := tget (fun _ => 0) s.eng.copy c

/-- The DMEM offset of a parameter copy; `staged` takes the other one. -/
def State.paramAt (s : State) (c : Nat) (i : Image) (staged : Bool) : Nat :=
  i.paramOffset + (if staged then 1 - s.copyOf c else s.copyOf c) * i.span

/-- The current Entry word: Valid and the entry offset. -/
def State.entryOf (s : State) (c : Nat) : Bool × Nat :=
  match s.image c with
  | none => (false, 0)
  | some i => let w := s.dmWord c (s.paramAt c i false); (w % 2 == 1, w / 4 % 4096 * 4)

/-! ## The journal (R220) -/

/-- The journal's capacity. -/
abbrev journalMax : Nat := 1024

/-- An entry recorded in the journal of the pair `e`; a full journal overflows. -/
def State.record1 (s : State) (e : Nat) (j : JEntry) : State :=
  if !s.inPair e then s
  else
    let p := s.pair e
    if p.overflow then s
    else if journalMax ≤ p.journal.length then (s.setPair e { p with overflow := true }).maxR FLT_JOURNAL_HWM (journalMax + 1)
    else (s.setPair e { p with journal := p.journal ++ [j] }).maxR FLT_JOURNAL_HWM (p.journal.length + 1)

/-- Has the unit at `u` been recorded in this frame? -/
def Pair.hasUnit (p : Pair) (u : Nat) : Bool :=
  p.journal.any (fun j => match j with
    | .d _ v _ => v == u
    | _ => false)

/-- D entries for the 16-byte units that a write of `n` bytes at `o` touches. -/
def State.recordUnits (s : State) (e o n : Nat) : State :=
  s.each ((List.range ((o + n + 15) / 16 - o / 16)).map (fun i => o / 16 * 16 + 16 * i)) (fun u t =>
    if (t.pair e).hasUnit u then t else t.record1 e (.d e u (t.dmBytes e u 16)))

/-- A DMEM write of logical engine `e`: recorded, then performed in every core that executes for it. -/
def State.dmStore (s : State) (e o : Nat) (data : Nat → List Byte) : State :=
  s.when (!(data e).isEmpty) (fun t => (t.recordUnits e o (data e).length).each (t.cores e) (fun c u => u.dmPut c o (data c)))

/-! ## Frame start and stop -/

/-- The registers of R120 at a start in frame `n`: FSTAT and CYCLE cleared, the other CSRs kept (R180). -/
def State.freshCore (s : State) (c n : Nat) : State :=
  let r := s.core c
  match s.image c with
  | none => s
  | some i =>
    let z : Regs := ⟨[], [], [], BitVec.ofNat 32 (s.entryOf c).2, tset csrReset r.csr 0 0#32⟩
    (s.setCore c (((z.wg 1 (BitVec.ofNat 32 n)).wg 2 (BitVec.ofNat 32 (0x10000 + s.paramAt c i false))).wg 3
      (BitVec.ofNat 32 (s.logical c)))).setLevel c 2

/-- The engine stops for the frame: halted with `cause`, its loads and transfers dropped; stores it has issued go on. -/
def State.stopEngine (s : State) (e cause : Nat) : State :=
  let t := s.each (s.cores e) (fun c u => u.haltCore c cause)
  let p := t.port e
  t.setPort e { p with lq := [], xf := [], dead := true, deferred := none }

/-- The frame scheduler withdraws its vote on a bay once compute-start has been delivered and no engine of the bay is still
computing or has its own compute-start to come (R122); with data in flight in the bay the vote stays until it has drained
(R124). -/
def State.dropFrameVote (s : State) (b : Nat) : State :=
  if (List.range 8).any (fun i => (decide (2 ≤ s.level (8 * b + i)) && decide (s.level (8 * b + i) ≤ 5)) || (s.port (8 * b + i)).deferred.isSome) ||
      (s.frm.voted && !s.frm.computed) || !s.eng.frameVotes.contains b then s
  else
    let t := s.restartIdle (32 + b)
    if s.dataInFlight b then { t with eng := { t.eng with frameLate := addOnce t.eng.frameLate b } }
    else { t with eng := { t.eng with frameVotes := t.eng.frameVotes.erase b } }

/-- The frame scheduler's vote is placed on bay `b` (R37, R122). -/
def State.placeFrameVote (s : State) (b : Nat) : State :=
  { s with eng := { s.eng with frameVotes := addOnce s.eng.frameVotes b, frameLate := s.eng.frameLate.erase b } }.voteDom (32 + b) false

/-! ## Interrupt state at the checkpoint (R140) -/

/-- The sources routed to engine `e` with their pending and active bits. -/
def State.irqCheckpoint (s : State) (e : Nat) : List (Nat × Bool × Bool) :=
  ((List.range 56).filter (fun x => s.bayRoute (e / 8) x == e % 8)).map (fun x =>
    (x, s.on (bicBit BAYR_BIC_PEND_LO BAYR_BIC_PEND_HI (e / 8) x), s.bayActive (e / 8) x))

/-- The checkpoint restored: an edge pending at it, taken since it, or arrived after it is pending; level sources are
sampled anew; the class registers name the sources that are active again. -/
def State.irqRestore (s : State) (e : Nat) (cp : List (Nat × Bool × Bool)) : State :=
  let b := e / 8
  let t := s.each cp (fun x u =>
    let pend := x.2.1 || u.on (bicBit BAYR_BIC_PEND_LO BAYR_BIC_PEND_HI b x.1)
    let u := u.setB (bicBit BAYR_BIC_PEND_LO BAYR_BIC_PEND_HI b x.1) pend
    -- a taken interrupt is appended with active clear, so the first entry of a source is the checkpoint's
    match cp.find? (fun y => y.1 == x.1) with
    | some y => u.setB (bicBit BAYR_BIC_ACT_LO BAYR_BIC_ACT_HI b x.1) y.2.2
    | none => u)
  let act (fast : Bool) : Option Nat := (cp.map (·.1)).find? (fun x => t.bayActive b x && (s.bayFast b x == fast))
  let f := (t.setB (BAYR_BIC_FSRC.Valid b (e % 8)) (act true).isSome).setF (BAYR_BIC_FSRC.Source b (e % 8)) ((act true).getD 0)
  (f.setB (BAYR_BIC_NSRC.Valid b (e % 8)) (act false).isSome).setF (BAYR_BIC_NSRC.Source b (e % 8)) ((act false).getD 0)

/-! ## Mismatch, rollback, demotion (R221 to R230) -/

/-- The compare points of PAIR_FAULT (R242). -/
abbrev cpStore : Nat := 0
abbrev cpDevice : Nat := 1
abbrev cpUnit : Nat := 2
abbrev cpFend : Nat := 3
abbrev cpEcc : Nat := 4

/-- PAIR_FAULT: outcome, compare point, journal entries, PC, rollback ns, re-execution end (R242). -/
def State.pairFault (s : State) (e outcome point entries pc rb rend : Nat) : State :=
  s.logEvent 0x0301 (s.logical e) (leBytes 1 outcome ++ leBytes 1 point ++ leBytes 2 entries ++ leBytes 4 pc ++
    leBytes 4 rb ++ leBytes 4 rend)

/-- The pair's pending PAIR_FAULT is written with its outcome. -/
def State.reportPair (s : State) (e outcome rend : Nat) : State :=
  match (s.pair e).report with
  | none => s
  | some (point, entries, pc, rb) =>
    (s.pairFault e outcome point entries pc rb rend).setPair e { s.pair e with report := none }

/-- The outputs of a frame are substituted after a fault. -/
def State.heldOut (s : State) : State := (s.inc FLT_HELDOUT).raise FLT_IRQ_STATUS.HeldOutput

/-- The pair stops for the frame after a fault that does not demote it (R223, R230). -/
def State.stopPair (s : State) (e : Nat) : State :=
  let t := (s.stopEngine e 3).setPair e { s.pair e with fault := none, again := false, left := [], history := [] }
  (t.heldOut).dropFrameVote (e / 8)

/-- The pair is demoted (R227): reason 0 pair check, 1 repeat in frame, 2 threshold; failing engine 0, 1 or 0xFF. -/
def State.demote (s : State) (e reason failing : Nat) : State :=
  let b := e / 8
  let t := (s.stopEngine e 5).setPair e { s.pair e with fault := none, again := false, left := [], migrate := true, history := [] }
  let u := ((t.setF ⟨ENG_BAY_STATUS b, 8 + e % 8 / 2, 8 + e % 8 / 2⟩ 1).inc FLT_DEMOTED).raise FLT_IRQ_STATUS.Demoted
  (u.logEvent 0x0302 (s.logical e) [BitVec.ofNat 8 reason, BitVec.ofNat 8 failing]).dropFrameVote b

/-- A compare of the pair `e` mismatches at `point`, or an ECC error is uncorrectable (R221, R227, R230). -/
def State.mismatch (s : State) (e point : Nat) : State :=
  let p := s.pair e
  if !s.inPair e ∨ e % 2 ≠ 0 ∨ p.fault.isSome ∨ s.level e < 2 ∨ 5 < s.level e then s
  else
    let t := s.inc FLT_MISMATCH
    let pc := (s.core e).pc.toNat
    if p.overflow then (t.pairFault e 2 point (journalMax + 1) pc 0 0xFFFFFFFF).stopPair e
    else if p.again then ((t.reportPair e 4 0xFFFFFFFF).demote e 1 0xFF).heldOut
    else
      -- what the attempt produced does not count: only a re-execution that reaches FEND again completes the frame (R224)
      (t.setPort e { t.port e with fend := none }).setPair e
        { p with fault := some (point, s.now), report := some (point, p.journal.length, pc, 0) }

/-- COMPARE_MISMATCH. -/
def execCompareMismatch (e : Fin 512) (point : Fin 5) (s : State) : Result := .next (s.mismatch e point)

/-- The D entries restored in reverse order, and what re-execution has still to meet (R221, R222). -/
def State.undo (s : State) (e : Nat) (js : List JEntry) : State :=
  s.each js.reverse (fun j t => match j with
    | .d _ u old => t.each (t.cores e) (fun c x => x.dmPut c u old)
    | _ => t)

/-- Entries other than D. -/
def JEntry.isOuter : JEntry → Bool
  | .d _ _ _ => false
  | _ => true

/-- ROLLBACK: once no access of the pair is outstanding; `check` is the pair check's finding (none: passed; 0 even,
1 odd, 2 it cannot tell) and `ns` the rollback time measured (R221, R226, R227). -/
def execRollback (e : Fin 512) (check : Option (Fin 3)) (ns : Word) (s : State) : Result :=
  .next (
    let p := s.pair e
    let q := s.port e
    match p.fault with
    | none => s
    | some _ =>
      -- a sort of the pair is an outstanding local access as well (R148, R221)
      let sorts := tget (fun _ => []) s.eng.sorts (e.val / 8)
      if !(q.sb.isEmpty && q.lq.isEmpty && q.open_.isEmpty && q.xf.all (·.failed)) || sorts.contains (e.val % 8) then s
      else match check with
      | some c => (((s.reportPair e 4 0xFFFFFFFF).demote e 0 (if c.val = 2 then 0xFF else c.val)).heldOut).maxR FLT_ROLLBACK_MAX ns.toNat
      | none =>
        let t := (s.undo e p.journal).irqRestore e p.irqs
        let u := t.each (t.cores e) (fun c x => x.freshCore c q.frame)
        let v := u.setPair e { u.pair e with fault := none, again := true, left := p.journal.filter (·.isOuter),
                                             report := p.report.map (fun r => (r.1, r.2.1, r.2.2.1, ns.toNat)) }
        -- the pair computes again, so the bay has the frame scheduler's vote again (R122)
        ((v.setPort e { v.port e with xf := [], fend := none, waiting := false, cuts := [] }).placeFrameVote (e.val / 8)).maxR
          FLT_ROLLBACK_MAX ns.toNat)

/-- FEND's compare has passed in re-execution: the frame is recovered (R224). -/
def State.recovered (s : State) (e : Nat) : State :=
  let p := s.pair e
  if !p.again then s
  else
    let t := ((s.inc FLT_RECOVERED).raise FLT_IRQ_STATUS.Recovered).setPair e
      { p with again := false, left := [], history := p.history ++ [(s.port e).frame] }
    t.reportPair e 0 (s.now - s.frm.last * s.period)

/-- At boundary n + 1 a pair whose recovered mismatches reach FLT_HARD.Count within FLT_HARD.Window frames is demoted
(R227). -/
def State.thresholdCheck (s : State) (e : Nat) : State :=
  let p := s.pair e
  let w := s.fld FLT_HARD.Window
  let h := p.history.filter (fun f => decide ((s.port e).frame < f + w))
  let t := s.when (h.length != p.history.length) (fun t => t.setPair e { p with history := h })
  if s.fld FLT_HARD.Count ≠ 0 ∧ s.fld FLT_HARD.Count ≤ h.length then t.demote e 2 0xFF else t

/-! ## Migration (R228, R229) -/

/-- A demoted pair begins its migration at a boundary: from here on the spare pair acts as its logical engine. -/
def State.migrateStart (s : State) (e : Nat) : State :=
  let b := e / 8
  if !(s.pair e).migrate then s
  else
    let t := s.setPair e { s.pair e with migrate := false }
    if !s.on (ENG_BAY_CFG.SpareEn b) || s.eng.moved.any (fun m => m.1 / 8 == b) || s.isSpare e then t
    else { t with eng := { t.eng with moved := t.eng.moved ++ [(e, 8 * b + 2 * s.fld (ENG_BAY_CFG.SparePair b))] } }

/-! ## Injection (R244) -/

/-- FLT_INJECT_ARM: Armed is set for a Paired and RUNNING bay and a defined Kind. -/
def State.armInjection (s : State) : State :=
  let b := s.fld FLT_INJECT.Bay
  if s.paired b && s.fld (ENG_BAY_STATUS.State b) == 3 && decide (s.fld FLT_INJECT.Kind < 2) then
    { (s.setF FLT_INJECT.Armed 1) with eng := { s.eng with inject := false } }
  else s

/-- FLT_INJECT_ARM. -/
def execFltInjectArm (s : State) : Result := .next s.armInjection

/-- One register bit of engine `c` inverted: bank 0 g, 1 v, 2 p. -/
def State.flipRegister (s : State) (c bank i bit : Nat) : State :=
  let r := s.core c
  s.setCore c (match bank with
    | 0 => r.wg (i % 32) (r.rg (i % 32) ^^^ BitVec.ofNat 32 (2 ^ (bit % 32)))
    | 1 => r.wv (i % 16) (r.rv (i % 16) ^^^ BitVec.ofNat 128 (2 ^ (bit % 128)))
    | _ => r.wp (i % 8) (r.rp (i % 8) ^^^ BitVec.ofNat 8 (2 ^ (bit % 8))))

/-- FAULT_INJECTION: Delay bay cycles after the compute-start that followed the arming, the fault is applied once; the
command names the register bit of an upset. -/
def execFaultInjection (bank : Fin 3) (reg : Fin 32) (bit : Fin 128) (s : State) : Result :=
  .next (
    let c := 8 * s.fld FLT_INJECT.Bay + 2 * s.fld FLT_INJECT.Pair + s.fld FLT_INJECT.Odd
    if !s.on FLT_INJECT.Armed || !s.eng.inject then s
    else
      let t := s.setF FLT_INJECT.Armed 0
      let u := { t with eng := { t.eng with inject := false } }
      if s.fld FLT_INJECT.Kind = 1 then { u with eng := { u.eng with hard := addOnce u.eng.hard c } }
      else u.flipRegister c bank reg bit)

/-! ## The accession log (R239 to R243) -/

/-- The 32 bytes of an entry with its Seq (R240). -/
def LogEntry.bytes (l : LogEntry) (seq : Nat) : List Byte :=
  leBytes 8 l.stime.toNat ++ leBytes 2 l.event.toNat ++ leBytes 2 l.unit.toNat ++ leBytes 2 seq ++ [l.flags, 0#8] ++
  padTo 16 l.detail

/-- The Stacks offset of log entry `i` (R191). -/
def logOffset (i : Nat) : Nat := 0x100000 + 32 * (i % 4096)

/-- ACCESSION_WRITE: the oldest queued entry goes to the ring at Next (R239). -/
def execAccessionWrite (s : State) : Result :=
  .next (match s.log.queue with
    | [] => s
    | l :: r =>
      if !s.curatorUp then s
      else
        let n := s.fld FLT_LOG_HEAD.Next
        match s.stkWrite rqCurator (logOffset n) ((l.bytes (s.fld FLT_LOG_HEAD.Seq)).map some) false with
        | (_, .wait) => s
        | (t, _) =>
          let u := { t with log := { t.log with queue := r } }
          let u := (u.setF FLT_LOG_HEAD.Next ((n + 1) % 4096)).setF FLT_LOG_HEAD.Seq (s.fld FLT_LOG_HEAD.Seq + 1)
          u.when (n == 4095) (·.setF FLT_LOG_HEAD.Wrapped 1))

/-- LOG_INFO. -/
def execLogInfo (h : SlipHdr) (s : State) : Result :=
  .next (s.runSlip h 0x0A00 .none (fun s => (s, .done stOk (s.words [FLT_LOG_HEAD, FLT_LOG_LOST]))))

/-- LOG_READ.  The spec states no bytes for an entry whose words are poisoned: free ones (DESIGN CHOICE, assumption log 49). -/
def execLogRead (h : SlipHdr) (index : BitVec 16) (half : Byte) (s : State) : Result :=
  .next (s.runSlip h 0x0A01 .none (fun s =>
    if 4096 ≤ index.toNat ∨ 2 ≤ half.toNat then refuse s stValueRange
    else match s.stkRead rqCurator (logOffset index.toNat + 16 * half.toNat) 16 with
      | (_, .wait) => (s, .held 0x0A01 (leBytes 2 index.toNat ++ [half]))
      | (t, .data bs) => (t, .done stOk bs)
      | (t, _) =>
        let r := t.freeBytes 4
        (r.1, .done stOk r.2)))

/-- The status of a bank that LOG_COPY or an image load cannot use: none where it can (R243). -/
def State.bankRefusal (s : State) (b : Nat) : Option Nat :=
  match s.bankState b with
  | 2 => some stBankUnusable
  | 6 => some stBankUnusable
  | 3 => some stBankBusy
  | 4 => some stBankBusy
  | _ => none

/-- LOG_COPY. -/
def execLogCopy (h : SlipHdr) (first count : BitVec 16) (offset : Word) (s : State) : Result :=
  .next (s.runSlip h 0x0A02 .none (fun s =>
    let o := offset.toNat
    let n := 32 * count.toNat
    if 4096 ≤ first.toNat ∨ count = 0#16 ∨ 4096 < count.toNat then refuse s stValueRange
    else if o % 32 ≠ 0 ∨ o < 2 * bankSize ∨ stkEnd < o + n then refuse s stAddressInvalid
    else match (banksOf o n).findSome? s.bankRefusal with
      | some st => refuse s st
      | none => (s, .accepted (.logCopy first.toNat count.toNat o))))

/-- Entries copied one by one until one cannot be: the status of the copy (R243). -/
def State.copyLog : Nat → Nat → Nat → State → State × Nat
  | 0, _, _, s => (s, stOk)
  | n + 1, i, o, s =>
    match s.stkRead rqCurator (logOffset i) 32 with
    | (t, .data bs) =>
      match t.bankRefusal (o / bankSize) with
      | some st => (t.countVerdict (t.verdict rqCurator o 32 true), st)
      | none => State.copyLog n (i + 1) (o + 32) (t.stkPut rqCurator o bs)
    | (t, _) => (t, stMediaError)

/-- A copy waits at a bank that is CLEARING or CHECKING (R203). -/
def State.copyWaits (s : State) (first count o : Nat) : Bool :=
  (List.range count).any (fun i => s.verdict rqCurator (logOffset (first + i)) 32 false == .wait ||
    s.verdict rqCurator (o + 32 * i) 32 true == .wait)

/-- LOG_COPY_DONE: the copy ends or stops early, with its final return slip; it cannot end while an access of it waits. -/
def execLogCopyDone (s : State) : Result :=
  .next (match s.cmd.background.find? (fun g => g.opcode == 0x0A02#16) with
    | none => s
    | some g => match g.cmd with
      | .logCopy first count o =>
        if s.copyWaits first count o then s
        else
          let r := State.copyLog count first o s
          r.1.finishBackground g r.2 []
      | _ => s)

/-- FLT_INFO. -/
def execFltInfo (h : SlipHdr) (s : State) : Result :=
  .next (s.runSlip h 0x0A10 .none (fun s =>
    (s, .done stOk (s.words [FLT_STATUS, FLT_MISMATCH, FLT_RECOVERED, FLT_HELDOUT, FLT_DEMOTED]))))

end Sys2Proof.Machine
end

