-- ==== Sys2Proof/Machine/Path.lean ====
section
/-! DEFINITION. Machine/Path.lean: REMOTE requests (R354, R355) and a core's memory path: the load queue, the store
buffer, transfers, lost stores and the barriers' waits (R125 to R133, R170 to R172, R222, R223). -/

namespace Sys2Proof.Machine

/-! ## REMOTE requests -/

/-- The payload of a REMOTE flit (R355). -/
def remotePayload (op size status kind requester tag offset : Nat) (data : List Byte) : List Byte :=
  leBytes 1 op ++ leBytes 1 size ++ leBytes 1 status ++ leBytes 1 kind ++ leBytes 2 requester ++ leBytes 2 tag ++
  leBytes 4 offset ++ data

/-- A REMOTE request of requester `r` of the switch: its tag is outstanding for `user`; false where R350 discarded it for
want of a route. -/
def State.remoteIssue (s : State) (r : Nat) (user : RemoteUser) (node cls kind offset size : Nat) (data : Option (List Byte)) :
    State × Nat × Bool :=
  let tag := s.rem.next.toNat
  let op := if data.isSome then 2 else 1
  let f := mkFlit ftRemote (if cls = 0 then 2 else 3) node 0
    (remotePayload op size 0 kind s.nodeId tag offset (data.getD []))
  let link := if node = s.nodeId then none else (s.routeLink node none).map (·.1)
  let t := { s with rem := { next := s.rem.next + 1#16,
                             out := s.rem.out ++ [(⟨tag, user, node, offset, size, link⟩ : RemoteReq)] } }
  let u := t.switchFlit r f none s.time.stime
  (u.1, tag, u.2)

/-- The outstanding request of a tag forgotten. -/
def State.remoteForget (s : State) (tag : Nat) : State :=
  { s with rem := { s.rem with out := s.rem.out.filter (fun q => q.tag != tag) } }

/-! ## Loads -/

/-- The requester index of a core's accesses to Stacks (R190). -/
def stkRequester (e : Nat) : Nat := if e = curator then rqCurator else e / 8

/-- The previous byte an S entry of the abandoned attempt holds for Stacks offset `o` (R222). -/
def Pair.oldByte (p : Pair) (o : Nat) : Option Byte :=
  p.left.findSome? (fun j => match j with
    | .s a old _ => if a ≤ o ∧ o < a + old.length then old[o - a]? else none
    | _ => none)

/-- The bay port of engine `e` has granted it an access (R150). -/
def State.notePort (s : State) (e : Nat) : State :=
  if e = curator then s
  else
    let g := arbNote (tget (fun _ => []) s.eng.portGrants (e / 8)) (e % 8)
    { s with eng := { s.eng with portGrants := tset (fun _ => []) s.eng.portGrants (e / 8) g } }

/-- A read of Stacks by core `e`; in re-execution, bytes that an unmet S entry wrote read as they were before it (R222). -/
def State.portRead (s : State) (e o n : Nat) : State × StkData :=
  match s.stkRead (stkRequester e) o n with
  | (t, .data bs) =>
    let p := s.pair e
    (t.notePort e, .data (if p.again then (bs.zipIdx).map (fun b => (p.oldByte (o + b.2)).getD b.1) else bs))
  | r => r

/-- A loaded value in its register. -/
def Regs.load (r : Regs) (d : LoadDest) (size : Nat) (bs : List Byte) : Regs :=
  match d with
  | .g i sgn =>
    let x := leNat bs
    r.wg i (if sgn && size == 1 then (BitVec.ofNat 8 x).signExtend 32
            else if sgn && size == 2 then (BitVec.ofNat 16 x).signExtend 32 else BitVec.ofNat 32 x)
  | .v i => r.wv i (BitVec.ofNat 128 (leNat bs))

/-- The response of an L entry recorded (R220). -/
def JEntry.answered (g : Got) : JEntry → JEntry
  | .l a n .nothing => .l a n g
  | j => j

/-- The place the next entry takes in the journal of the pair `e`; none where nothing is recorded (R220). -/
def State.nextEntry (s : State) (e : Nat) : Option Nat :=
  let p := s.pair e
  if s.inPair e && !p.overflow && decide (p.journal.length < journalMax) then some p.journal.length else none

/-- An access's own L entry takes its response (R220, R221). -/
def State.recordGot (s : State) (e : Nat) (entry : Option Nat) (g : Got) : State :=
  match entry with
  | none => s
  | some k => s.setPair e { s.pair e with journal := (s.pair e).journal.modify k (JEntry.answered g) }

/-- The load queue writes returned data to registers in program order; an error at its head waits for the drain of R134
and then raises DATA_ERROR on that load, everything younger undone (R128, R134). -/
def State.drainLoads : Nat → Nat → State → State
  | 0, _, s => s
  | n + 1, e, s =>
    let q := s.port e
    match q.lq with
    | [] => s
    | l :: rest => match l.got with
      | .nothing => s
      | .bytes bs =>
        let t := s.each (s.cores e) (fun c u => u.setCore c ((u.core c).load l.dest l.size bs))
        let rest' := rest.map (fun y => { y with before := y.before.map (fun x => (x.1, x.2.load l.dest l.size bs)) })
        State.drainLoads n e (t.setPort e { q with lq := rest' })
      | .error =>
        if (s.pair e).fault.isSome then State.drainLoads n e (s.setPort e { q with lq := rest })
        else if !q.sb.isEmpty then s.setPort e { q with draining := true }
        else
          let t := s.each l.before (fun x u => u.setCore x.1 x.2)
          (t.setPort e { q with lq := [] }).exception e 7 (fun r => r.pc) (fun _ => BitVec.ofNat 32 l.addr)

/-- The load queue drained, and the votes withdrawn that waited for it (R124). -/
def State.drain (s : State) (e : Nat) : State := (State.drainLoads ((s.port e).lq.length) e s).settleVotes (e / 8)

/-- Load `i` of the queue receives what returned. -/
def State.loadGot (s : State) (e i : Nat) (g : Got) : State :=
  let q := s.port e
  match q.lq[i]? with
  | none => s
  | some l => (((s.setPort e { q with lq := q.lq.set i { l with got := g } }).recordGot e l.entry g)).drain e

/-- A Stacks bank returns the data of load `i`, or makes it wait (R128, R203). -/
def State.loadReturned (s : State) (e i : Nat) : State :=
  match (s.port e).lq[i]? with
  | some l => match l.place, l.got with
    | .stacks o, .nothing => match s.portRead e o l.size with
      | (t, .data bs) => t.loadGot e i (.bytes bs)
      | (_, .wait) => s
      | (t, _) => t.loadGot e i .error
    | _, _ => s
  | none => s

/-- LOAD_RETURN: a Stacks bank returns the data of load `i` (R128). -/
def execLoadReturn (e : Fin 513) (i : Fin 16) (s : State) : Result := .next (s.loadReturned e i)

/-- REMOTE_LOAD_TIMEOUT: no response within ENG_STORE_TO ticks is an error response; a later one is late (R170). -/
def execRemoteLoadTimeout (e : Fin 513) (i : Fin 16) (s : State) : Result :=
  .next (match (s.port e).lq[i.val]? with
    | some l => match l.got, l.place, l.tag with
      | .nothing, .remote _ _ _ _, some t => (s.remoteForget t).loadGot e i .error
      | .nothing, .host _ _, _ => s.loadGot e i .error
      | _, _, _ => s
    | none => s)

/-! ## Stores -/

/-- The level whose instructions answer for a loss of store `x` declared now: that of an exception that drains (R133), otherwise
that of the wait an interrupt has cut short, for a store older than it (R183). -/
def State.lossLevel (s : State) (e : Nat) (x : Store) : Option Nat :=
  let q := s.port e
  if q.draining then some (s.level e) else (q.cuts.reverse.find? (fun c => decide (x.seq < c.2))).map (·.1)

/-- A store declared lost, in its place among the lost ones (R130, R132); one declared while an exception drains, or while a wait
is interrupted, is not for the handler's instructions to meet (R133, R183). -/
def State.declareLost (s : State) (e : Nat) (x : Store) (unaccepted : Bool) : State :=
  let q := s.port e
  let l : Lost := ⟨x.addr, unaccepted, x.seq, s.lossLevel e x⟩
  let lost := q.lost.filter (fun y => decide (y.seq < x.seq)) ++ [l] ++ q.lost.filter (fun y => decide (x.seq ≤ y.seq))
  (s.setPort e { q with lost := lost }).inc ENG_LOSTCNT

/-- The store's entry leaves the buffer. -/
def State.popStore (s : State) (e i : Nat) : State :=
  let q := s.port e
  s.setPort e { q with sb := q.sb.eraseIdx i }

/-- Do two byte ranges overlap? -/
def spans (a n b m : Nat) : Bool := decide (a < b + m) && decide (b < a + n)

/-- An older store of the buffer overlaps store `i`, which is Accepted after it (R126). -/
def Port.storeBehind (q : Port) (i : Nat) (x : Store) : Bool :=
  (q.sb.take i).any (fun y => spans y.addr y.data.length x.addr x.data.length)

/-- A Stacks bank writes buffered store `i`, or makes it wait (R126, R203). -/
def State.storeWritten (s : State) (e i o : Nat) (data : List Byte) : State :=
  match s.stkWrite (stkRequester e) o (data.map some) false with
  | (_, .wait) => s
  | (t, _) => ((t.notePort e).popStore e i).drain e

/-- The host port transmits store `i` of core `e` to host address `a` and issues its zero-length read (R126); none: no room for
the read. -/
def State.hostStore (s : State) (e i a : Nat) (x : Store) : Option State :=
  ((s.sendTlp (.memWrite a x.data none false)).issueRead (.engineStore e) a 0 none).map (fun t =>
    let u := t.popStore e i
    (u.setPort e { u.port e with open_ := (u.port e).open_ ++ [{ x with tag := some (s.freeTag.getD 0) }] }).drain e)

/-- A store of core `e` to the host that is older stores' bytes let go: its place and host address. -/
def Port.hostStoreAt (q : Port) : Option (Nat × Nat × Store) :=
  q.sb.zipIdx.findSome? (fun x => match x.1.place with
    | .host _ a => if q.storeBehind x.2 x.1 then none else some (x.2, a, x.1)
    | _ => none)

/-- The oldest load of a queue that waits for the aperture to issue it: its place and host address. -/
def Port.hostLoadAt (q : Port) : Option (Nat × Nat × Load) :=
  q.lq.zipIdx.findSome? (fun x => match x.1.place, x.1.got, x.1.tag with
    | .host _ a, .nothing, none => some (x.2, a, x.1)
    | _, _, _ => none)

/-- The aperture's oldest waiting access is issued, or is no more; none: the host port has no room for it, or is not in L0. -/
def State.apertureNext (s : State) : Option State :=
  match s.host.aperture with
  | [] => none
  | (e, store) :: rest =>
    let t := { s with host := { s.host with aperture := rest } }
    let q := s.port e
    if store then match q.hostStoreAt with
      | none => some t
      | some (i, a, x) => if s.fld HPT_STATUS.LinkPower ≠ 0 then none else t.hostStore e i a x
    else match q.hostLoadAt with
      | none => some t
      | some (i, a, l) => (t.issueRead (.engineLoad e) a l.size none).map (fun u =>
          u.setPort e { u.port e with lq := (u.port e).lq.set i { l with tag := some (s.freeTag.getD 0) } })

/-- The host port can issue no request: every access that waits at the aperture ends in an error response at once (R412). -/
def State.apertureFail (s : State) : State :=
  let t := { s with host := { s.host with aperture := [] } }
  t.each s.host.aperture (fun w u =>
    if w.2 then match (u.port w.1).hostStoreAt with
      | some (i, _, x) => ((u.popStore w.1 i).declareLost w.1 x true).drain w.1
      | none => u
    else match (u.port w.1).hostLoadAt with
      | some (i, _, _) => u.loadGot w.1 i .error
      | none => u)

/-- STORE_ACCEPTED: buffered store `i` reaches its Accepted point: a Stacks bank has written it, or the host port has
transmitted it and issues its zero-length read (R126).  Stores to one address are Accepted in program order. -/
def execStoreAccepted (e : Fin 513) (i : Fin 8) (s : State) : Result :=
  .next (
    let q := s.port e
    match q.sb[i.val]? with
    | none => s
    | some x =>
      if q.storeBehind i x then s
      else match x.place with
        | .stacks o => s.storeWritten e i o x.data
        | .host _ a =>
          if !s.canRequest then ((s.popStore e i).declareLost e x true).drain e
          -- the port transmits nothing outside L0, so the store is not Accepted yet (R126)
          else if s.fld HPT_STATUS.LinkPower ≠ 0 || s.host.aperture.contains (e.val, true) then s
          else if s.apertureOpen then (s.hostStore e i a x).getD (s.apertureWait e true)
          else s.apertureWait e true
        | _ => s)

/-- STORE_TIMEOUT: a store that has not reached the point its waiter needs within ENG_STORE_TO ticks is declared lost;
`took` says whether a local one took effect all the same (R130). -/
def execStoreTimeout (e : Fin 513) (i : Fin 8) (isOpen took : Bool) (s : State) : Result :=
  .next (
    let q := s.port e
    if isOpen then match q.open_[i.val]? with
      | none => s
      | some x => (s.setPort e { q with open_ := q.open_.eraseIdx i }).declareLost e x false
    else match q.sb[i.val]? with
      | none => s
      | some x =>
        let t := match x.place with
          | .stacks o => if took then (s.stkWrite (stkRequester e) o (x.data.map some) false).1 else s
          | .remote _ _ _ _ => s.remoteForget (x.tag.getD 0)
          | _ => s
        ((t.popStore e i).declareLost e x true).drain e)

/-! ## Transfers (R171, R172) -/

/-- An older transfer in flight is to write bytes that transfer `i` writes too (R171). -/
def Port.heldBack (q : Port) (i : Nat) : Bool :=
  match q.xf[i]? with
  | none => true
  | some x => (q.xf.take i).any (fun y => !y.failed && spans y.dst y.size x.dst x.size)

/-- The oldest transfer whose data has come and that nothing holds back. -/
def Port.landing (q : Port) : Option (Nat × Nat × List Byte) :=
  (List.range q.xf.length).findSome? (fun i => match q.xf[i]? with
    | some x => if q.heldBack i then none else x.data.map (fun bs => (i, x.dst, bs))
    | none => none)

/-- Transfers whose data has come write DMEM, one after another, each once no older one overlaps it (R171). -/
def State.landXfers : Nat → Nat → State → State
  | 0, _, s => s
  | n + 1, e, s => match (s.port e).landing with
    | none => s
    | some (i, dst, bs) =>
      State.landXfers n e ((s.setPort e { s.port e with xf := (s.port e).xf.eraseIdx i }).dmStore e dst (fun _ => bs))

/-- Transfer `i` has its data, or has failed. -/
def State.xferGot (s : State) (e i : Nat) (g : Got) : State :=
  let q := s.port e
  match q.xf[i]? with
  | none => s
  | some x =>
    let t := s.recordGot e x.entry g
    let y := match g with
      | .bytes bs => { x with data := some bs }
      | _ => { x with failed := true }
    State.landXfers q.xf.length e (t.setPort e { t.port e with xf := q.xf.set i y })

/-- The place in the list of the `i`-th transfer in flight: one that has failed is in flight no more (R171). -/
def Port.inFlight (q : Port) (i : Nat) : Nat :=
  (((List.range q.xf.length).filter (fun j => (q.xf[j]?).any (fun x => !x.failed)))[i]?).getD q.xf.length

/-- A Stacks bank returns the data of the transfer at place `j` of the list, or makes it wait (R171, R203). -/
def State.xferReturned (s : State) (e j : Nat) : State :=
  match (s.port e).xf[j]? with
  | some x => match x.place, x.failed || x.data.isSome with
    | .stacks o, false => match s.portRead e o x.size with
      | (t, .data bs) => t.xferGot e j (.bytes bs)
      | (_, .wait) => s
      | (t, _) => t.xferGot e j .error
    | _, _ => s
  | none => s

/-- TRANSFER_COMPLETE: a Stacks bank returns the data of transfer `i` of those in flight, which is written to DMEM. -/
def execTransferComplete (e : Fin 512) (i : Fin 64) (s : State) : Result :=
  .next (s.xferReturned e ((s.port e).inFlight i))

/-- TRANSFER_TIMEOUT: no response within ENG_STORE_TO ticks. -/
def execTransferTimeout (e : Fin 512) (i : Fin 64) (s : State) : Result :=
  .next (
    let j := (s.port e).inFlight i
    match (s.port e).xf[j]? with
    | some x => if x.data.isSome then s else (match x.tag with
        | some t => s.remoteForget t
        | none => s).xferGot e j .error
    | none => s)

/-! ## Waiting (R129, R131, R132, R172) -/

/-- A lost store that an instruction of core `e` waits for: one not Accepted, or, for the Completed points, any (R131, R132),
unless an exception that its handler's instructions do not answer for was draining when it was declared (R133). -/
def State.meetsLost (s : State) (e : Nat) (completed : Bool) (l : Lost) : Bool :=
  (l.unaccepted || completed) && l.level.all (fun v => decide (s.level e ≤ v))

/-- STORE_LOST on the waiting instruction, with the address of the oldest lost store (R132). -/
def State.storeLost (s : State) (e : Nat) : State :=
  let q := s.port e
  let t := s.exception e 6 (fun r => r.pc) (fun _ => BitVec.ofNat 32 ((q.lost.head?.map (·.addr)).getD 0))
  let u := t.when (e != curator) (fun t => t.each (t.cores e) (fun c x => x.setF (ENG_E_FCAUSE.LostCount c) (min 255 q.lost.length)))
  (u.setPort e { u.port e with lost := [] }).raise ENG_IRQ_STATUS.StoreLost

/-- An instruction that waits for older stores to be Accepted, with `loads` for older loads and transfers, and with
`completed` for the stores' Completed points: it is noted that it waits; then STORE_LOST for a lost store, DATA_ERROR for a
failed transfer, otherwise `f`. -/
def State.waitThen (s : State) (e : Nat) (loads completed : Bool) (f : State → State) : State :=
  let q := s.port e
  if !q.sb.isEmpty || (loads && !(q.lq.isEmpty && q.xf.all (·.failed))) || (completed && !q.open_.isEmpty) then
    s.setPort e { q with waiting := true }
  else if q.lost.any (s.meetsLost e completed) then (if q.lq.isEmpty then s.storeLost e else s.setPort e { q with waiting := true })
  else match if loads then q.xf.head? else none with
    | some x => (s.setPort e { q with xf := [] }).exception e 7 (fun r => r.pc) (fun _ => BitVec.ofNat 32 x.src)
    | none => f (s.when q.waiting (·.setPort e { q with waiting := false }))

/-- A DMEM access of core `e` to `n` bytes at `o`: waits for an older transfer to bytes that overlap it, and raises
DATA_ERROR where that has failed. -/
def State.overXfers (s : State) (e o n : Nat) (f : State → State) : State :=
  let q := s.port e
  let hit := q.xf.filter (fun x => spans x.dst x.size o n)
  if hit.any (fun x => !x.failed) then s
  else match hit, q.xf.find? (·.failed) with
    | _ :: _, some x => if q.drained then
        (s.setPort e { q with xf := q.xf.filter (fun y => !y.failed) }).exception e 7 (fun r => r.pc) (fun _ => BitVec.ofNat 32 x.src)
      else s.setPort e { q with draining := true }
    | _, _ => f s

end Sys2Proof.Machine
end

