-- ==== Sys2Proof/Machine/Bay.lean ====
section
/-! DEFINITION. Machine/Bay.lean: the phasor and sort units, the bay registers, images, parameter blocks and the engine
commands (R101 to R124, R139 to R153). -/

namespace Sys2Proof.Machine

/-! ## The phasor unit (R141 to R146) -/

/-- ⌊(π / 2) × 2^128⌋. -/
abbrev halfPi : Nat := 534514292032483373929840186580935391650

/-- The Taylor series of cos (`k` = 0) or sin (`k` = 1) of `a`, in units of 2^-128: term `t` of order `k`, `n` terms on. -/
def taylor (a : Nat) : Nat → Nat → Int → Int
  | 0, _, _ => 0
  | n + 1, k, t => t + taylor a n (k + 2) (-(t * Int.ofNat a / 2 ^ 128 * Int.ofNat a / 2 ^ 128) / Int.ofNat ((k + 1) * (k + 2)))

/-- cos and sin of (π / 2) × r / N, in units of 2^-128. -/
def cosSin (r n : Nat) : Int × Int :=
  let a := halfPi * r / n
  (taylor a 24 0 (2 ^ 128), taylor a 24 1 (Int.ofNat a))

/-- A twiddle component as Q31, rounded to nearest and limited to the format. -/
def toQ31 (x : Int) : Int := (satInt 32 (rneInt x (2 ^ 97))).1

/-- W^i = e^(−j2πi/N) as Q31 (R144). -/
def twiddle (i n : Nat) : Int × Int :=
  let q := 4 * (i % n) / n
  let cs := cosSin (4 * (i % n) % n) n
  let e : Int × Int := match q with
    | 0 => (cs.1, -cs.2)
    | 1 => (-cs.2, -cs.1)
    | 2 => (-cs.1, cs.2)
    | _ => (cs.2, cs.1)
  (toQ31 e.1, toQ31 e.2)

/-- A bin that has not run. -/
def Bin.zero : Bin := ⟨0#96, 0#96, 0, false⟩

/-- Bin `k` of bay `b`. -/
def State.bin_ (s : State) (b k : Nat) : Bin := tget (fun _ => Bin.zero) s.eng.bins (32 * b + k)

/-- Bin `k` of bay `b` set. -/
def State.setBin (s : State) (b k : Nat) (x : Bin) : State :=
  { s with eng := { s.eng with bins := tset (fun _ => Bin.zero) s.eng.bins (32 * b + k) x } }

/-- A bin restarts with every field of its result cleared (R146). -/
def State.restartBin (s : State) (b k : Nat) : State :=
  ((((s.setBin b k Bin.zero).wr (BAYR_PR_RE b k) 0#32).wr (BAYR_PR_IM b k) 0#32).wr (BAYR_PR_COUNT b k) 0#32).wr
    (BAYR_PR_STAT b k) 0#32

/-- Sample `i` of a context's stream, counted in slots, as Q31; poison reads as 0 (R144, R199). -/
def State.phasorSample (s : State) (b : Nat) (c : Ctx) (i : Nat) : State × Int :=
  match s.readSample b c (i / c.k) (i % c.k) with
  | (t, some v) => (t, if c.store = 0 then signedOf 16 v * 2 ^ 16 else signedOf 32 v)
  | (t, none) => (t, 0)

/-- One sample enters a bin (R144): slot `g` of the stream. -/
def State.phasorStep (s : State) (b k : Nat) (c : Ctx) (n bin g : Nat) : State :=
  let x := s.bin_ b k
  let a := s.phasorSample b c g
  let d := if x.m < n then (a.1, (0 : Int)) else a.1.phasorSample b c (g - n)
  let w := twiddle (bin * (x.m % n)) n
  let v := a.2 - d.2
  d.1.setBin b k { x with re := x.re + BitVec.ofInt 96 (v * w.1), im := x.im + BitVec.ofInt 96 (v * w.2), m := x.m + 1 }

/-- The output of a bin: S, or S · W^(−k((m+1) mod N)), with the factor 2 ÷ N, each part rounded once to FP32. -/
def Bin.out (x : Bin) (refMode scale : Bool) (n bin : Nat) : Word × Word :=
  let re := x.re.toInt
  let im := x.im.toInt
  let w := twiddle (bin * (x.m % n)) n
  let o : Int × Int × Nat := if refMode then (re * w.1 + im * w.2, im * w.1 - re * w.2, 2 ^ 93) else (re, im, 2 ^ 62)
  let f (v : Int) : Word := if scale then (fpOfRat (2 * v) (o.2.2 * n)).1 else (fpOfRat v o.2.2).1
  (f o.1, f o.2.1)

/-- Bin `k`'s update for frame `fr` with the descriptor and the context of that frame's gather end (R143, R144). -/
def State.updateBin (t : State) (b fr k : Nat) (w0 w1 : Word) (c : Ctx) : State :=
  let n := (BAYR_PH_W1.Window b k).get w1
  let bin := (BAYR_PH_W1.Bin b k).get w1
  if !(c.inbound && !c.decimated && decide (c.store < 2) && decide (n + c.k ≤ 2 ^ c.depthLog) && decide (2 ≤ n) &&
      decide (n ≤ 4096) && decide (bin < n)) then t.setF (BAYR_PR_STAT.Unsuitable b k) 1
  else
    let u := t.each (List.range c.k) (fun j x => x.phasorStep b k c n bin (fr * c.k + j))
    let x := u.bin_ b k
    -- the output is S(m) for the last m accumulated, so W^(−k((m+1) mod N)) takes the count m + 1
    let o := x.out ((BAYR_PH_W0.RefMode b k).get w0 == 1) ((BAYR_PH_W0.Scale b k).get w0 == 1) n bin
    (((((u.wr (BAYR_PR_RE b k) o.1).wr (BAYR_PR_IM b k) o.2).wr (BAYR_PR_COUNT b k)
      (BitVec.ofNat 32 (min 0xFFFFFFFF x.m))).setB (BAYR_PR_STAT.Valid b k) (decide (n ≤ x.m))).setF
      (BAYR_PR_STAT.FrameLow b k) fr).setF (BAYR_PR_STAT.Unsuitable b k) 0

/-- The update under way in bay `b`. -/
def State.gather (s : State) (b : Nat) : Option Gather := tget (fun _ => none) s.eng.gathers b

/-- The update under way in bay `b` set. -/
def State.setGather (s : State) (b : Nat) (g : Option Gather) : State :=
  { s with eng := { s.eng with gathers := tset (fun _ => none) s.eng.gathers b g } }

/-- At the gather end of frame `n` bay `b`'s bins whose descriptor was written restart, and the update of the enabled ones
begins with what their descriptors and contexts are now (R144, R146). -/
def State.gatherBins (s : State) (b n : Nat) : State :=
  let t := s.each (List.range 32) (fun k u => u.when (u.bin_ b k).restart (·.restartBin b k))
  let bins := (List.range 32).filter (fun k => t.on (BAYR_PH_W0.Enable b k))
  if bins.isEmpty then t
  else
    let u := (t.setGather b (some ⟨n, bins.map (fun k =>
      (k, t.rd (BAYR_PH_W0 b k), t.rd (BAYR_PH_W1 b k), t.ctx (t.fld (BAYR_PH_W0.StreamId b k))))⟩)).voteDom (32 + b) false
    { u with eng := { u.eng with phasorVotes := addOnce u.eng.phasorVotes b, phasorLate := u.eng.phasorLate.erase b } }

/-- The phasor unit of bay `b` has an update under way (R144, R145). -/
def State.phasorBusy (s : State) (b : Nat) : Bool := s.eng.phasorVotes.contains b && !s.eng.phasorLate.contains b

/-- Does the update under way in bay `b` wait for a record at a bank (R203)? -/
def State.phasorWaits (s : State) (b : Nat) : Bool :=
  (s.gather b).any (fun g => g.bins.any (fun x =>
    let c := x.2.2.2
    let n := (BAYR_PH_W1.Window b x.1).get x.2.2.1
    c.inbound && !c.decimated && decide (c.store < 2) && (List.range c.k).any (fun j =>
      let i := g.frame * c.k + j
      s.sampleWaits b c (i / c.k) (i % c.k) || (decide (n ≤ i) && s.sampleWaits b c ((i - n) / c.k) ((i - n) % c.k)))))

/-- PHASOR_UPDATE_DONE: the bay's bins hold frame n's results and the unit's vote ends (R144, R145). -/
def execPhasorUpdateDone (b : Fin 64) (s : State) : Result :=
  .next (if !s.phasorBusy b || s.phasorWaits b then s
    else
      let t := match s.gather b with
        | some g => (s.each g.bins (fun x t => t.updateBin b g.frame x.1 x.2.1 x.2.2.1 x.2.2.2)).setGather b none
        | none => s
      ((if t.dataInFlight b then { t with eng := { t.eng with phasorLate := addOnce t.eng.phasorLate b.val } }
        else { t with eng := { t.eng with phasorVotes := t.eng.phasorVotes.erase b.val } }).restartIdle (32 + b.val)).bayEdge b 8)

/-- A swap replaces contexts: the bins that name one restart, and an update of such a bin that still runs is dropped (R146). -/
def State.swapBins (s : State) (ids : List Nat) : State :=
  s.each (List.range 64) (fun b t => t.each (List.range 32) (fun k u =>
    if u.on (BAYR_PH_W0.Enable b k) && ids.contains (u.fld (BAYR_PH_W0.StreamId b k)) then
      (u.restartBin b k).setGather b ((u.gather b).map (fun g => { g with bins := g.bins.filter (fun x => x.1 != k) }))
    else u))

/-! ## The sort unit (R147 to R149) -/

/-- An FP32 key in the order of R148: −0 equal to +0, every NaN above +∞. -/
def sortFloat (x : Nat) : Int :=
  let mag := x % 2 ^ 31
  if 0x7F800000 < mag then 2 ^ 33 else if x < 2 ^ 31 then Int.ofNat mag else -Int.ofNat mag

/-- The key width in bytes. -/
def keyWidth (fmt : Nat) : Nat := if fmt = 0 then 2 else 4

/-- A key in its order. -/
def sortKey (fmt raw : Nat) : Int :=
  match fmt with
  | 0 => signedOf 16 raw
  | 1 => signedOf 32 raw
  | _ => sortFloat raw

/-- The rank of key `i` (R148). -/
def rankOf (keys : List Int) (desc : Bool) (i : Nat) : Nat :=
  let x := keys.getD i 0
  ((keys.zipIdx).filter (fun y => (if desc then decide (x < y.1) else decide (y.1 < x)) || (y.1 == x && decide (y.2 < i)))).length

/-- The engine that a sort descriptor serves: the even engine of a pair (R147). -/
def State.sortEngine (s : State) (b i : Nat) : Nat := if s.paired b then i / 2 * 2 else i

/-- The engines waiting for the network of bay `b`, the one that holds it first. -/
def State.sorting (s : State) (b : Nat) : List Nat := tget (fun _ => []) s.eng.sorts b

/-- The queue at the network of bay `b` set; a grant is noted (R9, R150). -/
def State.setSorting (s : State) (b : Nat) (l : List Nat) (grant : Option Nat) : State :=
  let h := tget (fun _ => []) s.eng.sortGrants b
  { s with eng := { s.eng with
      sorts := tset (fun _ => []) s.eng.sorts b l,
      sortGrants := match grant with
        | some g => tset (fun _ => []) s.eng.sortGrants b (arbNote h g)
        | none => s.eng.sortGrants } }

/-- A write of 1 to Start: a sort begins, or Error is set (R147). -/
def State.sortStart (s : State) (b i0 : Nat) : State :=
  let i := s.sortEngine b i0
  let key := s.fld (BAYR_SD_KEY.KeyAddr b i)
  let rank := s.fld (BAYR_SD_RANK.RankAddr b i)
  let n := s.fld (BAYR_SD_CNT.Count b i)
  let f := s.fld (BAYR_SD_CNT.Format b i)
  if s.on (BAYR_SS.Busy b i) ∨ n = 0 ∨ 64 < n ∨ f = 3 ∨ 32768 < key + n * keyWidth f ∨ 32768 < rank + n then
    s.setF (BAYR_SS.Error b i) 1
  else
    let t := s.setF (BAYR_SS.Busy b i) 1
    t.setSorting b (t.sorting b ++ [i]) (if (t.sorting b).isEmpty then some i else none)

/-- SORT_START. -/
def execSortStart (b : Fin 64) (i : Fin 8) (s : State) : Result := .next (s.sortStart b i)

/-- The keys of a descriptor in engine `c`'s DMEM. -/
def State.sortKeys (s : State) (c b i : Nat) : List Int :=
  let f := s.fld (BAYR_SD_CNT.Format b i)
  (List.range (s.fld (BAYR_SD_CNT.Count b i))).map (fun k =>
    sortKey f (leNat (s.dmBytes c (s.fld (BAYR_SD_KEY.KeyAddr b i) + k * keyWidth f) (keyWidth f))))

/-- DMEM words that a read of `n` bytes at `o` by core `c` touches and that hold an uncorrectable error. -/
def State.badWord (s : State) (c o n : Nat) : Bool :=
  s.eng.bad.any (fun w => spans (32768 * c + o) n w 4)

/-- SORT_DONE: the network finishes; the ranks are written and the next waiting engine is granted (R148, R149).  A pair's
keys are compared as they are read (R149). -/
def execSortDone (b : Fin 64) (s : State) : Result :=
  .next (match s.sorting b with
    | [] => s
    | i :: rest =>
      let e := 8 * b.val + i
      let g := arbPick (tget (fun _ => []) s.eng.sortGrants b) rest
      let t := (s.setSorting b (match g with
        | some x => x :: rest.erase x
        | none => []) g).setF (BAYR_SS.Busy b i) 0
      let keys := s.sortKeys e b i
      let from_ := s.fld (BAYR_SD_KEY.KeyAddr b i)
      let size := s.fld (BAYR_SD_CNT.Count b i) * keyWidth (s.fld (BAYR_SD_CNT.Format b i))
      -- an uncorrectable word among a pair's keys is a lockstep fault (R111)
      if s.paired b && (s.badWord e from_ size || s.badWord (e + 1) from_ size) then t.mismatch e cpEcc
      else if s.paired b && (s.sortKeys (e + 1) b i != keys) then t.mismatch e cpUnit
      else
        let desc := s.on (BAYR_SD_CNT.Order b i)
        (t.dmStore e (s.fld (BAYR_SD_RANK.RankAddr b i)) (fun _ =>
          (List.range keys.length).map (fun k => BitVec.ofNat 8 (rankOf keys desc k)))).setF (BAYR_SS.Done b i) 1)

/-! ## Bay registers (R110) -/

/-- The key of bay register offset `o` of bay `b`. -/
def bayKey (b o : Nat) : Nat := 0x20000000 + 0x1000 * b + o

/-- A write of a bin descriptor's word; the bin restarts at the next gather end (R146). -/
def State.writeDescriptor (s : State) (b o : Nat) (v m : Word) : State :=
  let t := s.writeByCode (bayKey b o) v m
  t.setBin b (o / 16) { t.bin_ b (o / 16) with restart := true }

/-- PHASOR_DESCRIPTOR_WRITE: words 0 and 1 of bin `k`. -/
def execPhasorDescriptorWrite (b : Fin 64) (k : Fin 32) (w0 w1 : Word) (s : State) : Result :=
  .next ((s.writeDescriptor b (16 * k.val) w0 0xFFFFFFFF#32).writeDescriptor b (16 * k.val + 4) w1 0xFFFFFFFF#32)

/-- A Device write of bay register word `o` by engine `who` of the bay, bytes of `m` only. -/
def State.bayWrite (s : State) (who b o : Nat) (v m : Word) : State :=
  if o < 0x200 then s.writeDescriptor b o v m
  else if 0x400 ≤ o ∧ o < 0x480 ∧ o % 16 = 12 then if m.getLsbD 0 && v.getLsbD 0 then s.sortStart b ((o - 0x400) / 16) else s
  else if o = 0x828 then if m.getLsbD 0 then s.ringDoorbell b (v.truncate 8) else s
  else if 0x900 ≤ o ∧ o < 0x980 ∧ o % 8 = 4 then
    if m.getLsbD 0 then s.bayComp who b ((o - 0x900) / 16) (o % 16 == 4) (v.toNat % 256) else s
  else s.writeByCode (bayKey b o) v m

/-- BIC_DOORBELL and IRQ_BAYDB as they read: the pending bits of sources 48 to 55 (R440, R442). -/
def State.doorbellWord (s : State) (b : Nat) : Word := (s.rd (BAYR_BIC_PEND_HI b) >>> 16) &&& 0xFF#32

/-- A Device read of bay register word `o`; its RC fields within `m` clear. -/
def State.bayRead (s : State) (b o : Nat) (m : Word) : State × Word :=
  if o = 0x810 then (s, s.bayPendWord b 0)
  else if o = 0x814 then (s, s.bayPendWord b 32)
  else if o = 0x828 then (s, s.doorbellWord b)
  else match regRow (bayKey b o) with
    | none => (s, 0#32)
    | some r =>
      let w := s.rd (bayKey b o)
      (s.wr (bayKey b o) ((r.afterRead w &&& m) ||| (w &&& ~~~ m)), r.readValue w)

/-! ## Bay states (R103, R107) -/

/-- The states of ENG_BAY_STATUS.State. -/
abbrev byEmpty : Nat := 0
abbrev byLoaded : Nat := 1
abbrev byStarting : Nat := 2
abbrev byRunning : Nat := 3
abbrev byStopping : Nat := 4

/-- The state of bay `b`. -/
def State.bayState (s : State) (b : Nat) : Nat := s.fld (ENG_BAY_STATUS.State b)

/-- The engines of bay `b`. -/
def bayEngines (b : Nat) : List Nat := (List.range 8).map (· + 8 * b)

/-- The level of a spare pair's engines that carry no work (R153). -/
abbrev lvSpare : Nat := 6

/-- Every engine of the bay is halted at once and its partial work discarded, as for an overrun: the stores it has issued go on
(R40, R104).  An idle spare pair stays as it is. -/
def State.haltBay (s : State) (b : Nat) : State :=
  s.each (bayEngines b) (fun e t =>
    if (t.inPair e && e % 2 == 1) || t.level e == lvSpare then t
    else (t.stopEngine e 0).setPair e Pair.zero)

/-- The engines of an idle spare pair show that (R108, R153). -/
def State.markSpare (s : State) (b : Nat) : State :=
  s.each (bayEngines b) (fun c t => t.when (t.isSpare (c / 2 * 2)) (·.setLevel c lvSpare))

/-- The bay becomes EMPTY: memories 0, bay registers at reset, no image, no demotion (R103, R107, R231). -/
def State.emptyBay (s : State) (b : Nat) : State :=
  let t := (s.haltBay b).each (bayEngines b) (fun c t => ((t.wipeEngine c).setCore c Regs.zero).setLevel c 0)
  let inBay (c : Nat) : Bool := decide (c / 8 = b)
  let u := { t with
    regs := tclear t.regs (bayKey b 0) (bayKey b 0x1000),
    eng := { t.eng with
      images := tclear t.eng.images (8 * b) (8 * b + 8), copy := tclear t.eng.copy (8 * b) (8 * b + 8),
      bins := tclear t.eng.bins (32 * b) (32 * b + 32), gathers := tclear t.eng.gathers b (b + 1),
      phasorVotes := t.eng.phasorVotes.filter (fun x => x != b), phasorLate := t.eng.phasorLate.filter (fun x => x != b), repairs := t.eng.repairs.filter (fun c => !inBay c), sorts := tclear t.eng.sorts b (b + 1),
      hard := t.eng.hard.filter (fun c => !inBay c), moved := t.eng.moved.filter (fun m => !inBay m.1) } }
  (((((u.setF (ENG_BAY_STATUS.State b) byEmpty).setF (ENG_BAY_STATUS.DemotedMask b) 0).setF
    (ENG_BAY_STATUS.SpareActive b) 0).setF (ENG_BAY_STATUS.ImageRepair b) 0).setF (ENG_BAY_IMAGE.Valid b) 0)

/-- R107: what a change of Mode, SpareEn and SparePair does, and its status. -/
def State.bayConfig (s : State) (b mode spareEn sparePair : Nat) : State × Nat :=
  if mode = s.fld (ENG_BAY_CFG.Mode b) ∧ spareEn = s.fld (ENG_BAY_CFG.SpareEn b) ∧ sparePair = s.fld (ENG_BAY_CFG.SparePair b) then
    (s, stOk)
  else if spareEn = 1 ∧ mode = 0 then (s, stValueRange)
  else if 2 ≤ s.bayState b then (s, stBayRunning)
  else
    ((((s.emptyBay b).setF (ENG_BAY_CFG.Mode b) mode).setF (ENG_BAY_CFG.SpareEn b) spareEn).setF (ENG_BAY_CFG.SparePair b)
      sparePair |>.markSpare b, stOk)

/-- ENG_BAY_CONFIG. -/
def execEngBayConfig (h : SlipHdr) (bay mode spareEn sparePair : Byte) (s : State) : Result :=
  .next (s.runSlip h 0x0301 (.bay bay.toNat) (fun s =>
    if 64 ≤ bay.toNat ∨ 2 ≤ mode.toNat ∨ 2 ≤ spareEn.toNat ∨ 4 ≤ sparePair.toNat then refuse s stValueRange
    else
      let r := s.bayConfig bay.toNat mode.toNat spareEn.toNat sparePair.toNat
      (r.1, .done r.2 [])))

/-- A write to ENG_BAY_CFG: R107, with NoSleep written in any state. -/
def State.writeBayCfg (s : State) (b : Nat) (v : Word) : State :=
  let r := s.bayConfig b ((ENG_BAY_CFG.Mode b).get v) ((ENG_BAY_CFG.SpareEn b).get v) ((ENG_BAY_CFG.SparePair b).get v)
  r.1.setF (ENG_BAY_CFG.NoSleep b) ((ENG_BAY_CFG.NoSleep b).get v)

/-- ENG_BAY_CFG_WRITE. -/
def execEngBayCfgWrite (b : Fin 64) (v : Word) (s : State) : Result := .next (s.writeBayCfg b v)

/-- ENG_BAY_START. -/
def execEngBayStart (h : SlipHdr) (bay : Byte) (s : State) : Result :=
  .next (s.runSlip h 0x0303 (.bay bay.toNat) (fun s =>
    let b := bay.toNat
    if 64 ≤ b then refuse s stValueRange
    else if s.bayState b = byEmpty then refuse s stBayEmpty
    else if s.bayState b ≠ byLoaded then refuse s stBayRunning
    else (s.setF (ENG_BAY_STATUS.State b) byStarting, okAns)))

/-- ENG_BAY_STOP. -/
def execEngBayStop (h : SlipHdr) (bay : Byte) (s : State) : Result :=
  .next (s.runSlip h 0x0304 (.bay bay.toNat) (fun s =>
    let b := bay.toNat
    if 64 ≤ b then refuse s stValueRange
    else if s.bayState b = byEmpty then refuse s stBayEmpty
    else if s.bayState b = byLoaded then refuse s stBayIdle
    else (s.setF (ENG_BAY_STATUS.State b) byStopping, okAns)))

/-- A bay has a spare pair ready (R244). -/
def State.spareReady (s : State) (b : Nat) : Bool := s.on (ENG_BAY_CFG.SpareEn b) && !s.on (ENG_BAY_STATUS.SpareActive b)

/-- The ones of a word. -/
def ones (n w : Nat) : Nat := ((List.range n).filter (fun i => w.testBit i)).length

/-- ENG_INFO. -/
def execEngInfo (h : SlipHdr) (s : State) : Result :=
  .next (s.runSlip h 0x0300 .none (fun s =>
    let bays := List.range 64
    (s, .done stOk ((List.range 5).flatMap (fun x => leBytes 1 (bays.filter (fun b => s.bayState b == x)).length) ++
      leBytes 1 (bays.filter s.paired).length ++ leBytes 2 (bays.filter s.spareReady).length ++
      leBytes 2 (bays.map (fun b => ones 4 (s.fld (ENG_BAY_STATUS.DemotedMask b)))).sum))))

/-! ## Images (R115, R116) -/

/-- `x` rounded up to a multiple of 64. -/
def up64 (x : Nat) : Nat := (x + 63) / 64 * 64

/-- An image header's fields as read. -/
structure Header where
  magic : Nat
  version : Nat
  flags : Nat
  imem : Nat
  dmem : Nat
  setup : Nat
  entry : Nat
  exc : Nat
  pOff : Nat
  pLen : Nat
  mode : Nat
  zeros : Nat
  crc : Nat
deriving DecidableEq, Repr

/-- The 64 bytes of a header (R115). -/
def Header.of (h : List Byte) : Header :=
  ⟨bytesAt h 0 4, bytesAt h 4 2, bytesAt h 6 2, bytesAt h 8 4, bytesAt h 12 4, bytesAt h 16 4, bytesAt h 20 4, bytesAt h 24 4,
   bytesAt h 28 4, bytesAt h 32 4, bytesAt h 36 1, bytesAt h 37 23, bytesAt h 60 4⟩

/-- Does the header obey R115? -/
def Header.ok (h : Header) : Bool :=
  decide (h.magic = 0x494B4D4C ∧ h.version = 1 ∧ h.flags = 0 ∧ 4 ≤ h.imem ∧ h.imem ≤ 16384 ∧ h.imem % 4 = 0 ∧
    h.dmem ≤ 32768 ∧ h.dmem % 4 = 0 ∧ (h.setup = 0 ∨ h.setup = 512) ∧ h.entry < h.imem ∧ h.entry % 4 = 0 ∧
    h.exc % 64 = 0 ∧ h.exc + 0x240 ≤ 16384 ∧ h.pOff % 64 = 0 ∧ 4 ≤ h.pLen ∧ h.pLen ≤ 4096 ∧ h.pLen % 4 = 0 ∧
    h.pOff + 2 * up64 h.pLen ≤ 32768 ∧ h.mode ≤ 2 ∧ h.zeros = 0)

/-- Image offsets of the DMEM and setup sections, and of the image's end. -/
def Header.dmemAt (h : Header) : Nat := up64 (64 + h.imem)
def Header.setupAt (h : Header) : Nat := up64 (h.dmemAt + h.dmem)
def Header.last (h : Header) : Nat :=
  if h.setup ≠ 0 then h.setupAt + h.setup else if h.dmem ≠ 0 then h.dmemAt + h.dmem else 64 + h.imem

/-- The image bytes the CRC covers. -/
def State.imageCrc (s : State) (o : Nat) (h : Header) : Word :=
  crc32c (s.stkBytes o 60 ++ s.stkBytes (o + 64) h.imem ++ s.stkBytes (o + h.dmemAt) h.dmem ++ s.stkBytes (o + h.setupAt) h.setup)

/-- Every word of the image can be read and the CRC passes; poison fails it (R199). -/
def State.imageGood (s : State) (b o : Nat) (h : Header) : State × Bool :=
  match s.stkRead b o h.last with
  | (t, .data _) => (t, s.imageCrc o h == BitVec.ofNat 32 h.crc)
  | (t, _) => (t, false)

/-- The header of the image at `o` as the loader of bay `b` reads it; one that cannot be read obeys nothing (R203). -/
def State.imageHeader (s : State) (b o : Nat) : State × Header :=
  match s.stkRead b o 64 with
  | (t, .data bs) => (t, Header.of bs)
  | (t, _) => (t, Header.of [])

/-- Do reads of the image at `o` by bay `b` have to wait at a bank (R203)? -/
def State.imageWaits (s : State) (b o : Nat) : Bool :=
  s.readWaits b o 64 || s.readWaits b o (Header.of (s.stkBytes o 64)).last

/-- The engines of a load: those of the mask, and the odd partners of pairs. -/
def State.loadTargets (s : State) (b mask : Nat) : List Nat :=
  ((List.range 8).filter (fun i => mask.testBit i)).flatMap (fun i => s.cores (8 * b + i))

/-- Does the mask name an odd engine of a pair or an engine of the spare pair? -/
def State.badMask (s : State) (b mask : Nat) : Bool :=
  (List.range 8).any (fun i => mask.testBit i && s.paired b && (i % 2 == 1 || s.isSpare (8 * b + i)))

/-- ENG_IMAGE_LOAD: the checks of R116 in their order. -/
def execEngImageLoad (h : SlipHdr) (bay mask : Byte) (offset : Word) (s : State) : Result :=
  .next (s.runSlip h 0x0302 (.bay bay.toNat) (fun s =>
    let b := bay.toNat
    let o := offset.toNat
    if 64 ≤ b ∨ mask = 0#8 ∨ s.badMask b mask.toNat then refuse s stValueRange
    else if 2 ≤ s.bayState b then refuse s stBayRunning
    else if s.on FRM_STATUS.StagedFrozen then refuse s stStageFrozen
    else if o % 64 ≠ 0 ∨ o < 2 * bankSize ∨ stkEnd ≤ o then refuse s stAddressInvalid
    -- the loader's reads wait at their banks (R203)
    else if s.imageWaits b o then
      (s, .held 0x0302 ([bay, mask] ++ leBytes 2 0 ++ leBytes 4 o))
    else
      let g := s.imageHeader b o
      let s := g.1
      let x := g.2
      if !x.ok then refuse s stImageInvalid
      else if stkEnd < o + x.last then refuse s stAddressInvalid
      else match s.imageGood b o x with
        | (t, false) => (t, .done stImageInvalid [])
        | (t, true) =>
          if (x.mode = 1 ∧ !s.paired b) ∨ (x.mode = 2 ∧ s.paired b) then (t, .done stModeMismatch [])
          else (t, .accepted (.imageLoad b mask.toNat o))))

/-- The words a byte string spells. -/
def wordsIn (bs : List Byte) : List Word := (List.range (bs.length / 4)).map (fun i => BitVec.ofNat 32 (bytesAt bs (4 * i) 4))

/-- IMEM of engine `c` written from the image: the section, with 0 in the rest. -/
def State.loadImem (s : State) (c o : Nat) (x : Header) : State :=
  { s with eng := { s.eng with imem := tclear s.eng.imem (4096 * c) (4096 * (c + 1)) } }.imPut c 0
    (wordsIn (s.stkBytes (o + 64) x.imem))

/-- One engine loaded (R116). -/
def State.loadEngine (s : State) (o : Nat) (x : Header) (c : Nat) : State :=
  let dm := s.stkBytes (o + x.dmemAt) x.dmem
  let img : Image := ⟨x.imem, x.exc, x.pOff, x.pLen, BitVec.ofNat 32 x.crc⟩
  let block := padTo x.pLen (dm.drop x.pOff)
  let t := ((s.wipeEngine c).loadImem c o x).dmPut c 0 dm
  let u := (t.dmPut c x.pOff (leBytes 4 0 ++ block.drop 4)).dmPut c (x.pOff + img.span) (leBytes 4 (x.entry + 1) ++ block.drop 4)
  { (u.setCore c ((u.core c).wc 5 3#32)) with
    eng := { (u.setCore c ((u.core c).wc 5 3#32)).eng with
      images := tset (fun _ => none) u.eng.images c (some img), copy := tset (fun _ => 0) u.eng.copy c 0 } }

/-- IMAGE_LOAD_DONE: the image is written, the bay becomes LOADED, and the final return slip reports the Crc (R116). -/
def execImageLoadDone (bay : Fin 64) (s : State) : Result :=
  .next (match s.backgroundOf 0x0302 (.bay bay.val) with
    | some g => match g.cmd with
      | .imageLoad b mask o =>
        let x := Header.of (s.stkBytes o 64)
        match s.stkRead b o x.last with
        | (_, .wait) => s
        | (t, .data _) =>
          let u := t.each (t.loadTargets b mask) (fun c y => y.loadEngine o x c)
          let v := if x.setup = 0 then u
            else u.each ((wordsIn (s.stkBytes (o + x.setupAt) 512)).zipIdx) (fun w y => y.writeDescriptor b (4 * w.2) w.1 0xFFFFFFFF#32)
          let w := (((v.setF (ENG_BAY_STATUS.State b) byLoaded).setF (ENG_BAY_IMAGE.Valid b) 1).setF (ENG_BAY_IMAGE.Offset b)
            (o / 64)).raise ENG_IRQ_STATUS.ImageLoaded
          w.finishBackground g stOk (leBytes 4 x.crc)
        | (t, _) => t.finishBackground g stMediaError []
      | _ => s
    | none => s)

/-! ## Parameter blocks (R102, R117, R118) -/

/-- The status of naming engine `e` in a command (R102). -/
def State.engineName (s : State) (e : Nat) : Bool := decide (e < 512) && !(s.inPair e && e % 2 == 1)

/-- The engine whose memory holds logical engine `e`'s parameters, with its image; none where `e` is no logical engine. -/
def State.paramEngine (s : State) (e : Nat) : Option (Nat × Option Image) :=
  if !s.engineName e || s.isSpare e then none else some (s.carrier e, s.image (s.carrier e))

/-- ENG_PARAM_STAGE; held while a parameter copy runs. -/
def execEngParamStage (h : SlipHdr) (engine offset : BitVec 16) (data : List Byte) (s : State) : Result :=
  .next (s.runSlip h 0x0305 .none (fun s =>
    let e := engine.toNat
    let o := offset.toNat
    if s.eng.copying then (s, .held 0x0305 (leBytes 2 e ++ leBytes 2 o ++ data))
    else match s.paramEngine e with
      | none => refuse s stValueRange
      | some (_, none) => refuse s stBayEmpty
      | some (c, some i) =>
        if s.bayState (e / 8) = byEmpty then refuse s stBayEmpty
        else if s.on FRM_STATUS.StagedFrozen then refuse s stStageFrozen
        else if o % 4 ≠ 0 ∨ data.length % 4 ≠ 0 ∨ data.length < 4 ∨ 44 < data.length ∨ i.paramLength < o + data.length then
          refuse s stValueRange
        else (s.each (s.cores c) (fun x t => t.dmPut x (t.paramAt x i true + o) data), okAns)))

/-- ENG_PARAM_READ. -/
def execEngParamRead (h : SlipHdr) (engine offset : BitVec 16) (view : Byte) (s : State) : Result :=
  .next (s.runSlip h 0x0306 .none (fun s =>
    let e := engine.toNat
    let o := offset.toNat
    match s.paramEngine e with
      | none => refuse s stValueRange
      | some (_, none) => refuse s stBayEmpty
      | some (c, some i) =>
        if 2 ≤ view.toNat ∨ i.paramLength ≤ o then refuse s stValueRange
        else (s, .done stOk (padTo 16 (s.dmBytes c (s.paramAt c i (view == 1#8) + o) (min 16 (i.paramLength - o)))))))

/-- ENG_STATUS. -/
def execEngStatus (h : SlipHdr) (engine : BitVec 16) (s : State) : Result :=
  .next (s.runSlip h 0x0307 .none (fun s =>
    let e := engine.toNat
    if !s.engineName e then refuse s stValueRange
    else (s, .done stOk (s.words [ENG_E_STATUS e, ENG_E_PC e, ENG_E_FCAUSE e, ENG_E_FADDR e]))))

/-- The current and staged copies change places at a swap; the copy over the new staged copy starts (R117). -/
def State.swapParams (s : State) : State :=
  let t := s.each (s.eng.images.map (·.1)) (fun c t =>
    { t with eng := { t.eng with copy := tset (fun _ => 0) t.eng.copy c (1 - t.copyOf c) } })
  { t with eng := { t.eng with copying := true } }

/-- The current copy is copied over the staged copy of every engine (R117, R66). -/
def State.copyParams (s : State) : State :=
  s.each s.eng.images (fun p t => match p.2 with
    | some i => t.dmPut p.1 (t.paramAt p.1 i true) (t.dmBytes p.1 (t.paramAt p.1 i false) i.span)
    | none => t)

/-! ## Local memories in the host windows (R113, R114) -/

/-- The byte at a slot offset. -/
def State.slotByte (s : State) (e o : Nat) : Byte :=
  if o < 0x4000 then BitVec.ofNat 8 ((tget (fun _ => 0#32) s.eng.imem (4096 * e + o / 4)).toNat / 2 ^ (8 * (o % 4)))
  else if o < 0xC000 then tget (fun _ => 0#8) s.eng.dmem (32768 * e + (o - 0x4000))
  else 0#8

/-- One byte written at a slot offset. -/
def State.slotPut (s : State) (e o : Nat) (b : Byte) : State :=
  if o < 0x4000 then
    let w := tget (fun _ => 0#32) s.eng.imem (4096 * e + o / 4)
    s.imPut e (o / 4) [(w &&& ~~~ BitVec.ofNat 32 (0xFF * 2 ^ (8 * (o % 4)))) ||| BitVec.ofNat 32 (b.toNat * 2 ^ (8 * (o % 4)))]
  else if o < 0xC000 then s.dmPut e (o - 0x4000) [b]
  else s

/-- A host write to engine `e`'s slot: performed in a LOADED bay, otherwise discarded and counted (R114). -/
def State.windowWrite (s0 : State) (e o : Nat) (data : List (Option Byte)) : State :=
  let b := e / 8
  let s := s0.touchBay b
  if s.bayState b ≠ byLoaded then (s.inc ENG_WINWR).raise ENG_IRQ_STATUS.WindowDiscard
  else
    let cs := if s.paired b then [e / 2 * 2, e / 2 * 2 + 1] else [e]
    s.each cs (fun c t => t.each data.zipIdx (fun x u => match x.1 with
      | some v => u.slotPut c (o + x.2) v
      | none => u))

/-- The word and its byte mask that four bytes of a write spell. -/
def wordOf (bs : List (Option Byte)) : Word × Word :=
  ((List.range 4).foldl (fun w i => w ||| BitVec.ofNat 32 ((((bs[i]?).getD none).getD 0#8).toNat * 2 ^ (8 * i))) 0#32,
   (List.range 4).foldl (fun w i => if ((bs[i]?).getD none).isSome then w ||| BitVec.ofNat 32 (0xFF * 2 ^ (8 * i)) else w) 0#32)

/-- A host write to engine `e`'s slot.  One to a LOADED bay that has no power votes on the bay and is performed, word by word,
once the bay runs (R114, R522). -/
def State.windowStore (s : State) (e o : Nat) (data : List (Option Byte)) : State :=
  let d := 32 + e / 8
  if 2 ≤ s.fld (PWR_DOM.State d) then s.windowWrite e o data
  else
    let t := s.voteDom d true
    if s.bayState (e / 8) ≠ byLoaded then (t.inc ENG_WINWR).raise ENG_IRQ_STATUS.WindowDiscard
    else
      let all := List.replicate (o % 4) none ++ data
      let words := (List.range ((all.length + 3) / 4)).map (fun i => (o / 4 * 4 + 4 * i, wordOf (all.drop (4 * i))))
      { t with pwr := { t.pwr with accesses := t.pwr.accesses ++ (words.filter (fun w => w.2.2 != 0#32)).map (fun w =>
          (⟨d, 0x2000000 + 0x10000 * e + w.1, some w.2.1, w.2.2⟩ : RegAccess)) } }

/-- ENGINE_WINDOW_WRITE. -/
def execEngineWindowWrite (e : Fin 512) (offset : Fin 65536) (data : List (Option Byte)) (s : State) : Result :=
  .next (s.windowStore e offset data)

/-! ## Compute-start (R37, R119, R120) -/

/-- The compute-start event of frame `n` reaches logical engine memory `e`: an engine without a valid entry keeps
waiting. -/
def State.deliverStart (s : State) (e n : Nat) : State :=
  if !(s.entryOf e).1 then s.setPort e { s.port e with deferred := none }
  else
    let t := s.each (s.cores e) (fun c u => (u.freshCore c n).when (c != curator) (·.setF (ENG_E_STATUS.HaltCause c) 0))
    let q := t.port e
    let u := t.setPort e { q with lq := [], xf := [], start := t.now, clock := t.time.local_, fend := none, frame := n,
                                  dead := false, deferred := none, draining := false, waiting := false, cuts := [] }
    let p := u.pair e
    let v := if u.inPair e then u.setPair e { Pair.zero with history := p.history, migrate := p.migrate, irqs := u.irqCheckpoint e } else u
    if v.on FLT_INJECT.Armed && 8 * v.fld FLT_INJECT.Bay + 2 * v.fld FLT_INJECT.Pair == e then
      { v with eng := { v.eng with inject := true } } else v

/-- Pair `e` is demoted (R227). -/
def State.demoted (s : State) (e : Nat) : Bool := s.on ⟨ENG_BAY_STATUS (e / 8), 8 + e % 8 / 2, 8 + e % 8 / 2⟩

/-- The spare pair `e` carries, or is being given, a demoted pair's work (R228). -/
def State.carries (s : State) (e : Nat) : Bool := s.eng.moved.any (fun m => m.2 == e)

/-- The engines that hold an image or are being given one by a migration. -/
def State.imaged (s : State) : List Nat := s.eng.moved.foldl (fun l m => addOnce l m.2) (s.eng.images.map (·.1))

/-- May engine `e` take compute-start: its bay RUNNING, an image or a migration to it, neither demoted nor an unfilled spare
(R103, R108, R228, R230)? -/
def State.takesStart (s : State) (e : Nat) : Bool :=
  s.bayState (e / 8) == byRunning && s.engineName e && ((s.image e).isSome || s.carries e) && !s.demoted e &&
  (!s.isSpare e || s.carries e)

/-- A compute-start waits: the bay is not awake, its IMEM is under repair, or a migration to it has not ended. -/
def State.startBlocked (s : State) (e : Nat) : Bool :=
  !s.bayAwake (e / 8) || s.eng.repairs.contains e ||
  (s.isSpare e && !s.on (ENG_BAY_STATUS.SpareActive (e / 8)))

/-- Compute-start of frame `n` at engine `e` (R120), deferred while it cannot be delivered (R111, R123, R228). -/
def State.computeStart (s : State) (e n : Nat) : State :=
  if !s.takesStart e then s
  else if s.startBlocked e then s.setPort e { s.port e with deferred := some n }
  else s.deliverStart e n

/-- A deferred compute-start is delivered when nothing blocks it any more. -/
def State.resumeStart (s : State) (e : Nat) : State :=
  match (s.port e).deferred with
  | some n => if s.startBlocked e then s else s.deliverStart e n
  | none => s

/-! ## Faults of Single bays and migration (R106, R111, R228, R229) -/

/-- SINGLE_FAULT: an uncorrectable IMEM word, or a parity error in the pipeline. -/
def execSingleFault (e : Fin 512) (parity : Bool) (s : State) : Result :=
  .next (if s.inPair e || !s.bayRuns (e.val / 8) || s.level e == 0 then s
    else
      let pc := (s.core e).pc.toNat
      let t := ((s.stopEngine e 2).logEvent 0x0304 e (leBytes 4 parity.toNat ++ leBytes 4 pc)).raise ENG_IRQ_STATUS.SingleFault
      ((t.heldOut).dropFrameVote (e.val / 8)).when (!parity) (fun t =>
        let u := t.setF (ENG_BAY_STATUS.ImageRepair (e.val / 8)) 1
        { u with eng := { u.eng with repairs := addOnce u.eng.repairs e } }))

/-- IMEM_REPAIR_DONE: the engine's IMEM is rewritten from the image, or, where the image no longer passes its CRC check,
the bay enters LOADED (R111). -/
def execImemRepairDone (e : Fin 512) (s : State) : Result :=
  .next (
    let b := e.val / 8
    if !s.eng.repairs.contains e.val then s
    else
      let o := s.fld (ENG_BAY_IMAGE.Offset b) * 64
      let x := Header.of (s.stkBytes o 64)
      let ended (t : State) (left : List Nat) : State :=
        ({ t with eng := { t.eng with repairs := left } }.setB (ENG_BAY_STATUS.ImageRepair b)
          (left.any (fun c => decide (c / 8 = b)))).raise ENG_IRQ_STATUS.ImageRepair
      match s.stkRead b o (if x.ok then x.last else 64) with
      | (_, .wait) => s
      | (t, r) =>
        let read := match r with
          | .data _ => true
          | _ => false
        if x.ok && read && s.imageCrc o x == BitVec.ofNat 32 x.crc then
          ((ended t (t.eng.repairs.erase e.val)).loadImem e o x).resumeStart e
        else
          (((ended t (t.eng.repairs.filter (fun c => decide (c / 8 ≠ b)))).haltBay b).setF (ENG_BAY_STATUS.State b)
            byLoaded).logEvent 0x0306 b (leBytes 4 o))

/-- MIGRATION_DONE: the spare pair of bay `b` holds the demoted pair's image and DMEM, and its deferred compute-start is
delivered (R228); or the migration fails and the logical engine stays without a carrier (R229). -/
def execMigrationDone (b : Fin 64) (s : State) : Result :=
  .next (match s.eng.moved.find? (fun m => m.1 / 8 == b.val) with
    | none => s
    | some (old, spare) =>
      if s.on (ENG_BAY_STATUS.SpareActive b) ∨ s.imageWaits b (s.fld (ENG_BAY_IMAGE.Offset b) * 64) then s
      else
        let o := s.fld (ENG_BAY_IMAGE.Offset b) * 64
        let x := Header.of (s.stkBytes o 64)
        let g := s.imageGood b o x
        let both := s.eng.bad.any (fun w => w / 32768 == old && s.eng.bad.contains (w + 32768))
        let first := s.frm.last
        let note (t : State) (failed : Nat) : State :=
          ((t.logEvent 0x0303 old (leBytes 1 failed ++ leBytes 1 (spare % 8 / 2) ++ leBytes 2 0 ++ leBytes 8 first)).raise
            FLT_IRQ_STATUS.Migrated)
        if !(x.ok && g.2) || both then
          note (({ g.1 with eng := { g.1.eng with moved := s.eng.moved.filter (fun m => m.1 != old) } }).setPort spare
            { g.1.port spare with deferred := none }) 1
        else
          let words := (List.range 8192).flatMap (fun i =>
            let k := 32768 * old + 4 * i
            s.dmBytes (if s.eng.bad.contains k then old + 1 else old) (4 * i) 4)
          let t := g.1.each [spare, spare + 1] (fun c t =>
            let u := ((t.wipeEngine c).loadImem c o x).dmPut c 0 words
            { (u.setCore c ((u.core c).wc 5 ((u.core old).rc 5))) with eng := { (u.setCore c ((u.core c).wc 5 ((u.core old).rc 5))).eng with
                images := tset (fun _ => none) u.eng.images c (s.image old),
                copy := tset (fun _ => 0) u.eng.copy c (s.copyOf old) } })
          let u := t.each ((List.range 56).filter (fun k => s.bayRoute b k == old % 8)) (fun k t =>
            t.setF (BAYR_BIC_ROUTE.Engine b k) (spare % 8))
          -- the spare pair waits for compute-start as any other (R120)
          let w := u.each [spare, spare + 1] (fun c t => (t.setLevel c 1).setF (ENG_E_STATUS.HaltCause c) 0)
          (note ((w.setF (ENG_BAY_STATUS.SpareActive b) 1).inc FLT_MIGRATED) 0).resumeStart spare)

end Sys2Proof.Machine
end

