-- ==== Sys2Proof/Machine/Edge.lean ====
section
/-! DEFINITION. Machine/Edge.lean: edge I/O (R245 to R277): modulator channels, fast trips, interlocks, HOLD_N, gate pairs,
AUX pins and the EDG configuration writes. -/

namespace Sys2Proof.Machine

/-- A configuration write that is refused is counted and raises CfgRefused (EDG_CFGREF). -/
def State.edgRefused (s : State) : State := (s.inc EDG_CFGREF).raise EDG_IRQ_STATUS.CfgRefused

/-! ## HOLD_N (R266 to R269) -/

/-- HOLD_N asserted with its pin low. -/
def State.holdLow (s : State) (cause : Nat) : State :=
  ((s.setF EDG_HOLD.State 1).setF EDG_STATUS.HoldAsserted 1).setF EDG_HOLD.Cause cause

/-- An assertion of HOLD_N other than by a reset (R267). -/
def State.assertHold (s : State) (cause : Nat) : State :=
  ((s.holdLow cause).logEvent 0x0504 cause []).raise EDG_IRQ_STATUS.HoldAsserted

/-- The conditions of R65 and R268 for a release.  Once a stop has been accepted none is taken, so that frames never stop while
gates are controllable (R33; DESIGN CHOICE, log entry 48). -/
def State.holdReleasable (s : State) : Bool :=
  s.sched == run && !s.frm.stopping && s.rd FRM_EDITION != 0#32 && s.on FRM_STATUS.FirstFrameDone && !s.tripLatched && !s.pfail

/-- The level of the HOLD_N pin: low while it is asserted and VDD_EDGE powers its pull-down; otherwise it is the level of the board's
chain, which is free (R266, R269). -/
def State.holdPin (s : State) : State × Bool :=
  if s.holdAsserted && s.supplied 5 then (s, false) else (s.takeFree.2, s.takeFree.1.getLsbD 0)

/-- EDG_HOLD as it reads: PinLevel is the pin itself (R269). -/
def State.holdWord (s : State) : State × Word :=
  (s.holdPin.1, EDG_HOLD.PinLevel.put (s.rd EDG_HOLD &&& 0xFFFFFFFC#32) s.holdPin.2.toNat)

/-- A release of HOLD_N, or its refusal (R268); it abandons a deep-sleep entry (R524).  A HOLD_N already released stays so,
and nothing else follows. -/
def State.releaseHold (s0 : State) : State × Bool :=
  let s := s0.abandonSleep 3
  if s.holdReleasable && !s.holdAsserted then (s, true)
  else if s.holdReleasable then
    let t := { ((s.setF EDG_HOLD.State 0).setF EDG_STATUS.HoldAsserted 0) with
               edg := { s.edg with parked := 0xFFFFFF#24 } }
    ((t.logEvent 0x0505 0 (leBytes 4 (t.rd FRM_EDITION).toNat)).raise EDG_IRQ_STATUS.HoldReleased, true)
  else (s.setF EDG_HOLD.ReleaseRefused 1, false)

/-- EDG_HOLD_ASSERT. -/
def execEdgHoldAssert (h : SlipHdr) (s : State) : Result :=
  .next (s.runSlip h 0x050B .none (fun s => (s.assertHold 0, okAns)))

/-- A write of 1 to EDG_HOLD.Assert. -/
def execEdgHoldAssertWrite (s : State) : Result := .next (s.assertHold 1)

/-- EDG_HOLD_RELEASE. -/
def execEdgHoldRelease (h : SlipHdr) (s : State) : Result :=
  .next (s.runSlip h 0x050A .none (fun s =>
    match s.releaseHold with
    | (t, true) => (t, okAns)
    | (t, false) => (t, .done stHoldRefused [])))

/-- A write of 1 to EDG_HOLD.Release. -/
def execEdgHoldReleaseWrite (s : State) : Result := .next s.releaseHold.1

/-- A write of EDG_HOLD: an assertion in the same write wins over a release, which is refused (R268). -/
def State.writeEdgHold (s : State) (v : Word) : State :=
  let t := (s.setB EDG_HOLD.PfailHold (v.getLsbD 8)).when (v.getLsbD 9) (·.setF EDG_HOLD.ReleaseRefused 0)
  if v.getLsbD 1 then (t.assertHold 1).when (v.getLsbD 0) (·.setF EDG_HOLD.ReleaseRefused 1)
  else if v.getLsbD 0 then t.releaseHold.1
  else t

/-! ## Latches (R250, R253, R256) -/

/-- The first latch since all were clear records STIME (R250). -/
def State.tripStime (s : State) : State :=
  if s.tripLatched then s else s.wr64 EDG_TRIP_STIME_LO EDG_TRIP_STIME_HI s.now

/-- The pairs that the set latches name. -/
def State.latchedPairs (s : State) : BitVec 24 :=
  let ilk := (List.range 8).foldl (fun m k =>
    if (s.rd EDG_TRIP_ILK).getLsbD k then m ||| BitVec.ofNat 24 (s.fld (EDG_ILK.PairMask k)) else m) 0#24
  (List.range 32).foldl (fun m c =>
    if (s.rd EDG_TRIP_MOD).getLsbD c then m ||| BitVec.ofNat 24 (s.fld (EDG_MOD_MASK.PairMask c)) else m) ilk

/-- The pairs a latch names wait for a release instant after it clears (R256). -/
def State.park (s : State) : State := { s with edg := { s.edg with parked := s.edg.parked ||| s.latchedPairs } }

/-- A pair whose outputs go to off at once. -/
def PairOut.off (o : PairOut) : PairOut := ⟨false, false, if o.h then 0 else o.sinceH, if o.l then 0 else o.sinceL⟩

/-- The outputs at reset: off, and off for long. -/
def PairOut.init : PairOut := ⟨false, false, 1023, 1023⟩

/-- The outputs of pair `q`. -/
def State.pairOut (s : State) (q : Nat) : PairOut := tget (fun _ => PairOut.init) s.edg.pairs q

/-- The pairs of a mask are forced to their off levels, without waiting for a step of the grid (R253). -/
def State.forceOff (s : State) (mask : BitVec 24) : State :=
  s.each ((List.range 24).filter mask.getLsbD) (fun q t =>
    { t with edg := { t.edg with pairs := tset (fun _ => PairOut.init) t.edg.pairs q (t.pairOut q).off } })

/-- Interlock `k` latches (R253). -/
def State.latchIlk (s : State) (k : Nat) : State :=
  let hold := s.on (EDG_ILK.Hold k)
  let t := ((s.tripStime).setF ⟨EDG_TRIP_ILK, k, k⟩ 1).park
  let t := t.forceOff (BitVec.ofNat 24 (s.fld (EDG_ILK.PairMask k)))
  let u := (t.logEvent 0x0501 k (leBytes 1 hold.toNat)).raise EDG_IRQ_STATUS.Interlock
  u.when hold (·.assertHold 2)

/-- The interlock inputs that are active latch where they are enabled (R253, R255). -/
def State.latchActive (s : State) (active : BitVec 8) : State :=
  s.each (List.range 8) (fun k t =>
    if active.getLsbD k ∧ t.edg.ilkLoaded ∧ t.on (EDG_ILK.Enable k) ∧ !(t.rd EDG_TRIP_ILK).getLsbD k then t.latchIlk k else t)

/-- The inputs active after polarity and filter: at the active level for longer than Filt × 5 ns; none while the interlock
path holds no configuration or VDD_EDGE does not power it (R253, R255). -/
def State.ilkActive (s : State) : BitVec 8 :=
  if s.edg.ilkLoaded && s.supplied 5 then
    (List.range 8).foldl (fun m k =>
      if s.edg.ilkPins.getLsbD k ≠ s.on (EDG_ILK.ActiveLow k) ∧ 5 * s.fld (EDG_ILK.Filt k) < tget (fun _ => 0) s.edg.ilkFor k then
        m ||| BitVec.ofNat 8 (2 ^ k)
      else m) 0#8
  else 0#8

/-- IlkActive shows the active inputs, and those that are enabled latch (R253, R255). -/
def State.ilkRefresh (s : State) : State := (s.setF EDG_STATUS.IlkActive s.ilkActive.toNat).latchActive s.ilkActive

/-- The interlock latches whose cause is still present (R256). -/
def State.ilkCause (s : State) (k : Nat) : Bool :=
  s.on ⟨EDG_STATUS, 8 + k, 8 + k⟩ && s.on (EDG_ILK.Enable k)

/-- Latches named by two masks are cleared where their cause has gone (R256). -/
def State.clearLatches (s : State) (ilk mods : Nat) : State :=
  let ci := (List.range 8).filter (fun k => ilk.testBit k && (s.rd EDG_TRIP_ILK).getLsbD k && !s.ilkCause k)
  let cm := (List.range 32).filter (fun c => mods.testBit c && (s.rd EDG_TRIP_MOD).getLsbD c && !s.on (EDG_MOD_STAT.OutOfRange c))
  if ci.isEmpty && cm.isEmpty then s
  else
    let t := ((s.park.each ci (fun k t => t.setF ⟨EDG_TRIP_ILK, k, k⟩ 0)).each cm (fun c t => t.setF ⟨EDG_TRIP_MOD, c, c⟩ 0))
    t.logEvent 0x0506 0 (leBytes 1 ((ci.map (2 ^ ·)).sum) ++ leBytes 3 0 ++ leBytes 4 ((cm.map (2 ^ ·)).sum))

/-- TRIP_LATCH_CLEAR: a write of 1s to EDG_TRIP_ILK and EDG_TRIP_MOD (R256). -/
def execTripLatchClear (ilk : BitVec 8) (mods : Word) (s : State) : Result := .next (s.clearLatches ilk.toNat mods.toNat)

/-- EDG_TRIP_CLEAR: the latches still set; TRIP_ACTIVE when one named stays set. -/
def execEdgTripClear (h : SlipHdr) (ilk : Byte) (mods : Word) (s : State) : Result :=
  .next (s.runSlip h 0x0509 .none (fun s =>
    let t := s.clearLatches ilk.toNat mods.toNat
    let left := leBytes 1 (t.rd EDG_TRIP_ILK).toNat ++ leBytes 3 0 ++ leBytes 4 (t.rd EDG_TRIP_MOD).toNat
    let stays := (t.rd EDG_TRIP_ILK &&& ilk.zeroExtend 32) != 0#32 || (t.rd EDG_TRIP_MOD &&& mods) != 0#32
    (t, .done (if stays then stTripActive else stOk) left)))

/-! ## Modulator filters (R246 to R252) -/

/-- The integrators after a bit: each adds the one before it, the first the bit itself. -/
def sincInteg : Nat → Int → List Int → List Int
  | 0, _, _ => []
  | n + 1, x, l =>
    let y := l.headD 0 + x
    y :: sincInteg n y l.tail

/-- The differences at the end of a window: the output and the values kept. -/
def sincComb : Nat → Int → List Int → Int × List Int
  | 0, v, _ => (v, [])
  | n + 1, v, l =>
    let r := sincComb n (v - l.headD 0) l.tail
    (r.1, v :: r.2)

/-- A sinc^N filter of decimation `d` takes bit `j`; at the end of a window, bits wd to wd + d - 1, it gives the sum of its
taps, once N windows have been captured whole (R247). -/
def Sinc.push (f : Sinc) (n d j : Nat) (bit : Bool) : Sinc × Option Int :=
  let ig := sincInteg n (if bit then 1 else -1) f.integ
  if (j + 1) % d = 0 then
    let r := sincComb n (ig.getLastD 0) f.comb
    let w := if f.bits + 1 = d then min n (f.windows + 1) else 0
    (⟨ig, r.2, 0, w⟩, if w = n then some r.1 else none)
  else (⟨ig, f.comb, f.bits + 1, f.windows⟩, none)

/-- N of a channel: 3, 4 or 5. -/
def State.modOrder (s : State) (c : Nat) : Nat := s.fld (EDG_MOD_CFG.Order c) + 3

/-- T of a channel's fast filter. -/
def State.fastDec (s : State) (c : Nat) : Nat := s.fld (EDG_MOD_TRIP.TDec c) + 1

/-- Does the channel capture bits (R248)? -/
def State.capturing (s : State) (c : Nat) : Bool :=
  s.on (EDG_MOD_CFG.Enable c) && s.on (EDG_MCLK.Enable (s.fld (EDG_MOD_CFG.Clock c)))

/-- The run of equal bits (R249): 64 of them set Stuck, a transition clears it. -/
def State.modRun (s : State) (c : Nat) (bit : Bool) : State :=
  let m := s.chan c
  let n := if m.run ≠ 0 ∧ m.level = bit then m.run + 1 else 1
  let t := s.setChan c { m with run := min n 65, level := bit }
  if n = 1 then t.setF (EDG_MOD_STAT.Stuck c) 0
  else if n = 64 then
    (((t.setF (EDG_MOD_STAT.Stuck c) 1).setB (EDG_MOD_STAT.StuckLevel c) bit).logEvent 0x0503 c (leBytes 1 bit.toNat)).raise
      EDG_IRQ_STATUS.Stuck
  else t

/-- The arrival stamp of an output whose last bit is that of edge `j`: 8 ns after its sampling instant, the selected edge
delayed by Skew × 0.8 ns (R246, R247), in whole ns. -/
def State.filterStamp (s : State) (c j : Nat) : Nat := s.edgeInstant c j + (40 + 4 * s.fld (EDG_MOD_CFG.Skew c)) / 5

/-- MDAT_SAMPLE: channel `c` samples MDATc at its next clock edge (R246, R247, R249, R250); each edge has its sample (DESIGN
CHOICE, log entry 52). -/
def execMdatSample (c : Fin 32) (bit : Bool) (s : State) : Result :=
  .next (if !s.capturing c then s
    else
      let d := s.fld (EDG_MOD_CFG.Dec c)
      let n := s.modOrder c
      let tdec := s.fastDec c
      let j := (s.chan c).next
      let t := (s.atLeast (s.edgeInstant c j)).modRun c bit
      let m := t.chan c
      let a := m.slow.push n d j bit
      let b := m.fast.push 3 tdec j bit
      let r := match a.2 with
        | some y => m.ready ++ [((sat32 (rneInt (y * 2 ^ 31) (d ^ n))).1, BitVec.ofNat 64 (s.filterStamp c j))]
        | none => m.ready
      let q := match b.2 with
        | some y => m.fastReady ++ [BitVec.ofInt 16 (satInt 16 (rneInt (y * 2 ^ 15) (tdec ^ 3))).1]
        | none => m.fastReady
      t.setChan c { m with next := j + 1, slow := a.1, fast := b.1, ready := r, fastReady := q })

/-- FILTER_OUTPUT: the oldest computed output completes at its arrival stamp and raises its bay source (R247, R440). -/
def execFilterOutput (c : Fin 32) (s : State) : Result :=
  .next (let m := s.chan c
    match m.ready with
    | [] => s
    | y :: r =>
      let outs := m.outs ++ [y]
      let t := ((s.atLeast y.2.toNat).setChan c { m with ready := r, outs := outs.drop (outs.length - 16) }).setF
        (EDG_MOD_STAT.Settled c) 1
      t.allBaysEdge (16 + c))

/-- A fast output beyond the thresholds of a THR word (R250). -/
def beyondThr (thr : Word) (y : BitVec 16) : Bool :=
  decide ((BitVec.ofNat 16 (cut thr 31 16)).toInt < y.toInt) || decide (y.toInt < (BitVec.ofNat 16 (cut thr 15 0)).toInt)

/-- FAST_OUTPUT: the fast-trip filter's output is compared with the thresholds; Count consecutive ones out of range trip (R250). -/
def execFastOutput (c : Fin 32) (s : State) : Result :=
  .next (let m := s.chan c
    match m.fastReady with
    | [] => s
    | y :: r =>
      let out := beyondThr (s.rd (EDG_MOD_THR c)) y
      let n := if out then min 16 (m.beyond + 1) else 0
      let t := ((s.setChan c { m with fastReady := r, beyond := n, judged := true }).setB (EDG_MOD_STAT.OutOfRange c) out).setF
        (EDG_MOD_STAT.LastFast c) y.toNat
      if t.on (EDG_MOD_TRIP.Enable c) ∧ t.fld (EDG_MOD_TRIP.Count c) ≤ n ∧ out ∧ !(t.rd EDG_TRIP_MOD).getLsbD c then
        let hold := t.on (EDG_MOD_TRIP.Hold c)
        let u := ((t.tripStime).setF ⟨EDG_TRIP_MOD, c, c⟩ 1).park
        let w := (u.logEvent 0x0502 c (leBytes 1 hold.toNat ++ leBytes 1 0 ++ leBytes 2 y.toNat)).raise EDG_IRQ_STATUS.FastTrip
        w.when hold (·.assertHold 3)
      else t)

/-! ## Configuration of clocks, channels, trips and interlocks -/

/-- An enabled channel selects clock `m`. -/
def State.clockSelected (s : State) (m : Nat) : Bool :=
  (List.range 32).any (fun c => s.on (EDG_MOD_CFG.Enable c) && s.fld (EDG_MOD_CFG.Clock c) == m)

/-- EDG_MCLK(m) set (R245): its status, OK or the refusal. -/
def State.setMclk (s : State) (m : Nat) (en : Bool) (period : Nat) : State × Nat :=
  if period ≠ s.fld (EDG_MCLK.Period m) ∧ s.clockSelected m then (s, stChannelBusy)
  else if period < 40 ∨ 200 < period then (s, stValueRange)
  else
    let t := (s.setB (EDG_MCLK.Enable m) en).setF (EDG_MCLK.Period m) period
    if en then
      -- channels that the clock starts again capture from its next edge on
      let starts := if s.on (EDG_MCLK.Enable m) then []
        else (List.range 32).filter (fun c => s.on (EDG_MOD_CFG.Enable c) && s.fld (EDG_MOD_CFG.Clock c) == m)
      (({ t with edg := { t.edg with mclkUsed := t.edg.mclkUsed ||| BitVec.ofNat 4 (2 ^ m) } } : State).each starts
        (fun c x => x.edgeFromNow c), stOk)
    else (t, stOk)

/-- EDG_MCLK_WRITE. -/
def execEdgMclkWrite (m : Fin 4) (v : Word) (s : State) : Result :=
  .next (match s.setMclk m (v.getLsbD 0) (cut v 15 8) with
    | (t, 0) => t
    | (t, _) => t.edgRefused)

/-- EDG_MCLK_CONFIG. -/
def execEdgMclkConfig (h : SlipHdr) (clock en period : Byte) (s : State) : Result :=
  .next (s.runSlip h 0x0501 .none (fun s =>
    if 3 < clock.toNat ∨ 1 < en.toNat then refuse s stValueRange
    else match s.setMclk clock.toNat (en == 1#8) period.toNat with
      | (t, 0) => (t, okAns)
      | (t, st) => (if st = stChannelBusy then t.edgRefused else t, .done st [])))

/-- Channel `c`'s Enable is set: its filters restart from empty at its clock's next edge (R247).  The run of R249, LastFast
and OutOfRange stand (DEDUCED, log entry 52). -/
def State.enableChan (s : State) (c : Nat) : State :=
  ((s.setChan c { s.chan c with
      slow := Sinc.empty, fast := Sinc.empty, ready := [], fastReady := [], outs := [], beyond := 0 }).setF
    (EDG_MOD_STAT.Settled c) 0).edgeFromNow c

/-- EDG_MOD_CFG(c) set (R247, R248). -/
def State.setModCfg (s : State) (c : Nat) (v0 : Word) : State × Nat :=
  let v := v0 &&& 0x003FFFFF#32
  let old := s.rd (EDG_MOD_CFG c)
  let dec := cut v 16 6
  if old.getLsbD 0 ∧ (v &&& 0xFFFFFFFE#32) ≠ (old &&& 0xFFFFFFFE#32) then (s, stChannelBusy)
  else if 2 < cut v 5 4 ∨ dec < 16 ∨ 1024 < dec then (s, stValueRange)
  else
    let t := s.wr (EDG_MOD_CFG c) v
    (t.when (v.getLsbD 0 && !old.getLsbD 0) (·.enableChan c), stOk)

/-- EDG_MOD_CFG_WRITE. -/
def execEdgModCfgWrite (c : Fin 32) (v : Word) (s : State) : Result :=
  .next (match s.setModCfg c v with
    | (t, 0) => t
    | (t, _) => t.edgRefused)

/-- EDG_MOD_CONFIG. -/
def execEdgModConfig (h : SlipHdr) (channel : Byte) (v : Word) (s : State) : Result :=
  .next (s.runSlip h 0x0502 .none (fun s =>
    if 31 < channel.toNat then refuse s stValueRange
    else match s.setModCfg channel.toNat v with
      | (t, 0) => (t, okAns)
      | (t, st) => (if st = stChannelBusy then t.edgRefused else t, .done st [])))

/-- The trip configuration of channel `c` with the given words breaks R251. -/
def State.tripTiming (s : State) (c : Nat) (trip thr : Word) : Bool :=
  let hi := (BitVec.ofNat 16 (cut thr 31 16)).toInt
  let lo := (BitVec.ofNat 16 (cut thr 15 0)).toInt
  decide (hi ≤ lo) || decide (cut trip 5 1 < 3) ||
  decide (900 < cut trip 9 6 * (cut trip 5 1 + 1) * s.fld (EDG_MCLK.Period (s.fld (EDG_MOD_CFG.Clock c))))

/-- The three trip registers written (R250 to R252); a new T restarts the fast filter, and the last fast output is judged by
the new thresholds (R256). -/
def State.setTrip (s : State) (c : Nat) (trip thr mask : Word) : State × Nat :=
  if !s.holdAsserted then (s, stHoldNotAsserted)
  else if cut trip 9 6 = 0 then (s, stValueRange)
  else if s.tripTiming c trip thr then (s, stTimingInvalid)
  else
    let m := s.chan c
    let t := if cut trip 5 1 = s.fld (EDG_MOD_TRIP.TDec c) then s
      else s.setChan c { m with fast := Sinc.empty, fastReady := [], beyond := 0 }
    let t := t.setB (EDG_MOD_STAT.OutOfRange c)
      (m.judged && beyondThr thr (BitVec.ofNat 16 (s.fld (EDG_MOD_STAT.LastFast c))))
    (((t.wr (EDG_MOD_TRIP c) (trip &&& 0x7FF#32)).wr (EDG_MOD_THR c) thr).wr (EDG_MOD_MASK c) (mask &&& 0xFFFFFF#32), stOk)

/-- EDG_TRIP_REG_WRITE: one of TRIP (0), THR (1) and MASK (2), judged with the other two as they stand. -/
def execEdgTripRegWrite (c : Fin 32) (which : Fin 3) (v : Word) (s : State) : Result :=
  .next (let trip := if which.val = 0 then v else s.rd (EDG_MOD_TRIP c)
    let thr := if which.val = 1 then v else s.rd (EDG_MOD_THR c)
    let mask := if which.val = 2 then v else s.rd (EDG_MOD_MASK c)
    match s.setTrip c trip thr mask with
    | (t, 0) => t
    | (t, _) => t.edgRefused)

/-- EDG_TRIP_CONFIG. -/
def execEdgTripConfig (h : SlipHdr) (channel : Byte) (trip thr mask : Word) (s : State) : Result :=
  .next (s.runSlip h 0x0503 .none (fun s =>
    if 31 < channel.toNat then refuse s stValueRange
    else match s.setTrip channel.toNat trip thr mask with
      | (t, 0) => (t, okAns)
      | (t, st) => (if st = stHoldNotAsserted then t.edgRefused else t, .done st [])))

/-- EDG_ILK(k), EDG_POL_LO and EDG_POL_HI accept writes only in STOPPED (R254). -/
def State.setInStopped (s : State) (a : Nat) (v : Word) : State × Nat :=
  if s.sched = stopped then (s.wr a v, stOk) else (s.edgRefused, stNotRunning)

/-- EDG_ILK(k) written: its pin is judged by the new polarity and filter, and latches at once where it is active and now
enabled (R253; DEDUCED, log entry 18). -/
def State.setIlk (s : State) (k : Nat) (v : Word) : State × Nat :=
  match s.setInStopped (EDG_ILK k) (v &&& 0xFFFFFF3F#32) with
  | (u, 0) => ({ u with edg := { u.edg with ilkLoaded := true } }.ilkRefresh, stOk)
  | r => r

/-- EDG_ILK_WRITE: a write to EDG_ILK(k), or, with `k` 8 and 9, to EDG_POL_LO and EDG_POL_HI. -/
def execEdgIlkWrite (k : Fin 10) (v : Word) (s : State) : Result :=
  .next (if k.val < 8 then (s.setIlk k v).1
    else if k.val = 8 then (s.setInStopped EDG_POL_LO v).1
    else (s.setInStopped EDG_POL_HI (v &&& 0xFFFF#32)).1)

/-- EDG_ILK_CONFIG. -/
def execEdgIlkConfig (h : SlipHdr) (input : Byte) (v : Word) (s : State) : Result :=
  .next (s.runSlip h 0x0504 .none (fun s =>
    if 7 < input.toNat then refuse s stValueRange
    else
      let r := s.setIlk input.toNat v
      (r.1, .done r.2 [])))

/-- EDG_POL_SET. -/
def execEdgPolSet (h : SlipHdr) (mask : BitVec 48) (s : State) : Result :=
  .next (s.runSlip h 0x0505 .none (fun s =>
    if s.sched ≠ stopped then (s.edgRefused, .done stNotRunning [])
    else ((s.wr EDG_POL_LO (mask.truncate 32)).wr EDG_POL_HI (BitVec.ofNat 32 (mask.toNat / 2 ^ 32)), okAns)))

/-- EDG_AUX_DIR_SET (R271). -/
def execEdgAuxDirSet (h : SlipHdr) (v : Word) (s : State) : Result :=
  .next (s.runSlip h 0x0508 .none (fun s =>
    let r := s.setInStopped EDG_AUX_DIR v
    (r.1, .done r.2 [])))

/-! ## Shadow sets (R48, R49, R258, R271) -/

/-- A pair's shadow set breaks R258. -/
def pairInvalid (cfg time : Word) : Bool :=
  cut cfg 1 0 == 3 || ((cut cfg 1 0 == 1 || cut cfg 1 0 == 2) && cut time 7 0 == 0) || (cfg.getLsbD 3 && cfg.getLsbD 4)

/-- The two words of pair `q`'s shadow set written, or the set ignored (R258). -/
def State.writePair (s : State) (q : Nat) (cfg time : Word) : State × Nat :=
  if pairInvalid cfg time then (s.edgRefused, stTimingInvalid)
  else ((s.writeShadow (EDG_PAIR_CFG q) (cfg &&& 0x8000001F#32)).writeShadow (EDG_PAIR_TIME q) (time &&& 0x0FFFFFFF#32), stOk)

/-- A register write to one half of a pair's shadow set is judged with the other half as it stands. -/
def State.writePairHalf (s : State) (q : Nat) (isTime : Bool) (v : Word) : State :=
  let cfg := if isTime then s.shadowNow (EDG_PAIR_CFG q) else v
  let time := if isTime then v else s.shadowNow (EDG_PAIR_TIME q)
  if pairInvalid cfg time then s.edgRefused
  else if isTime then s.writeShadow (EDG_PAIR_TIME q) (v &&& 0x0FFFFFFF#32)
  else s.writeShadow (EDG_PAIR_CFG q) (v &&& 0x8000001F#32)

/-- EDG_PAIR_STAGE: the set with Commit set. -/
def execEdgPairStage (h : SlipHdr) (pair : Byte) (cfg time : Word) (s : State) : Result :=
  .next (s.runSlip h 0x0506 .none (fun s =>
    if 23 < pair.toNat then refuse s stValueRange
    else if s.on FRM_STATUS.StagedFrozen then refuse s stStageFrozen
    else
      let r := s.writePair pair.toNat (cfg ||| 0x80000000#32) time
      (r.1, .done r.2 [])))

/-- EDG_AUX_STAGE: the AUX set with Commit set. -/
def execEdgAuxStage (h : SlipHdr) (sh0 sh1 : Word) (s : State) : Result :=
  .next (s.runSlip h 0x0507 .none (fun s =>
    if s.on FRM_STATUS.StagedFrozen then refuse s stStageFrozen
    else (((s.writeShadow EDG_AUX_SH0 sh0).writeShadow EDG_AUX_SH1 sh1).writeShadow EDG_AUX_SH2 1#32, okAns)))

/-- EDG_INFO. -/
def execEdgInfo (h : SlipHdr) (s : State) : Result :=
  .next (s.runSlip h 0x0500 .none (fun s =>
    (s.holdWord.1, .done stOk (s.words [EDG_STATUS] ++ leBytes 4 s.holdWord.2.toNat ++ s.words [EDG_TRIP_ILK, EDG_TRIP_MOD]))))

/-! ## Dynamic parameters (R259 to R262) -/

/-- The Edge contexts of the current edition that name index `i`: the WireFormat of the highest; Q31 where none does. -/
def State.dynFormat (s : State) (i : Nat) : Nat :=
  match (s.catIds.filter (fun id => (s.ctx id).sink == 1 && cut (s.ctx id).w3 7 0 == i)).getLast? with
  | some id => (s.ctx id).wire
  | none => 1

/-- The staged value of index `i` set by requester `r` of the staging arbiter (R262), in the WireFormat of the context that
stages it; a value that no context stages has none. -/
def State.stageDynAs (s : State) (r i : Nat) (v : Word) (fmt : Option Nat) : State :=
  { (s.wr (EDG_DYN i) v) with edg := { s.edg with
      grants := arbNote s.edg.grants r, staged := addOnce s.edg.staged i,
      stagedFmt := tset (fun _ => none) s.edg.stagedFmt i fmt } }

/-- The staged value of index `i` set by requester `r`, a bay port, the host or the Curator (R262). -/
def State.stageDyn (s : State) (r i : Nat) (v : Word) : State := s.stageDynAs r i v none

/-- The staged values at a boundary are those of the frame to be released, read under the edition that frame was produced
under (R46, R260, R262). -/
def State.edgeBoundary (s : State) : State :=
  { s with edg := { s.edg with
      due := s.edg.staged.map (fun i =>
        (i, ⟨s.rd (EDG_DYN i), (tget (fun _ => none) s.edg.stagedFmt i).getD (s.dynFormat i)⟩)), staged := [], stagedFmt := [] } }

/-- A request at the staging arbiter: requester, index and value. -/
abbrev DynReq := Nat × Nat × Word

/-- DYN_WRITE: the writes present, granted one after another under R9 (R262). -/
def State.stageAll : Nat → State → List DynReq → State
  | 0, s, _ => s
  | n + 1, s, reqs =>
    match arbPick s.edg.grants (reqs.map (·.1)) with
    | none => s
    | some r =>
      match reqs.find? (fun q => q.1 == r) with
      | none => s
      | some q => State.stageAll n (s.stageDyn q.1 q.2.1 q.2.2) (reqs.erase q)

/-- DYN_WRITE. -/
def execDynWrite (reqs : List (Fin 67 × Fin 112 × Word)) (s : State) : Result :=
  .next (State.stageAll reqs.length s (reqs.map (fun q => (q.1.val, q.2.1.val, q.2.2))))

/-- A value as a rational fraction x, decoded by its format (R260); an FP32 word by its value, subnormals too. -/
def EdgVal.frac (v : EdgVal) : Int × Nat :=
  if v.fmt = 2 then
    let e : Nat := v.bits.toNat / 2 ^ 23 % 256
    let m : Nat := v.bits.toNat % 2 ^ 23
    let signed (n : Nat) : Int := if v.bits.getLsbD 31 then -Int.ofNat n else Int.ofNat n
    if e = 255 then ((if m ≠ 0 then 0 else if v.bits.getLsbD 31 then -1 else 2), 1)
    else if e = 0 then (signed m, 2 ^ 149)
    else if e ≤ 150 then (signed (m + 2 ^ 23), 2 ^ (150 - e))
    else (signed ((m + 2 ^ 23) * 2 ^ (e - 150)), 1)
  else (signedOf (fmtWidth v.fmt) v.bits.toNat, 2 ^ fmtFrac v.fmt)

/-- A timing value as a step of the window (R260). -/
def EdgVal.step (v : EdgVal) (period : Nat) : Nat :=
  let (n, d) := v.frac
  if n ≤ 0 then 0
  else if Int.ofNat d ≤ n then period / 5
  else min (period / 5) (rneNat (n.toNat * period) (d * 5))

/-- The value last released at index `i`; one never released is 0. -/
def State.edgVal (s : State) (i : Nat) : EdgVal := (tget (fun _ => none) s.edg.vals i).getD ⟨0#32, 1⟩

/-- A released value. -/
def State.setEdgVal (s : State) (i : Nat) (v : EdgVal) : State :=
  { s with edg := { s.edg with vals := tset (fun _ => none) s.edg.vals i (some v) } }

/-- The reference of two steps at step `k` of a window whose last whole step is `n` (R261); 0 and `n` keep it on to the window's
end, where the period is no multiple of 5 ns too. -/
def reference (n s0 s1 k : Nat) : Bool :=
  if s0 = 0 ∧ s1 = n ∧ 0 < n then true
  else if s0 < s1 then decide (s0 ≤ k) && decide (k < s1) else if s1 < s0 then !(decide (s1 ≤ k) && decide (k < s0)) else false

/-! ## Gate pairs (R263 to R265) -/

/-- The fourth row of R264: STOPPED (and ARMED, R31), HELD, or edition 0. -/
def State.heldPattern (s : State) : Bool := s.sched != run || s.rd FRM_EDITION == 0#32

/-- wantH and wantL of a mode, at step `k` of the window (R264). -/
def State.modeWants (s : State) (q k : Nat) : Bool × Bool :=
  let p := s.period
  let ref (i : Nat) : Bool := reference (p / 5) ((s.edgVal i).step p) ((s.edgVal (i + 1)).step p) k
  match s.fld (EDG_PAIR_ACFG.Mode q) with
  | 1 => (ref (4 * q), !ref (4 * q))
  | 2 => (ref (4 * q), ref (4 * q + 2))
  | _ => (false, false)

/-- The source of a pair below the latched row (R264, R265). -/
def State.pairWants (s : State) (q k : Nat) : Bool × Bool :=
  if s.holdAsserted || s.edg.parked.getLsbD q then (false, false)
  else if s.heldPattern then
    if s.on (EDG_PAIR_ACFG.Held q) || !s.edg.released then (s.on (EDG_PAIR_ACFG.SafeH q), s.on (EDG_PAIR_ACFG.SafeL q))
    else s.modeWants q k
  else s.modeWants q k

/-- The output logic of R263 for one pair, its counters already advanced to this step. -/
def PairOut.logic (o : PairOut) (want : Bool × Bool) (dead minOn minOff : Nat) : PairOut :=
  let h1 := if o.h ∧ !want.1 ∧ minOn ≤ o.sinceH then false else o.h
  let l1 := if o.l ∧ !want.2 ∧ minOn ≤ o.sinceL then false else o.l
  let cH := if h1 = o.h then o.sinceH else 0
  let cL := if l1 = o.l then o.sinceL else 0
  if !h1 ∧ want.1 ∧ !l1 ∧ minOff ≤ cH ∧ dead ≤ cL then ⟨true, l1, 0, cL⟩
  else if !l1 ∧ want.2 ∧ !h1 ∧ minOff ≤ cL ∧ dead ≤ cH then ⟨h1, true, cH, 0⟩
  else ⟨h1, l1, cH, cL⟩

/-- One step of pair `q` at step `k`. -/
def State.pairStep (s : State) (q k : Nat) : State :=
  let o := s.pairOut q
  let a := { o with sinceH := min 1023 (o.sinceH + 1), sinceL := min 1023 (o.sinceL + 1) }
  let b := if s.latchedPairs.getLsbD q then
      (⟨false, false, if o.h then 0 else a.sinceH, if o.l then 0 else a.sinceL⟩ : PairOut)
    else a.logic (s.pairWants q k) (s.fld (EDG_PAIR_ATIME.DeadTime q)) (s.fld (EDG_PAIR_ATIME.MinOn q))
      (s.fld (EDG_PAIR_ATIME.MinOff q))
  { s with edg := { s.edg with pairs := tset (fun _ => PairOut.init) s.edg.pairs q b } }

/-- GATE_PAIR_STEP: the next 5 ns step of the grid (R263); the window repeats every ⌈P / 5⌉ steps. -/
def execGatePairStep (s : State) : Result :=
  .next (let k := s.edg.step
    let t := s.atLeast (s.edg.origin + 5 * k)
    let w := k % ((t.period + 4) / 5)
    let u := if t.on EDG_STATUS.FuseMode then t else t.each (List.range 24) (fun q x => x.pairStep q w)
    { u with edg := { u.edg with step := k + 1 } })

/-! ## AUX outputs (R271) -/

/-- The level AUXk drives: while the fourth row of R264 applies its last one, where Held is 0. -/
def State.auxLevelOf (s : State) (k : Nat) : Bool :=
  if s.heldPattern then
    if s.edg.auxHeld.getLsbD k then s.edg.auxHeld.getLsbD (16 + k) else s.edg.aux.getLsbD k
  else if s.edg.auxLevel.getLsbD (16 + k) then decide (0 < (s.edgVal (96 + k)).frac.1)
  else s.edg.auxLevel.getLsbD k

/-- The levels of the AUX outputs are remembered as the last ones: before their rule changes and at each release. -/
def State.auxUpdate (s : State) : State :=
  { s with edg := { s.edg with aux := (List.range 16).foldl (fun m k => if s.auxLevelOf k then m ||| BitVec.ofNat 16 (2 ^ k) else m) 0#16 } }

/-- The edge sets with Commit swap at an edition swap (R48, R258, R271). -/
def State.swapEdge (s : State) : State :=
  let t := s.each (List.range 24) (fun q t =>
    if t.on (EDG_PAIR_CFG.Commit q) then
      ((t.setF (EDG_PAIR_CFG.Commit q) 0).wr (EDG_PAIR_ACFG q) (t.rd (EDG_PAIR_CFG q) &&& 0x1F#32)).wr (EDG_PAIR_ATIME q)
        (t.rd (EDG_PAIR_TIME q))
    else t)
  if t.on EDG_AUX_SH2.Commit then
    let t := t.auxUpdate
    { (t.setF EDG_AUX_SH2.Commit 0) with edg := { t.edg with auxLevel := t.rd EDG_AUX_SH0, auxHeld := t.rd EDG_AUX_SH1 } }
  else t

/-- The staged copies of the edge output parameters become copies of the current ones (R66); while the guard window is open
the copies are writes to the latches as any other (R49; DEDUCED, assumption log 48). -/
def State.revertEdge (s : State) : State :=
  let t := s.each (List.range 24) (fun q t =>
    (t.writeShadow (EDG_PAIR_CFG q) (t.rd (EDG_PAIR_ACFG q))).writeShadow (EDG_PAIR_TIME q) (t.rd (EDG_PAIR_ATIME q)))
  ((t.writeShadow EDG_AUX_SH0 t.edg.auxLevel).writeShadow EDG_AUX_SH1 t.edg.auxHeld).writeShadow EDG_AUX_SH2 0#32

/-- A release instant restarts the grid, frees the parked pairs that no latch names, and updates the AUX outputs. -/
def State.edgeRelease (s : State) (r : Nat) : State :=
  { s with edg := { s.edg with origin := r, step := 0, parked := s.edg.parked &&& s.latchedPairs } }.auxUpdate

/-- The values of an index at a release (R262): the staged values of the frame, then the sequencer's in order of
delivery; each value overwritten counts a collision. -/
def State.deliverEdge (s : State) (delivered : List (Nat × EdgVal)) : State :=
  let coll := (delivered.map (·.1)).dedup.map (fun i => (delivered.filter (fun d => d.1 == i)).length - 1)
  let both := s.edg.due.filter (fun p => delivered.any (fun d => d.1 == p.1))
  let n := coll.sum + both.length
  let t := (s.incBy EDG_DYNCOLL n).when (n != 0) (·.raise EDG_IRQ_STATUS.DynCollision)
  let t := { t with edg := { t.edg with due := [] } }
  if t.heldPattern then t
  else
    let w := (t.each s.edg.due (fun p x => x.setEdgVal p.1 p.2)).each delivered (fun d x => x.setEdgVal d.1 d.2)
    { w with edg := { w.edg with released := w.edg.released || !s.edg.due.isEmpty || !delivered.isEmpty } }

end Sys2Proof.Machine
end

