-- ==== Sys2Proof/Machine/Catalogue.lean ====
section
/-! DEFINITION. Machine/Catalogue.lean: the stream switch (R72 to R92), editions of the catalogue (R93 to R96) and the CAT
commands (R97 to R100). -/

namespace Sys2Proof.Machine

/-! ## Arriving samples (R75, R76, R85 to R87) -/

/-- A sample arrives for context `id`: discarded and counted for the first reason that applies (R87), or written (R78).
Outside RUN and HELD the switch writes no records (R89). -/
def State.takeSample (s : State) (id raw arrival origin : Nat) (held : Bool) : State :=
  let c := s.ctx id
  if !s.running then s
  else if s.frm.gathered then ((s.statAdd id 9 31 16 1).inc FRM_LATESAMP).raise FRM_IRQ_STATUS.LateSample
  else if held then (s.statAdd id 11 15 0 1).inc CAT_HELDSAMP
  else if c.expects s.frm.last ≤ s.taken id then (s.statAdd id 11 15 0 1).inc CAT_DROP_RATE
  else
    let v := convertSample c.wire c.store raw
    (((s.storeSample id c (s.taken id) v.1 arrival origin).convError id v.2)).setTaken id (s.taken id + 1)

/-- The source fields a member shares with its head (R85): kind, link or source node, and the rate fields. -/
def Ctx.sourceKey (c : Ctx) : Nat × Nat × (Bool × Nat × Nat × Nat) :=
  (c.source, if c.source = 2 then cut c.w2 5 0 else if c.source = 5 then cut c.w2 9 0 else 0, c.rate)

/-- The contexts of an inbound bundle that take their samples, and whether the walk is counted in CAT_DROP_LINK: it stops
at a member that differs from the head, or after 128 contexts (R85). -/
def State.walkIn (s : State) (key : Nat × Nat × (Bool × Nat × Nat × Nat)) : Nat → Nat → List Nat × Bool
  | 0, _ => ([], true)
  | n + 1, id =>
    let c := s.ctx id
    if c.sourceKey ≠ key then ([], true)
    else if !c.chain then ([id], false)
    else
      let r := State.walkIn s key n c.next
      (id :: r.1, r.2)

/-- Bits `lo` onward of a flit's payload, `w` of them. -/
def payloadBits (p : List Byte) (lo w : Nat) : Nat := leNat p / 2 ^ lo % 2 ^ w

/-- Does the flit's source match the head (R85)? -/
def State.headMatches (s : State) (c : Ctx) (flit : Flit) (link : Option Nat) : Bool :=
  let leaf := link.any (fun l => s.on (onLink LNK_STATUS.PartnerLeaf l))
  c.head && ((c.source == 2 && leaf && link == some (cut c.w2 5 0)) ||
    (c.source == 5 && !leaf && bytesAt flit.payload 0 2 % 1024 == cut c.w2 9 0))

/-- The contexts of a chain the switch looks up; those that hold an uncorrectable error are met (R92). -/
def State.chainIds (s : State) : Nat → Nat → List Nat
  | 0, _ => []
  | n + 1, id => id :: (if (s.ctxStored id).chain then State.chainIds s n (s.ctxStored id).next else [])

/-- The ingress is busy for `n` more cycles of the frame (R90). -/
def State.ingressBusy (s : State) (n : Nat) : State := { s with cat := { s.cat with busy := s.cat.busy + n } }

/-- A sample flit mapped through its head and bundle (R85); it occupies the ingress for a quarter of its bundle's size in
cycles, and for at least 1 (R90). -/
def State.sampleFlit (s : State) (flit : Flit) (link : Option Nat) (stamp : Nat) : State :=
  if !s.running then s.inc CAT_DROP_STATE
  else
    let h := flit.stream.toNat
    let s := s.meetAll (s.chainIds 128 h)
    let c := s.ctx h
    if !s.headMatches c flit link then (s.inc CAT_DROP_HEAD).ingressBusy 1
    else
      let w := s.walkIn c.sourceKey 128 h
      let remote := c.source == 5
      let t := s.each w.1 (fun id t =>
        let m := t.ctx id
        t.takeSample id (payloadBits flit.payload (cut m.w2 25 16) (fmtWidth m.wire)) stamp (bytesAt flit.payload 4 8)
          (remote && (flit.payload.getD 2 0#8).getLsbD 0))
      (t.when w.2 (·.inc CAT_DROP_LINK)).ingressBusy (max 1 ((w.1.length + 3) / 4))

/-- Ingress work that the arbiter has granted (R90): a flit, or a Host block's samples, one cycle each. -/
def State.ingressGo (s : State) (w : Ingress) : State :=
  let t := { s with cat := { s.cat with grants := arbNote s.cat.grants w.req } }
  match w.flit with
  | some (f, l) => t.sampleFlit f l w.stamp
  | none => (t.each w.samples (fun x u => (u.meetBad x.1).takeSample x.1 x.2 w.stamp 0 false)).ingressBusy
      (if t.running then w.samples.length else 0)

/-- Ingress work arrives: granted at once, or, from a boundary until 200 ns after it, made to wait (R91). -/
def State.ingress (s : State) (w : Ingress) : State :=
  if s.running && !s.frm.released then { s with cat := { s.cat with waiting := s.cat.waiting ++ [w] } } else s.ingressGo w

/-- The waiting ingress work, each the one R9 grants, oldest first for one requester. -/
def State.ingressDrain : Nat → State → State
  | 0, s => s
  | n + 1, s =>
    match arbPick s.cat.grants (s.cat.waiting.map (·.req)) with
    | none => s
    | some r =>
      match s.cat.waiting.find? (fun w => w.req == r) with
      | none => s
      | some w => State.ingressDrain n ({ s with cat := { s.cat with waiting := s.cat.waiting.erase w } }.ingressGo w)

/-- The ingress requester of a sample flit: its port, or 15 for one this node sent to itself (R90). -/
def ingressPort (link : Option Nat) : Nat := match link with
  | some l => l / 4
  | none => 15

/-- SAMPLE: `uncor` are the contexts whose lookup meets an uncorrectable error of the catalogue SRAM (R85, R92). -/
def execSample (flit : Flit) (link : Option (Fin 48)) (stamp : Dword) (uncor : List (BitVec 16)) (s : State) : Result :=
  .next (let t := s.popInbox ftSample
    let u := { t with cat := { t.cat with bad := (uncor.map (fun (x : BitVec 16) => x.toNat)).foldl addOnce t.cat.bad } }
    let l := link.map (fun (l : Fin 48) => l.val)
    u.ingress ⟨ingressPort l, some (flit, l), [], stamp.toNat⟩)

/-- A Modulator context takes the K most recent outputs of its channel, the oldest going into the lowest slot they fill (R76). -/
def State.captureContext (s : State) (id : Nat) : State :=
  let s := s.meetBad id
  let c := s.ctx id
  let k := c.expects s.frm.last
  if c.source ≠ 1 ∨ k = 0 ∨ s.taken id ≠ 0 then s
  else
    let outs := (s.chan (cut c.w2 4 0)).outs
    let got := outs.drop (outs.length - k)
    let t := s.each (got.zipIdx) (fun o t =>
      let v := convertSample 1 c.store o.1.1.toNat
      (t.storeSample id c (k - got.length + o.2) v.1 o.1.2.toNat 0).convError id v.2)
    { (t.setTaken id got.length).ingressBusy got.length with cat := { ((t.setTaken id got.length).ingressBusy got.length).cat with
        grants := arbNote t.cat.grants 12 } }

/-- MODULATOR_CAPTURE: point E, boundary n + max(0, FRM_GATHER − 100 ns) (R76). -/
def execModulatorCapture (s : State) : Result :=
  .next (if !s.running || s.frm.gathered then s
    else
      let t := s.atLeast (s.frm.last * s.period + (s.fld FRM_GATHER.Offset - 100))
      t.each t.catIds (fun id x => x.captureContext id))

/-- An input of a Sum as a Q31 number (R80): the newest output of a Modulator's channel, otherwise slot 0 of the frame's
record; a disabled or non-Q input, or a poisoned record, contributes 0. -/
def State.sumInput (s : State) (id : Nat) : State × Int :=
  let s := s.meetBad id
  let c := s.ctx id
  let q (raw : Nat) : Int := signedOf 32 (convertSample c.store 1 raw).1
  if !c.enabled || 2 ≤ c.store then (s, 0)
  else if c.source = 1 then
    match (s.chan (cut c.w2 4 0)).outs.getLast? with
    | some o => (s, signedOf 32 o.1.toNat)
    | none => (s, q c.default)
  else match s.readSample rqIngress c s.frm.last 0 with
    | (t, some v) => (t, q v)
    | (t, none) => (t, 0)

/-- The sum of `n` inputs from context `first` on, each shifted right, saturating at each step; and whether any step did. -/
def State.sumInputs (s : State) (shift : Nat) : Nat → Nat → Int → Bool → State × Int × Bool
  | 0, _, acc, sat => (s, acc, sat)
  | n + 1, first, acc, sat =>
    let r := s.sumInput first
    let x := satInt 32 (acc + r.2 / 2 ^ shift)
    State.sumInputs r.1 shift n (first + 1) x.1 (sat || x.2)

/-- The instant in the frame at which a context is forwarded: SendAt, or the gather end where that comes first (R73). -/
def State.sendAt (s : State) (c : Ctx) : Nat := min (16 * c.phaseSendAt) (s.fld FRM_GATHER.Offset)

/-- The evaluation of a Sum context (R80): its record, its status, and one ingress cycle as requester 14. -/
def State.evalSum (s : State) (i : Nat) : State :=
  let c := s.ctx i
  let r := s.sumInputs (cut c.w2 30 26) (cut c.w2 25 16 + 1) (cut c.w2 15 0) 0 false
  let u := (r.1.storeSample i c 0 (toBits 32 r.2.1) r.1.now 0).convError i r.2.2
  let w := (u.setTaken i 1).ingressBusy 1
  { w with cat := { w.cat with grants := arbNote w.cat.grants 14 } }

/-- Contexts that an enabled context with ChainNext 1 names as its NextContext. -/
def namedNext (ctx : Nat → Ctx) (ids : List Nat) : List Nat :=
  ids.filterMap (fun id => if (ctx id).enabled && (ctx id).chain then some (ctx id).next else none)

/-- The outbound heads, ascending (R88). -/
def outHeads (ctx : Nat → Ctx) (ids : List Nat) : List Nat :=
  let named := namedNext ctx ids
  ids.filter (fun id => (ctx id).enabled && ((ctx id).sink == 2 || (ctx id).sink == 3) && !named.contains id)

/-- The contexts of an outbound bundle, and whether its walk is counted in CAT_DROP_LINK (R88). -/
def walkOut (ctx : Nat → Ctx) (rate : Bool × Nat × Nat × Nat) : Nat → Nat → List Nat × Bool
  | 0, _ => ([], true)
  | n + 1, id =>
    let c := ctx id
    if !c.enabled || c.rate != rate then ([], true)
    else if !c.chain then ([id], false)
    else
      let r := walkOut ctx rate n c.next
      (id :: r.1, r.2)

/-- The bundle of head `h`. -/
def bundleOf (ctx : Nat → Ctx) (h : Nat) : List Nat × Bool := walkOut ctx (ctx h).rate 128 h

/-- The members of the outbound bundles, whose own sink fields are ignored (R88). -/
def outMembers (ctx : Nat → Ctx) (ids : List Nat) : List Nat :=
  (outHeads ctx ids).flatMap (fun h => (bundleOf ctx h).1.filter (fun m => m != h))

/-- The context whose SinkTiming and SendAt hold for context `id`: the head of the outbound bundle it is a member of, otherwise
its own (R88). -/
def State.timing (s : State) (id : Nat) : Ctx :=
  let heads := outHeads s.ctx s.catIds
  s.ctx ((heads.find? (fun h => (bundleOf s.ctx h).1.contains id)).getD id)

/-- Does the evaluation of a Sum context wait for the record of an input (R203)? -/
def State.sumWaits (s : State) (i : Nat) : Bool :=
  let c := s.ctx i
  ((List.range (cut c.w2 25 16 + 1)).map (· + cut c.w2 15 0)).any (fun id =>
    let x := s.ctx id
    x.enabled && decide (x.store < 2) && x.source != 1 && s.sampleWaits rqIngress x s.frm.last 0)

/-- SUM_EVALUATION: once per frame, at SendAt, the gather end or point E (R80); a member of an outbound bundle takes the
head's SinkTiming and SendAt (R88).  A context that an uncorrectable error disables is met, and not evaluated (R92); an evaluation
whose inputs wait at a bank has not come yet (R203). -/
def execSumEvaluation (id : BitVec 16) (s : State) : Result :=
  .next (let i := id.toNat
    if !s.running then s
    else
      let t := s.meetBad i
      if (t.ctx i).source != 6 || t.taken i != 0 || t.sumWaits i then t
      else
        let c := t.timing i
        let at_ := if c.forwards then t.sendAt c else t.fld FRM_GATHER.Offset - 100
        (t.atLeast (t.frm.last * t.period + at_)).evalSum i)

/-! ## Pre-fill and absent sources (R81, R82) -/

/-- The default of a context in StoreFormat: word 6, or LastValue (R81). -/
def State.defaultOf (s : State) (id : Nat) (c : Ctx) : Nat :=
  if c.holdLast then (if c.store = 0 then cut (s.statWord id 14) 15 0 else (s.statWord id 14).toNat) else c.default

/-- The frame-n records of a due inbound context filled with its default. -/
def State.prefillContext (s : State) (n id : Nat) : State :=
  let c := s.ctx id
  if !c.inbound then s
  else s.each (List.range (c.expects n)) (fun j t => t.writeRecord c n j (s.defaultOf id c) none)

/-- Inbound contexts that expect samples in frame `n`. -/
def State.dueInbound (s : State) (n : Nat) : List Nat :=
  s.catIds.filter (fun id => (s.ctx id).inbound && (s.ctx id).expects n != 0)

/-- The time of a pre-fill of `k` contexts in ns, rounded up (R81). -/
def fillTime (k : Nat) : Nat := 50 + (5 * ((k + 7) / 8) + 5) / 6

/-- PREFILL at boundary `n` (R81). -/
def State.prefill (s : State) (n : Nat) : State :=
  let ids := s.dueInbound n
  (s.each ids (fun id t => t.prefillContext n id)).wr CAT_FILLTIME (BitVec.ofNat 32 (fillTime ids.length))

/-- ABSENT_CHECK of one context at the gather end (R82). -/
def State.absentContext (s : State) (id : Nat) : State :=
  let c := s.ctx id
  let k := c.expects s.frm.last
  let got := s.taken id
  if got < k then
    let t := (s.setStat id 10 (s.statWord id 10 + BitVec.ofNat 32 (k - got))).statAdd id 9 15 0 1
    if c.absentLimit ≠ 0 ∧ cut (t.statWord id 9) 15 0 = c.absentLimit then
      (t.setStat id 15 (t.statWord id 15 ||| 1#32)).when c.irqEn (·.catEvent id 1)
    else t
  else (s.setStat id 9 (paste (s.statWord id 9) 15 0 0)).setStat id 15 0#32

/-- ABSENT_CHECK (R82). -/
def State.absentCheck (s : State) : State :=
  s.each (s.dueInbound s.frm.last) (fun id t => t.absentContext id)

/-! ## Outbound bundles (R84, R88, R89) -/

/-- A context's Default (word 6) in its WireFormat; a conversion that saturates or meets a NaN is counted (R78). -/
def State.defaultWire (s : State) (id : Nat) (c : Ctx) : State × Nat :=
  let r := convertSample c.store c.wire c.default
  (s.convError id r.2, r.1)

/-- The value a context last released, in its WireFormat; Default where there is none (R84, R89).  One released under another
WireFormat is converted (DESIGN CHOICE, assumption log 50). -/
def State.lastReleased (s : State) (id : Nat) (c : Ctx) : State × Nat :=
  match tget (fun _ => none) s.cat.last id with
  | none => s.defaultWire id c
  | some (v, f) =>
    let r := convertSample f c.wire v
    (s.convError id r.2, r.1)

/-- A released value noted. -/
def State.noteReleased (s : State) (id : Nat) (c : Ctx) (v : Nat) : State :=
  { s with cat := { s.cat with last := tset (fun _ => none) s.cat.last id (some (v, c.wire)) } }

/-- The egress reads the record of slot `j` of frame `n` and converts it; poison gives Default (R199). -/
def State.egressValue (s : State) (id : Nat) (c : Ctx) (n j : Nat) : State × Nat :=
  match s.readSample rqEgress c n j with
  | (t, some v) =>
    let r := convertSample c.store c.wire v
    (t.convError id r.2, r.1)
  | (t, none) => t.defaultWire id c

/-- What a member of a flit carries: its own value (none: not released), the last one released, or its held value (R84,
R89). -/
def State.memberValue (s : State) (id : Nat) (c : Ctx) (value : Option Nat) (leafHeld : Bool) : State × Nat :=
  if leafHeld then (if c.heldDefault then s.defaultWire id c else s.lastReleased id c)
  else match value with
    | some v => (s.noteReleased id c v, v)
    | none => s.lastReleased id c

/-- The bits `lo` to `lo + w - 1` of a number replaced: each member writes its value at its own bit offset (R88). -/
def putBits (x lo w v : Nat) : Nat := x % 2 ^ lo + v % 2 ^ w * 2 ^ lo + x / 2 ^ (lo + w) * 2 ^ (lo + w)

/-- The members of a flit gathered: the state after, and the payload as a number. -/
def State.gatherFlit (ctx : Nat → Ctx) (leafHeld : Bool) : List (Nat × Option Nat) → State → Nat → State × Nat
  | [], s, acc => (s, acc)
  | (id, value) :: r, s, acc =>
    let c := ctx id
    let v := s.memberValue id c value leafHeld
    State.gatherFlit ctx leafHeld r v.1 (putBits acc (cut c.w3 25 16) (fmtWidth c.wire) v.2)

/-- A flit of head `h` for a slot of frame `n` sent to its leaf or node with its members' values (R86, R88); a walk that
stopped early is counted once for the flit. -/
def State.sendFlit (s : State) (ctx : Nat → Ctx) (h : Nat) (ms : List (Nat × Option Nat)) (n : Nat) (early : Bool) : State :=
  let s := s.when early (·.inc CAT_DROP_LINK)
  let c := ctx h
  let leaf := c.sink == 2
  -- the last frame before a stop is released as it ended (R33)
  let held := s.sched == held || s.frm.stopHeld
  let r := State.gatherFlit ctx (leaf && held) ms s 0
  if leaf then
    let l := cut c.w3 5 0
    let f := mkFlit ftCommand 2 s.nodeId c.flitStream (leBytes 116 r.2)
    if s.on (onLink LNK_STATUS.PartnerLeaf l) && (s.linkState l == lkActive || s.linkState l == lkRetrain) then
      r.1.enqueueFlit 48 l f
    else r.1
  else
    let hdr := leBytes 2 s.nodeId ++ [if held then 1#8 else 0#8, 0#8] ++ leBytes 8 (n * s.period)
    let f := mkFlit ftSample 2 (cut c.w3 9 0) c.flitStream (hdr ++ (leBytes 116 r.2).drop 12)
    (r.1.switchFlit 48 f none s.time.stime).1

/-- A Host element in its coding (R459). -/
def hostElement (fmt raw : Nat) : Word :=
  if fmt = 1 ∨ fmt = 2 then BitVec.ofNat 32 raw else BitVec.ofInt 32 (signedOf (fmtWidth fmt) raw)

/-- A value collected for an outbound channel (R461). -/
def State.collectHost (s : State) (c : Ctx) (raw : Nat) : State :=
  { s with cat := { s.cat with hostOut := tset (fun _ => 0#32) s.cat.hostOut (4096 * cut c.w3 11 0 + cut c.w3 27 16)
                                               (hostElement c.wire raw) } }

/-! ## Forwarding at SendAt (R73) -/

/-- The egress values of slot `j` of frame `n` of several contexts. -/
def State.egressValues (ctx : Nat → Ctx) (n j : Nat) : List Nat → State → State × List (Nat × Option Nat)
  | [], s => (s, [])
  | id :: r, s =>
    let v := s.egressValue id (ctx id) n j
    let q := State.egressValues ctx n j r v.1
    (q.1, (id, some v.2) :: q.2)

/-- A context with SinkTiming 1 sent for the current frame. -/
def State.forwardContext (s : State) (id : Nat) : State :=
  let c := s.ctx id
  let n := s.frm.last
  let own := !(outMembers s.ctx s.catIds).contains id
  match c.sink, own with
  | 1, true =>
    let i := cut c.w3 7 0
    s.each (List.range (c.expects n)) (fun j t =>
      let v := t.egressValue id c n j
      if 112 ≤ i then v.1.inc EDG_BADIDX else v.1.stageDynAs 66 i (BitVec.ofNat 32 v.2) (some c.wire))
  | 4, true =>
    s.each (List.range (c.expects n)) (fun j t =>
      let v := t.egressValue id c n j
      v.1.collectHost c v.2)
  | 2, _ | 3, _ =>
    if !(outHeads s.ctx s.catIds).contains id then s
    else
      let b := bundleOf s.ctx id
      s.each (List.range (c.expects n)) (fun j t =>
        let v := State.egressValues s.ctx n j b.1 t
        v.1.sendFlit s.ctx id v.2 n b.2)
  | _, _ => s

/-- The contexts due for forwarding at one instant of the frame and not yet sent in it. -/
def State.dueAt (s : State) (at_ : Nat) : List Nat :=
  s.catIds.filter (fun id => (s.ctx id).enabled && (s.ctx id).forwards && s.sendAt (s.ctx id) == at_ && !s.cat.sent.contains id)

/-- The contexts whose records go out when context `id` is forwarded: the bundle of an outbound head, nothing for another
context's member, otherwise the context alone (R88). -/
def State.forwarded (s : State) (id : Nat) : List Nat :=
  if (outHeads s.ctx s.catIds).contains id then (bundleOf s.ctx id).1
  else if (outMembers s.ctx s.catIds).contains id then [] else [id]

/-- One context forwarded, its bundle looked up with it (R92); the Sums among what goes out are evaluated first, together with
its forwarding (R80). -/
def State.forwardOne (s : State) (id : Nat) : State :=
  let s := { s with cat := { s.cat with sent := addOnce s.cat.sent id } }
  let s := if (s.ctx id).sink = 2 ∨ (s.ctx id).sink = 3 then s.meetAll (s.chainIds 128 id) else s
  (s.each ((s.forwarded id).filter (fun i => (s.ctx i).source == 6)) (fun i t => if t.taken i = 0 then t.evalSum i else t)).forwardContext id

/-- Does the forwarding of a context wait for a record (R203)? -/
def State.forwardWaits (s : State) (id : Nat) : Bool :=
  (s.forwarded id).any (fun i =>
    let c := s.ctx i
    if c.source = 6 ∧ s.taken i = 0 then s.sumWaits i
    else (List.range ((s.ctx id).expects s.frm.last)).any (fun j => s.sampleWaits rqEgress c s.frm.last j))

/-- SEND_AT_FORWARD: at boundary n + SendAt, or at the gather end where SendAt is later, once in the frame.  Contexts due at
the same instant are sent in ascending stream ID, so those below this one go first (R73); while a record of theirs waits at a bank
they are not sent (R203). -/
def execSendAtForward (id : BitVec 16) (s : State) : Result :=
  .next (let s := s.meetBad id.toNat
    let c := s.ctx id.toNat
    if !s.running || !c.enabled || !c.forwards || s.cat.sent.contains id.toNat then s
    else
      let t := s.atLeast (s.frm.last * s.period + s.sendAt c)
      let due := (t.dueAt (t.sendAt c)).filter (fun i => decide (i ≤ id.toNat))
      if due.any t.forwardWaits then s else t.each due (fun i u => (u.meetBad i).forwardOne i))

/-! ## Release (R83, R84) -/

/-- The engine that serves a context's ProducerEngine: the spare pair's, after a migration (R83, R228). -/
def State.producer (s : State) (e : Nat) : Nat := ((s.eng.moved.find? (fun p => p.1 == e)).map (·.2)).getD e

/-- The frame-n records of an Engine context replaced by those of frame n − 1 (R83). -/
def State.substitute (s : State) (c : Ctx) (n : Nat) : State :=
  s.each (List.range (if c.decimated then 1 else c.k)) (fun j t =>
    match t.stkRead rqEgress (c.recOffset (n - 1) j) c.recSize with
    | (u, .data d) => u.stkPut rqEgress (c.recOffset n j) d
    | (u, .poison) => (u.stkWrite rqEgress (c.recOffset n j) (List.replicate c.recSize (some 0#8)) true).1
    | (u, _) => u)

/-- Does that substitution wait for a record (R203)? -/
def State.substituteWaits (s : State) (c : Ctx) (n : Nat) : Bool :=
  (List.range (if c.decimated then 1 else c.k)).any (fun j => s.readWaits rqEgress (c.recOffset (n - 1) j) c.recSize)

/-- The records released for frame `n`, (context, slot) in ascending order, beyond which members of bundles inherit the
head's SinkTiming and have no sink of their own (R83, R88). -/
def releaseRecords (ctx : Nat → Ctx) (ids : List Nat) (n : Nat) : List (Nat × Nat) :=
  let inBundle := ((outHeads ctx ids).filter (fun h => !(ctx h).forwards)).flatMap (fun h => (bundleOf ctx h).1)
  let members := outMembers ctx ids
  (ids.filter (fun id =>
    let c := ctx id
    inBundle.contains id || (c.enabled && !c.forwards && (c.sink == 1 || c.sink == 4) && !members.contains id))).flatMap (fun id =>
      (List.range ((ctx id).expects n)).map (fun j => (id, j)))

/-- Records of frame `n` read and converted. -/
def State.readRecords (s : State) (n : Nat) (rs : List (Nat × Nat)) : State :=
  s.each rs (fun r t =>
    let v := t.egressValue r.1 (t.ctxReleased r.1) n r.2
    { v.1 with cat := { v.1.cat with read := v.1.cat.read ++ [(r.1, r.2, v.2)] } })

/-- The records of frame `n` read and converted at boundary n + 1 under the edition before its swap (R46, R83), at most
1,536 of them (R84), after the substitution of outputs that were not produced; CAT_RELCOUNT counts them (R100).  Those whose
reads wait at a bank are read before the release, which waits for them (R203). -/
def State.releaseRead (s0 : State) (n : Nat) : State :=
  let s0 := s0.meetAll s0.catIds
  let ids := s0.catIds
  let rc : Tab Ctx := (ids.map (fun id => (id, s0.ctx id))).filter (fun p => p.2.enabled)
  let s0 := { s0 with cat := { s0.cat with relCtx := rc, read := [], unread := [], unsub := [] } }
  let ctx := s0.ctxReleased
  let subs := ids.filter (fun id => (ctx id).source == 3 && !s0.cat.produced.contains (s0.producer (cut (ctx id).w2 8 0)))
  let late := subs.filter (fun id => s0.substituteWaits (ctx id) n)
  let s := s0.each (subs.filter (fun id => !late.contains id)) (fun id t => t.substitute (ctx id) n)
  let all := releaseRecords ctx ids n
  let rel := all.take 1536
  let drop := all.length - rel.length
  let s := ((s.incBy CAT_RELDROP drop).when (drop != 0) (·.raise CAT_IRQ_STATUS.ReleaseDrop)).wr CAT_RELCOUNT
    (BitVec.ofNat 32 rel.length)
  let unread := rel.filter (fun r => late.contains r.1 || s.sampleWaits rqEgress (ctx r.1) n r.2)
  { s with cat := { s.cat with unread := unread, unsub := late } }.readRecords n (rel.filter (fun r => !unread.contains r))

/-- Does the release of frame `n` wait for a record at a bank (R203)? -/
def State.releaseWaits (s : State) (n : Nat) : Bool :=
  s.cat.unsub.any (fun id => s.substituteWaits (s.ctxReleased id) n) ||
  s.cat.unread.any (fun r => s.sampleWaits rqEgress (s.ctxReleased r.1) n r.2)

/-- The records that waited are read, after their substitutions, and take their places among the others. -/
def State.readLate (s : State) (n : Nat) : State :=
  if s.cat.unread.isEmpty && s.cat.unsub.isEmpty then s
  else
    let t := s.each s.cat.unsub (fun id t => t.substitute (s.ctxReleased id) n)
    let u := { t with cat := { t.cat with unread := [], unsub := [] } }.readRecords n s.cat.unread
    { u with cat := { u.cat with read := u.cat.read.insertionSort (fun a b => a.1 < b.1 ∨ (a.1 = b.1 ∧ a.2.1 ≤ b.2.1)) } }

/-- The value the sequencer read for slot `j` of context `id`; none: the record is not released. -/
def State.readOf (s : State) (id j : Nat) : Option Nat :=
  (s.cat.read.find? (fun r => r.1 == id && r.2.1 == j)).map (fun r => r.2.2)

/-- What was read for frame `n` reaches its sinks at boundary n + 1 + 200 ns (R83, R84, R88, R89). -/
def State.releaseFrame (s0 : State) (n : Nat) : State :=
  let ctx := s0.ctxReleased
  let ids := s0.cat.relCtx.map (·.1)
  let members := outMembers ctx ids
  let sinks (k : Nat) : List (Nat × Nat × Nat) := s0.cat.read.filter (fun r => (ctx r.1).sink == k && !members.contains r.1)
  -- Edge sinks
  let r := (sinks 1).foldl (fun (a : State × List (Nat × EdgVal)) r =>
    let c := ctx r.1
    let i := cut c.w3 7 0
    if 112 ≤ i then (a.1.inc EDG_BADIDX, a.2)
    else (a.1.noteReleased r.1 c r.2.2, a.2 ++ [(i, ⟨BitVec.ofNat 32 r.2.2, c.wire⟩)])) (s0, [])
  let s := r.1.deliverEdge r.2
  -- Host sinks
  let s := s.each (sinks 4) (fun r t => (t.noteReleased r.1 (ctx r.1) r.2.2).collectHost (ctx r.1) r.2.2)
  -- Leaf and Remote sinks
  s.each ((outHeads ctx ids).filter (fun h => !(ctx h).forwards)) (fun h t =>
    let b := bundleOf ctx h
    t.each (List.range ((ctx h).expects n)) (fun j x =>
      let ms := b.1.map (fun id => (id, s0.readOf id j))
      if ms.any (fun m => m.2.isSome) then x.sendFlit ctx h ms n b.2 else x))

/-! ## Editions (R93 to R95) -/

/-- The staging pool's entries in use, as CAT_POOL shows them. -/
def State.countPool (s : State) : State := s.setF CAT_POOL.Used s.pendingIds.length

/-- The pool entry a new staging takes: the lowest that holds no staged change (DESIGN CHOICE, assumption log 50: R93 names
none). -/
def State.freeEntry (s : State) : Nat :=
  let used := s.pendingIds.map s.poolIndex
  ((List.range 4096).find? (fun i => !used.contains i)).getD 0

/-- The words 0 to 6 of a context staged in the pool: its own entry, or the lowest free one (R93). -/
def State.stageContext (s : State) (id : Nat) (w : List Word) : State :=
  let i := if s.pending7 id then s.poolIndex id else s.freeEntry
  let t := s.setCatWord id 7 (paste (paste (s.catWord id 7) 0 0 1) 12 1 i)
  t.each (List.range 7) (fun k x => x.setPoolWord i k (w.getD k 0#32))

/-- A staged change dropped (R93). -/
def State.unstage (s : State) (id : Nat) : State :=
  if s.pending7 id then s.setCatWord id 7 (paste (s.catWord id 7) 12 0 0) else s

/-- Every staged change dropped (R93, R95). -/
def State.unstageAll (s : State) : State := (s.each s.pendingIds (fun id t => t.unstage id)).countPool

/-- The catalogue's part of a swap (R94, R70): pending contexts take their pool copies, with their status from zero; a
context an error had disabled works again once replaced (R92).  Live becomes 1 (R95). -/
def State.swapCatalogue (s : State) : State :=
  let ids := s.pendingIds
  let t := s.each ids (fun id x => x.each (List.range 8) (fun k y => y.setPoolWord (y.poolIndex id) (8 + k) 0#32))
  let u := t.setF CAT_STATUS.Live 1
  if ids.isEmpty then u
  else
    u.setF CAT_STATUS.CopyBusy 1

/-- One context copied in: words 0 to 6, EditionLow and the status gathered since the swap; a poisoned pool copy leaves it
disabled (R94, R199). -/
def State.copyIn (s : State) (id : Nat) : State :=
  let i := s.poolIndex id
  let r := s.stkRead rqPool (64 * i) 64
  let bad := match r.2 with
    | .data _ => false
    | _ => true
  let s1 := r.1
  let c := if bad then Ctx.disabled else s1.ctxPool i
  let st := (List.range 8).map (fun k => s1.poolWord i (8 + k))
  let t := s1.setCatWord id 7 (paste (paste 0#32 31 16 (s1.rd FRM_EDITION).toNat) 12 0 0)
  let u := t.each (List.range 7) (fun k x => x.setCatWord id k (c.word k))
  let w := u.each (List.range 8) (fun k x => x.setCatWord id (8 + k) (if bad then 0#32 else st.getD k 0#32))
  let v := { w with cat := { w.cat with bad := w.cat.bad.erase id, off := w.cat.off.erase id } }
  v.when bad (·.logEvent 0x0202 id [])

/-- A grant of the catalogue SRAM's port B noted: copy-in 0, the Curator 1, a host read of the table window 2 (R91). -/
def State.notePortB (s : State) (r : Nat) : State := { s with cat := { s.cat with portB := arbNote s.cat.portB r } }

/-- COPY_IN: one pool copy is written back, once the release sequencer has read the frame it releases (R94). -/
def execCopyIn (s : State) : Result :=
  .next (match s.on CAT_STATUS.CopyBusy && s.frm.released, s.pendingIds.head? with
    | true, some id => (s.copyIn id).notePortB 0
    | _, _ => s)

/-- Copy-in has ended (R94). -/
def State.copyInEnd (s : State) : State := ((s.setF CAT_STATUS.CopyBusy 0).countPool).raise CAT_IRQ_STATUS.CopyDone

/-! ## CAT_STAGE's checks (R71) -/

/-- A field outside its range: VALUE_RANGE. -/
def Ctx.range (c : Ctx) : Bool :=
  (c.source == 2 && decide (48 ≤ cut c.w2 5 0)) || (c.sink == 2 && decide (48 ≤ cut c.w3 5 0)) || decide (16 < c.depthLog) ||
  (c.forwards && (decide (c.phaseSendAt < 13) || decide (62500 < c.phaseSendAt)))

/-- The bits of word 2 that a SourceKind uses, and of word 3 that a SinkKind uses. -/
def sourceMask (k : Nat) : Word :=
  match k with
  | 1 => 0x1F#32
  | 2 => 0x03FF003F#32
  | 3 => 0x1FF#32
  | 4 => 0x0FFF0FFF#32
  | 5 => 0x03FF03FF#32
  | 6 => 0x7FFFFFFF#32
  | _ => 0#32

def sinkMask (k : Nat) : Word :=
  match k with
  | 1 => 0xFF#32
  | 2 => 0x03FF003F#32
  | 3 => 0x03FF03FF#32
  | 4 => 0x0FFF0FFF#32
  | _ => 0#32

/-- A bit offset that breaks R71 for a sample of the context's WireFormat. -/
def Ctx.badOffset (c : Ctx) (off : Nat) (remote : Bool) : Bool :=
  decide (928 < off + fmtWidth c.wire) || (remote && decide (off < 96)) || (decide (c.wire < 3) && off % 8 != 0)

/-- CONTEXT_INVALID (R71). -/
def Ctx.invalid (c : Ctx) : Bool :=
  decide (7 ≤ c.source) || decide (5 ≤ c.sink) || decide (5 ≤ c.wire) || c.store == 3 ||
  (c.source == 3 && (c.forwards || c.tsMode != 0 || (c.sink != 0 && c.depthLog == 0))) ||
  (c.source == 1 && c.wire != 1) ||
  (c.source == 6 && (c.store != 1 || c.decimated || decide (0xFFFF < cut c.w2 15 0 + cut c.w2 25 16))) ||
  (c.tsMode == 2 && c.source != 5) ||
  (c.decimated && (c.divider == 0 || decide (c.divider ≤ c.phaseSendAt) || c.k != 1 || c.forwards)) ||
  (c.source == 2 && c.badOffset (cut c.w2 25 16) false) || (c.source == 5 && c.badOffset (cut c.w2 25 16) true) ||
  (c.sink == 2 && c.badOffset (cut c.w3 25 16) false) || (c.sink == 3 && c.badOffset (cut c.w3 25 16) true) ||
  (c.w2 &&& ~~~ sourceMask c.source) != 0#32 || (c.w3 &&& ~~~ sinkMask c.sink) != 0#32 ||
  (c.source == 0 && c != Ctx.disabled)

/-- The end of a context's buffer. -/
def Ctx.bufferEnd (c : Ctx) : Nat := c.base + c.recSize * 2 ^ c.depthLog

/-- ADDRESS_INVALID (R71): the buffer reaches into banks 0 and 1 or beyond Stacks. -/
def Ctx.badBuffer (c : Ctx) : Bool := c.enabled && (decide (c.base < 2 * bankSize) || decide (stkEnd < c.bufferEnd))

/-- The words of a context from a list. -/
def ctxOf (w : List Word) : Ctx :=
  ⟨w.getD 0 0#32, w.getD 1 0#32, w.getD 2 0#32, w.getD 3 0#32, w.getD 4 0#32, w.getD 5 0#32, w.getD 6 0#32⟩

/-! ## Commands (R97) -/

/-- A CAT call slip is held while CopyBusy is 1 (R94). -/
def State.runCat (s : State) (h : SlipHdr) (op : Nat) (params : List Byte) (body : State → State × SlipAns) : State :=
  s.runSlip h op .none (fun s => if s.on CAT_STATUS.CopyBusy then (s, .held op params) else body s)

/-- Contexts enabled in the current edition, or stored while Live is 0. -/
def State.enabledCount (s : State) : Nat :=
  (s.catIds.filter (fun id => if s.on CAT_STATUS.Live then (s.ctx id).enabled else (s.ctxStored id).enabled)).length

/-- CAT_INFO. -/
def execCatInfo (h : SlipHdr) (s : State) : Result :=
  .next (s.runCat h 0x0200 [] (fun s =>
    (s, .done stOk (leBytes 4 s.enabledCount ++ leBytes 2 (s.fld CAT_POOL.Used) ++
      leBytes 1 (s.fld CAT_STATUS.Live + 2 * s.fld CAT_STATUS.CopyBusy)))))

/-- Word `w` of a context in the current view (the table window's) or the staged one. -/
def State.ctxViewWord (s : State) (id w : Nat) (staged : Bool) : Word :=
  if w < 7 then ((if staged then s.ctxStaged id else s.ctxWindow id).word w)
  else if w = 7 then s.catWord id 7
  else s.statWord id w

/-- The four words of a quarter of a context that CAT_READ returns (R97): words 0 to 6 of a pool copy, and the status gathered
in one, are read from Stacks by requester 71; where that read gives no data, they are free (DESIGN CHOICE, assumption
log 50). -/
def State.catQuarter (s : State) (id q : Nat) (staged : Bool) : State × List Byte :=
  let words := (List.range 4).flatMap (fun i => leBytes 4 (s.ctxViewWord id (4 * q + i) staged).toNat)
  if s.swapped id || (staged && s.pending7 id && decide (q < 2)) then
    match s.stkRead rqPool (64 * s.poolIndex id + 16 * q) 16 with
    | (t, .data _) => (t, words)
    | (t, _) => t.freeBytes 4
  else (s, words)

/-- A host read of the table window at context `id` (R91, R96): the pool copy it may show is read from Stacks. -/
def State.catWindowRead (s : State) (id : Nat) : State :=
  (s.notePortB 2).when (s.swapped id) (fun t => t.poolLookup (t.poolIndex id))

/-- Does the table window show a context whose pool copy is poison? -/
def State.windowPoison (s : State) (id : Nat) : Bool := s.swapped id && s.poolBad (s.poolIndex id)

/-- CAT_READ. -/
def execCatRead (h : SlipHdr) (id : BitVec 16) (quarter view : Byte) (s : State) : Result :=
  .next (s.runCat h 0x0201 (leBytes 2 id.toNat ++ [quarter, view]) (fun s =>
    if 3 < quarter.toNat ∨ 1 < view.toNat then refuse s stValueRange
    -- the read of a staged context waits at its bank (R203)
    else if view = 1#8 ∧ s.pending7 id.toNat ∧ quarter.toNat < 2 ∧ s.readWaits rqPool (64 * s.poolIndex id.toNat + 16 * quarter.toNat) 16 then
      (s, .held 0x0201 (leBytes 2 id.toNat ++ [quarter, view]))
    else
      let r := (s.notePortB 1).catQuarter id.toNat quarter.toNat (view == 1#8)
      (r.1, .done stOk r.2)))

/-- CAT_STAGE: the checks in the order of R71, then the staging (R93). -/
def execCatStage (h : SlipHdr) (id : BitVec 16) (w : List Word) (s : State) : Result :=
  .next (s.runCat h 0x0202 (leBytes 2 id.toNat ++ leBytes 2 0 ++ (List.range 7).flatMap (fun k => leBytes 4 (w.getD k 0#32).toNat)) (fun s =>
    let c := ctxOf w
    if cut c.w5 5 0 ≠ 0 then refuse s stReservedNonzero
    else if s.on FRM_STATUS.StagedFrozen then refuse s stStageFrozen
    else if c.range then refuse s stValueRange
    else if c.invalid then refuse s stContextInvalid
    else if c.badBuffer then refuse s stAddressInvalid
    else if !s.pending7 id.toNat ∧ 4096 ≤ s.pendingIds.length then refuse s stStageFull
    else ((s.stageContext id.toNat w).countPool, okAns)))

/-- CAT_STAGE_DISABLE.  A count of 0 or above 4,096, or a range past 0xFFFF, is answered with VALUE_RANGE before any other
check (DESIGN CHOICE, assumption log 50: R97 gives the range of the count and no status for it). -/
def execCatStageDisable (h : SlipHdr) (first count : BitVec 16) (s : State) : Result :=
  .next (s.runCat h 0x0203 (leBytes 2 first.toNat ++ leBytes 2 count.toNat) (fun s =>
    if count.toNat = 0 ∨ 4096 < count.toNat ∨ 65536 < first.toNat + count.toNat then refuse s stValueRange
    else if s.on FRM_STATUS.StagedFrozen then refuse s stStageFrozen
    else
      let ids := (List.range count.toNat).map (· + first.toNat)
      let fresh := (ids.filter (fun id => !s.pending7 id)).length
      if 4096 < s.pendingIds.length + fresh then refuse s stStageFull
      else ((s.each ids (fun id t => t.stageContext id [])).countPool, okAns)))

/-- CAT_UNSTAGE. -/
def execCatUnstage (h : SlipHdr) (id : BitVec 16) (s : State) : Result :=
  .next (s.runCat h 0x0204 (leBytes 2 id.toNat) (fun s =>
    if s.on FRM_STATUS.StagedFrozen then refuse s stStageFrozen
    else ((s.unstage id.toNat).countPool, okAns)))

/-- CAT_CLEAR_STATUS (R70). -/
def execCatClearStatus (h : SlipHdr) (first : BitVec 16) (count : Word) (s : State) : Result :=
  .next (s.runCat h 0x0205 (leBytes 2 first.toNat ++ leBytes 4 count.toNat) (fun s =>
    if count.toNat = 0 ∨ 65536 < first.toNat + count.toNat then refuse s stValueRange
    else
      (s.each (s.catIds.filter (fun id => decide (first.toNat ≤ id) && decide (id < first.toNat + count.toNat)))
        (fun id t => t.clearStat id), okAns)))

/-- CAT_EVENT_READ: up to four queued events, in 20 result bytes (R502, R504). -/
def execCatEventRead (h : SlipHdr) (s : State) : Result :=
  .next (s.runCat h 0x0207 [] (fun s =>
    let n := min 4 s.cat.events.length
    let r := (List.range n).foldl (fun (a : State × List Byte) _ =>
      let p := a.1.popEvent
      (p.2, a.2 ++ leBytes 4 p.1.toNat)) (s, [])
    (r.1, .done stOk (padTo 20 (leBytes 4 n ++ r.2)))))

/-- CAT_EVENT_POP: a read of CAT_EVENT (R100). -/
def execCatEventPop (s : State) : Result := .next s.popEvent.2

/-- CAT_WINDOW_WRITE: discarded and counted (R96). -/
def execCatWindowWrite (s : State) : Result := .next (s.inc CAT_WINWR)

/-! ## CAT_CHECK (R98) -/

/-- A violation: code and the two IDs. -/
abbrev Violation := Nat × Nat × Nat

/-- The chain from `id`, without repeats; true when it is longer than 128 or runs into itself. -/
def chainWalk (ctx : Nat → Ctx) : Nat → List Nat → Nat → List Nat × Bool
  | 0, seen, _ => (seen, true)
  | n + 1, seen, id =>
    if seen.contains id then (seen, true)
    else if !(ctx id).chain then (seen ++ [id], decide (128 ≤ seen.length))
    else chainWalk ctx n (seen ++ [id]) (ctx id).next

/-- The contexts of the cycle a chain from `id` runs into, if it does. -/
def chainCycle (ctx : Nat → Ctx) : Nat → List Nat → Nat → Option (List Nat)
  | 0, _, _ => none
  | n + 1, seen, id =>
    if seen.contains id then some (seen.dropWhile (fun x => x != id))
    else if !(ctx id).chain then none
    else chainCycle ctx n (seen ++ [id]) (ctx id).next

/-- The violation of the lowest first ID. -/
def lowest (vs : List Violation) : Option Violation :=
  vs.foldl (fun a v => match a with
    | none => some v
    | some w => if v.2.1 < w.2.1 ∨ (v.2.1 = w.2.1 ∧ v.2.2 < w.2.2) then some v else a) none

/-- A violation of two contexts, the lower first. -/
def pairOf (code a b : Nat) : Violation := (code, min a b, max a b)

/-- Every pair of different elements of a list. -/
def pairsOf : List Nat → List (Nat × Nat)
  | [] => []
  | a :: r => r.map (fun b => (a, b)) ++ pairsOf r

/-- Do two bit fields overlap? -/
def overlap (a la b lb : Nat) : Bool := decide (a < b + lb) && decide (b < a + la)

/-- The staged catalogue's violations of codes 1, 2, 3, 4 and 7. -/
def checkCode (ctx : Nat → Ctx) (ids : List Nat) (code : Nat) : List Violation :=
  let inHeads := ids.filter (fun id => (ctx id).head)
  let outs := outHeads ctx ids
  let members (h : Nat) : List Nat := ((chainWalk ctx (ids.length + 2) [] h).1).take 128
  match code with
  | 1 =>
    -- a cycle counts whether or not a head leads into it (DEDUCED, log 17)
    (ids.filter (fun id => (ctx id).enabled && (ctx id).chain)).filterMap (fun id =>
      (chainCycle ctx (ids.length + 2) [] id).map (fun c => (1, c.min?.getD id, 0xFFFF))) ++
    (inHeads ++ outs).filterMap (fun h =>
      let r := chainWalk ctx (ids.length + 2) [] h
      if r.2 && (chainCycle ctx (ids.length + 2) [] h).isNone then some (1, r.1.min?.getD h, 0xFFFF) else none)
  | 2 =>
    inHeads.flatMap (fun h => ((members h).filter (fun m => (ctx m).sourceKey != (ctx h).sourceKey)).map (fun m => pairOf 2 h m)) ++
    outs.flatMap (fun h => ((members h).filter (fun m => !(ctx m).enabled || (ctx m).rate != (ctx h).rate)).map (fun m => pairOf 2 h m))
  | 3 =>
    (inHeads.filter (fun h => (ctx h).source == 2 || (ctx h).source == 5)).flatMap (fun h =>
      ((pairsOf (members h)).filter (fun p => overlap (cut (ctx p.1).w2 25 16) (fmtWidth (ctx p.1).wire)
        (cut (ctx p.2).w2 25 16) (fmtWidth (ctx p.2).wire))).map (fun p => pairOf 3 p.1 p.2)) ++
    outs.flatMap (fun h => ((pairsOf (members h)).filter (fun p => overlap (cut (ctx p.1).w3 25 16) (fmtWidth (ctx p.1).wire)
        (cut (ctx p.2).w3 25 16) (fmtWidth (ctx p.2).wire))).map (fun p => pairOf 3 p.1 p.2))
  | 4 => ((pairsOf (ids.filter (fun id => (ctx id).enabled))).filter (fun p =>
      overlap (ctx p.1).base ((ctx p.1).bufferEnd - (ctx p.1).base) (ctx p.2).base ((ctx p.2).bufferEnd - (ctx p.2).base))).map
        (fun p => pairOf 4 p.1 p.2)
  | _ => (ids.filter (fun id => (ctx id).source == 6)).flatMap (fun id =>
      ((List.range (cut (ctx id).w2 25 16 + 1)).map (· + cut (ctx id).w2 15 0)).filterMap (fun i =>
        if !(ctx i).enabled || 2 ≤ (ctx i).store then some (pairOf 7 id i) else none))

/-- The release records a context counts for (R98). -/
def Ctx.releaseCount (c : Ctx) : Nat := if c.enabled && c.sink != 0 && !c.forwards then (if c.decimated then 1 else c.k) else 0

/-- The first context at which a running count passes a limit. -/
def firstPast (limit : Nat) (f : Nat → Nat) : List Nat → Nat → Option Nat
  | [], _ => none
  | id :: r, acc => if limit < acc + f id then some id else firstPast limit f r (acc + f id)

/-- CAT_CHECK: the first violation in the order 1, 2, 3, 4, 7, 5, 6, with the two figures. -/
def State.catCheck (s : State) : Violation × Nat × Nat :=
  let ids := s.catIds
  let ctx := s.ctxStaged
  let recs := (ids.map (fun id => (ctx id).releaseCount)).sum
  let fills := (ids.filter (fun id => (ctx id).inbound)).length
  let v := ([1, 2, 3, 4, 7].filterMap (fun code => lowest (checkCode ctx ids code))).head?
  -- the largest number of contexts whose pre-fill ends by FRM_GATHER − 100 ns
  let limit := 8 * ((6 * (s.fld FRM_GATHER.Offset - 150)) / 5)
  let late := s.fld FRM_GATHER.Offset < 150
  let w := match v with
    | some x => x
    | none =>
      match firstPast 1536 (fun id => (ctx id).releaseCount) ids 0 with
      | some id => (5, id, 0xFFFF)
      | none =>
        match firstPast (if late then 0 else limit) (fun id => if (ctx id).inbound then 1 else 0) ids 0 with
        | some id => (6, id, 0xFFFF)
        | none => (0, 0, 0xFFFF)
  (w, recs, fillTime fills)

/-- CAT_CHECK.  A figure of release records above 65,535 is answered as 0xFFFF (DESIGN CHOICE, assumption log 50). -/
def execCatCheck (h : SlipHdr) (s : State) : Result :=
  .next (s.runCat h 0x0206 [] (fun s =>
    let r := s.catCheck
    (s, .done (if r.1.1 = 0 then stOk else stContextInvalid) (leBytes 2 r.1.1 ++ leBytes 2 r.1.2.1 ++ leBytes 2 r.1.2.2 ++
      leBytes 2 (min 0xFFFF r.2.1) ++ leBytes 4 r.2.2))))

end Sys2Proof.Machine
end

