-- ==== Sys2Proof/Machine/Dma.lean ====
section
/-! DEFINITION. Machine/Dma.lean: descriptor rings, movers, frame-synchronous channels and carrels (R443 to R478). -/

namespace Sys2Proof.Machine

/-! ## Rings -/

/-- The owner index of the manager, and of a free ring. -/
abbrev manager : Nat := 256
abbrev noOwner : Nat := 257

/-- A free ring. -/
def Ring.zero : Ring := ⟨noOwner, 12, 0, 0, [], false⟩

/-- Pool ring `r` beside its registers. -/
def State.ring (s : State) (r : Nat) : Ring := tget (fun _ => Ring.zero) s.dma.rings r

/-- Pool ring `r` replaced. -/
def State.setRing (s : State) (r : Nat) (x : Ring) : State :=
  { s with dma := { s.dma with rings := tset (fun _ => Ring.zero) s.dma.rings r x } }

/-- Ring states (DMA_RING_STAT.State). -/
abbrev rsOff : Nat := 0
abbrev rsIdle : Nat := 1
abbrev rsActive : Nat := 2
abbrev rsHalted : Nat := 3

def State.ringState (s : State) (r : Nat) : Nat := s.fld (DMA_RING_STAT.State r)
def State.ringKind (s : State) (r : Nat) : Nat := s.fld (DMA_RING_STAT.Kind r)
def State.ringHead (s : State) (r : Nat) : Nat := s.fld (DMA_RING_STAT.Head r)
def State.ringTail (s : State) (r : Nat) : Nat := s.fld (DMA_RING_DB.Tail r)

/-- The descriptors of a ring. -/
def Ring.size (x : Ring) : Nat := 2 ^ x.sizeLog

/-- The carrel is in a reset (R469). -/
def State.resetting (s : State) (c : Nat) : Bool := decide (c < 256) && s.on (CRL_STATE.Resetting c)

/-- The PASID of a ring's requests: its carrel's while PASID Enable is 1, none for the manager's (R387, R464). -/
def State.ringPasid (s : State) (r : Nat) : Option Nat :=
  let o := (s.ring r).owner
  if o < 256 ∧ s.on CFG_PASID.Enable then some (s.fld (CRL_PASID.Pasid o)) else none

/-! ## Movers -/

/-- Mover `m`. -/
def State.mover (s : State) (m : Nat) : Mover := tget (fun _ => ⟨.idle, []⟩) s.dma.movers m

/-- A mover's work set, and shown in DMA_MOVER. -/
def State.setMover (s : State) (m : Nat) (x : Mover) : State :=
  let t := { s with dma := { s.dma with movers := tset (fun _ => ⟨.idle, []⟩) s.dma.movers m x } }
  let w : Nat × Nat × Nat := match x.job with
    | .idle => (0, 0, 0)
    | .fetch r _ => (1, (s.ring r).owner, r)
    | .segment r _ _ _ => (1, (s.ring r).owner, r)
    | .writeback r => (1, (s.ring r).owner, r)
    | .chanDesc j d => (2, (s.ring d.ring).owner, j)
    | .chanData j d _ _ => (2, (s.ring d.ring).owner, j)
  t.wr (DMA_MOVER m) (BitVec.ofNat 32 ((decide (w.1 ≠ 0)).toNat + 2 * w.1 + 8 * w.2.1 + 2 ^ 16 * w.2.2))

/-- The idle mover. -/
def State.freeMover (s : State) (m : Nat) : State := s.setMover m ⟨.idle, []⟩

/-- The ring a mover's work belongs to. -/
def Job.ring? : Job → Option Nat
  | .idle => none
  | .fetch r _ => some r
  | .segment r _ _ _ => some r
  | .writeback r => some r
  | .chanDesc _ d => some d.ring
  | .chanData _ d _ _ => some d.ring

/-- The movers whose work is on a ring that satisfies `p`. -/
def State.moversWith (s : State) (p : Nat → Bool) : List Nat :=
  (s.dma.movers.filter (fun m => (m.2.job.ring?).any p)).map (·.1)

/-- The outstanding reads of a list of movers. -/
def moverReads (ms : List Nat) (o : Outstanding) : Bool := !o.abandoned && (match o.requester with
  | .mover m => ms.contains m
  | _ => false)

/-- The reads of a list of movers are given up: their completions are discarded. -/
def State.abandonReads (s : State) (ms : List Nat) : State :=
  { s with host := { s.host with outstanding := s.host.outstanding.map (fun o => if moverReads ms o then { o with abandoned := true } else o) } }

/-- The BULK writes kept for rings that satisfy `p` are given up. -/
def State.dropBulk (s : State) (p : Nat → Bool) : State :=
  { s with dma := { s.dma with bulk := s.dma.bulk.filter (fun x => !p x.1) } }

/-- The movers that work for ring `r` are free, their reads given up, and its BULK writes. -/
def State.dropWork (s : State) (r : Nat) : State :=
  let ms := s.moversWith (fun x => x == r)
  ((s.abandonReads ms).dropBulk (fun x => x == r)).each ms (fun m t => t.freeMover m)

/-! ## Rings -/

/-- An event of a ring (R468). -/
def State.ringEvent (s : State) (r : Nat) : State :=
  let x := s.ring r
  if x.owner < 256 then s.vectorEvent (s.fld (CRP_VECMAP.Vector x.owner x.vector))
  else ((s.setF DMA_LASTEV.Ring r).setF DMA_LASTEV.Valid 1).raise DMA_IRQ_STATUS.MgrRing

/-- An ACTIVE ring with nothing offered, or waiting at an Own of 0, is IDLE once what was fetched is complete (R450). -/
def State.ringRest (s : State) (r : Nat) : State :=
  let x := s.ring r
  if s.ringState r = rsActive ∧ x.fetched = [] ∧ (x.parked ∨ s.ringHead r = s.ringTail r) then
    s.setF (DMA_RING_STAT.State r) rsIdle else s

/-- The mark of a descriptor whose fetch failed: the ring halts when Head reaches it (R449). -/
abbrev fetchLost : Nat := 256

/-- RING_HALTED (R449): with a descriptor's code, or for a fetch error.  Descriptors fetched after it are dropped, with the
movers that fetch or move them (DESIGN CHOICE, assumption log 54). -/
def State.ringHalt (s : State) (r code index : Nat) (fetch : Bool) : State :=
  let x := s.ring r
  let t := ((((s.setRing r { x with fetched := [] }).dropWork r)).setF (DMA_RING_STAT.State r) rsHalted).setF (DMA_RING_STAT.LastCode r)
    (if fetch then 0 else code)
  let t := t.when fetch (fun s => s.setF (DMA_RING_STAT.FetchError r) 1)
  let t := (t.logEvent 0x0713 r (leBytes 1 (if fetch then 0xFF else code) ++ leBytes 1 0 ++ leBytes 2 index)).raise
    DMA_IRQ_STATUS.RingHalted
  let t := t.when (decide (x.owner < 256)) (fun s =>
    s.setF (if fetch then CRP_EVENT.FetchError x.owner else CRP_EVENT.RingHalted x.owner) 1)
  t.ringEvent r

/-- A doorbell write: Tail, and with `resume` the end of HALTED (R449, R450). -/
def State.doorbell (s : State) (r tail : Nat) (resume : Bool) : State :=
  let x := s.ring r
  let t := s.setF (DMA_RING_DB.Tail r) (tail % x.size)
  if s.resetting x.owner then t
  else
    let halted := t.ringState r == rsHalted
    let t := t.when (resume && halted) (fun s => ((s.setF (DMA_RING_STAT.FetchError r) 0).setF (DMA_RING_STAT.LastCode r) 0).setF
      (DMA_RING_STAT.State r) rsIdle)
    let k := t.ringKind r
    if (k ≠ 1 ∧ k ≠ 2 ∧ k ≠ 5) ∨ t.ringState r = rsHalted ∨ t.ringState r = rsOff then t
    else
      let t := (t.setRing r { x with parked := false, fetched := if halted then [] else x.fetched }).setF (DMA_RING_STAT.Waiting r) 0
      (if t.ringHead r = t.ringTail r then t else t.setF (DMA_RING_STAT.State r) rsActive).ringRest r

/-- RING_DOORBELL. -/
def execRingDoorbell (r : Fin 4096) (tail : BitVec 12) (s : State) : Result := .next (s.doorbell r tail.toNat false)

/-- RING_RESUME: a doorbell write with Resume 1. -/
def execRingResume (r : Fin 4096) (tail : BitVec 12) (s : State) : Result := .next (s.doorbell r tail.toNat true)

/-! ## Host transfers of movers -/

/-- A host range cut into requests of at most `most` bytes that cross no 4 KB boundary (R451). -/
def cutHost : Nat → Nat → Nat → Nat → List (Nat × Nat)
  | 0, _, _, _ => []
  | k + 1, most, a, n =>
    if n = 0 then []
    else
      let c := min n (min (max 1 most) (4096 - a % 4096))
      (a, c) :: cutHost k most (a + c) (n - c)

/-- The reads of a host range. -/
def State.readPieces (s : State) (a n : Nat) : List Piece := (cutHost (n + 1) s.mrrs a n).map (fun p => ⟨p.1, p.2, false, none⟩)

/-- Mover `m` issues its next read; none: it has none, or the host port has no room for it. -/
def State.issueNext (s : State) (m : Nat) : Option State :=
  let x := s.mover m
  match x.pieces.findIdx? (fun p => !p.issued) with
  | none => none
  | some i =>
    let p := x.pieces.getD i ⟨0, 0, true, none⟩
    (s.issueRead (.mover m) p.addr p.len (x.job.ring?.bind s.ringPasid)).map (fun t =>
      t.setMover m { x with pieces := x.pieces.set i { p with issued := true } })

/-- The movers' reads issue under R9 while the host port takes them (R402, R403); where the aperture waits and its turn has come, they
wait for it. -/
def State.hostTurns : Nat → State → State
  | 0, s => s
  | n + 1, s =>
    match (arbPick s.host.grants s.hostAsking).bind (fun m => if m = 31 then none else s.issueNext m) with
    | none => s
    | some t => State.hostTurns n t

/-- The movers issue what they can of their reads. -/
def State.moversIssue (s : State) : State :=
  State.hostTurns ((s.dma.movers.map (fun m => (m.2.pieces.filter (fun p => !p.issued)).length)).sum) s

/-- A host write sent in requests of at most Max_Payload_Size. -/
def State.hostWrite (s : State) (a : Nat) (bs : List Byte) (pasid : Option Nat) (poison : Bool) : State :=
  (s.when poison State.masterParity).each (cutHost (bs.length + 1) s.mps a bs.length) (fun p t =>
    t.sendTlp (.memWrite p.1 ((bs.drop (p.1 - a)).take p.2) pasid poison))

/-- All reads of a mover have ended. -/
def Mover.ready (x : Mover) : Bool := x.pieces.all (fun p => p.got.isSome)

/-- The bytes read, where every read succeeded without poison. -/
def Mover.data (x : Mover) : Option (List Byte) :=
  x.pieces.foldr (fun p acc => match p.got, acc with
    | some (some (bs, false)), some r => some (bs ++ r)
    | _, _ => none) (some [])

/-! ## Descriptors -/

/-- The segments of a host range: cut at 4,096-byte boundaries (R451). -/
def segmentsOf (a n : Nat) : List (Nat × Nat) := (cutHost (n / 4096 + 3) 4096 a n).map (fun p => (p.1 - a, p.2))

/-- The code of a fetched descriptor (R445, R448). -/
def fetchCode (kind stk len : Nat) : Nat :=
  if kind = 5 then (if len < 120 then 6 else 0)
  else if len < 1 ∨ 1048576 < len then 6
  else if stk < 0x200000 ∨ 0x6000000 < stk + len then 5
  else 0

/-- A fetched descriptor with Own 1. -/
def descOf (kind : Nat) (b : List Byte) : Desc :=
  let a := bytesAt b 0 8
  let stk := bytesAt b 8 4 % 2 ^ 27
  let len := bytesAt b 12 4 % 2 ^ 21
  let c := fetchCode kind stk len
  ⟨a, stk, len, BitVec.ofNat 32 (bytesAt b 28 4), c, if c = 0 ∧ kind ≠ 5 then segmentsOf a len else [], 0, if c = 0 then none else some 0⟩

/-- DESCRIPTOR_FETCH: mover `m`'s descriptor read has ended (R446, R449, R450). -/
def execDescriptorFetch (m : Fin 31) (s : State) : Result :=
  .next (match (s.mover m).job with
    | .fetch r i =>
      if s.pfail then s
      else if !(s.mover m).ready then s.moversIssue
      else
        let t := s.freeMover m
        let x := t.ring r
        match (s.mover m).data with
        | none => if x.fetched.isEmpty then t.ringHalt r 0 i true
          else t.setRing r { x with fetched := x.fetched ++ [⟨0, 0, 0, 0#32, fetchLost, [], 0, none⟩] }
        | some b =>
          if 2 ^ 31 ≤ bytesAt b 28 4 then t.setRing r { x with fetched := x.fetched ++ [descOf (t.ringKind r) b] }
          else (((t.inc DMA_NOTOWNED).setF (DMA_RING_STAT.Waiting r) 1).setRing r { x with parked := true }).ringRest r
    | _ => s)

/-- Descriptor `i` of a ring among those fetched. -/
def State.descPlace (s : State) (r i : Nat) : Nat := (i + (s.ring r).size - s.ringHead r) % (s.ring r).size

/-- A fetched descriptor changed. -/
def State.setDesc (s : State) (r k : Nat) (f : Desc → Desc) : State :=
  let x := s.ring r
  match x.fetched[k]? with
  | some d => s.setRing r { x with fetched := x.fetched.set k (f d) }
  | none => s

/-- The units of a segment at the Stacks: pieces of one 64-byte line each, as (offset in the segment, bytes). -/
def lineUnits : Nat → Nat → Nat → Nat → List (Nat × Nat)
  | 0, _, _, _ => []
  | k + 1, o, at_, n =>
    if n = 0 then []
    else
      let c := min n (64 - o % 64)
      (at_, c) :: lineUnits k (o + c) (at_ + c) (n - c)

/-- The verdict of the Stacks on a mover's access as a descriptor code (R457): 0 performed, 1 poison, 3 denied, 4 refused. -/
def Verdict.code : Verdict → Nat
  | .perform => 0
  | .wait => 0
  | .poison => 1
  | .denied => 3
  | _ => 4

/-- A ToHost segment's lines sent to the host: the code met first, and the offset of the first byte not transferred. -/
def State.segmentOut (s : State) (pasid : Option Nat) (host stk : Nat) : List (Nat × Nat) → State × Nat × Option Nat
  | [] => (s, 0, none)
  | (o, n) :: r =>
    let v := (s.verdict rqMover (stk + o) n false).code
    if v = 3 ∨ v = 4 then
      -- the line is not transferred; the segment, which is running, finishes
      let x := State.segmentOut (s.stkRead rqMover (stk + o) n).1 pasid host stk r
      (x.1, v, some o)
    else
      let q := s.stkRead rqMover (stk + o) n
      let p : List Byte × Bool := match q.2 with
        | .data bs => (bs, false)
        | _ => (s.stkBytes (stk + o) n, true)
      let t := q.1.hostWrite (host + o) p.1 pasid p.2
      let x := State.segmentOut t pasid host stk r
      (x.1, if x.2.1 ≤ 1 then max x.2.1 p.2.toNat else x.2.1, x.2.2)

/-- The byte at host address `a` of a list of reads, and its poison: none where its read failed. -/
def pieceByte (ps : List Piece) (a : Nat) : Option (Byte × Bool) :=
  match ps.find? (fun p => decide (p.addr ≤ a) && decide (a < p.addr + p.len)) with
  | some p => match p.got with
    | some (some (bs, poison)) => some (bs.getD (a - p.addr) 0#8, poison)
    | _ => none
  | none => none

/-- The `n` bytes from offset `o` of what reads from `base` returned, and whether any is poisoned; none where a read of theirs
failed. -/
def pieceAt (ps : List Piece) (base o n : Nat) : Option (List Byte × Bool) :=
  (List.range n).foldr (fun i acc => match pieceByte ps (base + o + i), acc with
    | some (b, p), some (bs, q) => some (b :: bs, p || q)
    | _, _ => none) (some ([], false))

/-- A ToStacks segment's bytes written, in units that end with a line or a read. -/
def State.segmentIn (s : State) (ps : List Piece) (host stk : Nat) : List (Nat × Nat) → State × Nat × Option Nat
  | [] => (s, 0, none)
  | (o, n) :: r =>
    match pieceAt ps host o n with
    | none =>
      let x := State.segmentIn s ps host stk r
      (x.1, 2, some o)
    | some (bs, poison) =>
      let q := s.stkWrite rqMover (stk + o) (bs.map some) poison
      match q.2 with
      | .done =>
        let x := State.segmentIn q.1 ps host stk r
        (x.1, if x.2.1 ≤ 1 then max x.2.1 poison.toNat else x.2.1, x.2.2)
      | v =>
        let x := State.segmentIn q.1 ps host stk r
        (x.1, if v == .denied then 3 else 4, some o)

/-- Units of a ToStacks segment: cut by lines and by its reads. -/
def inUnits (ps : List Piece) (host stk off len : Nat) : List (Nat × Nat) :=
  ps.flatMap (fun p =>
    let o := p.addr - host
    if off ≤ o ∧ o < off + len then lineUnits (p.len + 1) (stk + o) o p.len else [])

/-- The worse of two codes: one that stops the descriptor before Poison. -/
def worseCode (a b : Nat) : Nat := if 2 ≤ a then a else if 2 ≤ b then b else max a b

/-- The result of a segment in its descriptor: its code stops segments not started (R449). -/
def Desc.segmentEnded (d : Desc) (code : Nat) (bad : Option Nat) : Desc :=
  let c := worseCode d.code code
  let low (a b : Option Nat) : Option Nat := match a, b with
    | some x, some y => some (min x y)
    | none, y => y
    | x, none => x
  let stop := 2 ≤ c
  { d with code := c, running := d.running - 1, todo := if stop then [] else d.todo,
           bad := low (low d.bad bad) (if stop then d.todo.head?.map (·.1) else none) }

/-- The two writes that complete a descriptor at `a` (R447). -/
def State.writeBack (s : State) (a code done : Nat) (ctl : Word) (pasid : Option Nat) : State :=
  ((s.sendTlp (.memWrite (a + 20) (leBytes 4 code ++ leBytes 4 done) pasid false)).sendTlp
    (.memWrite (a + 28) (leBytes 4 (ctl.toNat % 2 ^ 31)) pasid false)).when (code != 0) (·.inc DMA_DESCERR)

/-- The head descriptor of a ring completes (R447, R449, R468). -/
def State.completeHead (s : State) (r : Nat) : State :=
  let x := s.ring r
  match x.fetched with
  | [] => s
  | d :: rest =>
    let h := s.ringHead r
    let done := if s.ringKind r = 5 then (if d.code = 0 then 120 else 0) else d.bad.getD d.len
    let t := s.writeBack (x.base + 32 * h) d.code done d.ctl (s.ringPasid r)
    let t := (t.setRing r { x with fetched := rest }).setF (DMA_RING_STAT.Head r) ((h + 1) % x.size)
    if d.code ≠ 0 then t.ringHalt r d.code h false
    else
      let t := t.when (d.ctl.getLsbD 0) (·.ringEvent r)
      if rest.head?.any (fun d => d.code == fetchLost) then t.ringHalt r 0 ((h + 1) % x.size) true else t.ringRest r

/-- The head descriptor of a ring may be written back. -/
def State.writebackReady (s : State) (r : Nat) : Bool :=
  match (s.ring r).fetched.head? with
  | some d => d.code != fetchLost && (if s.ringKind r = 5 then d.code != 0 else d.todo.isEmpty && d.running == 0)
  | none => false

/-! ## Scheduling (R452 to R454) -/

/-- Another mover already fetches for ring `r`, or writes back. -/
def State.moversOn (s : State) (p : Job → Bool) : Bool := s.dma.movers.any (fun m => p m.2.job)

def isFetch (r : Nat) : Job → Bool
  | .fetch x _ => x == r
  | _ => false
def isWriteback (r : Nat) : Job → Bool
  | .writeback x => x == r
  | _ => false

/-- The weights before any round: the manager's reset value, 0 for a carrel. -/
def weight0 (o : Nat) : Nat := if o = manager then 512 else 0

/-- The weight of an owner as the last round applied it. -/
def State.weightNow (s : State) (o : Nat) : Nat := tget weight0 s.dma.weight o

/-- Mover `m` is free; where the ring's owner has weight 0, which grants no item, it first writes back what its running segments
have completed (R454). -/
def State.segmentFreed (s : State) (m r : Nat) : State :=
  if s.weightNow (s.ring r).owner = 0 ∧ s.writebackReady r ∧ !s.moversOn (isWriteback r) then s.setMover m ⟨.writeback r, []⟩
  else s.freeMover m

/-- Lines of a mover's segment that a bank being cleared or checked makes wait (R203, R457). -/
def State.segmentWaits (s : State) (m : Nat) : Bool :=
  match (s.mover m).job with
  | .segment r i off len => match (s.ring r).fetched[s.descPlace r i]? with
    | none => false
    | some d => (lineUnits (len + 1) (d.stk + off) off len).any (fun u =>
        s.verdict rqMover (d.stk + u.1) u.2 (s.ringKind r == 1) == .wait)
  | _ => false

/-- The movers' Stacks port has granted mover `m` (R455), and it waits for it no more. -/
def State.moverGrant (s : State) (m : Nat) : State :=
  { s with dma := { s.dma with portGrants := arbNote s.dma.portGrants m, stalled := s.dma.stalled.filter (fun x => x != m) } }

/-- Mover `m` finishes its segment (R451, R457); it waits for its reads, for the host port and for a bank that is being cleared or
checked, and stops under PFAIL_N (R528). -/
def State.segmentDone (s : State) (m : Nat) : State :=
  match (s.mover m).job with
  | .segment r i off len =>
    let k := s.descPlace r i
    match (s.ring r).fetched[k]? with
    | none => s.freeMover m
    | some d =>
      let units := lineUnits (len + 1) (d.stk + off) off len
      let ended (x : State × Nat × Option Nat) : State :=
        ((x.1.freeMover m).setDesc r k (fun d => d.segmentEnded x.2.1 x.2.2)).segmentFreed m r
      if s.pfail then s
      else if s.segmentWaits m then
        if s.dma.stalled.contains m then s else { s with dma := { s.dma with stalled := s.dma.stalled ++ [m] } }
      else if s.ringKind r = 1 then
        if !(s.mover m).ready then s.moversIssue
        else
          let ps := (s.mover m).pieces
          ended ((s.moverGrant m).segmentIn ps d.host d.stk (inUnits ps d.host d.stk off len))
      else if !s.canRequest then s
      else ended (((s.moverGrant m).hostGrant m).segmentOut (s.ringPasid r) d.host d.stk units)
  | _ => s

/-- SEGMENT_DONE. -/
def execSegmentDone (m : Fin 31) (s : State) : Result := .next (s.segmentDone m)

/-- DESCRIPTOR_WRITEBACK: mover `m` writes its ring's head descriptor back. -/
def execDescriptorWriteback (m : Fin 31) (s : State) : Result :=
  .next (match (s.mover m).job with
    | .writeback r => if !s.canRequest ∨ s.pfail then s else (((s.freeMover m).hostGrant m).completeHead r).segmentFreed m r
    | _ => s)

/-- The next descriptor to fetch of a ring, where one is offered, fewer than 8 are held and none is being fetched (R450). -/
def State.fetchNext (s : State) (r : Nat) : Option Nat :=
  let x := s.ring r
  let i := (s.ringHead r + x.fetched.length) % x.size
  let offered := (s.ringTail r + x.size - s.ringHead r) % x.size
  if x.parked ∨ 8 ≤ x.fetched.length ∨ offered ≤ x.fetched.length ∨ x.fetched.any (fun d => d.code == fetchLost) ∨
      s.moversOn (isFetch r) ∨ s.on PWR_STATUS.Entering then none
  else some i

/-- The first fetched descriptor with a segment to start: its place and the segment. -/
def State.segmentNext (s : State) (r : Nat) : Option (Nat × Nat × Nat) :=
  ((s.ring r).fetched.zipIdx.findSome? (fun p => p.1.todo.head?.map (fun g => (p.2, g.1, g.2))))

/-- Ring `r` has pending work (R453). -/
def State.ringPending (s : State) (r : Nat) : Bool :=
  s.ringState r == rsActive && !s.resetting (s.ring r).owner &&
    ((s.writebackReady r && !s.moversOn (isWriteback r)) || (s.segmentNext r).isSome || (s.fetchNext r).isSome)

/-- The pool rings in use. -/
def State.usedRings (s : State) : List Nat := s.dma.rings.map (·.1)

/-- The rings with pending work. -/
def State.pendingRings (s : State) : List Nat := s.usedRings.filter s.ringPending

/-- The owners of a list of rings. -/
def State.ownersOf (s : State) (rs : List Nat) : List Nat := (rs.map (fun r => (s.ring r).owner)).dedup

/-- The current weight register of an owner. -/
def shareCur (o : Nat) : Fld := if o = manager then CRL_SHARE_MGR.Current else CRL_SHARE_C.Current o
def shareStaged (o : Nat) : Fld := if o = manager then CRL_SHARE_MGR.Staged else CRL_SHARE_C.Staged o

/-- A carrel's shares return to the creation value at the round after its reset; the staged copy only while the staged edition
is not frozen (R469). -/
def State.shareRestore (s : State) (c : Nat) : State :=
  let v := s.fld (CRL_RES.CreationShare c)
  let t := s.setF (shareCur c) v
  if t.on FRM_STATUS.StagedFrozen then t else t.setF (shareStaged c) v

/-- SCHEDULING_ROUND (R453, R454, R469). -/
def execSchedulingRound (s : State) : Result :=
  .next (
    let t := s.each (s.dma.resets.filter (·.round)) (fun x t => t.shareRestore x.carrel)
    let t := { t with dma := { t.dma with resets := t.dma.resets.map (fun (x : CarrelReset) => { x with round := false }) } }
    let owners := manager :: (List.range 256).filter (fun c => t.on (CRL_STATE.Exists c))
    let busy := t.ownersOf t.pendingRings
    let q := t.fld DMA_QUANTUM.Bytes
    let t := t.each owners (fun o t =>
      let w := t.fld (shareCur o)
      let d := tget (fun _ => (0 : Int)) t.dma.deficit o
      let d' : Int := if busy.contains o then (if w = 0 then d else min (d + w * q) (4 * w * q)) else 0
      { t with dma := { t.dma with deficit := tset (fun _ => (0 : Int)) t.dma.deficit o d', weight := tset weight0 t.dma.weight o w } })
    t)

/-- An item's bytes charged to its owner. -/
def State.charge (s : State) (o n : Nat) : State :=
  { s with dma := { s.dma with deficit := tset (fun _ => (0 : Int)) s.dma.deficit o (tget (fun _ => (0 : Int)) s.dma.deficit o - n) } }

/-- Mover `m` takes the next item of ring `r`: a writeback, a segment or a fetch, in that order (the order within a ring:
DESIGN CHOICE, log 16). -/
def State.takeItem (s : State) (m r : Nat) : State :=
  let x := s.ring r
  if s.writebackReady r ∧ !s.moversOn (isWriteback r) then (s.setMover m ⟨.writeback r, []⟩).charge x.owner 32
  else match s.segmentNext r with
    | some (k, off, n) =>
      let d := x.fetched[k]?
      let i := (s.ringHead r + k) % x.size
      let t := s.setDesc r k (fun d => { d with todo := d.todo.drop 1, running := d.running + 1 })
      let ps := if s.ringKind r = 1 then s.readPieces ((d.map (·.host)).getD 0 + off) n else []
      ((t.setMover m ⟨.segment r i off n, ps⟩).charge x.owner n).moversIssue
    | none => match s.fetchNext r with
      | some i => ((s.setMover m ⟨.fetch r i, [⟨x.base + 32 * i, 32, false, none⟩]⟩).charge x.owner 32).moversIssue
      | none => s

/-- Mover `m` takes an item of ring work (R453). -/
def State.takeRing (s : State) (m : Nat) : State :=
  let rs := s.pendingRings.filter (fun r => s.weightNow (s.ring r).owner != 0)
  let os := s.ownersOf rs
  let rich := os.filter (fun o => decide (0 < tget (fun _ => (0 : Int)) s.dma.deficit o))
  match arbPick s.dma.ownerGrants (if rich.isEmpty then os else rich) with
  | none => s
  | some o =>
    let g := tget (fun _ => []) s.dma.ringGrants o
    match arbPick g (rs.filter (fun r => (s.ring r).owner == o)) with
    | none => s
    | some r =>
      let t := { s with dma := { s.dma with ownerGrants := arbNote s.dma.ownerGrants o,
                                            ringGrants := tset (fun _ => []) s.dma.ringGrants o (arbNote g r) } }
      t.takeItem m r

/-! ## Channels (R458 to R464) -/

/-- A frame of channel `j` is skipped (R463). -/
def State.chanSkip (s : State) (j : Nat) : State :=
  (((s.inc (DMA_CH_SKIP j)).inc DMA_CHSKIP).setF (DMA_CH_STAT.LastSkipped j) 1).raise DMA_IRQ_STATUS.ChanSkip

/-- Transfers due of a channel. -/
def State.chanDue (s : State) (j : Nat) : List ChanDue := tget (fun _ => []) s.dma.due j

def State.setChanDue (s : State) (j : Nat) (l : List ChanDue) : State :=
  { s with dma := { s.dma with due := tset (fun _ => []) s.dma.due j l } }

/-- A mover carries channel `j`. -/
def isChan (j : Nat) : Job → Bool
  | .chanDesc x _ => x == j
  | .chanData x _ _ _ => x == j
  | _ => false

/-- The channels with a transfer due that no mover carries. -/
def State.chansReady (s : State) : List Nat :=
  (List.range 64).filter (fun j => !(s.chanDue j).isEmpty && !s.moversOn (isChan j))

/-- The ring of a channel is configured with the channel's kind, and not in a carrel's reset (R463, R469). -/
def State.chanRingOk (s : State) (ring kind : Nat) : Bool := s.ringKind ring == kind && !s.resetting (s.ring ring).owner

/-- Mover `m` starts the transfer of channel `j` that is due: skipped (R463), or its descriptor is fetched. -/
def State.startChan (s : State) (m j : Nat) : State :=
  match s.chanDue j with
  | [] => s
  | d :: rest =>
    let kind := if d.block.isEmpty then 3 else 4
    if !s.chanRingOk d.ring kind ∨ !s.canRequest then (s.setChanDue j rest).chanSkip j
    else
      let x := s.ring d.ring
      let a := x.base + 32 * (d.frame % x.size)
      ((s.setChanDue j rest).setMover m ⟨.chanDesc j d, [⟨a, 32, false, none⟩]⟩).moversIssue

/-- Channel transfers that are due taken under R9 by mover `m`, if any. -/
def State.takeChan (s : State) (m : Nat) : State :=
  match arbPick s.dma.chanGrants s.chansReady with
  | none => s
  | some j => { s with dma := { s.dma with chanGrants := arbNote s.dma.chanGrants j } }.startChan m j

/-- MOVER_FREE (R452). -/
def State.moverTake (s : State) (m : Nat) : State :=
  if (s.mover m).job ≠ .idle ∨ s.pfail then s
  else
    let t := s.takeChan m
    if (t.mover m).job ≠ .idle ∨ !s.chansReady.isEmpty then t else t.takeRing m

/-- MOVER_FREE. -/
def execMoverFree (m : Fin 31) (s : State) : Result := .next (s.moverTake m)

/-- Transfers due are taken by idle movers at once. -/
def State.chansGo (s : State) : State :=
  s.each (List.range 31) (fun m t => if (t.mover m).job = .idle ∧ !t.chansReady.isEmpty ∧ !t.pfail then t.takeChan m else t)

/-- A channel's transfer ends with its writeback (R447, R460, R463). -/
def State.chanEnd (s : State) (m j : Nat) (d : ChanDue) (ctl : Word) (code : Nat) : State :=
  let x := s.ring d.ring
  let t := (s.hostGrant m).writeBack (x.base + 32 * (d.frame % x.size)) code (d.frame % 2 ^ 32) ctl (s.ringPasid d.ring)
  let t := ((t.setF (DMA_CH_STAT.FrameLow j) d.frame).setF (DMA_CH_STAT.LastCode j) code).setF (DMA_CH_STAT.LastSkipped j) 0
  let t := t.when (code != 0) (fun s => (s.inc (DMA_CH_ERR j)).raise DMA_IRQ_STATUS.ChanError)
  let t := t.when (ctl.getLsbD 0) (·.ringEvent d.ring)
  t.freeMover m

/-- The contexts that name a ring's element by a Host source or sink (R69, R459); a bundle's member has no sink of its own
(R88). -/
def State.hostContexts (s : State) (ctx : Nat → Ctx) (source : Bool) (ring : Nat) : List (Nat × Nat) :=
  let members := if source then [] else outMembers ctx s.catIds
  s.catIds.filterMap (fun id =>
    let c := ctx id
    let w := if source then c.w2 else c.w3
    if c.enabled && (if source then c.source == 4 else c.sink == 4 && !members.contains id) && cut w 11 0 == ring then some (id, cut w 27 16) else none)

/-- An inbound block delivered (R460, R462): element `e` to every context that names it; an index past Elems receives nothing.  The
samples pass the switch's ingress as requester 13 (R90). -/
def State.chanDeliver (s : State) (d : ChanDue) (host : Nat) (ps : List Piece) : State :=
  let s := s.meetAll (s.catIds.filter (fun id => (s.ctxStored id).source == 4 && cut (s.ctxStored id).w2 11 0 == d.ring))
  let named := s.hostContexts s.ctx true d.ring
  let got := named.filterMap (fun x =>
    if d.elems ≤ x.2 then none
    else match pieceAt ps host (4 * x.2) 4 with
      | some (bs, false) => some (x.1, leNat bs % 2 ^ fmtWidth (s.ctx x.1).wire)
      | _ => none)
  (s.incBy DMA_CHBADEL (named.filter (fun x => decide (d.elems ≤ x.2))).length).ingress ⟨13, none, got, s.now⟩

/-- A channel's reads have ended: the descriptor is checked (R463), then the block moved (R460, R461); a transfer that the host port
can no longer carry is given up with its reads, and its frame skipped (R456, R463). -/
def State.chanProgress (s : State) (m : Nat) : State :=
  let x := s.mover m
  if s.pfail then s
  else if !s.canRequest then match x.job with
    | .chanDesc j _ => ((s.abandonReads [m]).freeMover m).chanSkip j
    | .chanData j _ _ _ => ((s.abandonReads [m]).freeMover m).chanSkip j
    | _ => s
  else if !x.ready then s
  else match x.job with
    | .chanDesc j d =>
      match x.data with
      | none => (s.freeMover m).chanSkip j
      | some b =>
        let ctl := BitVec.ofNat 32 (bytesAt b 28 4)
        let len := bytesAt b 12 4 % 2 ^ 21
        let host := bytesAt b 0 8
        if !ctl.getLsbD 31 ∨ len < 4 * d.elems then (s.freeMover m).chanSkip j
        else if d.block.isEmpty then
          (s.setMover m ⟨.chanData j d host ctl, s.readPieces host (4 * d.elems)⟩).moversIssue
        else
          ((s.hostGrant m).hostWrite host (d.block.flatMap (fun w => leBytes 4 w.toNat)) (s.ringPasid d.ring) false).chanEnd m j d ctl 0
    | .chanData j d host ctl =>
      let code := if x.pieces.any (fun p => p.got == some none) then 2
        else if x.pieces.any (fun p => match p.got with
          | some (some (_, true)) => true
          | _ => false) then 1 else 0
      (s.chanDeliver d host x.pieces).chanEnd m j d ctl code
    | _ => s

/-- A host read of mover `m` has ended: with bytes and their poison, or with an error (R457). -/
def State.moverGot (s : State) (m addr : Nat) (g : Option (List Byte × Bool)) : State :=
  let x := s.mover m
  let ps := x.pieces.map (fun p => if p.addr = addr ∧ p.issued ∧ p.got.isNone then { p with got := some g } else p)
  (s.setMover m { x with pieces := ps }).chanProgress m

/-- Every channel transfer under way is given up while the host port can issue no request (R456, R463). -/
def State.chansHeld (s : State) : State := s.each (s.dma.movers.map (·.1)) (fun m t => t.chanProgress m)

/-- CHANNEL_INBOUND: boundary n + At of an inbound channel (R460, R463). -/
def execChannelInbound (j : Fin 64) (s : State) : Result :=
  .next (
    if !s.running ∨ !s.on (DMA_CH_ACFG.Enable j) ∨ s.on (DMA_CH_ACFG.Dir j) then s
    else
      let at_ := s.fld (DMA_CH_ABLK.At j)
      let t := s.atLeast (s.frm.last * s.period + at_)
      if s.fld FRM_GATHER.Offset ≤ at_ then t.chanSkip j
      else (t.setChanDue j (t.chanDue j ++ [⟨s.frm.last, s.fld (DMA_CH_ACFG.Ring j), s.fld (DMA_CH_ABLK.Elems j) + 1, []⟩])).chansGo)

/-- The outbound channels whose sets govern the frame that now ends (R458), kept before the swap of the boundary. -/
def State.chansHold (s : State) : State :=
  { s with dma := { s.dma with outbound := (List.range 64).filterMap (fun j =>
      if s.on (DMA_CH_ACFG.Enable j) && s.on (DMA_CH_ACFG.Dir j) then
        some (j, s.fld (DMA_CH_ACFG.Ring j), s.fld (DMA_CH_ABLK.Elems j) + 1) else none) } }

/-- CHANNEL_OUTBOUND (R461): at the release of frame `n` every outbound channel's block is due. -/
def State.chansOut (s : State) (n : Nat) : State :=
  let t := s.each s.dma.outbound (fun x t =>
    let block := (List.range x.2.2).map (fun e => tget (fun _ => 0#32) t.cat.hostOut (4096 * x.2.1 + e))
    let over_ := (t.hostContexts t.ctxReleased false x.2.1).filter (fun c => decide (x.2.2 ≤ c.2))
    (t.incBy DMA_CHBADEL over_.length).setChanDue x.1 (t.chanDue x.1 ++ [⟨n, x.2.1, x.2.2, block⟩]))
  { t with cat := { t.cat with hostOut := [] } }.chansGo

/-- The channel sets staged with Commit become active at a swap (R41, R48, R458). -/
def State.swapChannels (s : State) : State :=
  s.each (List.range 64) (fun j t =>
    if !t.on (DMA_CH_CFG.Commit j) then t
    else ((t.setF (DMA_CH_CFG.Commit j) 0).wr (DMA_CH_ACFG j) (t.rd (DMA_CH_CFG j) &&& 0x3FFF#32)).wr (DMA_CH_ABLK j) (t.rd (DMA_CH_BLK j)))

/-- The shares staged become current at a swap (R454). -/
def State.swapShares (s : State) : State :=
  s.each (manager :: (List.range 256).filter (fun c => s.on (CRL_STATE.Exists c))) (fun o t => t.setF (shareCur o) (t.fld (shareStaged o)))

/-! ## BULK (R465) -/

/-- A BULK flit's bytes 0 to 119 written where the Head descriptor of ring `r` says, which then completes (R447, R465). -/
def State.bulkWrite (s : State) (r : Nat) (bs : List Byte) : State :=
  match (s.ring r).fetched.head? with
  | some e => (s.hostWrite e.host bs (s.ringPasid r) false).completeHead r
  | none => s

/-- BULK flits accepted during the hold of R456 are written. -/
def State.bulkFlush (s : State) : State :=
  ({ s with dma := { s.dma with bulk := [] } } : State).each s.dma.bulk (fun x t => t.bulkWrite x.1 x.2)

/-- BULK: the oldest delivered BULK flit is accepted for the bulk ring, or discarded (R465); its write pauses while the host port can
issue no request (R456), and the descriptor at Head is taken meanwhile. -/
def execBulk (s : State) : Result :=
  .next (match s.fab.inbox.find? (fun d => d.flit.type == ftBulk) with
    | none => s
    | some d =>
      let t := s.popInbox ftBulk
      let r := t.fld FAB_CTRL.BulkRing
      let x := t.ring r
      match x.fetched.head? with
      | some e =>
        if !t.on FAB_CTRL.BulkEn ∨ t.pfail ∨ t.ringKind r ≠ 5 ∨ t.ringState r = rsHalted ∨ e.code ≠ 0 ∨ t.resetting x.owner ∨
            t.dma.bulk.any (fun b => b.1 == r) then
          t.inc FAB_BULKDROP
        else
          let bs := leBytes 4 (d.flit.type.toNat + 16 * d.flit.cls.toNat + 64 * d.flit.dest.toNat + 65536 * d.flit.stream.toNat) ++
            padTo 116 d.flit.payload
          if t.canRequest then t.bulkWrite r bs else { t with dma := { t.dma with bulk := t.dma.bulk ++ [(r, bs)] } }
      | none => t.inc FAB_BULKDROP)

/-! ## Carrels (R466 to R472) -/

/-- The pool rings of a carrel, by slot. -/
def State.carrelRings (s : State) (c : Nat) : List Nat :=
  (List.range (s.fld (CRL_STATE.Rings c))).map (fun k => s.fld (CRP_RINGMAP.Ring c k))

/-- The pool vectors of a carrel, by index. -/
def State.carrelVectors (s : State) (c : Nat) : List Nat :=
  (List.range (s.fld (CRL_STATE.Vectors c))).map (fun j => s.fld (CRP_VECMAP.Vector c j))

/-- The lowest `n` free rings, and vectors of the pool 16 to 2,047. -/
def State.freeRings (s : State) (n : Nat) : List Nat :=
  ((List.range 4096).filter (fun r => (s.ring r).owner == noOwner)).take n
def State.freeVectors (s : State) (n : Nat) : List Nat :=
  ((List.range 2032).filter (fun v => !s.on (IRQ_VSTAT_POOL.Owned v))).take n |>.map (· + 16)

/-- The pools' counts in DMA_STATUS. -/
def State.poolCounts (s : State) : State :=
  let used := (s.dma.rings.filter (fun p => p.2.owner != noOwner)).length
  let owned := ((List.range 256).map (fun c => s.fld (CRL_STATE.Vectors c))).sum
  (s.setF DMA_STATUS.FreeRings (4096 - used)).setF DMA_STATUS.FreeVectors (2032 - owned)

/-- A ring's registers and bookkeeping at rest: Head and Tail 0, its codes cleared, IDLE or OFF for kind 0 (R469). -/
def State.ringClear (s : State) (r : Nat) : State :=
  let k := s.ringKind r
  let t := (s.setRing r { s.ring r with fetched := [], parked := false }).wr (DMA_RING_DB r) 0#32
  (t.wr (DMA_RING_STAT r) 0#32).setF (DMA_RING_STAT.Kind r) k |>.setF (DMA_RING_STAT.State r) (if k = 0 then rsOff else rsIdle)

/-- A ring returned to the pool, OFF without configuration. -/
def State.ringFree (s : State) (r : Nat) : State :=
  ((s.setRing r Ring.zero).wr (DMA_RING_DB r) 0#32).wr (DMA_RING_STAT r) 0#32

/-- The work of movers 0 to 30 on rings that satisfy `p` is abandoned (R469, R472): the segments and the outstanding reads
given up; channel frames are skipped. -/
def State.abandonWork (s : State) (p : Nat → Bool) : State × Nat × Nat :=
  let ms := s.moversWith p
  let isSeg : Job → Bool := fun j => match j with
    | .segment _ _ _ _ => true
    | _ => false
  let segs := (ms.filter (fun m => isSeg (s.mover m).job)).length
  let reads := (s.host.outstanding.filter (moverReads ms)).length
  let t := ((s.abandonReads ms).dropBulk p).each ms (fun m t => match (t.mover m).job with
    | .chanDesc j _ => (t.freeMover m).chanSkip j
    | .chanData j _ _ _ => (t.freeMover m).chanSkip j
    | _ => t.freeMover m)
  (t.incBy DMA_ABANDON segs, segs, reads)

/-- A carrel reset starts (R469). -/
def State.carrelReset (s : State) (c origin : Nat) (destroy : Bool) : State :=
  let t := (s.setF (CRL_STATE.Resetting c) 1).setF (CRL_STATE.Ready c) 0
  let t := t.each (t.carrelVectors c) (fun v t => t.vectorReset v)
  let rs := t.carrelRings c
  let x := t.abandonWork (fun r => rs.contains r)
  { x.1 with dma := { x.1.dma with resets := x.1.dma.resets ++ [(⟨c, origin, x.2.1, x.2.2, true, destroy⟩ : CarrelReset)] } }

/-- A carrel's rings, vectors and shares go, and its entries return to their Reset values (R471). -/
def State.carrelGone (s : State) (c origin : Nat) : State :=
  let t := s.each (s.carrelRings c) (fun r t => t.ringFree r)
  let t := t.each (t.carrelVectors c) (fun v t =>
    let u := t.vectorReset v
    { u with regs := tclear (tclear (tclear u.regs (IRQ_MSIX_W0 v) (IRQ_MSIX_W0 v + 16)) (IRQ_MOD v) (IRQ_MOD v + 1)) (vstat v) (vstat v + 1) })
  let t := { t with regs := tclear (tclear t.regs (CRL_STATE c) (CRL_STATE c + 16)) (0x10000000 + 0x10000 * c) (0x10000000 + 0x10000 * (c + 1)),
                    dma := { t.dma with resets := t.dma.resets.filter (fun x => x.carrel != c),
                                        deficit := tset (fun _ => (0 : Int)) t.dma.deficit c 0,
                                        weight := tset weight0 t.dma.weight c 0 } }
  let t := t.setF CRL_INFO.Carrels (t.fld CRL_INFO.Carrels - 1)
  ((t.poolCounts.logEvent 0x0712 c (leBytes 1 origin)).raise CRL_IRQ_STATUS.Destroyed)

/-- CARREL_RESET_DONE (R469, R471). -/
def execCarrelResetDone (c : Fin 256) (s : State) : Result :=
  .next (match s.dma.resets.find? (fun x => x.carrel == c.val) with
    | none => s
    | some x =>
      let t := s.when x.round (fun s => s.shareRestore c)
      let t := { t with dma := { t.dma with resets := t.dma.resets.erase x } }
      let t := t.each (t.carrelRings c) (fun r t => t.ringClear r)
      let t := ((t.setF (CRL_STATE.Resetting c) 0).setF (CRL_STATE.Ready c) 1).setF (CRP_EVENT.ResetDone c) 1
      let t := ((t.logEvent 0x0711 c (leBytes 1 x.origin ++ leBytes 1 0 ++ leBytes 2 x.segs ++ leBytes 2 x.reads)).raise
        CRL_IRQ_STATUS.ResetDone).incF (CRL_RES.ResetCount c)
      if x.destroy then
        let u := t.carrelGone c 0
        match u.backgroundOf 0x0711 (.carrel c) with
        | some b => u.finishBackground b stOk []
        | none => u
      else match t.backgroundOf 0x0712 (.carrel c) with
        | some b => t.finishBackground b stOk []
        | none => t)

/-- A CARREL_RESET or CARREL_DESTROY in flight on a carrel that a host-port reset destroys ends: the carrel is gone, so the one
answers CARREL_STATE and the other OK (DESIGN CHOICE, assumption log 54). -/
def State.carrelEnded (s : State) (c : Nat) : State :=
  let t := match s.backgroundOf 0x0711 (.carrel c) with
    | some b => s.finishBackground b stOk []
    | none => s
  match t.backgroundOf 0x0712 (.carrel c) with
  | some b => t.finishBackground b stCarrelState []
  | none => t

/-- Host-port resets on movers, carrels and the manager's rings (R472). -/
def State.dmaHostReset (s : State) : State :=
  let t := (s.abandonWork (fun _ => true)).1
  let t := t.each ((List.range 256).filter (fun c => t.on (CRL_STATE.Exists c))) (fun c t => (t.carrelGone c 1).carrelEnded c)
  (t.each (t.usedRings.filter (fun r => (t.ring r).owner == manager)) (fun r t => t.ringFree r)).poolCounts

/-- PAGE_RESET: a write of 1 to CRP_CTRL.Reset; ignored during a reset and in the page of an absent carrel. -/
def State.pageReset (s : State) (c : Nat) : State :=
  if !s.on (CRL_STATE.Exists c) ∨ s.on (CRL_STATE.Resetting c) then s
  else (s.raise CRL_IRQ_STATUS.PageReset).carrelReset c 1 false

/-- PAGE_RESET. -/
def execPageReset (c : Fin 256) (s : State) : Result := .next (s.pageReset c)

/-- CARREL_CREATE (R466); a field out of range is refused first (DEDUCED, log 16). -/
def execCarrelCreate (h : SlipHdr) (c : BitVec 16) (rings vectors : Byte) (pasid : Word) (share : BitVec 16) (s : State) : Result :=
  .next (s.runSlip h 0x0710 (.carrel c.toNat) (fun s =>
    let any := c == 0xFFFF#16
    let nv := if vectors = 0#8 then 8 else vectors.toNat
    let nr := rings.toNat
    if (!any ∧ 256 ≤ c.toNat) ∨ nr < 1 ∨ 64 < nr ∨ 64 < nv ∨ 2 ^ 20 ≤ pasid.toNat ∨ 1024 ≤ share.toNat then refuse s stValueRange
    else if !any ∧ s.on (CRL_STATE.Exists c.toNat) then refuse s stCarrelState
    else
      let num := if any then ((List.range 256).filter (fun k => !s.on (CRL_STATE.Exists k))).head? else some c.toNat
      let rs := s.freeRings nr
      let vs := s.freeVectors nv
      match num with
      | none => refuse s stPoolExhausted
      | some k =>
        if rs.length < nr ∨ vs.length < nv then refuse s stPoolExhausted
        else if (List.range 256).any (fun x => s.on (CRL_STATE.Exists x) && s.fld (CRL_PASID.Pasid x) == pasid.toNat) then
          refuse s stPasidInUse
        else if s.on FRM_STATUS.StagedFrozen then refuse s stStageFrozen
        else
          let t := s.each rs.zipIdx (fun (x : Nat × Nat) t =>
            ((t.setRing x.1 { Ring.zero with owner := k }).setF (CRP_RINGMAP.Ring k x.2) x.1).setF (CRP_RINGMAP.Valid k x.2) 1)
          let t := t.each vs.zipIdx (fun (x : Nat × Nat) t =>
            let p := x.1 - 16
            ((((t.setF (IRQ_MSIX_W3.Mask x.1) 1).setF (IRQ_VSTAT_POOL.Owned p) 1).setF (IRQ_VSTAT_POOL.Carrel p) k).setF
              (CRP_VECMAP.Vector k x.2) x.1).setF (CRP_VECMAP.Valid k x.2) 1)
          let t := ((t.setF (shareCur k) share.toNat).setF (shareStaged k) share.toNat).setF (CRL_RES.CreationShare k) share.toNat
          let t := (((t.setF (CRL_STATE.Exists k) 1).setF (CRL_STATE.Ready k) 1).setF (CRL_STATE.Rings k) nr).setF (CRL_STATE.Vectors k) nv
          let t := ((t.setF (CRL_PASID.Pasid k) pasid.toNat).setF CRL_INFO.Carrels (t.fld CRL_INFO.Carrels + 1)).poolCounts
          let t := (t.logEvent 0x0710 k (leBytes 1 nr ++ leBytes 1 nv ++ leBytes 2 0 ++ leBytes 4 pasid.toNat)).raise CRL_IRQ_STATUS.Created
          (t, .done stOk (leBytes 2 k ++ leBytes 1 nr ++ leBytes 1 nv))))

/-- A carrel that exists and is not resetting, or the status that refuses it. -/
def State.carrelNamed (s : State) (c : Nat) : Option Nat :=
  if 256 ≤ c then some stValueRange
  else if !s.on (CRL_STATE.Exists c) ∨ s.on (CRL_STATE.Resetting c) then some stCarrelState
  else none

/-- CARREL_DESTROY (R471). -/
def execCarrelDestroy (h : SlipHdr) (c : BitVec 16) (s : State) : Result :=
  .next (s.runSlip h 0x0711 (.carrel c.toNat) (fun s =>
    match s.carrelNamed c.toNat with
    | some st => refuse s st
    | none =>
      if s.on FRM_STATUS.StagedFrozen then refuse s stStageFrozen
      else (s.carrelReset c.toNat 0 true, .accepted (.carrelDestroy c.toNat))))

/-- CARREL_RESET (R469). -/
def execCarrelReset (h : SlipHdr) (c : BitVec 16) (s : State) : Result :=
  .next (s.runSlip h 0x0712 (.carrel c.toNat) (fun s =>
    match s.carrelNamed c.toNat with
    | some st => refuse s st
    | none => (s.carrelReset c.toNat 0 false, .accepted (.carrelReset c.toNat))))

/-- CARREL_SHARE (R454, R473). -/
def execCarrelShare (h : SlipHdr) (owner weight : BitVec 16) (s : State) : Result :=
  .next (s.runSlip h 0x0713 (.carrel owner.toNat) (fun s =>
    let o := owner.toNat
    if 256 < o ∨ 1024 ≤ weight.toNat then refuse s stValueRange
    else if o < 256 ∧ (s.carrelNamed o).isSome then refuse s stCarrelState
    else if s.on FRM_STATUS.StagedFrozen then refuse s stStageFrozen
    else (s.setF (shareStaged o) weight.toNat, okAns)))

/-- CARREL_INFO. -/
def execCarrelInfo (h : SlipHdr) (c : BitVec 16) (s : State) : Result :=
  .next (s.runSlip h 0x0714 (.carrel c.toNat) (fun s =>
    let k := c.toNat
    if 256 ≤ k then refuse s stValueRange
    else if !s.on (CRL_STATE.Exists k) then refuse s stCarrelState
    else (s, .done stOk (s.words [CRL_STATE k, CRL_PASID k, CRL_SHARE_C k, CRL_RES k]))))

/-- The settings R444 admits: kind, SizeLog, Base and, for a carrel's ring, the vector. -/
def ringSettingsOk (kind sizeLog base vector : Nat) (vectors : Option Nat) : Bool :=
  decide (kind ≤ 5) && decide (3 ≤ sizeLog) && decide (sizeLog ≤ 12) && base % min (32 * 2 ^ sizeLog) 4096 == 0 &&
    vectors.all (fun n => decide (vector < n))

/-- A ring given its settings: Head and Tail 0, IDLE, or OFF for kind 0 (R444). -/
def State.ringSet (s : State) (r owner kind sizeLog base vector : Nat) : State :=
  let t := s.setRing r ⟨owner, sizeLog, base, vector, [], false⟩
  ((t.wr (DMA_RING_STAT r) 0#32).setF (DMA_RING_STAT.Kind r) kind).ringClear r

/-- RING_CONFIG (R444, R473). -/
def execRingConfig (h : SlipHdr) (owner slot : BitVec 16) (kind sizeLog vector : Byte) (base : Dword) (s : State) : Result :=
  .next (s.runSlip h 0x0715 (.carrel owner.toNat) (fun s =>
    let o := owner.toNat
    let n := slot.toNat
    let finish (r : Nat) (vecs : Option Nat) : State × SlipAns :=
      if s.ringState r = rsActive then refuse s stRingState
      else if !ringSettingsOk kind.toNat sizeLog.toNat base.toNat vector.toNat vecs then refuse s stRingInvalid
      else ((s.ringSet r o kind.toNat sizeLog.toNat base.toNat vector.toNat).poolCounts, .done stOk (leBytes 2 r))
    if o < 256 then
      match s.carrelNamed o with
      | some st => refuse s st
      | none => if s.fld (CRL_STATE.Rings o) ≤ n then refuse s stValueRange
        else finish (s.fld (CRP_RINGMAP.Ring o n)) (some (s.fld (CRL_STATE.Vectors o)))
    else if o ≠ 256 then refuse s stValueRange
    else if n = 0xFFFF then
      match (s.freeRings 1).head? with
      | none => refuse s stPoolExhausted
      | some r => finish r none
    else if 4096 ≤ n then refuse s stValueRange
    else if (s.ring n).owner ≠ noOwner ∧ (s.ring n).owner ≠ manager then refuse s stRingState
    else finish n none))

/-- RING_RELEASE (R473). -/
def execRingRelease (h : SlipHdr) (r : BitVec 16) (s : State) : Result :=
  .next (s.runSlip h 0x0716 .none (fun s =>
    let k := r.toNat
    if 4096 ≤ k then refuse s stValueRange
    else if (s.ring k).owner ≠ manager ∨ s.ringState k = rsActive then refuse s stRingState
    else ((s.ringFree k).poolCounts, okAns)))

/-- RING_INFO: owner 0xFFFF for a free ring (DESIGN CHOICE, log 16). -/
def execRingInfo (h : SlipHdr) (r : BitVec 16) (s : State) : Result :=
  .next (s.runSlip h 0x0717 .none (fun s =>
    let k := r.toNat
    if 4096 ≤ k then refuse s stValueRange
    else
      let x := s.ring k
      (s, .done stOk (leBytes 2 (if x.owner = noOwner then 0xFFFF else x.owner) ++ leBytes 1 (s.ringKind k) ++
        leBytes 1 x.sizeLog ++ leBytes 1 x.vector ++ leBytes 3 0 ++ leBytes 8 x.base ++ s.words [DMA_RING_STAT k]))))

/-- CHAN_STAGE: the shadow set written with Commit set (R458, R473). -/
def execChanStage (h : SlipHdr) (j : Byte) (cfg blk : Word) (s : State) : Result :=
  .next (s.runSlip h 0x0718 .none (fun s =>
    if 64 ≤ j.toNat then refuse s stValueRange
    else if s.on FRM_STATUS.StagedFrozen then refuse s stStageFrozen
    else ((s.writeShadow (DMA_CH_CFG j.toNat) ((cfg &&& 0x3FFF#32) ||| 0x80000000#32)).writeShadow (DMA_CH_BLK j.toNat) blk, okAns)))

/-- DMA_STATUS as a read returns it. -/
def State.dmaStatus (s : State) : Word :=
  let busy := (s.dma.movers.filter (fun m => m.2.job != .idle)).length
  (s.rd DMA_STATUS &&& 0x7FFFFF80#32) |||
    BitVec.ofNat 32 ((!s.on CFG_CMDSTS.BusMaster).toNat + 2 * (s.fld CFG_PMCSR.PowerState == 3).toNat + 4 * busy)

/-- DMA_INFO. -/
def execDmaInfo (h : SlipHdr) (s : State) : Result :=
  .next (s.runSlip h 0x0719 .none (fun s =>
    (s, .done stOk (leBytes 4 s.dmaStatus.toNat ++ s.words [DMA_NOTOWNED, DMA_ABANDON, DMA_DESCERR]))))

end Sys2Proof.Machine
end

