-- ==== Sys2Proof/Machine/Time.lean ====
section
/-! DEFINITION. Machine/Time.lean: link delays, the time parent and the servo (R358 to R363). -/

namespace Sys2Proof.Machine

/-- A link nothing has happened on. -/
def LinkUnit.zero : LinkUnit where
  buf := []
  base := 0
  replay := none
  nak := false
  ctl := []
  rot := 0
  rx := []
  freed := []
  used := []
  counts := []
  grants := []
  fails := []
  failRun := 0
  seen := false
  resume := false
  mine := none
  request := none
  retrain := none
  quiet := false
  handed := []
  failover := false
  wire := []
  place := 0
  delays := []
  probeId := 0#16
  time := none
  adverts := []

/-- Link `l` beside its registers. -/
def State.link (s : State) (l : Nat) : LinkUnit := tget (fun _ => LinkUnit.zero) s.links l

/-- Link `l` replaced. -/
def State.setLink (s : State) (l : Nat) (u : LinkUnit) : State := { s with links := tset (fun _ => LinkUnit.zero) s.links l u }

/-- The last 8 of a list with one more element. -/
def lastEight (l : List Int) (x : Int) : List Int := (l ++ [x]).drop ((l ++ [x]).length - 8)

/-- The mean of the exchanges held, rounded down; 0 for none. -/
def meanOf (l : List Int) : Int := if l = [] then 0 else l.sum / l.length

/-- A signed number clamped to [lo, hi]. -/
def clampInt (lo hi x : Int) : Int := max lo (min hi x)

/-- The difference of two stamps. -/
def stampDiff (a b : Dword) : Int := (a - b).toInt

/-- STIME in stamps of 0.5 ns (R309). -/
def State.stamp (s : State) : Nat := (2 * s.now + s.time.frac.toNat / 2 ^ 15) % 2 ^ 64

/-- A standalone node: no formation names another node, and no roster holds one (R32; DEDUCED, log 13). -/
def State.standalone (s : State) : Bool := !s.formsOthers && s.roster.all (fun n => n == s.nodeId)

/-- The time parent (R359): the link R350 selects for the timekeeper, provided its TIME flits report TimeLocked. -/
def State.timeParent (s : State) : Option Nat :=
  if s.on FAB_STATUS.Timekeeper || !s.on FAB_LEADER.TkValid then none
  else match s.routeLink (s.fld FAB_LEADER.TkId) none with
    | none => none
    | some (l, _) => match (s.link l).time with
      | some (_, _, _, flags, _, _) => if flags % 2 = 1 then some l else none
      | none => none

/-- Parent, Depth and the parent's Period as they stand now (R359, R362). -/
def State.parentUpdate (s : State) : State :=
  match s.timeParent with
  | none => { ((s.setF FAB_TIME_STAT.ParentValid 0).setF FAB_TIME_STAT.Depth 0) with fab := { s.fab with parentPeriod := none } }
  | some l =>
    let m := ((s.link l).time).getD (0, 0, 0, 0, 0, 0)
    let t := (((s.setF FAB_TIME_STAT.Parent l).setF FAB_TIME_STAT.ParentValid 1).setF FAB_TIME_STAT.Depth
      (min 63 (m.2.2.2.2.1 + 1)))
    { t with fab := { t.fab with parentPeriod := some m.2.1 } }

/-- TIME_LOCK_CHANGE (R360): a member in RUN enters HELD, and one in HELD takes the new cause (R591). -/
def State.setTimeLock (s : State) (on : Bool) : State :=
  if s.on FAB_STATUS.TimeLocked = on then s
  else s.inOneCycle (fun s =>
    let t := (s.setB FAB_STATUS.TimeLocked on).setB FRM_STATUS.TimeLocked on
    let u := t.logEvent 0x0615 (t.fld FAB_TIME_STAT.Parent)
      (leBytes 4 on.toNat ++ leBytes 4 (BitVec.ofInt 32 (meanOf t.fab.servo.offsets / 500)).toNat)
    if on then u.raise FAB_IRQ_STATUS.TimeLockGained
    else
      let v := u.raise FAB_IRQ_STATUS.TimeLockLost
      v.when (v.on FAB_STATUS.Member) (·.enterHeld hcTimeLost))

/-- The timekeeper holds TimeLocked at 1 (R360); a standalone node has it at 1 from the start, which is no change of lock (R32). -/
def State.keepTime (s : State) : State :=
  if s.on FAB_STATUS.Timekeeper then s.setTimeLock true
  else s.when s.standalone (fun t => (t.setF FAB_STATUS.TimeLocked 1).setF FRM_STATUS.TimeLocked 1)

/-- TIMEKEEPER (R363): the timekeeper this node follows. -/
def State.setKeeper (s : State) (k : Option Nat) : State :=
  let was := if s.on FAB_LEADER.TkValid then some (s.fld FAB_LEADER.TkId) else none
  if was = k then s
  else match k with
    | none => (s.setF FAB_LEADER.TkValid 0).setF FAB_STATUS.Timekeeper 0
    | some n =>
      let t := ((s.setF FAB_LEADER.TkId n).setF FAB_LEADER.TkValid 1).setB FAB_STATUS.Timekeeper (n == s.nodeId)
      -- the new timekeeper stops disciplining: a step it had pending is none of its own
      let t := t.when (n == s.nodeId) (fun t => { t with time := { t.time with step := none } })
      ((t.logEvent 0x0614 n (leBytes 4 (t.rd FAB_EPOCH).toNat)).raise FAB_IRQ_STATUS.TimekeeperChanged).keepTime

/-- One exchange's offset `x` (ps) from the parent: the mean, the servo's rate (a free value within 250 ppm: R359 gives no
gains), the lock counts and the step (R359 to R361). -/
def State.servoOffset (s : State) (x : Int) : State :=
  let o := lastEight s.fab.servo.offsets x
  let m := meanOf o
  let win := 500 * Int.ofNat (s.fld FAB_TIME_CFG.LockWin)
  let inside := if -win ≤ m ∧ m ≤ win then s.fab.servo.inside + 1 else 0
  let outside := if -(4 * win) ≤ m ∧ m ≤ 4 * win then 0 else s.fab.servo.outside + 1
  let r := s.takeFree
  let rate : Int := Int.ofNat (r.1.toNat % 500001) - 250000
  let t := ((r.2.setF FAB_TIME_STAT.Offset (BitVec.ofInt 16 (clampInt (-32768) 32767 (m / 500))).toNat).wr FAB_RATE
    (BitVec.ofInt 32 rate))
  let u := { t with fab := { t.fab with servo := ⟨o, inside, outside⟩ },
                    time := { t.time with step := if m < -1000000 ∨ 1000000 < m then some m else none } }
  if 8 ≤ inside then u.setTimeLock true
  else if 4 ≤ outside then u.setTimeLock false
  else u

/-- A TIME_REPLY on link `l` (R358, R359): the outbound delay, and from the parent the offset. -/
def State.timeReply (s : State) (l : Nat) (t1 t2 t3 t4 : Dword) : State :=
  let a := signedOf 16 (s.fld (FAB_LTIME.Asym l))
  let d := ((stampDiff t4 t1 - stampDiff t3 t2) * 500 + a) / 2
  let u := s.link l
  let ds := lastEight u.delays d
  let t := (s.setLink l { u with delays := ds }).setF (FAB_LTIME.Delay l) (clampInt 0 65535 (meanOf ds / 500)).toNat
  let v := t.parentUpdate
  if v.timeParent = some l then v.servoOffset (((stampDiff t2 t1 + stampDiff t3 t4) * 500 - a) / 2) else v

/-- HOLDOVER_TIMEOUT: HoldoverTo ticks without a reply from a parent (R360). -/
def execHoldoverTimeout (s : State) : Result :=
  .next (if s.on FAB_STATUS.Timekeeper || s.standalone then s else s.setTimeLock false)

/-- The timekeeper a non-member follows: one named by the TIME flits of the link that R350 selects for it, the one it follows before
the lowest link's; where there is none it goes on with the one it has (R363; DEDUCED, log 13). -/
def State.namedKeeper (s : State) : Option Nat :=
  let c := s.liveLinks.filterMap (fun l => match (s.link l).time with
    | some (_, _, k, _, _, _) => if (s.routeLink k none).any (fun r => r.1 == l) then some k else none
    | none => none)
  let now := if s.on FAB_LEADER.TkValid then some (s.fld FAB_LEADER.TkId) else none
  if now.any c.contains || c.isEmpty then now else c.head?

/-- TIME: a TIME flit received on link `l` (R362, R363). -/
def execTimeFlit (l : Fin 48) (stime : Dword) (period : Word) (_frame : Dword) (keeper : BitVec 10) (flags : Byte)
    (depth : BitVec 6) (epoch : Word) (s : State) : Result :=
  .next (
    let t := s.popInbox ftTime
    let u := t.setLink l { t.link l with
      time := some (stime.toNat, period.toNat, keeper.toNat, flags.toNat, depth.toNat, epoch.toNat) }
    (u.when (!u.on FAB_STATUS.Member) (fun x => x.setKeeper x.namedKeeper)).parentUpdate)

/-- PROBE_TICK: TIME_PROBE on each live fabric link and each leaf link in ACTIVE (R358). -/
def execProbeTick (s : State) : Result :=
  .next (s.each (s.liveLinks ++ s.activeLeaves) (fun l t =>
    let u := t.link l
    t.setLink l { u with ctl := u.ctl ++ [.probe u.probeId.toNat], probeId := u.probeId + 1#16 }))

/-- The payload of a TIME flit on link `l` (R362). -/
def State.timePayload (s : State) (l : Nat) : List Byte :=
  let leaf := s.on (onLink LNK_STATUS.PartnerLeaf l)
  let delay := if leaf then s.fld (FAB_LTIME.Delay l) / 2 else 0
  let keeper := s.on FAB_STATUS.Timekeeper
  let period := if keeper then s.period else s.fab.parentPeriod.getD s.period
  let flags := (s.on FAB_STATUS.TimeLocked).toNat + 2 * (s.sched == held).toNat + 4 * keeper.toNat
  leBytes 8 (s.now + delay) ++ leBytes 4 period ++ leBytes 8 s.frame ++
    leBytes 2 (s.fld FAB_LEADER.TkId) ++ leBytes 1 flags ++ leBytes 1 (if keeper then 0 else s.fld FAB_TIME_STAT.Depth) ++
    leBytes 4 (s.rd FAB_EPOCH).toNat

/-- TIME_TICK: a TIME flit on every live fabric link and every leaf link in ACTIVE (R362). -/
def execTimeTick (s : State) : Result :=
  .next ((s.each s.liveLinks (fun l t =>
      t.enqueueFlit 49 l (mkFlit ftTime 1 (t.fld (onLink LNK_STATUS.PartnerId l)) 0 (t.timePayload l)))).each
    s.activeLeaves (fun l t => t.enqueueFlit 49 l (mkFlit ftTime 1 t.nodeId 0 (t.timePayload l))))

end Sys2Proof.Machine
end

