-- ==== Sys2Proof/Machine/LinkOps.lean ====
section
/-! DEFINITION. Machine/LinkOps.lean: a Maelid link's states, its lane sets, replay and credits, and the entry to DOWN
(R303 to R338). -/

namespace Sys2Proof.Machine

/-- The causes of LNK_STATUS.DownCause. -/
abbrev dcErrorRate : Nat := 1
abbrev dcReplayLimit : Nat := 2
abbrev dcCreditTimeout : Nat := 3
abbrev dcSpillError : Nat := 4
abbrev dcProtocol : Nat := 5
abbrev dcNoLane : Nat := 6
abbrev dcInitTimeout : Nat := 7
abbrev dcRetrainTimeout : Nat := 8
abbrev dcSameId : Nat := 9

/-! ## Flits on the wire (R305 to R308) -/

/-- Flit bytes 0 to 119. -/
def flitBody (f : Flit) : List Byte :=
  leBytes 4 (f.type.toNat + 16 * f.cls.toNat + 64 * f.dest.toNat + 65536 * f.stream.toNat) ++ padTo 116 f.payload

/-- The flit whose bytes 0 to 119 these are. -/
def flitOf (bs : List Byte) : Flit :=
  let h := bytesAt bs 0 4
  ⟨BitVec.ofNat 4 h, BitVec.ofNat 2 (h / 16), BitVec.ofNat 10 (h / 64), BitVec.ofNat 16 (h / 65536), (bs.drop 4).take 116, none⟩

/-- The prefix of R308: of sequence number `s`, or the link-local one. -/
def seqPrefix (s : Nat) : List Byte := leBytes 2 (s % 4096)
def localPrefix : List Byte := [0x00#8, 0xF0#8]

/-- The 128 bytes of a flit: bytes 0 to 119, its trailer, and the CRC under a prefix. -/
def flitBytes (body : List Byte) (trailer : Nat) (pre : List Byte) : List Byte :=
  let b := body ++ leBytes 4 trailer
  b ++ leBytes 4 (crc32c (pre ++ b)).toNat

/-- Does the CRC of a received flit match under a prefix? -/
def crcOk (bytes pre : List Byte) : Bool := leBytes 4 (crc32c (pre ++ bytes.take 124)).toNat == (bytes.drop 124).take 4

/-- The class permitted for a sequenced type (R306). -/
def classOk (type cls : Nat) : Bool :=
  match type with
  | 8 | 9 => cls == 2
  | 10 | 11 | 12 => cls == 0
  | 13 => cls == 1
  | 14 => cls == 3
  | 15 => cls == 2 || cls == 3
  | _ => false

/-- The types a leaf link carries toward the bridge, and from it (R340). -/
def leafInOk (type : Nat) : Bool := type == 8 || type == 14
def leafOutOk (type : Nat) : Bool := type == 9 || type == 13 || type == 14

/-! ## Registers of a link -/

abbrev lkFlag (l i : Nat) : Fld := ⟨onLink LNK_IRQ_STATUS l, i, i⟩
abbrev lkTx (l : Nat) : Fld := onLink LNK_STATUS.TxMask l
abbrev lkRx (l : Nat) : Fld := onLink LNK_STATUS.RxMask l
abbrev lkHunting (l : Nat) : Fld := onLink LNK_STATUS.Hunting l
abbrev lkNakWait (l : Nat) : Fld := onLink LNK_STATUS.NakWait l
abbrev lkTxNext (l : Nat) : Fld := onLink LNK_SEQ.TxNext l
abbrev lkExpect (l : Nat) : Fld := onLink LNK_SEQ.RxExpected l
abbrev lkReplays (l : Nat) : Fld := onLink LNK_SEQ.ReplayCount l

/-- Credits held, and advertised by the partner, of class `c`. -/
abbrev lkCredit (l c : Nat) : Fld := ⟨onLink LNK_CREDIT l, 8 * c + 7, 8 * c⟩
abbrev lkAdv (l c : Nat) : Fld := ⟨onLink LNK_CRADV l, 8 * c + 7, 8 * c⟩

/-- What a bridge advertises (R321). -/
def ownCredits (c : Nat) : Nat := queueDepth c

/-- Outstanding, with its greatest value since last read (R314). -/
def State.setOutstanding (s : State) (l n : Nat) : State :=
  let t := s.setF (onLink LNK_OUTST.Outstanding l) n
  if t.fld (onLink LNK_OUTST.MaxOutstanding l) < n then t.setF (onLink LNK_OUTST.MaxOutstanding l) n else t

/-- The most flits a link may hold outstanding (R318). -/
def State.outLimit (s : State) (l : Nat) : Nat := min 2047 (256 + s.fld (STK_SPILL.Size l))

/-- O, the oldest flit not yet acknowledged. -/
def State.oldest (s : State) (l : Nat) : Nat := (s.fld (lkTxNext l) + 4096 - (s.link l).buf.length) % 4096

/-! ## Lanes of a link -/

/-- The order that the lanes of link `l` agreed on is the reversed one: those in the link still report it (R288). -/
def State.linkReversed (s : State) (l : Nat) : Bool :=
  let f := s.linkLanes l
  (List.range f.2).any (fun i => s.on (lnReversed (f.1 + i)))

/-- The lane at position `i` of link `l`, counted from its last lane when the order is reversed (R288, R303). -/
def State.laneAt (s : State) (l i : Nat) : Nat :=
  let f := s.linkLanes l
  if s.linkReversed l then f.1 + (f.2 - 1 - i) else f.1 + i

/-- The position of lane `n` in its link. -/
def State.lanePos (s : State) (n : Nat) : Nat :=
  let p := s.laneLink n
  if s.linkReversed p.1 then p.2.2 - 1 - p.2.1 else p.2.1

/-- A mask of the positions of link `l` that satisfy `f`. -/
def State.maskOf (s : State) (l : Nat) (f : Nat → Bool) : Nat :=
  ((List.range (s.linkLanes l).2).filter (fun i => f (s.laneAt l i))).foldl (fun m i => m + 2 ^ i) 0

/-- The lanes of a mask. -/
def State.maskLanes (s : State) (l m : Nat) : List Nat :=
  ((List.range (s.linkLanes l).2).filter (fun i => m.testBit i)).map (s.laneAt l)

/-- AllowMask within the link's width. -/
def State.allowed (s : State) (l : Nat) : Nat := s.fld (onLink LNK_CTRL.AllowMask l) % 2 ^ (s.linkLanes l).2

/-- The usable lanes (R325). -/
def State.usable (s : State) (l : Nat) : Nat := s.maskOf l (fun n => s.on (lnEnable n)) &&& s.allowed l

/-- The usable lanes that are READY. -/
def State.readyMask (s : State) (l : Nat) : Nat := s.maskOf l (fun n => s.laneState n == lnReady) &&& s.usable l

/-- The lane set in use once what is pending has been sent. -/
def State.pendingSet (s : State) (l : Nat) : Nat :=
  ((s.link l).ctl.filterMap (fun x => match x with
    | .blocks m _ _ => some m
    | _ => none)).getLast?.getD (s.fld (lkTx l))

/-- Lanes return to SEEK, or to where their own Enable leaves them. -/
def State.lanesSeek (s : State) (ns : List Nat) : State :=
  s.each ns (fun n t =>
    let st := t.laneState n
    if st = lnDisabled ∨ st = lnPrbs ∨ st = lnLoopback then t else t.laneIdle n)

/-- Every lane of the link returns to SEEK. -/
def State.linkSeek (s : State) (l : Nat) : State :=
  let f := s.linkLanes l
  s.lanesSeek ((List.range f.2).map (f.1 + ·))

/-! ## Entry to DOWN (R329) -/

/-- Accesses routed over a link that has gone down: stores are lost (R130) and transfers fail (R172). -/
def State.accessesLost (s : State) (l : Nat) : State :=
  s.each (s.rem.out.filter (fun q => q.link == some l)) (fun q t =>
    match q.user with
    | .store e =>
      match (t.port e).sb.findIdx? (fun x => x.tag == some q.tag && (match x.place with
          | .remote _ _ _ _ => true
          | _ => false)) with
      | some i => match (t.port e).sb[i]? with
        | some x => (((t.remoteForget q.tag).popStore e i).declareLost e x true).drain e
        | none => t
      | none => t
    | .transfer e =>
      match (t.port e).xf.findIdx? (fun x => x.tag == some q.tag && !x.failed && x.data.isNone) with
      | some i => (t.remoteForget q.tag).xferGot e i .error
      | none => t
    | _ => t)

/-- What a link holds of a bring-up ends: its lane sets, its hunt, its pending link-local flits and its replay. -/
def State.linkQuiet (s : State) (l : Nat) : State :=
  let t := ((((s.setF (lkTx l) 0).setF (lkRx l) 0).setF (lkHunting l) 0).setF (onLink LNK_STATUS.ReplayActive l) 0)
  let u := t.link l
  t.setLink l { u with ctl := [], replay := none, nak := false, mine := none, request := none, failRun := 0, seen := false }

/-- A retrain that LINK_RETRAIN asked for has ended (R341). -/
def State.retrainEnded (s : State) (l status : Nat) : State :=
  match s.backgroundOf 0x0605 (.link l) with
  | some b => s.finishBackground b status []
  | none => s

/-- The spill slot of link `l` for place `i` of its buffer (R194): the region's slots are used in turn, so that the flits it
holds, at most Size of them, lie in slots of their own (DESIGN CHOICE, log 14). -/
def State.spillAt (s : State) (l i : Nat) : Nat :=
  spillOffset (s.fld (STK_SPILL.Base l) + ((s.link l).base + i) % max 1 (s.fld (STK_SPILL.Size l)))

/-- The unacknowledged flits of a link, in sequence order; those beyond the 256 newest lie in the spill region (R318). -/
def State.unacked (s : State) (l : Nat) : List (Flit × Option Nat) :=
  let b := (s.link l).buf
  b.zipIdx.map (fun x => (x.1, if x.2 + 256 < b.length then some (s.spillAt l x.2) else none))

/-- LINK_DOWN (R329): all the unacknowledged flits are handed over but one whose spill slot has been found unreadable (R195); on a
leaf link none. -/
def State.linkDownBut (s : State) (l cause : Nat) (gone : Option Nat) : State :=
  let st := s.linkState l
  if st = lkDisabled ∨ st = lkDown then s
  else
    let leaf := s.on (onLink LNK_STATUS.PartnerLeaf l)
    let handed := if leaf then [] else (s.unacked l).filter (fun x => gone.isNone || x.2 != gone)
    let t := (s.logEvent 0x0601 l (leBytes 1 cause ++ leBytes 1 st ++ leBytes 2 handed.length)).setF
      (onLink LNK_STATUS.DownCause l) cause
    let t := ((t.inc (onLink LNK_DOWNS l)).setF (onLink LNK_STATUS.State l) lkDown).linkQuiet l
    let t := ((t.linkSeek l).setF (lkNakWait l) 0).setF (onLink LNK_STATUS.Stalled l) 0
    let t := (t.setF (onLink LNK_OUTST.Outstanding l) 0).setF (lkReplays l) 0
    let t := t.setLink l { t.link l with buf := [], retrain := none, handed := handed, failover := !leaf,
                                         time := none, adverts := [] }
    let t := if leaf then { t with fab := { t.fab with queues := tclear t.fab.queues (4 * l) (4 * l + 4),
                                                       waiting := t.fab.waiting.filter (fun w => w.link != l) } } else t
    (((t.accessesLost l).retrainEnded l stLinkNotActive).raise (lkFlag l 1)).parentUpdate

/-- LINK_DOWN with all its unacknowledged flits (R329). -/
def State.linkDown (s : State) (l cause : Nat) : State := s.linkDownBut l cause none

/-- A spill read has met an uncorrectable or poisoned word: SpillError and its entry (R195). -/
def State.spillError (s : State) (l at_ : Nat) : State :=
  (s.raise STK_IRQ_STATUS.SpillError).logEvent 0x0404 l (leBytes 4 at_)

/-! ## Lane sets (R331 to R337) -/

/-- The bits of `a` not in `b`. -/
def maskMinus (a b : Nat) : Nat := a &&& (a ^^^ b)

/-- A switch to the set `y` with a Reason (R332): the announcement on the current set, then the blocks.  An end's own
switch is outstanding and starts a hunt (R334, R337); one that withdraws is made though the set stays the same, since it ends the
partner's. -/
def State.startSwitch (s : State) (l y reason : Nat) : State :=
  let old := s.pendingSet l
  if y = 0 ∨ (y = old ∧ reason ≠ 4) then s
  else
    let drop := maskMinus y old = 0
    let u := s.link l
    let own := reason < 3
    let t := s.setLink l { u with ctl := u.ctl ++ [.announce (if drop then 2 else 3) y old reason, .blocks y (if drop then 1 else 2) reason],
                                  mine := if own then some (y, reason, old) else u.mine }
    t.when own (fun s => s.setF (lkHunting l) 1)

/-- LANE_READY of R336: usable READY lanes outside the set whose partner is Ready are added, unless a switch is outstanding
or still to be sent. -/
def State.linkOffer (s : State) (l : Nat) : State :=
  let st := s.linkState l
  if (st ≠ lkActive ∧ st ≠ lkInit) ∨ (s.link l).mine.isSome ∨ s.pendingSet l ≠ s.fld (lkTx l) ∨ s.fld (lkTx l) = 0 then s
  else
    let add := maskMinus (s.maskOf l (fun n => s.laneState n == lnReady && (s.lane n).partnerReady) &&& s.usable l) (s.fld (lkTx l))
    if add = 0 then s else s.startSwitch l (s.fld (lkTx l) + add) 2

/-- Entry to INIT (R327): the link switches from no lanes to its READY usable lanes. -/
def State.linkInit (s : State) (l : Nat) : State :=
  let resume := s.linkState l == lkRetrain
  let m := s.readyMask l
  let t := ((s.linkQuiet l).setF (onLink LNK_STATUS.State l) lkInit).setF (lkHunting l) 1
  t.setLink l { t.link l with ctl := [.blocks m (if resume then 3 else 0) 0], mine := some (m, 0, 0), resume := resume }

/-- TRAINING or RETRAIN ends when every usable lane is READY (R326). -/
def State.linkCheck (s : State) (l : Nat) : State :=
  let st := s.linkState l
  if (st = lkTraining ∨ st = lkRetrain) ∧ s.linkExists l ∧ s.usable l ≠ 0 ∧ s.readyMask l = s.usable l then s.linkInit l else s

/-- Entry to TRAINING (R326): the link starts afresh, and so do the counts of its credits (R321). -/
def State.linkTrain (s : State) (l : Nat) : State :=
  let t := (s.linkQuiet l).setF (onLink LNK_STATUS.State l) lkTraining
  (t.setLink l { t.link l with resume := false, retrain := none, freed := [], used := [], counts := [] }).linkCheck l

/-- Entry to DISABLED (R326): the lanes are left as their own Enable bits leave them; what was unacknowledged is discarded. -/
def State.linkDisable (s : State) (l : Nat) : State :=
  if s.linkState l = lkDisabled then s
  else
    let t := (((s.linkQuiet l).linkSeek l).setF (onLink LNK_STATUS.State l) lkDisabled).setF (lkNakWait l) 0
    let t := ((t.setF (onLink LNK_STATUS.Stalled l) 0).setF (onLink LNK_OUTST.Outstanding l) 0).setF (lkReplays l) 0
    let t := t.setLink l { t.link l with buf := [], retrain := none, quiet := false, time := none, adverts := [] }
    ((t.accessesLost l).retrainEnded l stLinkNotActive).parentUpdate

/-- Entry to RETRAIN (R338): every usable lane returns to SEEK; replay and credit state are kept. -/
def State.enterRetrain (s : State) (l reason : Nat) (answered : Bool) : State :=
  let t := ((s.linkQuiet l).lanesSeek (s.maskLanes l (s.usable l))).setF (onLink LNK_STATUS.State l) lkRetrain
  t.setLink l { t.link l with retrain := some (reason, answered) }

/-- A retrain is requested of an ACTIVE link (R338). -/
def State.requestRetrain (s : State) (l reason : Nat) : State :=
  if s.linkState l ≠ lkActive ∨ (s.link l).request.isSome then s
  else
    let u := s.link l
    s.setLink l { u with request := some (reason, 1), ctl := u.ctl ++ [.flit 4 (leBytes 1 1 ++ leBytes 1 reason)] }

/-- A lane has entered READY, or its partner has (R326, R336). -/
def State.laneCame (s : State) (n : Nat) : State :=
  if n < 16 then s
  else
    let l := (s.laneLink n).1
    (s.linkCheck l).linkOffer l

/-- A lane of the link's sets, at position `pos` while it was READY, has left READY (R334, R336): one of the receive set starts a
switch without it; the last one in service takes the link down. -/
def State.laneGone (s : State) (n pos : Nat) : State :=
  if n < 16 then s
  else
    let l := (s.laneLink n).1
    let st := s.linkState l
    if st ≠ lkActive ∧ st ≠ lkInit then s
    else
      let set := s.pendingSet l
      let mine := (s.fld (lkRx l)).testBit pos
      let t := s.when mine (fun s => s.setF (lkHunting l) 1)
      if !mine && !set.testBit pos then t
      else if maskMinus set (2 ^ pos) = 0 then (if st = lkActive then t.linkDown l dcNoLane else t)
      else if mine then t.startSwitch l (maskMinus set (2 ^ pos)) 1
      else t

/-- The own end ranks above its partner (R337), which its training blocks name before its CREDIT_INIT does. -/
def State.ranksAbove (s : State) (l : Nat) : Bool :=
  if s.linkState l == lkInit && !(s.link l).seen then
    (s.maskLanes l 15).any (fun n => s.laneState n == lnReady &&
      (s.on (laneFld n 0x04 16 16) || decide (s.nodeId < s.fld (laneFld n 0x04 27 18))))
  else
  s.on (onLink LNK_STATUS.PartnerLeaf l) || decide (s.nodeId < s.fld (onLink LNK_STATUS.PartnerId l))

/-- The entry of a completed switch (R343). -/
def State.widthChanged (s : State) (l old new reason : Nat) (followed : Bool) : State :=
  (s.logEvent 0x0603 l (leBytes 1 old ++ leBytes 1 new ++ leBytes 1 reason ++ leBytes 1 followed.toNat)).raise (lkFlag l 2)

/-- An own switch is complete (R337). -/
def State.switchDone (s : State) (l : Nat) : State :=
  match (s.link l).mine with
  | none => s
  | some (y, reason, old) =>
    (s.setLink l { s.link l with mine := none }).widthChanged l old y reason false

/-- A partner's switch to `x` is recognised (R334, R335, R337). -/
def State.partnerSwitch (s : State) (l x reason seq : Nat) : State :=
  let t := (s.setF (lkRx l) x).setF (lkHunting l) 0
  let t := t.setLink l { t.link l with failRun := 0 }
  let t := t.when (t.fld (lkExpect l) != seq) (fun s => s.setLink l { s.link l with nak := true })
  let above := t.ranksAbove l
  let t := t.when ((t.link l).request.isSome && !above) (fun s => s.setLink l { s.link l with
    request := none, ctl := (s.link l).ctl.filter (fun x => match x with
      | .flit 4 p => p.head? != some 1#8
      | _ => true) })
  let t := t.when (reason == 4 && (t.link l).mine.isSome && t.pendingSet l != x)
    (fun s => s.setLink l { s.link l with mine := none })
  let own := t.pendingSet l
  (if own = x then t.switchDone l
   else match (t.link l).mine with
    | none => t.startSwitch l x 3
    | some _ =>
      if above then t
      else (t.setLink l { t.link l with mine := none }).startSwitch l (x &&& t.maskOf l (fun n => t.laneState n == lnReady)) 4).linkOffer l

/-! ## Acknowledgement, credits and replay (R314 to R321) -/

/-- A replay starts (R315, R316); the one that would be the ninth to begin with the same O takes the link down (R319). -/
def State.beginReplay (s : State) (l : Nat) : State :=
  if (s.link l).buf.isEmpty then s
  else
    let c := s.fld (lkReplays l)
    if 8 ≤ c then s.linkDown l dcReplayLimit
    else
      let t := ((s.setF (lkReplays l) (c + 1)).inc (onLink LNK_REPLAYS l)).setF (onLink LNK_STATUS.ReplayActive l) 1
      let u := t.when (c + 1 == 4) (·.raise (lkFlag l 5))
      u.setLink l { u.link l with replay := some 0 }

/-- The transmitter frees the `n` oldest entries (R314). -/
def State.freeEntries (s : State) (l n : Nat) : State :=
  if n = 0 then s
  else
    let u := s.link l
    let b := u.buf.drop n
    let r := u.replay.map (fun i => i - n)
    let past := r.any (fun i => b.length ≤ i)
    let t := s.setLink l { u with buf := b, base := u.base + min n u.buf.length, replay := if past then none else r }
    let t := t.when past (·.setF (onLink LNK_STATUS.ReplayActive l) 0)
    ((t.setF (onLink LNK_OUTST.Outstanding l) b.length).setF (lkReplays l) 0).setF (onLink LNK_STATUS.Stalled l) 0

/-- A received trailer is processed: its ack, its credits, its Nak (R314, R315, R321). -/
def State.takeTrailer (s : State) (l w : Nat) : State :=
  let ack := w % 4096
  let n := (ack + 1 + 4096 - s.oldest l) % 4096
  let t := s.when (decide (n ≤ (s.link l).buf.length)) (fun s => s.freeEntries l n)
  let c := w / 2 ^ 14 % 4
  let cnt := w / 2 ^ 16 % 256
  let add := (cnt + 256 - tget (fun _ => 0) (t.link l).counts c) % 256
  let t := t.setLink l { t.link l with counts := tset (fun _ => 0) (t.link l).counts c cnt }
  if t.linkState l = lkActive ∧ t.fld (lkAdv l c) < t.fld (lkCredit l c) + add then t.linkDown l dcProtocol
  else
    let t := t.when (t.linkState l == lkActive) (fun s => s.setF (lkCredit l c) (s.fld (lkCredit l c) + add))
    t.when (w.testBit 12 && t.linkState l == lkActive) (·.beginReplay l)

/-- The trailer of the next flit sent: AckSeq, Nak and one class's credit count (R307, R312, R321). -/
def State.trailer (s : State) (l : Nat) : Nat × State :=
  let u := s.link l
  let cls := ((List.range 4).map (fun i => (u.rot + i) % 4)).find? (fun c => s.fld (lkAdv l c) != 0)
  let c := cls.getD u.rot
  let w := (s.fld (lkExpect l) + 4095) % 4096 + 4096 * u.nak.toNat + 2 ^ 14 * c + 2 ^ 16 * tget (fun _ => 0) u.freed c
  (w, s.setLink l { u with nak := false, rot := (c + 1) % 4 })

/-- The number of lanes of a set. -/
def maskSize (mask : Nat) : Nat := ((List.range 4).filter (fun i => mask.testBit i)).length

/-- A lane's rank in a set: the lanes of the set below it (R331). -/
def maskRank (mask i : Nat) : Nat := ((List.range i).filter (fun j => mask.testBit j)).length

/-- Something put on the wire of a link; byte j of its stream is the `place`th since the last switch. -/
def State.putWire (s : State) (l : Nat) (x : LinkSent) (place : Nat) : State :=
  s.setLink l { s.link l with wire := (s.link l).wire ++ [x], place := place }

/-- Bytes for each lane of a set, sent under the lane's scrambler (R283). -/
def State.lanesSend (s : State) (l mask : Nat) (bytes : Nat → List Byte) : State :=
  s.each ((List.range 4).filter (fun i => mask.testBit i)) (fun i t => t.laneSent (t.laneAt l i) (bytes i))

/-- The bytes of a stream from its byte `j` on that the lane at position `i` of a set carries: those of its rank, modulo the number
of lanes (R331). -/
def striped (mask i j : Nat) (bytes : List Byte) : List Byte :=
  ((bytes.zipIdx j).filter (fun b => mask.testBit i && b.2 % maskSize mask == maskRank mask i)).map (·.1)

/-- A flit of 128 bytes sent on the lane set in use (R304, R331). -/
def State.wireFlit (s : State) (l : Nat) (bytes : List Byte) : State :=
  let mask := s.fld (lkTx l)
  let j := (s.link l).place
  (s.putWire l (.flit mask bytes) (j + bytes.length)).lanesSend l mask (fun i => striped mask i j bytes)

/-- A link-local flit sent. -/
def State.sendLocal (s : State) (l type : Nat) (payload : List Byte) : State :=
  let r := s.trailer l
  r.2.wireFlit l (flitBytes (leBytes 4 type ++ padTo 116 payload) r.1 localPrefix)

/-- A sequenced flit sent with sequence number `n`. -/
def State.sendSeq (s : State) (l n : Nat) (f : Flit) : State :=
  let r := s.trailer l
  r.2.wireFlit l (flitBytes (flitBody f) r.1 (seqPrefix n))

/-- A switch block for the lane at position `i` (R333). -/
def State.switchBlock (s : State) (l i mask purpose reason : Nat) : List Byte :=
  let b := [0x3C#8, 0x5A#8, 0xA5#8, 0xC3#8] ++
    leBytes 1 (i + 4 * widthCode (s.linkLanes l).2 + 16 + 32 + 128) ++ leBytes 1 (s.fld (LNK_PHY.Rate (l / 4))) ++
    leBytes 2 s.nodeId ++ leBytes 1 mask ++ leBytes 1 purpose ++ leBytes 1 reason ++ [0#8] ++ leBytes 2 (s.fld (lkTxNext l))
  let p := padTo 124 b
  p ++ leBytes 4 (crc32c p).toNat

/-- The switch blocks of a new set are sent (R332): lanes that leave the set return to SEEK, and a follower's switch is
complete. -/
def State.sendBlocks (s : State) (l mask purpose reason : Nat) : State :=
  let old := s.fld (lkTx l)
  let t := s.each (s.maskLanes l mask) (fun n t => t.laneTaken n)
  let t := (t.putWire l (.blocks mask (((List.range 4).filter (fun i => mask.testBit i)).map
    (fun i => s.switchBlock l i mask purpose reason))) 0).lanesSend l mask (fun i => s.switchBlock l i mask purpose reason)
  let t := (t.setF (lkTx l) mask).inc (onLink LNK_SWITCHES l)
  let t := t.each (t.maskLanes l (maskMinus old mask)) (fun n t => if t.laneState n = lnReady then t.laneIdle n else t)
  let t := t.when (decide (3 ≤ reason)) (fun s => s.widthChanged l old mask reason true)
  t.linkOffer l

/-- The payload of CREDIT_INIT (R309). -/
def State.creditInit (s : State) (l : Nat) : List Byte :=
  let u := s.link l
  let base := (List.range 4).flatMap (fun c => leBytes 1 (ownCredits c)) ++ leBytes 1 (u.seen.toNat + 2 * u.resume.toNat) ++
    [0#8] ++ leBytes 2 s.nodeId
  if u.resume then base ++ leBytes 2 (s.fld (lkExpect l)) ++ (List.range 4).flatMap (fun c => leBytes 1 (tget (fun _ => 0) u.freed c))
  else base

/-- The flit beyond the 256 newest is written to the link's spill region (R318). -/
def State.spillOut (s : State) (l : Nat) : State :=
  let u := s.link l
  if u.buf.length ≤ 256 then s
  else
    let i := u.buf.length - 257
    match u.buf[i]? with
    | some f => s.stkPut rqSpill (s.spillAt l i) (flitBody f)
    | none => s

/-- A replay's next flit (R315): one that lies in the spill region is read from it, and poison takes the link down (R195, R318). -/
def State.sendReplay (s : State) (l i : Nat) : State :=
  let u := s.link l
  match u.buf[i]? with
  | none => (s.setLink l { u with replay := none }).setF (onLink LNK_STATUS.ReplayActive l) 0
  | some f =>
    let n := s.oldest l + i
    let spilled := decide (i + 256 < u.buf.length)
    let r := if spilled then s.stkRead rqSpill (s.spillAt l i) 120 else (s, .data (flitBody f))
    match r with
    | (t, .data bs) =>
      let t := t.sendSeq l n (if spilled then flitOf bs else f)
      let done := decide (u.buf.length ≤ i + 1)
      (t.setLink l { t.link l with replay := if done then none else some (i + 1) }).when done
        (·.setF (onLink LNK_STATUS.ReplayActive l) 0)
    | (t, .wait) => t.sendLocal l 0 []
    | (t, _) => (t.spillError l (s.spillAt l i)).linkDownBut l dcSpillError (some (s.spillAt l i))

/-- The first flit of class `c` waiting for the link, once those R322 and R340 discard are gone. -/
def State.discardBad (s : State) (l c : Nat) : State :=
  let q := s.outQueue l c
  let leaf := s.on (onLink LNK_STATUS.PartnerLeaf l)
  let bad := fun (f : Flit) => s.fld (lkAdv l c) == 0 || (leaf && !leafOutOk f.type.toNat)
  let n := (q.filter bad).length
  if n = 0 then s
  else (({ s with fab := { s.fab with queues := tset (fun _ => []) s.fab.queues (4 * l + c) (q.filter (fun f => !bad f)) } }).incBy
    (onLink LNK_BADTYPE l) n).raise (lkFlag l 6)

/-- May class `c` send a new flit (R320)? -/
def State.classReady (s : State) (l c : Nat) : Bool :=
  !(s.outQueue l c).isEmpty && s.fld (lkCredit l c) != 0 && !s.on (onLink LNK_STATUS.Stalled l) && !(s.link l).quiet &&
  !s.pfail

/-- A credit of class `c` freed (R321). -/
def State.freeCredit (s : State) (l c : Nat) : State :=
  let u := s.link l
  s.setLink l { u with freed := tset (fun _ => 0) u.freed c ((tget (fun _ => 0) u.freed c + 1) % 256) }

/-- A queue that has room takes the waiting flit of the requester R9 grants; an input link's flit has waited in that link's
receive buffer, whose credit is now freed (R311, R347). -/
def State.admitWaiting (s : State) (l c : Nat) : State :=
  let k := 4 * l + c
  if queueDepth c ≤ (s.outQueue l c).length then s
  else
    let ws := s.fab.waiting.filter (fun w => w.link == l && w.cls == c)
    match arbPick (tget (fun _ => []) s.fab.grants k) (ws.map (·.req)) with
    | none => s
    | some r =>
      match ws.find? (fun w => w.req == r) with
      | none => s
      | some w =>
        let t := { s with fab := { s.fab with waiting := s.fab.waiting.erase w } }
        let t := if r < 48 then
            (t.setLink r { t.link r with rx := (t.link r).rx.eraseP (fun x => x.1 == w.flit) }).freeCredit r c
          else t
        t.enqueueFlit r l w.flit

/-- R322 and R340 discard, and what waits for a place in the queue follows, until the queue holds only what may be sent. -/
def State.discardQueue : Nat → Nat → Nat → State → State
  | 0, l, c, s => s.discardBad l c
  | n + 1, l, c, s =>
    let t := s.discardBad l c
    if t.fab.waiting.any (fun w => w.link == l && w.cls == c) && (t.outQueue l c).length < queueDepth c then
      State.discardQueue n l c (t.admitWaiting l c)
    else t

/-- A TIME flit as it leaves: Stime and Frame are those of its departure (R362). -/
def State.departing (s : State) (l : Nat) (f : Flit) : Flit :=
  if f.type != ftTime then f
  else
    let p := s.timePayload l
    { f with payload := p.take 8 ++ (f.payload.drop 8).take 4 ++ (p.drop 12).take 8 ++ f.payload.drop 20 }

/-- A new sequenced flit of class `c` is sent (R314, R318, R321). -/
def State.sendNew (s : State) (l c : Nat) : State :=
  match s.outQueue l c with
  | [] => s
  | g :: rest =>
    let f := s.departing l g
    let n := s.fld (lkTxNext l)
    let t := { s with fab := { s.fab with queues := tset (fun _ => []) s.fab.queues (4 * l + c) rest } }
    let t := (t.sendSeq l n f).setF (lkCredit l c) (s.fld (lkCredit l c) - 1)
    let u := t.link l
    let t := (t.setLink l { u with buf := u.buf ++ [f],
                                   used := tset (fun _ => 0) u.used c ((tget (fun _ => 0) u.used c + 1) % 256) }).setF
      (lkTxNext l) ((n + 1) % 4096)
    let t := (t.setOutstanding l (u.buf.length + 1)).spillOut l
    let t := t.when (decide (t.outLimit l ≤ u.buf.length + 1)) (fun s =>
      ((s.setF (onLink LNK_STATUS.Stalled l) 1).inc (onLink LNK_STALLS l)).raise (lkFlag l 4))
    t.admitWaiting l c

/-- A failure (R312): counted, Nak in the next trailer, Nak-wait; the error-rate rule (R324). -/
def State.flitFailed (s : State) (l : Nat) : State :=
  let u := s.link l
  let t := s.setLink l { u with failRun := u.failRun + 1 }
  let t := t.when (u.failRun + 1 == 4) (·.setF (lkHunting l) 1)
  if s.on (lkNakWait l) then t.inc (onLink LNK_NAKDISC l)
  else if s.on (lkHunting l) then t
  else
    let w := t.fld (onLink LNK_ERRWIN.Window l) * 1000
    let fs := (u.fails.filter (fun x => t.time.local_ < x + w)) ++ [t.time.local_]
    let t := ((t.inc (onLink LNK_CRCERR l)).setLink l { t.link l with nak := true, fails := fs }).setF (lkNakWait l) 1
    if t.fld (onLink LNK_ERRWIN.Threshold l) < fs.length then t.linkDown l dcErrorRate else t

/-- An accepted flit (R311, R313). -/
def State.flitAccepted (s : State) (l : Nat) (f : Flit) : State :=
  let t := ((s.setF (lkExpect l) ((s.fld (lkExpect l) + 1) % 4096)).setF (lkNakWait l) 0).setF (lkHunting l) 0
  let t := t.setLink l { t.link l with failRun := 0 }
  let c := f.cls.toNat
  let leaf := t.on (onLink LNK_STATUS.PartnerLeaf l)
  if !classOk f.type.toNat c || (leaf && !leafInOk f.type.toNat) then
    ((t.freeCredit l c).inc (onLink LNK_BADTYPE l)).raise (lkFlag l 6)
  else if ownCredits c ≤ ((t.link l).rx.filter (fun x => x.1.cls == f.cls)).length then t.linkDown l dcProtocol
  else t.setLink l { t.link l with rx := (t.link l).rx ++ [(f, t.time.stime)] }

/-- Entry to ACTIVE (R328). -/
def State.linkActive (s : State) (l : Nat) (m : CreditInit) : State :=
  let u := s.link l
  let t := ((s.setF (onLink LNK_STATUS.State l) lkActive).setF (onLink LNK_STATUS.DownCause l) 0)
  let t := if u.resume then
      let n := (m.rxExpected.toNat + 4096 - s.oldest l) % 4096
      let t := t.when (decide (n ≤ u.buf.length)) (fun s => s.freeEntries l n)
      let t := t.each (List.range 4) (fun c t =>
        let freed := m.freed.toNat / 2 ^ (8 * c) % 256
        let out := (tget (fun _ => 0) u.used c + 256 - freed) % 256
        (t.setF (lkCredit l c) (t.fld (lkAdv l c) - out)).setLink l
          { t.link l with counts := tset (fun _ => 0) (t.link l).counts c freed })
      t
    else
      let t := (t.wr (onLink LNK_CREDIT l) (t.rd (onLink LNK_CRADV l))).setF (lkReplays l) 0
      let t := ((t.setF (lkTxNext l) 0).setF (lkExpect l) 0).setOutstanding l 0
      (t.setF (lkNakWait l) 0).setLink l { t.link l with buf := [], base := 0, freed := [], used := [], counts := [], nak := false,
                                                         replay := none, fails := [] }
  let t := t.logEvent 0x0602 l (leBytes 1 u.resume.toNat ++ leBytes 1 (t.fld (lkTx l)) ++ leBytes 2 m.sender.toNat ++
    leBytes 1 m.leaf.toNat)
  let t := t.raise (lkFlag l 0)
  let t := match (t.link l).retrain with
    | some (r, answered) => ((t.logEvent 0x0604 l (leBytes 1 r ++ leBytes 1 answered.toNat)).raise (lkFlag l 3)).setLink l
        { t.link l with retrain := none }
    | none => t
  let t := t.retrainEnded l stOk
  t.when u.resume (·.beginReplay l)

/-- A CREDIT_INIT (R309, R326, R327); one that arrives outside INIT is ignored. -/
def State.takeCreditInit (s : State) (l : Nat) (m : CreditInit) : State :=
  if s.linkState l ≠ lkInit then s
  else
    let t := ((s.wr (onLink LNK_CRADV l) (m.credits)).setF (onLink LNK_STATUS.PartnerId l) m.sender.toNat).setB
      (onLink LNK_STATUS.PartnerLeaf l) m.leaf
    let t := t.setLink l { t.link l with seen := true }
    if m.sender.toNat = t.nodeId ∧ !m.leaf then t.linkDown l dcSameId
    else if m.seen then t.linkActive l m
    else t

/-- LANE_DROP or LANE_ADD: the receiver hunts (R334). -/
def State.takeAnnounce (s : State) (l : Nat) : State :=
  if s.linkState l = lkActive ∨ s.linkState l = lkInit then s.setF (lkHunting l) 1 else s

/-- A RETRAIN request (R338). -/
def State.takeRetrainRequest (s : State) (l reason : Nat) : State :=
  if s.linkState l ≠ lkActive ∨ ((s.link l).mine.isSome ∧ s.ranksAbove l) then s
  else
    let u := s.link l
    s.setLink l { u with ctl := u.ctl ++ [.flit 4 (leBytes 1 2 ++ leBytes 1 reason), .retrain],
                         retrain := some (reason, true) }

/-- A RETRAIN answer (R338). -/
def State.takeRetrainAnswer (s : State) (l : Nat) : State :=
  match (s.link l).request with
  | some (reason, _) => if s.linkState l = lkActive then s.enterRetrain l reason false else s
  | none => s

end Sys2Proof.Machine
end

