-- ==== Sys2Proof/Machine/Link.lean ====
section
/-! DEFINITION. Machine/Link.lean: the commands of the serial lanes that a link sees, and of the Maelid links
(R284 to R344). -/

namespace Sys2Proof.Machine

/-! ## Lanes -/

/-- A change of a lane, of which its link is told when the lane leaves READY (R286). -/
def State.laneChange (s : State) (n : Nat) (f : State → State) : State :=
  let t := f s
  if s.laneState n = lnReady ∧ t.laneState n ≠ lnReady then t.laneGone n (s.lanePos n) else t

/-- A write of LN_CTRL.Enable (R286); the field is reserved in a host lane. -/
def State.laneEnable (s : State) (n : Nat) (en : Bool) : State :=
  if n < 16 ∨ (en ∧ s.on (lnEnable n)) then s
  else if en then
    let t := (s.setF (lnEnable n) 1).lanePlace n
    if t.laneState n = lnDisabled then t.laneIdle n else t
  else (s.laneChange n (fun s => (s.setF (lnEnable n) 0).laneTo n lnDisabled)).linkCheck (s.laneLink n).1

/-- A write of LN_CTRL.Loopback (R294). -/
def State.laneLoopback (s : State) (n mode : Nat) : State :=
  if mode = 3 ∨ s.laneBusy n ∨ (s.fld (lnLoop n) = mode ∧ (mode = 0 ∨ s.laneState n = lnLoopback)) then s
  else s.laneChange n (fun s => (s.setF (lnLoop n) mode).laneIdle n)

/-- A write of LN_PRBS's patterns (R292, R293). -/
def State.lanePrbs (s : State) (n tx rx : Nat) : State :=
  if 4 < tx ∨ 4 < rx ∨ s.laneBusy n then s
  else s.laneChange n (fun s =>
    let t := (s.when (s.fld (lnRxPat n) != rx) (fun s => s.setF (lnRxSync n) 0)).setF (lnTxPat n) tx
    let runs := s.laneState n == lnPrbs || s.laneState n == lnLoopback
    let u := (t.setF (lnRxPat n) rx).when (tx != 0 && !(runs && s.fld (lnTxPat n) == tx)) (·.startPrbs n)
    let st := u.laneState n
    if tx = 0 ∧ rx = 0 ∧ st ≠ lnPrbs then u else u.laneIdle n)

/-- LANE_ENABLE_WRITE. -/
def execLaneEnableWrite (n : Fin 64) (en : Bool) (s : State) : Result := .next (s.laneEnable n en)

/-- LOOPBACK_WRITE. -/
def execLoopbackWrite (n : Fin 64) (mode : BitVec 2) (s : State) : Result := .next (s.laneLoopback n mode.toNat)

/-- PRBS_WRITE. -/
def execPrbsWrite (n : Fin 64) (tx rx : BitVec 3) (s : State) : Result := .next (s.lanePrbs n tx.toNat rx.toNat)

/-- A write of the whole of LN_CTRL (R302): a write of Loopback 3 is ignored; with a mode that places the lane in LOOPBACK Enable
is only kept, otherwise it acts first (DEDUCED, log entry 53). -/
def State.writeLaneCtrl (s : State) (n : Nat) (v : Word) : State :=
  let mode := v.toNat / 32 % 4
  if mode = 3 then s
  else
    let b := laneBase n
    let t := ((s.setF ⟨b, 2, 2⟩ (v.toNat / 4)).setF ⟨b, 3, 3⟩ (v.toNat / 8)).setF ⟨b, 4, 4⟩ (v.toNat / 16)
    let t := t.when (decide (16 ≤ n)) (fun s => s.setF (lnWakeEn n) (v.toNat / 2))
    let t := t.when (t.laneState n == lnDisabled && decide (16 ≤ n)) (·.laneDark n)
    let loops := mode != 0 && !t.laneBusy n
    (if loops then t.when (decide (16 ≤ n)) (·.setB (lnEnable n) (v.getLsbD 0)) else t.laneEnable n (v.getLsbD 0)).laneLoopback n mode

/-- A write of the whole of LN_PRBS. -/
def State.writeLanePrbs (s : State) (n : Nat) (v : Word) : State :=
  let t := s.lanePrbs n (v.toNat % 8) (v.toNat / 16 % 8)
  t.when (v.getLsbD 3) (·.injectBit n)

/-- A write of the whole of LN_MARGIN (R295). -/
def State.writeLaneMargin (s : State) (n : Nat) (v : Word) : State :=
  let x := v.toNat
  if v.getLsbD 31 then s.startMargin n (x % 64) (x / 64 % 64) (x / 4096 % 4) (x / 16384 % 32)
  else s.setMargin n (x % 64) (x / 64 % 64) (x / 4096 % 4) (x / 16384 % 32)

/-- LANE_CONFIG (R299). -/
def execLaneConfig (h : SlipHdr) (n : Byte) (ctrl txeq : Word) (s : State) : Result :=
  .next (s.runSlip h 0x0681 (.lane n.toNat) (fun s =>
    let k := n.toNat
    let mode := ctrl.toNat / 32 % 4
    let pre := txeq.toNat % 16
    let main := txeq.toNat / 32 % 64
    let post := txeq.toNat / 2048 % 32
    if 64 ≤ k ∨ mode = 3 ∨ (16 ≤ k ∧ !tapsOk pre main post) then refuse s stValueRange
    else if s.laneBusy k ∧ s.fld (lnLoop k) ≠ mode then refuse s stLaneBusy
    else ((s.writeLaneCtrl k ctrl).writeTaps k pre main post, okAns)))

/-- LANE_PRBS (R293, R299). -/
def execLanePrbs (h : SlipHdr) (n : Byte) (v : Word) (s : State) : Result :=
  .next (s.runSlip h 0x0683 (.lane n.toNat) (fun s =>
    let k := n.toNat
    if 64 ≤ k ∨ 4 < v.toNat % 8 ∨ 4 < v.toNat / 16 % 8 then refuse s stValueRange
    else if s.laneBusy k then refuse s stLaneBusy
    else (s.writeLanePrbs k v, okAns)))

/-- The order of a lane in ALIGNED by its partner's LinkLane and Width (R288): none for an error of kind 0 (order) or 1
(width). -/
def State.laneOrder (s : State) (n : Nat) (b : TrainBlock) : Except Nat Bool :=
  let w := (s.laneLink n).2.2
  let k := (s.laneLink n).2.1
  if b.width.toNat ≠ widthCode w then .error 1
  else if w = 1 then (if b.linkLane.toNat = 0 then .ok false else .error 0)
  else if b.linkLane.toNat = k then .ok false
  else if b.linkLane.toNat = w - 1 - k then .ok true
  else .error 0

/-- The other lanes of the lane's link. -/
def State.siblings (s : State) (n : Nat) : List Nat :=
  let f := s.linkLanes (s.laneLink n).1
  ((List.range f.2).map (fun i => f.1 + i)).filter (fun x => x != n)

/-- LinkError set on a lane, with its LANE_ORDER entry when it was clear (R288, R289). -/
def State.laneError (s : State) (n kind : Nat) : State :=
  if s.on (lnError n) then s
  else
    let t := (s.setF (lnError n) 1).raise (lnFlag n 2)
    t.logEvent 0x0681 n (leBytes 1 (t.fld (laneFld n 0x04 13 12)) ++ leBytes 1 (t.fld (laneFld n 0x04 15 14)) ++ leBytes 1 kind)

/-- The comparison of R288 and the skew test of R289, made in ALIGNED. -/
def State.laneCompare (s : State) (n : Nat) (b : TrainBlock) : State :=
  match s.laneOrder n b with
  | .error k => (s.setLane n { s.lane n with skewed := false }).laneError n k
  | .ok o =>
    let t := s.setLane n { s.lane n with order := some o, skewed := b.skewed }
    if b.skewed then t.laneError n 2
    else
      let other := (t.siblings n).filter (fun x => (t.lane x).order == some (!o))
      if !other.isEmpty then t.each (n :: other) (fun x u => u.laneError x 0)
      else
        let agreed := n :: (t.siblings n).filter (fun x => t.laneState x == lnReady && (t.lane x).order == some o)
        let u := t.each agreed (fun x v => v.setF (lnError x) 0)
        let come := n :: (u.siblings n).filter (fun x => (u.lane x).order == some o)
        if come.length = (u.siblings n).length + 1 then u.each come (fun x v => v.setB (lnReversed x) o) else u

/-- A valid block's fields in LN_STATUS. -/
def State.lanePartner (s : State) (n : Nat) (b : TrainBlock) : State :=
  let t := ((s.setF (laneFld n 0x04 13 12) b.linkLane.toNat).setF (laneFld n 0x04 15 14) b.width.toNat).setB (laneFld n 0x04 16 16) b.leaf
  ((t.setB (laneFld n 0x04 17 17) b.aligned).setF (laneFld n 0x04 27 18) b.sender.toNat).setF (laneFld n 0x04 29 28) b.rate.toNat

/-- The polarity a receiver looks in: the forced one, the latched one outside LOCK, either in LOCK (R287). -/
def State.laneSees (s : State) (n : Nat) (b : TrainBlock) : Bool :=
  b.valid && (if s.on (lnRxForce n) then b.inverted == s.on (lnRxInvert n)
              else s.laneState n == lnLock || b.inverted == s.on (lnInverted n))

/-- A training block received before the link layer takes the lane over (R286 to R289). -/
def State.laneTrained (s : State) (k : Nat) (b : TrainBlock) : State :=
  let st := s.laneState k
  if k < 16 ∨ (s.lane k).taken ∨ (st ≠ lnLock ∧ st ≠ lnAligned ∧ st ≠ lnReady) then s
  else if !s.laneSees k b then
    let t := s.setLane k { s.lane k with good := 0, bad := (s.lane k).bad + 1 }
    if st ≠ lnLock ∧ 4 ≤ (t.lane k).bad then t.laneChange k (fun t => t.laneTo k lnLock) else t
  else
    let t := s.lanePartner k b
    let x := t.lane k
    let good := if x.good ≠ 0 ∧ b.spaced ∧ x.inverted = b.inverted then x.good + 1 else 1
    let t := t.setLane k { x with good := good, bad := 0, inverted := b.inverted }
    if st = lnLock then
      if 3 ≤ good then ((t.laneTo k lnAligned).setB (lnInverted k) b.inverted).laneCompare k b else t
    else if st = lnAligned then
      let u := t.laneCompare k b
      if b.aligned ∧ !u.on (lnError k) then
        let v := ((u.laneTo k lnReady).setLane k { (u.laneTo k lnReady).lane k with partnerReady := b.ready }).raise (lnFlag k 0)
        v.laneCame k
      else u
    else (t.setLane k { t.lane k with partnerReady := b.ready }).laneCame k

/-- TRAINING_BLOCK: lane n has received block `b` (R284, R286 to R289). -/
def execTrainingBlock (n : Fin 64) (b : RxBlock) (s : State) : Result :=
  .next (s.laneTrained n (trainBlockOf (descrambled b) b.inverted b.spaced b.skewed))

/-- Loss of signal detect on lane `k`, or (`cdr`) of clock-recovery lock (R286). -/
def State.signalLost (s : State) (k : Nat) (cdr : Bool) : State :=
  let st := s.laneState k
  let t := (if cdr then s else s.setF (lnSigDet k) 0).setF (lnCdr k) 0
  if st = lnLock ∨ st = lnAligned ∨ (st = lnReady ∧ 16 ≤ k) then
    let u := (t.incF (laneFld k 0x28 15 0)).raise (lnFlag k 1)
    let v := u.when (st == lnReady) (fun s => s.logEvent 0x0680 k (leBytes 1 cdr.toNat))
    v.laneChange k (fun s => s.laneSeek k)
  else t

/-- SIGNAL_LOSS (R286). -/
def execSignalLoss (n : Fin 64) (cdr : Bool) (s : State) : Result := .next (s.signalLost n cdr)

/-! ## Flits -/

/-- FLIT_TRANSMIT: the first eligible flit in the order of R320. -/
def execFlitTransmit (l : Fin 48) (s : State) : Result :=
  .next (
    let k := l.val
    let st := s.linkState k
    let u := s.link k
    if !s.linkExists k ∨ (st ≠ lkInit ∧ st ≠ lkActive) then s
    else match u.ctl with
      | .blocks m p r :: rest => (s.setLink k { u with ctl := rest }).sendBlocks k m p r
      | .flit ty pay :: .retrain :: rest =>
        ((s.setLink k { u with ctl := rest }).sendLocal k ty pay).enterRetrain k ((u.retrain.map (·.1)).getD 0) true
      | .flit ty pay :: rest => (s.setLink k { u with ctl := rest }).sendLocal k ty pay
      | .announce ty new old r :: rest => (s.setLink k { u with ctl := rest }).sendLocal k ty
          (leBytes 1 new ++ leBytes 1 old ++ leBytes 2 (s.fld (lkTxNext k)) ++ leBytes 1 r)
      | .probe id :: rest => (s.setLink k { u with ctl := rest }).sendLocal k 5 (leBytes 2 id ++ leBytes 2 0 ++ leBytes 8 s.stamp)
      | .reply id t1 t2 :: rest => (s.setLink k { u with ctl := rest }).sendLocal k 6
          (leBytes 2 id ++ leBytes 2 0 ++ leBytes 8 t1 ++ leBytes 8 t2 ++ leBytes 8 s.stamp)
      | .retrain :: rest => s.setLink k { u with ctl := rest }
      | [] =>
        if st = lkInit then s.sendLocal k 1 (s.creditInit k)
        else match u.replay with
          | some i => s.sendReplay k i
          | none =>
            let t := s.each (List.range 4) (fun c t => State.discardQueue t.fab.waiting.length k c t)
            if t.classReady k 0 then t.sendNew k 0
            else if t.classReady k 1 then t.sendNew k 1
            else match arbPick u.grants ((List.range 2).filter (fun i => t.classReady k (2 + i))) with
              | some i => (t.setLink k { t.link k with grants := arbNote u.grants i }).sendNew k (2 + i)
              | none => t.sendLocal k 0 [])

/-- A received link-local payload acts (R309, R310, R313). -/
def State.takeLocal (s : State) (l type : Nat) (b : List Byte) : State :=
  match type with
  | 1 =>
    let fl := bytesAt b 8 1
    s.takeCreditInit l ⟨BitVec.ofNat 32 (bytesAt b 4 4), fl.testBit 0, fl.testBit 1, fl.testBit 2, BitVec.ofNat 10 (bytesAt b 10 2),
      BitVec.ofNat 12 (bytesAt b 12 2), BitVec.ofNat 32 (bytesAt b 14 4)⟩
  | 2 => s.takeAnnounce l
  | 3 => s.takeAnnounce l
  | 4 => if bytesAt b 4 1 = 1 then s.takeRetrainRequest l (bytesAt b 5 1)
    else if bytesAt b 4 1 = 2 then s.takeRetrainAnswer l else s
  | 5 => if s.linkState l ≠ lkActive then s else s.setLink l { s.link l with ctl := (s.link l).ctl ++ [.reply (bytesAt b 4 2) (bytesAt b 8 8) s.stamp] }
  | 6 => s.timeReply l (BitVec.ofNat 64 (bytesAt b 8 8)) (BitVec.ofNat 64 (bytesAt b 16 8)) (BitVec.ofNat 64 (bytesAt b 24 8))
      (BitVec.ofNat 64 s.stamp)
  | _ => s

/-- FLIT_RECEIVED: the tests of R310 in order. -/
def execFlitReceived (l : Fin 48) (bytes : List Byte) (s : State) : Result :=
  .next (
    let k := l.val
    let st := s.linkState k
    let b := padTo 128 bytes
    let type := bytesAt b 0 1 % 16
    let w := bytesAt b 120 4
    let e := s.fld (lkExpect k)
    if st ≠ lkInit ∧ st ≠ lkActive then s
    else if crcOk b (seqPrefix e) then (s.flitAccepted k (flitOf b)).takeTrailer k w
    else if crcOk b localPrefix ∧ type < 7 then
      let t := s.setLink k { s.link k with failRun := 0 }
      (t.takeTrailer k w).takeLocal k type b
    else if crcOk b localPrefix ∧ type = 7 then s.linkDown k dcProtocol
    else if (List.range 31).any (fun j => crcOk b (seqPrefix (e + 4096 - (j + 1)))) then
      let t := (s.inc (onLink LNK_DUP k)).setLink k { s.link k with failRun := 0 }
      t.takeTrailer k w
    else s.flitFailed k)

/-- FLIT_CONSUMED: the switch takes the oldest flit of a class out of the receive buffer, its credit is freed (R311, R346):
a leaf link's flit is delivered here, any other is switched, waiting while its output queue is full (R347). -/
def execFlitConsumed (l : Fin 48) (c : Fin 4) (s : State) : Result :=
  .next (
    let k := l.val
    let u := s.link k
    match u.rx.find? (fun x => x.1.cls.toNat == c.val) with
    | none => s
    | some (f, stamp) =>
      let t := (s.setLink k { u with rx := u.rx.erase (f, stamp) }).freeCredit k c
      match s.fab.waiting.find? (fun w => w.req == k && w.cls == c.val) with
      | some w => s.admitWaiting w.link c
      | none =>
      if s.on (onLink LNK_STATUS.PartnerLeaf k) ∨ f.type = ftTime then t.deliver f (some k) stamp
      else if f.dest.toNat = s.nodeId then t.deliver f (some k) stamp
      else match s.routeLink f.dest.toNat (some k) with
        | none => t.noRoute
        | some (o, uturn) =>
          if queueDepth c ≤ (s.outQueue o c).length then
            (s.when uturn (·.inc FAB_UTURN)).enqueueFlit k o f
          else (t.when uturn (·.inc FAB_UTURN)).enqueueFlit k o f)

/-- NAK_WAIT_TIMEOUT (R312). -/
def execNakWaitTimeout (l : Fin 48) (s : State) : Result :=
  .next (if (s.linkState l = lkActive ∨ s.linkState l = lkInit) ∧ s.on (lkNakWait l) then s.setLink l { s.link l with nak := true } else s)

/-- REPLAY_TIMEOUT (R316). -/
def execReplayTimeout (l : Fin 48) (s : State) : Result :=
  .next (if s.linkState l = lkActive then s.beginReplay l else s)

/-- CREDIT_TIMEOUT (R323). -/
def execCreditTimeout (l : Fin 48) (c : Fin 4) (s : State) : Result :=
  .next (if s.linkState l = lkActive ∧ s.fld (lkCredit l c) = 0 ∧ s.fld (lkAdv l c) ≠ 0 ∧ !(s.outQueue l c).isEmpty then
      s.linkDown l dcCreditTimeout else s)

/-- CREDIT_INIT. -/
def execCreditInit (l : Fin 48) (m : CreditInit) (s : State) : Result := .next (s.takeCreditInit l m)

/-- LANE_DROP. -/
def execLaneDrop (l : Fin 48) (_newMask _oldMask : BitVec 4) (_switchSeq : BitVec 12) (_reason : Byte) (s : State) : Result :=
  .next (s.takeAnnounce l)

/-- LANE_ADD. -/
def execLaneAdd (l : Fin 48) (_newMask _oldMask : BitVec 4) (_switchSeq : BitVec 12) (_reason : Byte) (s : State) : Result :=
  .next (s.takeAnnounce l)

/-- SWITCH_BLOCK: a set is recognised: equal blocks on its READY lanes, their ends within 20 ns (R334). -/
def execSwitchBlock (l : Fin 48) (mask : BitVec 4) (_purpose reason : Byte) (switchSeq : BitVec 12) (s : State) : Result :=
  .next (
    let st := s.linkState l
    if (st = lkActive ∨ st = lkInit) ∧ s.on (lkHunting l) ∧ mask.toNat &&& s.maskOf l (fun n => s.laneState n == lnReady) ≠ 0 then
      s.partnerSwitch l mask.toNat reason.toNat switchSeq.toNat
    else s)

/-- RETRAIN_REQUEST received. -/
def execRetrainRequest (l : Fin 48) (reason : Byte) (s : State) : Result := .next (s.takeRetrainRequest l reason.toNat)

/-- RETRAIN_ANSWER received. -/
def execRetrainAnswer (l : Fin 48) (_reason : Byte) (s : State) : Result := .next (s.takeRetrainAnswer l)

/-- UP_WAIT_TIMEOUT: UpWait ticks since the first usable lane became READY, and one is READY still (R326); an error of order or
width keeps the link from coming up, one of skew only its lane (R288, R289). -/
def execUpWaitTimeout (l : Fin 48) (s : State) : Result :=
  .next (
    let st := s.linkState l
    if (st = lkTraining ∨ st = lkRetrain) ∧ s.linkExists l ∧ s.readyMask l ≠ 0 ∧
        s.maskOf l (fun n => s.on (lnError n) && !(s.lane n).skewed) &&& s.usable l = 0 then s.linkInit l
    else s)

/-- INIT_TIMEOUT (R326). -/
def execInitTimeout (l : Fin 48) (s : State) : Result :=
  .next (if s.linkState l = lkInit then s.linkDown l dcInitTimeout else s)

/-- HUNT_TIMEOUT: a hunt of SwitchTo ticks requests a retrain (R338). -/
def execHuntTimeout (l : Fin 48) (s : State) : Result :=
  .next (if s.on (lkHunting l) then s.requestRetrain l 1 else s)

/-- RETRAIN_REQUEST_TIMEOUT: sent again, and after three unanswered requests the link goes down (R338). -/
def execRetrainRequestTimeout (l : Fin 48) (s : State) : Result :=
  .next (match (s.link l).request with
    | none => s
    | some (r, n) =>
      if 3 ≤ n then s.linkDown l dcRetrainTimeout
      else s.setLink l { s.link l with request := some (r, n + 1), ctl := (s.link l).ctl ++ [.flit 4 (leBytes 1 1 ++ leBytes 1 r)] })

/-- RETRAIN_TIMEOUT (R326). -/
def execRetrainTimeout (l : Fin 48) (s : State) : Result :=
  .next (if s.linkState l = lkRetrain then s.linkDown l dcRetrainTimeout else s)

/-- HOLDOFF_EXPIRY (R326). -/
def execHoldoffExpiry (l : Fin 48) (s : State) : Result :=
  .next (if s.linkState l = lkDown ∧ s.on (onLink LNK_CTRL.AutoRestart l) then s.linkTrain l else s)

/-- TIME_PROBE received at stamp `t2`: a TIME_REPLY is due (R309). -/
def execTimeProbe (l : Fin 48) (id : BitVec 16) (t1 t2 : Dword) (s : State) : Result :=
  .next (if s.linkState l = lkActive then
      s.setLink l { s.link l with ctl := (s.link l).ctl ++ [.reply id.toNat t1.toNat t2.toNat] } else s)

/-- TIME_REPLY received at stamp `t4` (R358, R359). -/
def execTimeReply (l : Fin 48) (_id : BitVec 16) (t1 t2 t3 t4 : Dword) (s : State) : Result :=
  .next (if s.linkState l = lkActive then s.timeReply l t1 t2 t3 t4 else s)

/-! ## Register writes and commands -/

/-- Every link of port `p` is DISABLED (R303). -/
def State.portIdle (s : State) (p : Nat) : Bool := (List.range 4).all (fun k => s.linkState (4 * p + k) == lkDisabled)

/-- A write of LNK_PORT.Split (R303). -/
def State.writeSplit (s : State) (p split : Nat) : State :=
  if split < 3 ∧ s.portIdle p then
    (s.setF (LNK_PORT.Split p) split).each (List.range 4) (fun k t => t.lanePlace (16 + 4 * p + k))
  else s

/-- LNK_PORT_WRITE. -/
def execLnkPortWrite (p : Fin 12) (split : BitVec 2) (s : State) : Result := .next (s.writeSplit p split.toNat)

/-- A write of LNK_CTRL.Enable (R326). -/
def State.linkEnable (s : State) (l : Nat) (en : Bool) : State :=
  if !s.linkExists l then s
  else
    let t := s.setB (onLink LNK_CTRL.Enable l) en
    if !en then t.linkDisable l
    else if t.linkState l = lkDisabled then t.linkTrain l else t

/-- LINK_ENABLE_WRITE. -/
def execLinkEnableWrite (l : Fin 48) (en : Bool) (s : State) : Result := .next (s.linkEnable l en)

/-- LINK_RETRAIN_WRITE: ignored unless ACTIVE (R338). -/
def execLinkRetrainWrite (l : Fin 48) (s : State) : Result := .next (s.requestRetrain l 0)

/-- Would AllowMask `m` leave no lane in service (R336)? -/
def State.maskRefused (s : State) (l m : Nat) : Bool :=
  (s.linkState l == lkActive || s.linkState l == lkInit) && (s.pendingSet l &&& m) == 0

/-- A write of LNK_CTRL.AllowMask (R336). -/
def State.writeAllow (s : State) (l m : Nat) : State :=
  if !s.linkExists l then s
  else if s.maskRefused l m then s.raise (lkFlag l 7)
  else
    let t := s.setF (onLink LNK_CTRL.AllowMask l) m
    let set := t.pendingSet l
    if (t.linkState l = lkActive ∨ t.linkState l = lkInit) ∧ maskMinus set m ≠ 0 then t.startSwitch l (set &&& m) 0
    else (t.linkCheck l).linkOffer l

/-- ALLOW_MASK_WRITE. -/
def execAllowMaskWrite (l : Fin 48) (mask : BitVec 4) (s : State) : Result := .next (s.writeAllow l mask.toNat)

/-- A write of the whole of LNK_CTRL. -/
def State.writeLinkCtrl (s : State) (l : Nat) (v : Word) : State :=
  if !s.linkExists l then s
  else
    let t := s.setB (onLink LNK_CTRL.AutoRestart l) (v.getLsbD 1)
    let t := if t.fld (onLink LNK_CTRL.AllowMask l) = v.toNat / 16 % 16 then t else t.writeAllow l (v.toNat / 16 % 16)
    let t := if t.on (onLink LNK_CTRL.Enable l) = v.getLsbD 0 then t else t.linkEnable l (v.getLsbD 0)
    t.when (v.getLsbD 2) (·.requestRetrain l 0)

/-- The ranges of LNK_CRTO, LNK_ERRWIN, LNK_TIMERS and LNK_HOLDOFF (R344). -/
def linkTimerOk (which : Nat) (v : Word) : Bool :=
  let lo := v.toNat % 65536
  let hi := v.toNat / 65536
  match which with
  | 0 => decide (10 ≤ v.toNat % 16384) && decide (v.toNat % 16384 ≤ 10000)
  | 2 => decide (1 ≤ lo % 256) && decide (1 ≤ lo / 256) && decide (4 ≤ hi)
  | _ => decide (1 ≤ lo) && decide (1 ≤ hi)

/-- A write of one of the four (R344). -/
def State.writeLinkTimer (s : State) (l which : Nat) (v : Word) : State :=
  if !s.linkExists l then s
  else if linkTimerOk which v then
    s.wr (onLink LNK_CRTO l + 4 * which) (if which = 0 then v &&& 0x3FFF#32 else v)
  else s.raise (lkFlag l 7)

/-- A link the commands accept (R341). -/
def State.linkNamed (s : State) (l : Byte) : Bool := decide (l.toNat < 48) && s.linkExists l.toNat

/-- LINK_INFO. -/
def execLinkInfo (h : SlipHdr) (l : Byte) (s : State) : Result :=
  .next (s.runSlip h 0x0600 (.link l.toNat) (fun s =>
    if !s.linkNamed l then refuse s stValueRange
    else
      let k := l.toNat
      (s, .done stOk (s.words [onLink LNK_STATUS k, onLink LNK_SEQ k, onLink LNK_OUTST k, onLink LNK_CREDIT k]))))

/-- LINK_PORT_SPLIT. -/
def execLinkPortSplit (h : SlipHdr) (p split : Byte) (s : State) : Result :=
  .next (s.runSlip h 0x0601 .none (fun s =>
    if 12 ≤ p.toNat ∨ 3 ≤ split.toNat then refuse s stValueRange
    else if !s.portIdle p.toNat then refuse s stLinkUp
    else (s.writeSplit p.toNat split.toNat, okAns)))

/-- LINK_CONFIG. -/
def execLinkConfig (h : SlipHdr) (l : Byte) (crto errwin timers holdoff : Word) (s : State) : Result :=
  .next (s.runSlip h 0x0602 (.link l.toNat) (fun s =>
    if !s.linkNamed l ∨ !linkTimerOk 0 crto ∨ !linkTimerOk 1 errwin ∨ !linkTimerOk 2 timers ∨ !linkTimerOk 3 holdoff then
      refuse s stValueRange
    else
      let k := l.toNat
      ((((s.writeLinkTimer k 0 crto).writeLinkTimer k 1 errwin).writeLinkTimer k 2 timers).writeLinkTimer k 3 holdoff, okAns)))

/-- LINK_ENABLE. -/
def execLinkEnable (h : SlipHdr) (l enable autoRestart : Byte) (s : State) : Result :=
  .next (s.runSlip h 0x0603 (.link l.toNat) (fun s =>
    if !s.linkNamed l ∨ 2 ≤ enable.toNat ∨ 2 ≤ autoRestart.toNat then refuse s stValueRange
    else ((s.setF (onLink LNK_CTRL.AutoRestart l.toNat) autoRestart.toNat).linkEnable l.toNat (enable == 1#8), okAns)))

/-- LINK_WIDTH. -/
def execLinkWidth (h : SlipHdr) (l mask : Byte) (s : State) : Result :=
  .next (s.runSlip h 0x0604 (.link l.toNat) (fun s =>
    if !s.linkNamed l ∨ 16 ≤ mask.toNat then refuse s stValueRange
    else if s.linkState l.toNat ≠ lkActive then refuse s stLinkNotActive
    else if s.maskRefused l.toNat mask.toNat then refuse s stWidthRefused
    else (s.writeAllow l.toNat mask.toNat, okAns)))

/-- LINK_RETRAIN: its final return slip comes when the link is ACTIVE again, or has gone down. -/
def execLinkRetrain (h : SlipHdr) (l : Byte) (s : State) : Result :=
  .next (s.runSlip h 0x0605 (.link l.toNat) (fun s =>
    if !s.linkNamed l then refuse s stValueRange
    else if s.linkState l.toNat ≠ lkActive then refuse s stLinkNotActive
    else (s.requestRetrain l.toNat 0, .accepted (.linkRetrain l.toNat))))

/-- LINK_COUNTERS: reads without clearing. -/
def execLinkCounters (h : SlipHdr) (l group : Byte) (s : State) : Result :=
  .next (s.runSlip h 0x0606 (.link l.toNat) (fun s =>
    let k := l.toNat
    if !s.linkNamed l ∨ 2 ≤ group.toNat then refuse s stValueRange
    else if group = 0#8 then
      (s, .done stOk (s.words [onLink LNK_CRCERR k, onLink LNK_NAKDISC k, onLink LNK_DUP k, onLink LNK_REPLAYS k, onLink LNK_BADTYPE k]))
    else
      (s, .done stOk (s.words [onLink LNK_DOWNS k, onLink LNK_SWITCHES k, onLink LNK_STALLS k] ++
        leBytes 4 (s.fld (onLink LNK_OUTST.Outstanding k)) ++ leBytes 4 (s.fld (onLink LNK_OUTST.MaxOutstanding k))))))

end Sys2Proof.Machine
end

