-- ==== Sys2Proof/Machine/Fabric.lean ====
section
/-! DEFINITION. Machine/Fabric.lean: identity, routes, membership and local slots (R345 to R353, R365 to R381). -/

namespace Sys2Proof.Machine

/-! ## MEMBER messages (R366) -/

/-- The messages of R366. -/
abbrev mmBeacon : Nat := 1
abbrev mmPropose : Nat := 2
abbrev mmAgree : Nat := 3
abbrev mmRoster : Nat := 4
abbrev mmJoin : Nat := 5
abbrev mmAdmit : Nat := 6
abbrev mmRoute : Nat := 7

/-- Byte 12 of a BEACON or JOIN of this node. -/
def State.memberFlags (s : State) : Nat :=
  s.fld FAB_STATUS.Member + 2 * (s.sched == held).toNat + 4 * s.fld FAB_STATUS.TimeLocked + 8 * s.fld FAB_STATUS.Leader +
    16 * s.running.toNat

/-- Bytes 4 to 27 of a BEACON or JOIN. -/
def State.memberPayload (s : State) (msg : Nat) : List Byte :=
  leBytes 1 msg ++ [0#8] ++ leBytes 2 s.nodeId ++ leBytes 4 (s.rd FAB_EPOCH).toNat ++ leBytes 1 s.memberFlags ++
    leBytes 1 (s.fld FRM_STATUS.HeldCause) ++ leBytes 1 (s.fld FAB_NODE.Weight) ++ leBytes 1 (s.fld FAB_NODE.TkPriority) ++
    leBytes 2 (s.fld FAB_CTRL.Keystone + 2 ^ 15 * s.fld FAB_CTRL.KeyEn) ++ leBytes 2 0 ++ s.words [FRM_EDITION, FRM_STAGED]

/-- A MEMBER message routed to a node. -/
def State.sendMember (s : State) (dest : Nat) (payload : List Byte) : State := (s.curatorFlit ftMember dest payload).1

/-- The 64 bytes of one half of a bit map. -/
def mapHalf (nodes : List Nat) (part : Nat) : List Byte :=
  (List.range 64).map (fun k => BitVec.ofNat 8 (((List.range 8).filter (fun j => nodes.contains (512 * part + 8 * k + j))).foldl
    (fun x j => x + 2 ^ j) 0))

/-- One half of a PROPOSE or ROSTER. -/
def State.mapPayload (s : State) (msg part epoch total : Nat) (nodes : List Nat) : List Byte :=
  padTo 32 (leBytes 1 msg ++ leBytes 1 part ++ leBytes 2 s.nodeId ++ leBytes 4 epoch) ++ mapHalf nodes part ++ leBytes 2 total

/-- Both halves sent to every node of a list but this one. -/
def State.sendMaps (s : State) (msg epoch total : Nat) (nodes dests : List Nat) : State :=
  s.each (dests.filter (fun n => n != s.nodeId)) (fun d t =>
    (t.sendMember d (t.mapPayload msg 0 epoch total nodes)).sendMember d (t.mapPayload msg 1 epoch total nodes))

/-- `f` acts on a MEMBER message once for each combination of Msg, Sender, Epoch and Part; a repeat is counted (R352). -/
def State.takeMember (s : State) (msg sender epoch part : Nat) (f : State → State) : State :=
  let t := s.popInbox ftMember
  if t.fab.seen.contains (msg, sender, epoch, part) then t.inc FAB_DUPMSG
  else f { t with fab := { t.fab with seen := t.fab.seen ++ [(msg, sender, epoch, part)] } }

/-- A received half; both halves of a sender's map for an epoch, once they are there. -/
def State.takeHalf (s : State) (msg sender epoch part : Nat) (nodes : List Nat) : State × Option (List Nat) :=
  match s.fab.halves.find? (fun x => x.1 == msg && x.2.1 == sender && x.2.2.1 == epoch && x.2.2.2.1 != part) with
  | some o => ({ s with fab := { s.fab with halves := s.fab.halves.erase o } }, some (o.2.2.2.2 ++ nodes))
  | none => ({ s with fab := { s.fab with halves := s.fab.halves ++ [(msg, sender, epoch, part, nodes)] } }, none)

/-! ## Roster, quorum, leader and timekeeper -/

/-- The last beacon of node `n`. -/
def State.beaconOf (s : State) (n : Nat) : Option Beacon := tget (fun _ => none) s.fab.beacons n

/-- The weight of a node: its own, or its last beacon's. -/
def State.weightOf (s : State) (n : Nat) : Nat :=
  if n = s.nodeId then s.fld FAB_NODE.Weight else ((s.beaconOf n).map (·.weight)).getD 0

/-- The timekeeper priority of a node; one not yet known is 255 (DEDUCED, log 13). -/
def State.priorityOf (s : State) (n : Nat) : Nat :=
  if n = s.nodeId then s.fld FAB_NODE.TkPriority else ((s.beaconOf n).map (·.priority)).getD 255

/-- A node is reachable from its first beacon until its beacons have lapsed (R367). -/
def State.reachable (s : State) (n : Nat) : Bool :=
  n == s.nodeId || ((s.beaconOf n).isSome && !s.fab.lapsed.any (fun x => x.1 == n))

/-- The weight of this node and the reachable members. -/
def State.reach (s : State) : Nat := ((s.roster.filter s.reachable).map s.weightOf).sum

/-- Quorum (R369). -/
def State.hasQuorum (s : State) : Bool :=
  let r := 2 * s.reach
  let t := s.fld FAB_WEIGHT.Total
  let k := s.fld FAB_CTRL.Keystone
  decide (t < r) || (r == t && s.on FAB_CTRL.KeyEn && s.roster.contains k && s.reachable k)

/-- The timekeeper of the roster (R363). -/
def State.rosterKeeper (s : State) : Option Nat :=
  let c := (s.roster.filter (fun n => s.priorityOf n != 255)).map (fun n => 1024 * s.priorityOf n + n)
  c.min?.map (fun x => x % 1024)

/-- QUORUM_LOSS (R369). -/
def State.quorumLost (s : State) : State :=
  s.inOneCycle (fun s =>
    let t := s.setF FAB_STATUS.Quorum 0
    let t := t.logEvent 0x0612 0 (leBytes 4 (t.rd FAB_EPOCH).toNat ++ leBytes 2 (t.fld FAB_WEIGHT.Reach) ++ leBytes 2 (t.fld FAB_WEIGHT.Total))
    (t.raise FAB_IRQ_STATUS.QuorumLost).enterHeld hcQuorumLost)

/-- FAB_FORM names another node and Member is 0 (R372). -/
def State.notMember (s : State) : Bool := s.formsOthers && !s.on FAB_STATUS.Member

/-- The NotMember condition, which held before the change or not (`was`): in RUN it puts the node in HELD, in HELD it is a new cause
where it arises (R372, R591). -/
def State.notMemberCheck (s : State) (was : Bool) : State :=
  if s.notMember && (s.sched == run || !was) then s.enterHeld hcNotMember else s

/-- Reach, quorum, leader and timekeeper after a change of the roster or of a member's reachability (R363, R367, R369, R370). -/
def State.memberUpdate (s : State) : State :=
  if !s.on FAB_STATUS.Member then
    (((s.setF FAB_WEIGHT.Reach 0).setF FAB_STATUS.Quorum 0).setF FAB_STATUS.Leader 0).setF FAB_LEADER.LeaderValid 0
  else s.inOneCycle (fun s =>
    let t := s.setF FAB_WEIGHT.Reach s.reach
    let t := if t.hasQuorum then t.setF FAB_STATUS.Quorum 1 else if t.on FAB_STATUS.Quorum then t.quorumLost else t
    let leader := ((t.roster.filter t.reachable).min?).getD t.nodeId
    let t := ((t.setF FAB_LEADER.LeaderId leader).setF FAB_LEADER.LeaderValid 1).setB FAB_STATUS.Leader (leader == t.nodeId)
    (t.setKeeper t.rosterKeeper).parentUpdate)

/-- A bit map written to 32 registers. -/
def State.writeNodes (s : State) (reg : Nat → Nat) (nodes : List Nat) : State :=
  s.each (List.range 32) (fun w t => t.wr (reg w)
    (((nodes.filter (fun n => n / 32 == w)).foldl (fun (x : Word) n => x ||| (1#32 <<< (n % 32))) 0#32)))

/-- A roster adopted: epoch, members and Total (R371); the leader writes ROSTER_CHANGED of kind 0 removal, 1 admission or 2
formation. -/
def State.adoptRoster (s0 : State) (epoch : Nat) (nodes : List Nat) (total : Nat) (kind : Option Nat) : State :=
  s0.inOneCycle (fun s =>
  let t := ((s.writeNodes FAB_ROSTER nodes).wr FAB_EPOCH (BitVec.ofNat 32 epoch)).setF FAB_WEIGHT.Total total
  let me := nodes.contains t.nodeId
  -- a coordinator whose epoch changes before GO aborts (R56)
  let t := (t.setB FAB_STATUS.Member me).commitCheck false
  -- a joiner that the roster has admitted may have to join again
  let t := { t with fab := { t.fab with proposal := none, seen := t.fab.seen.filter (fun x => x.1 != mmJoin) } }
  let t := (t.setF FAB_STATUS.Forming 0).memberUpdate
  let t := match kind with
    | some k => t.logEvent 0x0611 t.nodeId (leBytes 4 epoch ++ leBytes 2 nodes.length ++ leBytes 2 total ++ leBytes 1 k)
    | none => t
  ((t.raise FAB_IRQ_STATUS.RosterChanged).keepTime).notMemberCheck s.notMember)

/-- ADMIT to a joiner: M and Fj = c + FRM_GUARD + 2 (R372). -/
def State.sendAdmit (s : State) (n : Nat) : State :=
  s.sendMember n (leBytes 1 mmAdmit ++ [0#8] ++ leBytes 2 s.nodeId ++ leBytes 4 (s.rd FAB_EPOCH).toNat ++ leBytes 6 0 ++
    leBytes 2 n ++ leBytes 4 (s.rd FRM_EDITION).toNat ++ leBytes 4 0 ++ leBytes 8 (s.frame + s.fld FRM_GUARD.Guard + 2))

/-- A proposal on which every proposed member has agreed becomes the roster, and its joiners receive ADMIT (R371, R372). -/
def State.proposalDone (s : State) : State :=
  match s.fab.proposal with
  | none => s
  | some p =>
    if !p.nodes.all (fun n => p.joins.contains n || p.agrees.contains n) then s
    else
      let kind := if p.formation then 2 else if p.joins.isEmpty then 0 else 1
      let t := s.sendMaps mmRoster p.epoch.toNat p.total p.nodes p.nodes
      let t := t.adoptRoster p.epoch.toNat p.nodes p.total (some kind)
      let t := t.each p.joins (fun n t => t.sendAdmit n)
      { t with fab := { t.fab with joins := t.fab.joins.filter (fun n => !p.joins.contains n) } }

/-- A PROPOSE sent to every proposed member, or adopted at once by a node that is alone in it. -/
def State.propose (s : State) (epoch : Nat) (nodes joins : List Nat) (formation : Bool) : State :=
  let total := (nodes.map s.weightOf).sum
  let p : Proposal := ⟨BitVec.ofNat 32 epoch, nodes, total, [s.nodeId], joins, formation⟩
  let t := { s with fab := { s.fab with proposal := some p } }
  (t.sendMaps mmPropose epoch total nodes (nodes.filter (fun n => !joins.contains n))).proposalDone

/-- The nodes of FAB_FORM. -/
def State.form (s : State) : List Nat := s.bitNodes FAB_FORM

/-- A node outside the roster sends BEACON to the nodes of its FAB_FORM (R367). -/
def State.announces (s : State) : Bool := !s.on FAB_STATUS.Member && s.on FAB_CTRL.FormEn && s.form.contains s.nodeId

/-- This node takes part in the formation of the first roster (R368). -/
def State.forming (s : State) : Bool := s.announces && s.rd FAB_EPOCH == 0#32

/-- FAB_FORM names this node alone, and no roster holds it: it forms at once (R368). -/
def State.formsAlone (s : State) : Bool := !s.on FAB_STATUS.Member && s.form == [s.nodeId]

/-- Formation (R368): the lowest node proposes epoch 1 once the beacons of all others are current; a node alone in FAB_FORM
forms at once. -/
def State.formCheck (s : State) : State :=
  let t := s.setB FAB_STATUS.Forming s.forming
  if t.formsAlone then t.propose 1 t.form [] true
  else if !t.forming then t
  else
    let others := t.form.filter (fun n => n != t.nodeId)
    if t.form.min? = some t.nodeId ∧ t.fab.proposal.isNone ∧ others.all (fun n => (t.beaconOf n).isSome && t.reachable n) then
      t.propose 1 t.form [] true
    else t

/-- BEACON received, at `l` if it arrived on a link (R345, R367). -/
def execBeacon (m : MemberMsg) (l : Option (Fin 48)) (s : State) : Result :=
  .next (
    let t := s.popInbox ftMember
    let n := m.sender.toNat
    if n = t.nodeId then
      ((t.setF FAB_STATUS.DupId 1).logEvent 0x0618 n (leBytes 2 ((l.map (·.val)).getD 0xFFFF))).raise FAB_IRQ_STATUS.DupId
    else
      let heldNow := m.flags.getLsbD 1 && m.cause != 3#4
      let old := ((t.beaconOf n).map (·.heldRun)).getD 0
      let b : Beacon := ⟨m.epoch, m.flags, m.cause.toNat, m.weight.toNat, m.priority.toNat, m.keystone.toNat, m.keyEn,
        m.edition, m.staged, t.time.local_, if heldNow then old + 1 else 0⟩
      let t := { t with fab := { t.fab with beacons := tset (fun _ => none) t.fab.beacons n (some b),
                                            lapsed := t.fab.lapsed.filter (fun x => x.1 != n) } }
      t.memberUpdate.formCheck)

/-- BEACON_MISS: no beacon of a node for Miss x Beat ticks (R367). -/
def execBeaconMiss (n : BitVec 10) (s : State) : Result :=
  .next (
    let k := n.toNat
    if k = s.nodeId ∨ !s.reachable k then s
    else { s with fab := { s.fab with lapsed := s.fab.lapsed ++ [(k, 0)] } }.memberUpdate)

/-- The sender may propose: to a member its leader, to a node of a formation the lowest of the same FAB_FORM with the same
keystone (R368, R371). -/
def State.agreesTo (s : State) (sender epoch : Nat) (nodes : List Nat) : Bool :=
  if s.on FAB_STATUS.Member then
    epoch == (s.rd FAB_EPOCH).toNat + 1 && s.on FAB_LEADER.LeaderValid && s.fld FAB_LEADER.LeaderId == sender &&
      s.on FAB_STATUS.Quorum
  else
    s.forming && epoch == 1 && s.form.min? == some sender && s.form.all (fun n => nodes.contains n) &&
      nodes.all (fun n => s.form.contains n) &&
      (s.beaconOf sender).any (fun b => b.keystone == s.fld FAB_CTRL.Keystone && b.keyEn == s.on FAB_CTRL.KeyEn)

/-- PROPOSE received: one half of the map (R371). -/
def execPropose (sender : BitVec 10) (epoch : Word) (part : Fin 2) (nodes : List (BitVec 10)) (_total : BitVec 16) (s : State) :
    Result :=
  .next (s.takeMember mmPropose sender.toNat epoch.toNat part (fun s =>
    match s.takeHalf mmPropose sender.toNat epoch.toNat part (nodes.map (·.toNat)) with
    | (t, none) => t
    | (t, some ns) =>
      if t.agreesTo sender.toNat epoch.toNat ns then
        t.sendMember sender.toNat (leBytes 1 mmAgree ++ [0#8] ++ leBytes 2 t.nodeId ++ leBytes 4 (t.rd FAB_EPOCH).toNat)
      else t))

/-- AGREE at the proposer, with the sender's own epoch, the one before the proposal's (R366, R371). -/
def execAgree (sender : BitVec 10) (epoch : Word) (s : State) : Result :=
  .next (s.takeMember mmAgree sender.toNat epoch.toNat 0 (fun s =>
    match s.fab.proposal with
    | some p =>
      if p.epoch ≠ epoch + 1#32 then s
      else { s with fab := { s.fab with proposal := some { p with agrees := addOnce p.agrees sender.toNat } } }.proposalDone
    | none => s))

/-- ROSTER received: one half of the map; a roster of a later epoch is adopted (R371). -/
def execRoster (sender : BitVec 10) (epoch : Word) (part : Fin 2) (nodes : List (BitVec 10)) (total : BitVec 16) (s : State) :
    Result :=
  .next (s.takeMember mmRoster sender.toNat epoch.toNat part (fun s =>
    match s.takeHalf mmRoster sender.toNat epoch.toNat part (nodes.map (·.toNat)) with
    | (t, none) => t
    | (t, some ns) => if (t.rd FAB_EPOCH).toNat < epoch.toNat then t.adoptRoster epoch.toNat ns total.toNat none else t))

/-- JOIN received (R372): the leader admits the joiner in its next PROPOSE; a member that does not lead forwards it. -/
def execJoin (m : MemberMsg) (s : State) : Result :=
  .next (s.takeMember mmJoin m.sender.toNat m.epoch.toNat 0 (fun t =>
    let n := m.sender.toNat
    if !t.on FAB_STATUS.Member then t
    else if !t.on FAB_STATUS.Leader then
      t.sendMember (t.fld FAB_LEADER.LeaderId) (leBytes 1 mmJoin ++ [0#8] ++ leBytes 2 n ++ leBytes 4 m.epoch.toNat ++ [m.flags] ++
        leBytes 1 m.cause.toNat ++ [m.weight, m.priority] ++ leBytes 2 (m.keystone.toNat + 2 ^ 15 * m.keyEn.toNat) ++ leBytes 2 0 ++
        leBytes 4 m.edition.toNat ++ leBytes 4 m.staged.toNat)
    else
      let b : Beacon := ⟨m.epoch, m.flags, m.cause.toNat, m.weight.toNat, m.priority.toNat, m.keystone.toNat, m.keyEn,
        m.edition, m.staged, t.time.local_, 0⟩
      { t with fab := { t.fab with beacons := tset (fun _ => none) t.fab.beacons n (some b), joins := addOnce t.fab.joins n,
                                   lapsed := t.fab.lapsed.filter (fun x => x.1 != n) } }))

/-- ADMIT at the joiner (R372): M and Fj for R63, or ignored when Fj is too close; a fenced node and one in ResyncFailed do not join
(R373). -/
def execAdmitMsg (sender : BitVec 10) (epoch : Word) (subject : BitVec 10) (edition : Word) (rejoin : Dword) (s : State) : Result :=
  .next (s.takeMember mmAdmit sender.toNat epoch.toNat 0 (fun t =>
    let c := t.fld FRM_STATUS.HeldCause
    if subject.toNat ≠ t.nodeId ∨ t.sched ≠ held ∨ c = hcManagerFence ∨ c = hcResyncFailed ∨ rejoin.toNat ≤ t.frame + 1 then t
    else { (t.setF FAB_STATUS.Joining 0) with frm := { t.frm with rejoin := some (edition, rejoin) } }))

/-! ## Routes (R349 to R353) -/

/-- The hops and ViaYou a link advertises for destination `d`; 63 where nothing has been heard. -/
def State.advert (s : State) (l d : Nat) : Nat × Bool :=
  let a := tget (fun _ => 63) (s.link l).adverts d
  (a % 64, a.testBit 6)

/-- The last of the links that attain the least of `f`. -/
def leastLink (ls : List Nat) (f : Nat → Nat) : Option (Nat × Nat) :=
  (ls.map f).min?.bind (fun m => (ls.filter (fun l => f l == m)).getLast?.map (fun l => (l, m)))

/-- The FAB_ROUTE word AutoRoute writes for destination `d`, `ls` being the live fabric links (R353). -/
def State.autoWord (s : State) (ls : List Nat) (d : Nat) : Word :=
  match leastLink ls (fun l => (s.advert l d).1) with
  | some (p, m) =>
    if 62 < m + 1 then BitVec.ofNat 32 (2 ^ 14 + 2 ^ 16 * 63)
    else
      let rest := ls.filter (fun l => l != p)
      let free := rest.filter (fun l => !(s.advert l d).2)
      let alt := leastLink (if free.isEmpty then rest else free) (fun l => (s.advert l d).1)
      BitVec.ofNat 32 (1 + 2 * alt.isSome.toNat + 4 * p + 2 ^ 8 * ((alt.map (·.1)).getD 0) + 2 ^ 14 + 2 ^ 16 * (m + 1))
  | none => BitVec.ofNat 32 (2 ^ 14 + 2 ^ 16 * 63)

/-- AutoRoute writes the entries of a list of destinations. -/
def State.autoRoute (s : State) (ds : List Nat) : State :=
  if !s.on FAB_CTRL.AutoRoute then s
  else
    let ls := s.liveLinks
    (s.each ds (fun d t => t.wr (FAB_ROUTE d) (s.autoWord ls d))).parentUpdate

/-- The own primary link for destination `d` leads to the receiver of link `l`, over this link or another to the same node (R353). -/
def State.viaYou (s : State) (l d : Nat) : Bool :=
  let p := s.fld (FAB_ROUTE.Primary d)
  s.on (FAB_ROUTE.Valid d) && (p == l || (s.linkLive p &&
    s.fld (onLink LNK_STATUS.PartnerId p) == s.fld (onLink LNK_STATUS.PartnerId l)))

/-- A ROUTE part for link `l` (R366). -/
def State.routePayload (s : State) (l part : Nat) : List Byte :=
  leBytes 1 mmRoute ++ leBytes 1 part ++ leBytes 2 s.nodeId ++ (List.range 96).map (fun k =>
    let d := 96 * part + k
    if 1024 ≤ d then 0#8
    else if d = s.nodeId then 0#8
    else BitVec.ofNat 8 (s.fld (FAB_ROUTE.Hops d) + 64 * (s.viaYou l d).toNat))

/-- ROUTE received from the neighbour on link `l` (R353). -/
def execRoute (sender : BitVec 10) (part : Fin 11) (entries : List Byte) (l : Fin 48) (s : State) : Result :=
  .next (
    let t := s.popInbox ftMember
    let _ := sender
    let base := 96 * part.val
    let u := t.link l
    let adv := ((entries.take 96).zipIdx).foldl (fun a x => if base + x.2 < 1024 then tset (fun _ => 63) a (base + x.2) (x.1.toNat % 128) else a)
      u.adverts
    (t.setLink l { u with adverts := adv }).autoRoute ((List.range 96).filterMap (fun k => if base + k < 1024 then some (base + k) else none)))

/-- ROUTE messages on every live fabric link. -/
def State.advertise (s : State) : State :=
  if !s.on FAB_CTRL.AutoRoute then s
  else s.each s.liveLinks (fun l t => t.each (List.range 11) (fun p t =>
    t.enqueueFlit 49 l (mkFlit ftMember 0 (t.fld (onLink LNK_STATUS.PartnerId l)) 0 (s.routePayload l p))))

/-- The flits a link has handed over: those of its spill region are read from there, and one whose words are bad is lost (R195). -/
def State.readHanded (s : State) (l : Nat) : State × List Flit :=
  (s.link l).handed.foldl (fun a x => match x.2 with
    | none => (a.1, a.2 ++ [x.1])
    | some o => match a.1.stkRead rqSpill o 120 with
      | (t, .data bs) => (t, a.2 ++ [{ flitOf bs with came := x.1.came }])
      | (t, _) => (t.spillError l o, a.2)) (s, [])

/-- ROUTE_FAILOVER (R351): flits handed over, then those in the output queues; it waits while a bank keeps the spill region's
(R203). -/
def execRouteFailover (l : Fin 48) (s : State) : Result :=
  .next (
    let k := l.val
    let u := s.link k
    if !u.failover ∨ s.linkState k ≠ lkDown ∨ u.handed.any (fun x => x.2.any (fun o => s.readWaits rqSpill o 120)) then s
    else
      let (s, handed) := s.readHanded k
      let u := s.link k
      let flits := handed ++ (List.range 4).flatMap (fun c => s.outQueue k c) ++
        (s.fab.waiting.filter (fun w => w.link == k && decide (48 ≤ w.req))).map (·.flit)
      let again := flits.filter (fun f => f.type == ftCommit || f.type == ftSlip || f.type == ftMember || f.type == ftSample)
      let lost := flits.length - again.length
      let dests := ((List.range 1024).filter (fun d => s.on (FAB_ROUTE.Valid d) && s.fld (FAB_ROUTE.Primary d) == k)).length
      let t := s.setLink k { u with handed := [], failover := false }
      let t := { t with fab := { t.fab with queues := tclear t.fab.queues (4 * k) (4 * k + 4),
                                            waiting := t.fab.waiting.filter (fun w => w.link != k) } }
      let t := t.each again (fun f t => (t.switchFlit (f.came.getD k) f f.came t.time.stime).1)
      let t := (((t.incBy FAB_RESENT again.length).incBy FAB_HANDDROP lost).inc FAB_FAILOVER).raise FAB_IRQ_STATUS.Failover
      (t.logEvent 0x0610 k (leBytes 2 dests ++ leBytes 2 again.length ++ leBytes 2 lost)).autoRoute (List.range 1024))

/-- A write of FAB_ROUTE(d) by the manager: Auto clears (DEDUCED, log 15). -/
def State.writeRoute (s : State) (d : Nat) (v : Word) : State :=
  (s.wr (FAB_ROUTE d) ((s.rd (FAB_ROUTE d) &&& 0x003F0000#32) ||| (v &&& 0x3FFF#32))).parentUpdate

/-- FAB_ROUTE_WRITE. -/
def execFabRouteWrite (d : BitVec 10) (v : Word) (s : State) : Result := .next (s.writeRoute d.toNat v)

/-- FAB_ROUTE_SET. -/
def execFabRouteSet (h : SlipHdr) (first : BitVec 16) (count : Byte) (words : List Word) (s : State) : Result :=
  .next (s.runSlip h 0x0611 .none (fun s =>
    let n := count.toNat
    if n < 1 ∨ 12 < n ∨ 1024 < first.toNat + n ∨ words.length ≠ n ∨
        words.any (fun (w : Word) => decide (48 ≤ w.toNat / 4 % 64) || decide (48 ≤ w.toNat / 256 % 64)) then refuse s stValueRange
    else (s.each words.zipIdx (fun (x : Word × Nat) t => t.writeRoute (first.toNat + x.2) x.1), okAns)))

/-- FAB_ROUTE_READ: the entry and the link R350 would select. -/
def execFabRouteRead (h : SlipHdr) (d : BitVec 16) (s : State) : Result :=
  .next (s.runSlip h 0x0612 .none (fun s =>
    if 1024 ≤ d.toNat then refuse s stValueRange
    else (s, .done stOk (s.words [FAB_ROUTE d.toNat] ++ leBytes 1 (if d.toNat = s.nodeId then 0xFF else ((s.routeLink d.toNat none).map (·.1)).getD 0xFF)))))

/-! ## Identity and configuration -/

/-- The identity may be written (R345). -/
def State.identityOpen (s : State) : Bool := s.sched == stopped && !s.on FAB_STATUS.Member

/-- A write of FAB_NODE (R345). -/
def State.writeNode (s : State) (v : Word) : State := if s.identityOpen then s.putReg FAB_NODE v else s

/-- A write of FAB_CTRL: the keystone only where the identity may be written (R345). -/
def State.writeFabCtrl (s : State) (v : Word) : State :=
  let m := if s.identityOpen then 0xFFFFFFFF#32 else 0xFFFF#32
  (s.writeByCode FAB_CTRL v m).formCheck

/-- FAB_IDENTITY_WRITE: a write of FAB_NODE (0) or FAB_CTRL (1). -/
def execFabIdentityWrite (reg : Fin 2) (v : Word) (s : State) : Result :=
  .next (if reg.val = 0 then s.writeNode v else s.writeFabCtrl v)

/-- The ranges of FAB_BEAT and FAB_TIME_CFG (R381). -/
def beatOk (v : Word) : Bool :=
  decide (10 ≤ v.toNat % 65536) && decide (2 ≤ v.toNat / 65536 % 16)
def timeCfgOk (v : Word) : Bool :=
  decide (1 ≤ v.toNat % 256) && decide (1 ≤ v.toNat / 256 % 256) && decide (1 ≤ v.toNat / 65536)

/-- FAB_CONFIG (R345): the present identity values are no change (DEDUCED, log 15). -/
def execFabConfig (h : SlipHdr) (node ctrl beat timeCfg : Word) (s : State) : Result :=
  .next (s.runSlip h 0x0613 .none (fun s =>
    let change := (s.rd FAB_NODE ^^^ node) &&& 0x00FFF3FF#32 != 0#32 || (s.rd FAB_CTRL ^^^ ctrl) &&& 0x07FF0000#32 != 0#32
    if !beatOk beat ∨ !timeCfgOk timeCfg then refuse s stValueRange
    else if change && !s.identityOpen then refuse s stMemberState
    else ((((s.writeNode node).putReg FAB_BEAT beat).putReg FAB_TIME_CFG timeCfg).writeFabCtrl ctrl, okAns)))

/-- FAB_FORM_SET (R368, R381). -/
def execFabFormSet (h : SlipHdr) (quarter : Byte) (mask : List Byte) (s : State) : Result :=
  .next (s.runSlip h 0x0614 .none (fun s =>
    if 4 ≤ quarter.toNat then refuse s stValueRange
    else if s.on FAB_STATUS.Member then refuse s stMemberState
    else
      let t := s.each (List.range 8) (fun i t => t.wr (FAB_FORM (8 * quarter.toNat + i)) (BitVec.ofNat 32 (bytesAt mask (4 * i) 4)))
      ((t.notMemberCheck s.notMember).formCheck, okAns)))

/-- FAB_RWIN_SET: the staged copy (R354). -/
def execFabRwinSet (h : SlipHdr) (entry : Byte) (w : Word) (s : State) : Result :=
  .next (s.runSlip h 0x0615 .none (fun s =>
    if 64 ≤ entry.toNat then refuse s stValueRange else (s.putReg (STG_RWIN entry.toNat) w, okAns)))

/-- FAB_INFO. -/
def execFabInfo (h : SlipHdr) (s : State) : Result :=
  .next (s.runSlip h 0x0610 .none (fun s => (s, .done stOk (s.words [FAB_STATUS, FAB_EPOCH, FAB_WEIGHT, FAB_LEADER]))))

/-- FAB_MEMBER_READ: of this node its own state, of a node never heard zeros (DEDUCED, log 15). -/
def execFabMemberRead (h : SlipHdr) (n : BitVec 16) (s : State) : Result :=
  .next (s.runSlip h 0x0616 .none (fun s =>
    if 1024 ≤ n.toNat then refuse s stValueRange
    else if n.toNat = s.nodeId then
      (s, .done stOk (leBytes 1 (s.fld FAB_NODE.Weight) ++ leBytes 1 s.memberFlags ++ leBytes 2 (s.fld FRM_STATUS.HeldCause) ++
        s.words [FAB_EPOCH] ++ leBytes 4 0))
    else match s.beaconOf n.toNat with
      | none => (s, .done stOk (leBytes 8 0 ++ leBytes 4 0xFFFFFFFF))
      | some b => (s, .done stOk (leBytes 1 b.weight ++ [b.flags] ++ leBytes 2 b.cause ++ leBytes 4 b.epoch.toNat ++
          leBytes 4 (min 0xFFFFFFFE ((s.time.local_ - b.arrived) / 1000))))))

/-- FAB_TIME_INFO. -/
def execFabTimeInfo (h : SlipHdr) (s : State) : Result :=
  .next (s.runSlip h 0x0617 .none (fun s =>
    (s, .done stOk (s.words [FAB_TIME_STAT, FAB_RATE] ++
      leBytes 2 (if s.on FAB_LEADER.TkValid then s.fld FAB_LEADER.TkId else 0xFFFF)))))

/-- FAB_FENCE (R373, R591). -/
def execFabFence (h : SlipHdr) (s : State) : Result :=
  .next (s.runSlip h 0x0618 .none (fun s =>
    let t := { s with frm := { s.frm with fence := true } }
    (if t.running then t.enterHeld hcManagerFence else t.setF FRM_STATUS.HeldCause hcManagerFence, okAns)))

/-- FAB_UNFENCE (R373, R591). -/
def execFabUnfence (h : SlipHdr) (s : State) : Result :=
  .next (s.runSlip h 0x0619 .none (fun s =>
    if !s.frm.fence then refuse s stNotFenced
    else
      let t := { s with frm := { s.frm with fence := false } }
      (if t.sched = held then t.recordHeld hcNotMember else if t.running then t else t.setF FRM_STATUS.HeldCause 0, okAns)))

/-! ## BEAT -/

/-- The current roster less the members R370 removes. -/
def State.keptMembers (s : State) : List Nat :=
  let miss := s.fld FAB_BEAT.Miss
  s.roster.filter (fun n => n == s.nodeId ||
    (!s.fab.lapsed.any (fun x => x.1 == n && decide (3 ≤ x.2)) &&
     !(s.beaconOf n).any (fun b => b.cause == hcManagerFence || decide (miss + 2 ≤ b.heldRun))))

/-- What the leader does once per Beat (R370, R371). -/
def State.leaderBeat (s : State) : State :=
  if !s.on FAB_STATUS.Leader ∨ !s.on FAB_STATUS.Quorum then s
  else
    let keep := s.keptMembers
    let joins := s.fab.joins
    if keep = s.roster ∧ joins = [] then { s with fab := { s.fab with proposal := none } }
    else s.propose ((s.rd FAB_EPOCH).toNat + 1) (keep.filter (fun n => !joins.contains n) ++ joins) joins false

/-- What a node that is to join does once per Beat (R372). -/
def State.joinBeat (s : State) : State :=
  let c := s.fld FRM_STATUS.HeldCause
  if s.sched ≠ held ∨ !s.on FAB_STATUS.TimeLocked ∨ s.frm.rejoin.isSome ∨
      (c ≠ hcSwapMissed ∧ c ≠ hcQuorumLost ∧ c ≠ hcTimeLost ∧ c ≠ hcNotMember) then { s with fab := { s.fab with joinAt := 0 } }
  else
    let ds := s.form.filter (fun n => n != s.nodeId && (s.routeLink n none).isSome)
    match ds[s.fab.joinAt % max 1 ds.length]? with
    | none => s
    | some d =>
      let t := (s.sendMember d (s.memberPayload mmJoin)).setF FAB_STATUS.Joining 1
      { t with fab := { t.fab with joinAt := t.fab.joinAt + 1 } }

/-- BEAT (R353, R367, R368, R370, R372). -/
def execBeat (s : State) : Result :=
  .next (
    let t := { s with fab := { s.fab with lapsed := s.fab.lapsed.map (fun (x : Nat × Nat) => (x.1, x.2 + 1)) } }
    -- what R371 abandons at a Beat is proposed, and answered, again
    let again := fun (m : Nat) => m == mmPropose || m == mmAgree
    let t := { t with fab := { t.fab with seen := t.fab.seen.filter (fun x => !again x.1),
                                          halves := t.fab.halves.filter (fun x => !again x.1) } }
    let dests := if t.on FAB_STATUS.Member then t.roster else if t.announces then t.form else []
    let t := t.each (dests.filter (fun n => n != t.nodeId)) (fun n t => t.sendMember n (t.memberPayload mmBeacon))
    let t := (t.autoRoute (List.range 1024)).advertise
    let t := (t.memberUpdate).keepTime
    -- a proposal of the formation that was not answered is abandoned, and made again
    let t := t.when (t.forming && t.fab.proposal.isSome) (fun t => match t.fab.proposal with
      | some p => t.propose 1 p.nodes [] true
      | none => t)
    ((t.formCheck).leaderBeat).joinBeat)

/-! ## Local slots (R374 to R377) -/

/-- A slot event's entry; each of R375's sets PresenceChanged, and so the flag, which the power-off of R376 does not (R380, R381). -/
def State.slotEvent (s : State) (p code : Nat) : State :=
  (s.logEvent 0x0617 p (leBytes 1 code)).when (code != 3) (fun t =>
    (t.setF (FAB_SLOT_STAT.PresenceChanged p) 1).raise FAB_IRQ_STATUS.SlotEvent)

/-- The lanes of a port held DISABLED, or released, as its PGOOD now says (R375). -/
def State.slotLanes (s : State) (p : Nat) : State :=
  s.each (List.range 4) (fun k t =>
    let n := 16 + 4 * p + k
    if t.laneBarred n then t.laneChange n (fun t => t.laneTo n lnDisabled)
    else if t.laneState n = lnDisabled then t.laneIdle n else t)

/-- Power-on (R375). -/
def State.slotOn (s : State) (p : Nat) : State :=
  if s.on (FAB_SLOT_STAT.PowerOn p) ∨ s.on (FAB_SLOT_STAT.Quiescing p) then s
  else (s.setF (FAB_SLOT_STAT.PowerOn p) 1).slotEvent p 2

/-- A powered slot is quiesced (R376). -/
def State.slotQuiesce (s : State) (p : Nat) : State :=
  if !s.on (FAB_SLOT_STAT.PowerOn p) then s
  else (s.setF (FAB_SLOT_STAT.Quiescing p) 1).each (List.range 4) (fun k t =>
    t.setLink (4 * p + k) { t.link (4 * p + k) with quiet := true })

/-- A quiesce ends. -/
def State.slotStill (s : State) (p : Nat) : State :=
  (s.setF (FAB_SLOT_STAT.Quiescing p) 0).each (List.range 4) (fun k t =>
    t.setLink (4 * p + k) { t.link (4 * p + k) with quiet := false })

/-- The indicator a slot shows: Ind, but for an attention window (1 Hz) and a power fault (4 Hz) (R377). -/
def State.slotLed (s : State) (p : Nat) : Nat :=
  if s.on (FAB_SLOT_STAT.AttnWindow p) then 2 else if s.on (FAB_SLOT_STAT.PowerFault p) then 3 else s.fld (FAB_SLOT_CTRL.Ind p)

/-- A power fault: PWREN low, PowerFault (R375). -/
def State.slotFault (s : State) (p : Nat) : State :=
  (((s.setF (FAB_SLOT_STAT.PowerOn p) 0).setF (FAB_SLOT_STAT.PowerFault p) 1).slotStill p).slotEvent p 4

/-- SLOT_INSERTION. -/
def execSlotInsertion (p : Fin 12) (s : State) : Result :=
  .next (if !s.on (FAB_SLOT_CTRL.SlotEn p) ∨ s.on (FAB_SLOT_STAT.Present p) then s
    else
      let t := (s.setF (FAB_SLOT_STAT.Present p) 1).slotEvent p 0
      t.when (t.on (FAB_SLOT_CTRL.AutoPower p)) (·.slotOn p))

/-- SLOT_REMOVAL: PWREN goes low at once. -/
def execSlotRemoval (p : Fin 12) (s : State) : Result :=
  .next (if !s.on (FAB_SLOT_CTRL.SlotEn p) ∨ !s.on (FAB_SLOT_STAT.Present p) then s
    else
      let t := (s.setF (FAB_SLOT_STAT.Present p) 0).slotEvent p 1
      ((t.setF (FAB_SLOT_STAT.PowerOn p) 0).setF (FAB_SLOT_STAT.AttnWindow p) 0).slotStill p)

/-- BUTTON_PRESS (R376). -/
def execButtonPress (p : Fin 12) (s : State) : Result :=
  .next (if !s.on (FAB_SLOT_CTRL.SlotEn p) then s
    else
      let t := (s.setF (FAB_SLOT_STAT.AttnPressed p) 1).slotEvent p 5
      if t.on (FAB_SLOT_CTRL.AttnMode p) ∨ t.on (FAB_SLOT_STAT.Quiescing p) then t
      else t.setB (FAB_SLOT_STAT.AttnWindow p) (!t.on (FAB_SLOT_STAT.AttnWindow p)))

/-- ATTENTION_WINDOW_END (R376). -/
def execAttentionWindowEnd (p : Fin 12) (s : State) : Result :=
  .next (if !s.on (FAB_SLOT_STAT.AttnWindow p) then s
    else
      let t := s.setF (FAB_SLOT_STAT.AttnWindow p) 0
      if t.on (FAB_SLOT_STAT.PowerOn p) then t.slotQuiesce p
      else if t.on (FAB_SLOT_STAT.Present p) then t.slotOn p else t)

/-- PGOOD_ASSERT: the port's lanes are released. -/
def execPgoodAssert (p : Fin 12) (s : State) : Result :=
  .next (if !s.on (FAB_SLOT_CTRL.SlotEn p) then s else (s.setF (FAB_SLOT_STAT.PowerGood p) 1).slotLanes p)

/-- PGOOD_TIMEOUT. -/
def execPgoodTimeout (p : Fin 12) (s : State) : Result :=
  .next (if s.on (FAB_SLOT_STAT.PowerOn p) ∧ !s.on (FAB_SLOT_STAT.PowerGood p) then s.slotFault p else s)

/-- PGOOD_LOSS. -/
def execPgoodLoss (p : Fin 12) (s : State) : Result :=
  .next (if !s.on (FAB_SLOT_CTRL.SlotEn p) ∨ !s.on (FAB_SLOT_STAT.PowerGood p) then s
    else
      let t := s.setF (FAB_SLOT_STAT.PowerGood p) 0
      (t.when (t.on (FAB_SLOT_STAT.PowerOn p)) (·.slotFault p)).slotLanes p)

/-- QUIESCE_DONE: the links are disabled, PWREN low, the indicator off (R376). -/
def execQuiesceDone (p : Fin 12) (s : State) : Result :=
  .next (if !s.on (FAB_SLOT_STAT.Quiescing p) then s
    else
      let t := s.each (List.range 4) (fun k t => t.linkEnable (4 * p + k) false)
      let t := ((t.slotStill p).setF (FAB_SLOT_STAT.PowerOn p) 0).setF (FAB_SLOT_CTRL.Ind p) 0
      (t.setF (FAB_SLOT_CTRL.PowerCtl p) 0).slotEvent p 3)

/-- A write of PowerCtl (R375, R376). -/
def State.writePowerCtl (s : State) (p : Nat) (on : Bool) : State :=
  let t := s.setB (FAB_SLOT_CTRL.PowerCtl p) on
  if !t.on (FAB_SLOT_CTRL.SlotEn p) then t
  else if on then t.slotOn p else t.slotQuiesce p

/-- POWER_CTL_WRITE. -/
def execPowerCtlWrite (p : Fin 12) (on : Bool) (s : State) : Result := .next (s.writePowerCtl p on)

/-- A write of the whole of FAB_SLOT_CTRL: PgoodTo 0 is out of range and leaves PgoodTo as it was; a slot that is disabled
has PWREN driven low (R374).  PowerCtl acts as it is written, whether or not it held that value (R375, R376). -/
def State.writeSlotCtrl (s : State) (p : Nat) (v : Word) : State :=
  let keep := if v.toNat / 65536 = 0 then 0x0000FFF7#32 else 0xFFFFFFF7#32
  let t := s.writeByCode (FAB_SLOT_CTRL p) v keep
  let t := if t.on (FAB_SLOT_CTRL.SlotEn p) then t
    else (((t.setF (FAB_SLOT_STAT.PowerOn p) 0).setF (FAB_SLOT_STAT.AttnWindow p) 0).setF (FAB_SLOT_STAT.PowerGood p) 0).slotStill p
  (t.writePowerCtl p (v.getLsbD 3)).slotLanes p

/-- FAB_SLOT (R378). -/
def execFabSlot (h : SlipHdr) (p op ind : Byte) (s : State) : Result :=
  .next (s.runSlip h 0x061A .none (fun s =>
    let k := p.toNat
    if 12 ≤ k ∨ 3 ≤ op.toNat ∨ 4 ≤ ind.toNat then refuse s stValueRange
    else if !s.on (FAB_SLOT_CTRL.SlotEn k) ∨ s.on (FAB_SLOT_STAT.AttnWindow k) ∨ s.on (FAB_SLOT_STAT.Quiescing k) ∨
        (op = 1#8 ∧ !s.on (FAB_SLOT_STAT.Present k)) then refuse s stSlotState
    else if op = 0#8 then (s.slotQuiesce k, okAns)
    else if op = 1#8 then (s.slotOn k, okAns)
    else (s.setF (FAB_SLOT_CTRL.Ind k) ind.toNat, okAns)))

end Sys2Proof.Machine
end

