-- ==== Sys2Proof/Machine/Boundary.lean ====
section
/-! DEFINITION. Machine/Boundary.lean: the frame boundary and what occurs at it, the phases of a frame, edition swaps, and
the release (R29 to R66, R81 to R84, R94, R117, R120, R144, R228, R591). -/

namespace Sys2Proof.Machine

/-! ## Edition swaps (R41 to R48, R65) -/

/-- The number after an edition number (R43). -/
def nextEdition (e : Word) : Word := if e = 0xFFFFFFFF#32 then 1#32 else e + 1#32

/-- EDITION_SWAP: every item of R41 changes at once; the current number becomes `num` and the staged one its successor. -/
def State.editionSwap (s : State) (num : Word) : State :=
  let t := (s.swapBins s.pendingIds).swapCatalogue
  let t := t.swapParams.swapEdge.swapChannels.swapShares
  let t := (((t.wr FRM_EDITION num).wr FRM_STAGED (nextEdition num)).setF FRM_STATUS.StagedFrozen 0).auxUpdate
  let t := { t with frm := { t.frm with firstFrame := num != 0#32 } }
  (t.raise FRM_IRQ_STATUS.Swapped).allBaysEdge 11

/-- At boundary F an armed swap occurs, unless the node is in HELD; it then reports DONE (R60). -/
def State.swapDue (s : State) (n : Nat) : State :=
  if !s.on FRM_STATUS.SwapArmed || decide (n < s.target) then s
  else if s.sched = held then s.cancelSwap
  else if s.target ≠ n then s
  else match s.frm.commit with
    | none => s
    | some c =>
      let t := (((s.editionSwap c.edition).setF FRM_STATUS.SwapArmed 0).setF FRM_COMMIT.Phase phSwapped).commitReport cmDoneType
      if t.on FRM_COMMIT.System && t.on FRM_COMMIT.IsCoordinator then t
      else (t.setF FRM_STATUS.CommitInFlight 0).setCommit none

/-- At boundary F of an EDITION_ADOPT the staged edition becomes current as number M; a node in HELD with cause ResyncFailed
leaves HELD (R64). -/
def State.adoptDue (s : State) (n : Nat) : State :=
  match s.frm.adopt with
  | some (M, F) =>
    if n < F.toNat then s
    else
      let t := { s with frm := { s.frm with adopt := none } }.editionSwap M
      if t.fld FRM_STATUS.HeldCause = hcResyncFailed then t.leaveHeld else t
  | none => s

/-- REJOIN_BOUNDARY at Fj (R63, R372). -/
def State.rejoinDue (s : State) (n : Nat) : State :=
  match s.frm.rejoin with
  | some (M, F) =>
    if n < F.toNat then s
    else
      let t := { s with frm := { s.frm with rejoin := none } }
      if t.sched ≠ held ∨ t.fld FRM_STATUS.HeldCause = hcManagerFence ∨ t.fld FRM_STATUS.HeldCause = hcResyncFailed then t
      else
        let t := (t.logEvent 0x0613 (t.fld FAB_LEADER.LeaderId)
          (leBytes 4 (t.rd FAB_EPOCH).toNat ++ leBytes 8 n ++ leBytes 4 M.toNat)).raise FAB_IRQ_STATUS.Admitted
        if t.rd FRM_EDITION = M then t.leaveHeld
        else if t.rd FRM_STAGED = M then (t.editionSwap M).leaveHeld
        else (t.thaw.enterHeld hcResyncFailed).logEvent 0x0105 0
          (leBytes 4 (t.rd FRM_EDITION).toNat ++ leBytes 4 (t.rd FRM_STAGED).toNat ++ leBytes 4 M.toNat)
  | none => s

/-- The commit's deadlines at boundary `n`: ACK at F - 2G, GO at F - G, the final status at F + 2 (R56, R59, R61). -/
def State.commitDeadlines (s : State) (n : Nat) : State :=
  if !s.on FRM_STATUS.CommitInFlight then s
  else
    let G := s.commitGuard
    let t := if s.target ≤ n + 2 * G then s.commitCheck true else s.commitCheck false
    let t := t.when (t.on FRM_STATUS.CommitInFlight && t.target == n + G) (·.curEdge 3)
    let t := if t.on FRM_STATUS.CommitInFlight && decide (t.target ≤ n + G) && t.fld FRM_COMMIT.Phase == phPrepared &&
        !t.on FRM_COMMIT.IsCoordinator then t.goMissed else t
    if t.target + 2 ≤ n then t.commitFinal true else t

/-! ## The frame that ends (R39, R40, R119, R244) -/

/-- Engines that took, or were to take, the compute-start of frame `n`. -/
def State.frameEngines (s : State) (n : Nat) : List Nat :=
  s.imaged.filter (fun e => s.takesStart e &&
    ((s.port e).frame == n && (s.entryOf e).1 || (s.port e).deferred == some n))

/-- An engine that has not executed its frame-end instruction by the boundary (R40). -/
def State.overran (s : State) (e : Nat) : Bool :=
  let p := s.port e
  p.fend.isNone && !p.dead || p.deferred.isSome

/-- OVERRUN of engine `e` in frame `n` (R40, R224). -/
def State.overrun (s : State) (e n : Nat) : State :=
  let p := s.pair e
  let t := ((s.inc FRM_OVERRUN).logEvent 0x0101 (s.logical e) (leBytes 8 n)).raise FRM_IRQ_STATUS.Overrun
  let t := if p.report.isSome then (t.reportPair e 1 0xFFFFFFFF).heldOut else t
  let t := t.stopEngine e 3
  t.setPair e { t.pair e with fault := none, again := false, left := [], history := if p.report.isSome then [] else p.history }

/-- FRM_SLACK and FRM_SLACK_MIN for the frame that ended at boundary `n` (R39). -/
def State.slackUpdate (s : State) (n : Nat) (ends : List Nat) (over_ : Bool) : State :=
  let v := if over_ then 0 else ((ends.map (fun f => n * s.period - f)).min?).getD 0xFFFFFFFF
  let t := s.wr FRM_SLACK (BitVec.ofNat 32 (min v 0xFFFFFFFF))
  t.wr FRM_SLACK_MIN (BitVec.ofNat 32 (min (t.rd FRM_SLACK_MIN).toNat (min v 0xFFFFFFFF)))

/-- The pairs whose compute-start of frame `n` was delivered, or still waits; one demoted since is among them (R218). -/
def State.coveredPairs (s : State) (n : Nat) : List Nat :=
  s.imaged.filter (fun e => s.engineName e && ((s.port e).frame == n && (s.entryOf e).1 || (s.port e).deferred == some n))

/-- FLT_COVER of bay `b` at boundary `n`, for its pairs `es` of the frame: a pair whose compute-start never came, that was
demoted or whose journal overflowed has not met the slack condition (R218, R244). -/
def State.coverUpdate (s : State) (b n : Nat) (es : List Nat) : State :=
  let mine := es.filter (fun e => decide (e / 8 = b))
  if s.bayState b ≠ byRunning ∨ mine.isEmpty then
    ((s.setF (FLT_COVER.SlackOk b) 0).setF (FLT_COVER.JournalOverflow b) 0).setF (FLT_COVER.Compute b) 0
  else
    let started (e : Nat) : Bool := (s.port e).deferred.isNone
    let time (e : Nat) : Nat := match (s.port e).fend with
      | some f => f - (s.port e).start
      | none => n * s.period - (s.port e).start
    let ok (e : Nat) : Bool := match (s.port e).fend with
      | some f => started e && !s.demoted e && !(s.pair e).overflow && decide (time e + 1500 + f ≤ n * s.period)
      | none => false
    let longest := (((mine.filter started).map time).max?).getD 0
    ((s.setB (FLT_COVER.SlackOk b) (mine.all ok)).setB (FLT_COVER.JournalOverflow b) (mine.any (fun e => (s.pair e).overflow))).setF
      (FLT_COVER.Compute b) (min 0xFFFF (longest / 16))

/-- FLT_STATUS.Uncovered: a RUNNING Paired bay with SlackOk 0 or JournalOverflow 1, or a demoted logical engine without a carrier
that works: the spare pair that carried it may have been demoted too. -/
def State.uncoveredUpdate (s : State) : State :=
  let bare := (List.range 64).any (fun b => s.paired b && s.bayState b == byRunning &&
    (!s.on (FLT_COVER.SlackOk b) || s.on (FLT_COVER.JournalOverflow b)))
  let lone := (s.eng.images.map (·.1)).any (fun e => s.demoted e && !s.isSpare e &&
    !s.eng.moved.any (fun m => m.1 == e && !s.demoted m.2))
  let u := bare || lone
  (s.setB FLT_STATUS.Uncovered u).when (u && !s.on FLT_STATUS.Uncovered) (·.raise FLT_IRQ_STATUS.Uncovered)

/-- Pairs of bays in STOPPING whose rollback or re-execution runs at the boundary: it has overrun all the same (R104, R224). -/
def State.stoppedRecoveries (s : State) : List Nat :=
  (s.eng.pairs.map (·.1)).filter (fun e => s.bayState (e / 8) == byStopping && ((s.pair e).fault.isSome || (s.pair e).again))

/-- The frame last begun ends at boundary `n`, a step having jumped over the boundary that would have ended it: an engine still
at work has overrun, and nothing of the frame is staged or released (R27, R40). -/
def State.frameSkipped (s : State) : State :=
  let es := s.frameEngines s.frm.last
  let t := s.each (es.filter s.overran ++ s.stoppedRecoveries) (fun e t => t.overrun e s.frm.last)
  let t := t.each (t.eng.images.map (·.1)) (fun e t => t.migrateStart e)
  { (t.wr CAT_RELCOUNT 0#32) with
    cat := { t.cat with relCtx := [], read := [], unread := [], unsub := [], produced := [], hostOut := [] }, dma := { t.dma with outbound := [] },
    edg := { t.edg with staged := [], stagedFmt := [], due := [] }, eng := { t.eng with frameVotes := t.eng.frameVotes.filter t.dataInFlight, frameLate := t.eng.frameVotes.filter t.dataInFlight } }

/-- The frame `n - 1` ends at boundary `n`: overruns, slack, coverage, thresholds, the read of the outputs that
count, and migrations. -/
def State.frameEnds (s : State) (n : Nat) : State :=
  let es := s.frameEngines (n - 1)
  let cover := s.coveredPairs (n - 1)
  let over_ := es.filter s.overran ++ s.stoppedRecoveries
  let done := es.filter (fun e => (s.port e).fend.isSome && !(s.port e).dead && (s.port e).deferred.isNone)
  let t := s.slackUpdate n (done.filterMap (fun e => (s.port e).fend)) (!over_.isEmpty)
  let t := t.each (List.range 64) (fun b t => t.coverUpdate b n cover)
  let t := t.each over_ (fun e t => t.overrun e (n - 1))
  let t := (t.each es (fun e t => if t.inPair e then t.thresholdCheck e else t))
  -- the outputs of the frame are read before a migration gives its engines other carriers (R83, R227)
  let t := { t with cat := { t.cat with produced := done } }.releaseRead (n - 1)
  let t := (t.each (t.eng.images.map (·.1)) (fun e t => t.migrateStart e)).uncoveredUpdate
  { t with eng := { t.eng with frameVotes := t.eng.frameVotes.filter t.dataInFlight, frameLate := t.eng.frameVotes.filter t.dataInFlight } }

/-- Bays at a boundary: STARTING becomes RUNNING, its bins starting anew; STOPPING becomes LOADED (R103, R104, R146). -/
def State.baysTurn (s : State) : State :=
  s.each (List.range 64) (fun b t =>
    if t.bayState b = byStarting then
      let u := (t.setF (ENG_BAY_STATUS.State b) byRunning).each (List.range 32) (fun k u => u.restartBin b k)
      -- its engines wait for compute-start (R120, R153)
      u.each ((bayEngines b).filter u.takesStart) (fun e u => u.each (u.cores e) (fun c u =>
        (u.setLevel c 1).setF (ENG_E_STATUS.HaltCause c) 0))
    else if t.bayState b = byStopping then (t.haltBay b).setF (ENG_BAY_STATUS.State b) byLoaded
    else t)

/-- The frame `n` begins: its inputs are pre-filled, with the lookups that takes, and nothing of it has happened (R81,
R92). -/
def State.frameBegins (s : State) (n : Nat) : State :=
  let t := { s with
    cat := { s.cat with off := [], taken := [], busy := 0, sent := [] },
    frm := { s.frm with gathered := false, computed := false, voted := false } }
  (t.meetAll t.catIds).prefill n

/-- What boundary `n` does to what went before: the frame n - 1 ends, or frames were skipped, or this is the entry to RUN, before
which nothing was released. -/
def State.frameBefore (s0 : State) (n : Nat) (entry : Bool) : State :=
  let s := if entry then s0.setF FRM_STATUS.State run else if s0.frm.last + 1 = n then s0.frameEnds n else s0.frameSkipped
  let s := s.wr CAT_INGRESS (BitVec.ofNat 32 s.cat.busy)
  if entry then { (s.wr CAT_RELCOUNT 0#32) with
      cat := { s.cat with relCtx := [], read := [], unread := [], unsub := [], waiting := [], produced := [], last := [] },
      dma := { s.dma with outbound := [] }, edg := { s.edg with due := [], released := false } }
  else if s.frm.last + 1 = n then s.chansHold.edgeBoundary else s

/-- Boundary `n` is passed: what the release at n + 200 ns is to give still belongs to the edition before it. -/
def State.boundaryPassed (s : State) (n : Nat) : State :=
  let t := if s.frm.firstFrame then { s with frm := { s.frm with firstFrame := false } }.setF FRM_STATUS.FirstFrameDone 1 else s
  { t with frm := { t.frm with last := n, lastAt := n * t.period, released := false, stopHeld := false, jump := 0 } }

/-- The commits, adopts and rejoins due at boundary `n` act, and with them the latches (R58, R64, R373). -/
def State.boundaryActs (s : State) (n : Nat) : State :=
  let t := ((((s.commitDeadlines n).swapDue n).adoptDue n).rejoinDue n).setF FRM_STATUS.InGuardWindow 0
  if t.on FRM_STATUS.StagedFrozen then t else t.latchesEnter

/-- BOUNDARY n (R29): the frame before it ends, commits and editions act, the scheduler enters RUN or STOPPED, and the
frame n begins. -/
def State.boundary (s0 : State) : State :=
  let n := s0.nextBoundary
  let entry := s0.sched == armed
  let s := (((s0.atLeast (n * s0.period)).frameBefore n entry).boundaryPassed n).boundaryActs n
  let s := ((s.baysTurn).allBaysEdge 10).curEdge 2
  let s := match entry, s.standingCause with
    | true, some c => s.enterHeld c
    | _, _ => s
  if s.frm.stopping then s.enterStopped else s.frameBegins n

/-- BOUNDARY: the events of its cycle are written in ascending Event code (R241). -/
def execBoundary (s : State) : Result :=
  .next (if !s.running && s.sched != armed then s else s.inOneCycle State.boundary)

/-! ## The phases of a frame (R36, R37, R120) -/

/-- GATHER_END: absent sources are judged and the phasor units of running bays with enabled bins begin (R82, R144). -/
def execGatherEnd (s : State) : Result :=
  .next (
    if !s.running || s.frm.gathered then s
    else
      let t := (s.atLeast (s.frm.last * s.period + s.fld FRM_GATHER.Offset)).absentCheck
      let u := t.each ((List.range 64).filter (fun b => t.bayState b == byRunning)) (fun b t => t.gatherBins b t.frm.last)
      { u with frm := { u.frm with gathered := true } }.allBaysEdge 9)

/-- The bays with a running image hold the frame scheduler's vote. -/
def State.preVote (s : State) : State :=
  let bays := (List.range 64).filter (fun b => s.bayRuns b)
  { s with frm := { s.frm with voted := true } }.each bays (fun b t => t.placeFrameVote b)

/-- PRE_VOTE. -/
def execPreVote (s : State) : Result :=
  .next (if !s.running || s.frm.voted then s
    else (s.atLeast (s.frm.last * s.period + (s.fld FRM_COMPUTE.Offset - s.fld FRM_PREWAKE.Offset))).preVote)

/-- COMPUTE_START of the current frame at every engine of the running bays. -/
def execComputeStart (s : State) : Result :=
  .next (
    if !s.running || s.frm.computed then s
    else
      let t := s.atLeast (s.frm.last * s.period + s.fld FRM_COMPUTE.Offset)
      let t := if t.frm.voted then t else t.preVote
      let u := { t with frm := { t.frm with computed := true } }
      let u := u.each u.imaged (fun e u => u.computeStart e u.frm.last)
      u.each (List.range 64) (fun b u => if (bayEngines b).any (fun e => (u.port e).deferred.isSome) then u else u.dropFrameVote b))

/-- RELEASE of frame n - 1 at boundary n + 200 ns: the first one after a swap to a non-zero edition ends FuseMode (R38, R83,
R272). -/
def execRelease (s : State) : Result :=
  .next (
    if s.frm.released || s.releaseWaits (s.frm.last - 1) then s
    else
      let at_ := s.frm.last * s.period + 200
      let t : State := { (s.atLeast at_) with frm := { s.frm with released := true } }
      let t := t.readLate (t.frm.last - 1)
      let t : State := (t.releaseFrame (t.frm.last - 1)).chansOut (t.frm.last - 1)
      let t := if t.on EDG_STATUS.FuseMode && t.rd FRM_EDITION != 0#32 then t.setF EDG_STATUS.FuseMode 0 else t
      -- the ingress work that has waited since the boundary resumes (R91)
      State.ingressDrain t.cat.waiting.length (t.edgeRelease at_))

/-! ## EDITION_REVERT (R66) -/

/-- The channel shadows and the staged shares become copies of the current ones. -/
def State.revertDma (s : State) : State :=
  let t := s.each (List.range 64) (fun j t =>
    (t.writeShadow (DMA_CH_CFG j) (t.rd (DMA_CH_ACFG j))).writeShadow (DMA_CH_BLK j) (t.rd (DMA_CH_ABLK j)))
  t.each (manager :: (List.range 256).filter (fun c => s.on (CRL_STATE.Exists c))) (fun o t => t.setF (shareStaged o) (t.fld (shareCur o)))

/-- EDITION_REVERT: everything but the parameter blocks at once; the copy of those begins.  While CopyBusy is 1 every Pending
context is already current, and nothing else is staged (R94). -/
def execEditionRevert (h : SlipHdr) (s : State) : Result :=
  .next (s.runSlip h 0x0114 .none (fun s =>
    if s.on FRM_STATUS.StagedFrozen then refuse s stStageFrozen
    else
      let t := (if s.on CAT_STATUS.CopyBusy then s else s.unstageAll).revertEdge.revertDma
      ({ t with eng := { t.eng with copying := true } }, okAns)))

end Sys2Proof.Machine
end

