-- ==== Sys2Proof/Machine/Opcodes.lean ====
section
/-! DEFINITION. Machine/Opcodes.lean: the opcode reference (R502 to R511): opcode, mnemonic, parameter length and the
parameter bytes that are 0. -/

namespace Sys2Proof.Machine

/-- A row of the opcode reference: L lies in `lo` to `hi`, and the parameter bytes at `zero` are 0 (R483, R502). -/
structure OpRow where
  op : Nat
  name : String
  lo : Nat
  hi : Nat
  zero : List Nat
deriving DecidableEq, Repr

/-- Opcodes 0x0000 to 0x00FF. -/
def opRows0 : List OpRow := [
  ⟨0x0000, "DEV_INFO", 0, 0, []⟩,
  ⟨0x0001, "DEV_SERIAL", 0, 0, []⟩,
  ⟨0x0002, "FW_INFO", 0, 0, []⟩,
  ⟨0x0003, "ECHO", 0, 20, []⟩,
  ⟨0x0004, "CMD_INFO", 0, 0, []⟩,
  ⟨0x0005, "CMD_CONFIG", 12, 12, [1, 2, 3]⟩]

/-- Opcodes 0x0100 to 0x01FF. -/
def opRows1 : List OpRow := [
  ⟨0x0100, "FRAME_INFO", 0, 0, []⟩,
  ⟨0x0101, "FRAME_CONFIG", 25, 25, []⟩,
  ⟨0x0102, "FRAME_START", 8, 8, []⟩,
  ⟨0x0103, "FRAME_STOP", 0, 0, []⟩,
  ⟨0x0110, "EDITION_INFO", 0, 0, []⟩,
  ⟨0x0111, "EDITION_COMMIT", 16, 16, [1, 2, 3]⟩,
  ⟨0x0112, "EDITION_ABORT", 0, 0, []⟩,
  ⟨0x0113, "EDITION_ADOPT", 12, 12, []⟩,
  ⟨0x0114, "EDITION_REVERT", 0, 0, []⟩]

/-- Opcodes 0x0200 to 0x02FF. -/
def opRows2 : List OpRow := [
  ⟨0x0200, "CAT_INFO", 0, 0, []⟩,
  ⟨0x0201, "CAT_READ", 4, 4, []⟩,
  ⟨0x0202, "CAT_STAGE", 32, 32, [2, 3]⟩,
  ⟨0x0203, "CAT_STAGE_DISABLE", 4, 4, []⟩,
  ⟨0x0204, "CAT_UNSTAGE", 2, 2, []⟩,
  ⟨0x0205, "CAT_CLEAR_STATUS", 6, 6, []⟩,
  ⟨0x0206, "CAT_CHECK", 0, 0, []⟩,
  ⟨0x0207, "CAT_EVENT_READ", 0, 0, []⟩]

/-- Opcodes 0x0300 to 0x03FF. -/
def opRows3 : List OpRow := [
  ⟨0x0300, "ENG_INFO", 0, 0, []⟩,
  ⟨0x0301, "ENG_BAY_CONFIG", 4, 4, []⟩,
  ⟨0x0302, "ENG_IMAGE_LOAD", 8, 8, [2, 3]⟩,
  ⟨0x0303, "ENG_BAY_START", 1, 1, []⟩,
  ⟨0x0304, "ENG_BAY_STOP", 1, 1, []⟩,
  ⟨0x0305, "ENG_PARAM_STAGE", 8, 48, []⟩,
  ⟨0x0306, "ENG_PARAM_READ", 5, 5, []⟩,
  ⟨0x0307, "ENG_STATUS", 2, 2, []⟩]

/-- Opcodes 0x0400 to 0x04FF. -/
def opRows4 : List OpRow := [
  ⟨0x0400, "STK_INFO", 0, 0, []⟩,
  ⟨0x0401, "STK_BANK_STATUS", 1, 1, []⟩,
  ⟨0x0402, "STK_BANK_SCRUB", 2, 2, []⟩,
  ⟨0x0403, "STK_BANK_POWER", 2, 2, []⟩,
  ⟨0x0404, "STK_RETAIN_SET", 12, 12, []⟩,
  ⟨0x0405, "STK_ACL_SET", 4, 4, []⟩,
  ⟨0x0406, "STK_SPILL_SET", 6, 6, [1]⟩]

/-- Opcodes 0x0500 to 0x05FF. -/
def opRows5 : List OpRow := [
  ⟨0x0500, "EDG_INFO", 0, 0, []⟩,
  ⟨0x0501, "EDG_MCLK_CONFIG", 3, 3, []⟩,
  ⟨0x0502, "EDG_MOD_CONFIG", 8, 8, [1, 2, 3]⟩,
  ⟨0x0503, "EDG_TRIP_CONFIG", 16, 16, [1, 2, 3]⟩,
  ⟨0x0504, "EDG_ILK_CONFIG", 8, 8, [1, 2, 3]⟩,
  ⟨0x0505, "EDG_POL_SET", 6, 6, []⟩,
  ⟨0x0506, "EDG_PAIR_STAGE", 12, 12, [1, 2, 3]⟩,
  ⟨0x0507, "EDG_AUX_STAGE", 8, 8, []⟩,
  ⟨0x0508, "EDG_AUX_DIR_SET", 4, 4, []⟩,
  ⟨0x0509, "EDG_TRIP_CLEAR", 8, 8, [1, 2, 3]⟩,
  ⟨0x050A, "EDG_HOLD_RELEASE", 0, 0, []⟩,
  ⟨0x050B, "EDG_HOLD_ASSERT", 0, 0, []⟩]

/-- Opcodes 0x0600 to 0x06FF. -/
def opRows6 : List OpRow := [
  ⟨0x0600, "LINK_INFO", 1, 1, []⟩,
  ⟨0x0601, "LINK_PORT_SPLIT", 2, 2, []⟩,
  ⟨0x0602, "LINK_CONFIG", 20, 20, [1, 2, 3]⟩,
  ⟨0x0603, "LINK_ENABLE", 3, 3, []⟩,
  ⟨0x0604, "LINK_WIDTH", 2, 2, []⟩,
  ⟨0x0605, "LINK_RETRAIN", 1, 1, []⟩,
  ⟨0x0606, "LINK_COUNTERS", 2, 2, []⟩,
  ⟨0x0610, "FAB_INFO", 0, 0, []⟩,
  ⟨0x0611, "FAB_ROUTE_SET", 4, 52, [3]⟩,
  ⟨0x0612, "FAB_ROUTE_READ", 2, 2, []⟩,
  ⟨0x0613, "FAB_CONFIG", 16, 16, []⟩,
  ⟨0x0614, "FAB_FORM_SET", 36, 36, [1, 2, 3]⟩,
  ⟨0x0615, "FAB_RWIN_SET", 8, 8, [1, 2, 3]⟩,
  ⟨0x0616, "FAB_MEMBER_READ", 2, 2, []⟩,
  ⟨0x0617, "FAB_TIME_INFO", 0, 0, []⟩,
  ⟨0x0618, "FAB_FENCE", 0, 0, []⟩,
  ⟨0x0619, "FAB_UNFENCE", 0, 0, []⟩,
  ⟨0x061A, "FAB_SLOT", 3, 3, []⟩,
  ⟨0x0680, "LANE_INFO", 1, 1, []⟩,
  ⟨0x0681, "LANE_CONFIG", 12, 12, [1, 2, 3]⟩,
  ⟨0x0682, "LANE_RATE", 2, 2, []⟩,
  ⟨0x0683, "LANE_PRBS", 8, 8, [1, 2, 3]⟩,
  ⟨0x0684, "LANE_PRBS_READ", 1, 1, []⟩,
  ⟨0x0685, "LANE_MARGIN", 5, 5, []⟩]

/-- Opcodes 0x0700 to 0x07FF. -/
def opRows7 : List OpRow := [
  ⟨0x0700, "HOST_INFO", 0, 0, []⟩,
  ⟨0x0701, "WIN_STAGE", 12, 12, [2, 3]⟩,
  ⟨0x0702, "WIN_COMMIT", 0, 0, []⟩,
  ⟨0x0703, "WIN_REVERT", 0, 0, []⟩,
  ⟨0x0704, "WIN_READ", 3, 3, []⟩,
  ⟨0x0705, "HOST_COUNTERS", 0, 0, []⟩,
  ⟨0x0710, "CARREL_CREATE", 10, 10, []⟩,
  ⟨0x0711, "CARREL_DESTROY", 2, 2, []⟩,
  ⟨0x0712, "CARREL_RESET", 2, 2, []⟩,
  ⟨0x0713, "CARREL_SHARE", 4, 4, []⟩,
  ⟨0x0714, "CARREL_INFO", 2, 2, []⟩,
  ⟨0x0715, "RING_CONFIG", 16, 16, [7]⟩,
  ⟨0x0716, "RING_RELEASE", 2, 2, []⟩,
  ⟨0x0717, "RING_INFO", 2, 2, []⟩,
  ⟨0x0718, "CHAN_STAGE", 12, 12, [1, 2, 3]⟩,
  ⟨0x0719, "DMA_INFO", 0, 0, []⟩]

/-- Opcodes 0x0800 to 0x08FF. -/
def opRows8 : List OpRow := [
  ⟨0x0800, "PWR_INFO", 0, 0, []⟩,
  ⟨0x0801, "PWR_DOMAIN_READ", 1, 1, []⟩,
  ⟨0x0802, "PWR_HOLD", 2, 2, []⟩,
  ⟨0x0803, "PWR_SLEEP", 8, 8, [1, 2, 3]⟩,
  ⟨0x0804, "AO_TIMER_SET", 4, 4, []⟩,
  ⟨0x0805, "WDT_CONFIG", 5, 5, []⟩,
  ⟨0x0806, "WDT_KICK", 0, 0, []⟩,
  ⟨0x0807, "RST_REQUEST", 8, 8, [1, 2, 3]⟩,
  ⟨0x0808, "RST_CAUSE", 0, 0, []⟩,
  ⟨0x0809, "BACKUP_READ", 1, 1, []⟩,
  ⟨0x080A, "BACKUP_WRITE", 8, 8, [1, 2, 3]⟩,
  ⟨0x080B, "RETAINED_READ", 2, 2, []⟩,
  ⟨0x080C, "RETAINED_WRITE", 20, 20, [2, 3]⟩,
  ⟨0x080D, "OPT_READ", 2, 2, []⟩]

/-- Opcodes 0x0900 to 0x09FF. -/
def opRows9 : List OpRow := [
  ⟨0x0900, "MNT_INFO", 0, 0, []⟩,
  ⟨0x0901, "BIST_RUN", 8, 8, [1]⟩,
  ⟨0x0902, "BIST_RESULT", 1, 1, []⟩,
  ⟨0x0903, "AMON_SELECT", 2, 2, []⟩,
  ⟨0x0904, "FMON_SELECT", 4, 4, []⟩,
  ⟨0x0905, "LED_SET", 2, 2, []⟩,
  ⟨0x0906, "CONSOLE_CONFIG", 5, 5, []⟩,
  ⟨0x0907, "FUSE_READ", 2, 2, []⟩,
  ⟨0x0908, "FUSE_PROGRAM", 12, 12, [2, 3]⟩,
  ⟨0x0909, "FLASH_WRITE", 12, 12, []⟩,
  ⟨0x090A, "FLASH_VERIFY", 1, 1, []⟩]

/-- Opcodes 0x0A00 to 0x0AFF. -/
def opRowsA : List OpRow := [
  ⟨0x0A00, "LOG_INFO", 0, 0, []⟩,
  ⟨0x0A01, "LOG_READ", 3, 3, []⟩,
  ⟨0x0A02, "LOG_COPY", 8, 8, []⟩,
  ⟨0x0A10, "FLT_INFO", 0, 0, []⟩]

/-- The opcode reference. -/
def opRows : List OpRow := opRows0 ++ opRows1 ++ opRows2 ++ opRows3 ++ opRows4 ++ opRows5 ++ opRows6 ++ opRows7 ++ opRows8 ++ opRows9 ++ opRowsA

/-- The row of an opcode. -/
def opRow (op : Nat) : Option OpRow := opRows.find? (fun r => r.op == op)

/-- The opcode of a mnemonic. -/
def opNamed (name : String) : Option Nat := (opRows.find? (fun r => r.name == name)).map (·.op)

end Sys2Proof.Machine
end

