-- ==== Sys2Proof/Machine/Bist.lean ====
section
/-! DEFINITION. Machine/Bist.lean: what a built-in self-test holds, requires and leaves (R510, R563, R564); its commands are in
SelfTest.lean. -/

namespace Sys2Proof.Machine

/-- The unit a self-test holds busy (R563, R564). -/
def bistUnit (test unit : Nat) : BusyUnit :=
  let all := unit == 0xFFFF
  match test with
  | 3 => if all then .banks else .bank unit
  | 4 => .bank unit
  | 5 => if all then .bays else .bay unit
  | 6 => if all then .lanes else .lane unit
  | 0xF0 => .banks
  | _ => .none

/-- The test code is in the table, the unit is one the test names, and the options are those it takes (R563). -/
def bistValid (test unit options : Nat) : Bool :=
  let opts := if test = 6 then options == 0 || (decide (20 ≤ options) && decide (options ≤ 40)) else options == 0
  let unitOk := match test with
    | 3 => unit == 0xFFFF || (decide (2 ≤ unit) && decide (unit ≤ 95))
    | 4 => decide (2 ≤ unit) && decide (unit ≤ 95)
    | 5 => unit == 0xFFFF || decide (unit ≤ 63)
    | 6 => unit == 0xFFFF || decide (unit ≤ 63)
    | _ => unit == 0xFFFF
  ((decide (1 ≤ test) && decide (test ≤ 0x0A)) || test == 0xF0) && unitOk && opts

/-- The state the test requires of the node (R563); for EDGE both STOPPED and HOLD_N asserted. -/
def State.bistState (s : State) (test : Nat) : Bool :=
  match test with
  | 4 => s.sched == stopped
  | 7 => s.sched == stopped && s.holdAsserted
  | _ => true

/-- Why a named unit keeps the test from running: 0 nothing, 1 it is not in the required condition, 2 STK_INJECT is armed
(R563, R564). -/
def State.bistBars (s : State) (test unit : Nat) : Nat :=
  if test = 3 ∧ s.on STK_INJECT.Armed then 2
  else if unit = 0xFFFF then 0
  else
    let ok := match test with
      | 3 => s.bankState unit == bkOn
      | 4 => s.bankState unit == bkOn
      | 5 => s.bayState unit == 0
      | 6 => if unit < 16 then !s.laneBusy unit else s.laneState unit == lnDisabled
      | _ => true
    if ok then 0 else 1

/-- The result of a self-test (R510). -/
def BistRun.bytes (r : BistRun) : List Byte :=
  leBytes 1 r.outcome ++ [0#8] ++ leBytes 2 r.unit ++ leBytes 4 r.detail.toNat ++ leBytes 4 r.duration.toNat

/-- A self-test ends: what it leaves in its unit, MNT_BIST, BIST_DONE, the kept result and the final return slip (R563,
R564).  A CURATOR fail that names a core fences it (R237). -/
def State.bistEnd (s : State) (g : Background) (test unit : Nat) (r : BistRun) : State :=
  let s := { s with cmd := { s.cmd with background := s.cmd.background.erase g } }
  let s := if test = 4 ∧ r.outcome ≠ 2 ∨ test = 4 ∧ r.detail = 0xFF#32 then s.zeroBank unit else s
  let core := r.detail.toNat % 256
  let curator := test == 1 || (test == 0xF0 && r.detail.toNat / 2 ^ 24 == 1)
  let s := if curator ∧ r.outcome = 1 ∧ core < 2 then (s.fenceCore core).logEvent 0x0A03 core [] else s
  let s := { s with mnt := { s.mnt with runs := tset (fun _ => none) s.mnt.runs test (some r) } }
  let s := ((s.setF MNT_BIST.Test test).setF MNT_BIST.Outcome r.outcome).setF MNT_BIST.Unit r.unit
  let s := (s.raise MNT_IRQ_STATUS.BistDone).logEvent 0x0901 test
    (leBytes 2 r.outcome ++ leBytes 2 r.unit ++ leBytes 4 r.detail.toNat ++ leBytes 4 r.duration.toNat)
  s.finishBackground g (if r.outcome = 1 then stBistFailed else stOk) r.bytes

/-- The self-tests running, with their test codes and units. -/
def State.bistsRunning (s : State) : List (Background × Nat × Nat) :=
  s.cmd.background.filterMap (fun g => match g.cmd with
    | .bist t u _ => some (g, t, u)
    | _ => none)

/-- PFAIL_N ends every test at once with outcome 2 and detail 0xFF (R564); the duration is a free value. -/
def State.bistsPfail (s : State) : State :=
  s.each s.bistsRunning (fun x t =>
    let d := t.takeFree
    d.2.bistEnd x.1 x.2.1 x.2.2 ⟨2, x.2.2, 0xFF#32, d.1⟩)

end Sys2Proof.Machine
end

