-- ==== Sys2Proof/Machine/Reset.lean ====
section
/-! DEFINITION. Machine/Reset.lean: supplies, clocks, reset sources and episodes, start-up, deep sleep, PFAIL_N, the
watchdog and the commands of the power and reset group (R206, R207, R509, R514 to R547, R590). -/

namespace Sys2Proof.Machine

/-! ## What a reset does (R7, R17, R533) -/

/-- The source bits of R532. -/
abbrev srcPowerOn : Nat := 0
abbrev srcBrownAon : Nat := 1
abbrev srcBrownCore : Nat := 2
abbrev srcResetPin : Nat := 3
abbrev srcWatchdog : Nat := 4
abbrev srcSoftWarm : Nat := 5
abbrev srcSoftSystem : Nat := 6
abbrev srcDebug : Nat := 7
abbrev srcClockFail : Nat := 8
abbrev srcLockup : Nat := 9
abbrev srcSleepWake : Nat := 10

/-- The reaches: Cold 0, System 1, Warm 2. -/
abbrev reachCold : Nat := 0
abbrev reachSystem : Nat := 1
abbrev reachWarm : Nat := 2

/-- Does a reset of `reach` return the register at key `a` to its Reset column (R7)? -/
def resetReaches (reach a : Nat) : Bool :=
  match regRow a with
  | none => true
  | some r => match r.cls with
    | .cold => reach == reachCold
    | .system => decide (reach ≤ reachSystem)
    | _ => true

/-- EDG_ILK and EDG_POL, whose latches outlast a reset with VDD_CORE good (R255). -/
def isIlkConfig (a : Nat) : Bool := a == EDG_POL_LO || a == EDG_POL_HI || (decide (EDG_ILK 0 ≤ a) && decide (a < EDG_ILK 8))

/-- A field of `from_` carried over. -/
def State.keepF (s : State) (from_ : State) (f : Fld) : State := s.setF f (from_.fld f)

/-- The registers after a reset of `reach`: their Reset values where it reaches, and the status fields that show what no
reset changes: the domains' states, the pins and the supplies (R518, R519, R544, R546). -/
def State.regsReset (s : State) (reach : Nat) : State :=
  let t := { s with regs := s.regs.filter (fun p => !resetReaches reach p.1 || (s.edg.ilkLoaded && isIlkConfig p.1)) }
  let t := t.each (List.range 96) (fun d t => t.keepF s (PWR_DOM.State d))
  let t := t.each (List.range 64) (fun b t => t.keepF s (ENG_BAY_STATUS.Power b))
  let t := ((t.keepF s HPT_STATUS.Perst).keepF s PWR_STATUS.Pfail).keepF s PWR_STATUS.CoreGood
  let t := ((t.keepF s PWR_STATUS.SramGood).keepF s PWR_CLK.RefSysOk).keepF s PWR_CLK.RefHostOk
  ((t.setF PWR_STATUS.Standby 0).setF PWR_STATUS.Entering 0).setB EDG_STATUS.Pfail (s.on PWR_STATUS.Pfail)

/-- The FRM block at a Warm reset (R68). -/
def State.framesWarm (s : State) : State :=
  let t := ((((s.setF FRM_STATUS.State stopped).wr FRM_EDITION 0#32).wr FRM_STAGED 1#32).wr FRM_COMMIT 0#32).setF FRM_STATUS.HeldCause 0
  let t := ((t.setF FRM_STATUS.FirstFrameDone 0).setF FRM_STATUS.CommitInFlight 0).setF FRM_STATUS.StagedFrozen 0
  ((t.setF FRM_STATUS.SwapArmed 0).setF FRM_STATUS.InGuardWindow 0).setF FRM_STATUS.TimeLocked 0

/-- Copy-in runs to its end, then every staged change no swap had made current is dropped (R95). -/
def State.catalogueWarm (s : State) : State :=
  let t := if s.on CAT_STATUS.CopyBusy then (s.each s.pendingIds (fun id t => t.copyIn id)).copyInEnd else s
  t.unstageAll

/-- Buffered stores of the engines (R133). -/
def State.bufferedStores (s : State) : Nat := ((s.eng.ports.filter (fun p => decide (p.1 < 512))).map (fun p => p.2.sb.length)).sum

/-- What the units hold beside their registers after a reset of `reach`.  Stacks and catalogue keep their contents through
a Warm reset (R34, R210), and STIME runs on through it (R68); the flash, the fuses, the pins and what has left the bridge are beyond any reset. -/
def State.unitsReset (s : State) (reach : Nat) : State :=
  let z := State.reset
  let warm := reach == reachWarm
  { s with
    time := if warm then { s.time with step := none } else z.time, hiLatch := [],
    frm := { z.frm with last := if warm then s.frm.last else 0, lastAt := if warm then s.frm.lastAt else 0,
                        lastCommitId := if warm then s.frm.lastCommitId else 0#32, targetId := if warm then s.frm.targetId else 0#32 },
    irq := z.irq, log := z.log, fab := z.fab, dma := z.dma, lanes := [], links := [], cmd := z.cmd, rem := z.rem,
    host := { z.host with sent := s.host.sent, perstTicks := s.host.perstTicks, nextRead := s.host.nextRead },
    mnt := { z.mnt with tx := s.mnt.tx, seq := s.mnt.seq, m2wPtr := s.mnt.m2wPtr, m2wOut := s.mnt.m2wOut, tap := s.mnt.tap },
    boot := { z.boot with flash := s.boot.flash, otp := s.boot.otp, fuses := s.boot.fuses, folio := s.boot.folio },
    stk := if warm then { s.stk with waiting := [], reply := none } else z.stk,
    cat := if warm then { z.cat with mem := s.cat.mem, bad := s.cat.bad, events := s.cat.events, overflow := s.cat.overflow } else z.cat,
    eng := { z.eng with sram := s.eng.sram },
    pwr := { z.pwr with inrush := s.pwr.inrush, granted := s.pwr.granted },
    edg := { z.edg with ilkLoaded := s.edg.ilkLoaded, ilkPins := s.edg.ilkPins, ilkFor := s.edg.ilkFor } }

/-- The copies that fuse sensing made: serial number and DebugUnlock (R537, R539). -/
def State.fuseCopies (s : State) : State :=
  let w := tget (fun _ => 0#32) s.boot.fuses
  let dbg := (w 0x406).getLsbD 1
  (((s.wr DEV_SERIAL_LO (w 0x418)).wr DEV_SERIAL_HI (w 0x419)).setB RST_STATUS.DebugUnlocked dbg).setB MNT_STATUS.DebugUnlocked dbg

/-- Everything a reset of `reach` returns to its Reset value: units and registers, with ENG_WBDISCARD written at a Warm
reset (R133), the console in its mode after reset (R550) and active interlock inputs latched again (R255). -/
def State.resetBody (s : State) (reach : Nat) : State :=
  let n := s.bufferedStores
  let t := s.setF RST_STATUS.BootState 0
  let t := if reach = reachWarm then t.catalogueWarm.framesWarm else t
  let t := (t.unitsReset reach).regsReset reach
  -- a further source of the episode finds the buffers empty and the count of its first (R133, R590)
  let t := t.when (reach == reachWarm) (·.setF ENG_WBDISCARD.Count (if s.rst.phase = .none then n else s.fld ENG_WBDISCARD.Count + n))
  let t := t.each (List.range 64) (fun b t => t.when (t.on (ENG_BAY_CFG.SpareEn b)) (·.markSpare b))
  let t := ((t.fuseCopies).setF MNT_STATUS.ConsoleMode (t.fld MNT_CONSOLE.ModeAfterReset)).setPort curator { Port.zero with start := t.now, clock := t.time.local_ }
  t.ilkRefresh

/-! ## Episodes (R532 to R534) -/

/-- RESET_ASSERT: source `src` asserts a reset of `reach`: it begins an episode or joins the one in progress, whose
sequencing then starts again.  Deep sleep ends (R526); a PFAIL sequence or a sealing under way ends only at System reach or
wider (R531). -/
def State.assertReset (s : State) (src reach : Nat) : State :=
  let r := s.rst
  let fresh := r.phase == .none
  let sealing := r.stage == .pfailDrain || r.stage == .sealing || r.stage == .sealingLow
  let asleep := r.stage == .asleep
  let go := sealing && reach == reachWarm
  let t := s.resetBody reach
  { t with rst := { r with
      asserted := addOnce (if asleep then r.asserted.erase srcSleepWake else r.asserted) src,
      seen := if fresh then [src] else addOnce r.seen src,
      reach := if fresh then reach else min r.reach reach,
      phase := .asserted,
      ticks := if fresh then 0 else r.ticks,
      restarts := if fresh then 0 else if r.phase == .asserted then r.restarts else r.restarts + 1,
      solo := none, wakeNow := [],
      stage := if go then r.stage else .awake,
      pfail := go && r.pfail, entry := false, toSeal := if go then r.toSeal else [],
      xtalFallen := r.xtalFallen && reach == reachWarm,
      slept := if fresh then false else r.slept, woke := if fresh then none else r.woke } }

/-- A condition that asserted source `src` has ended. -/
def State.sourceEnds (s : State) (src : Nat) : State := { s with rst := { s.rst with asserted := s.rst.asserted.erase src } }

/-- The sources that release by themselves after 10 ticks (R532). -/
def timedSources : List Nat := [0, 4, 5, 6, 7, 9]

/-- The domains power up through the inrush sequencer, PMGR among them after a Cold reset (R521, R542). -/
def State.powerDomains (s : State) : State :=
  let off := (List.range 20).filter (fun d => decide (1 ≤ d) && s.fld (PWR_DOM.State d) == domOff && !s.pwr.inrush.any (fun x => x.1 == d))
  { s with pwr := { s.pwr with inrush := s.pwr.inrush ++ off.map (fun d => (d, false)) } }

/-- Power to the body is lost: every domain but AON and PMGR is off (R518, R524). -/
def State.bodyOff (s : State) : State :=
  { (s.each ((List.range 96).filter (fun d => decide (2 ≤ d))) (fun d t => t.setDom d domOff)) with
    pwr := { s.pwr with inrush := [], granted := [] } }

/-- RESET_RELEASE: 2 ticks after the last source releases, release sequencing begins (R534, R542, R544): a Cold episode with
fuse sensing, one after deep sleep with Core good, a System one with the PLL, a Warm one with option loading. -/
def execResetRelease (s : State) : Result :=
  .next (if s.rst.phase ≠ .asserted ∨ s.rst.asserted.any (fun x => !timedSources.contains x) then s
    else
      let cores := s.on PWR_STATUS.CoreGood && s.on PWR_STATUS.SramGood
      let p : StartPhase := if s.rst.reach = reachCold then .fuses
        else if !cores then .core
        else if s.rst.slept || s.rst.reach == reachSystem then .pll else .options
      { s with rst := { s.rst with asserted := [], phase := p } })

/-! ## Supplies (R514) -/

/-- A supply's number in the order of R514. -/
def supplyNum : Supply → Nat
  | .aon => 0
  | .core => 1
  | .sram => 2
  | .lane => 3
  | .io => 4
  | .edge => 5
  | .vpp => 6

/-- A supply in or out of its range. -/
def State.setSupply (s : State) (n : Nat) (low : Bool) : State :=
  { s with rst := { s.rst with low := if low then addOnce s.rst.low n else s.rst.low.erase n } }

/-- A Cold start: everything at its reset value but what lies outside the bridge or cannot be changed: flash, OTP, pins and
supplies, and the outputs already given. -/
def State.coldStart (s : State) : State :=
  let z := State.reset
  let t := { z with
    pending := s.pending, free := s.free,
    host := { z.host with sent := s.host.sent }, mnt := { z.mnt with tx := s.mnt.tx, tap := s.mnt.tap },
    boot := { z.boot with flash := s.boot.flash, otp := s.boot.otp },
    edg := { z.edg with ilkPins := s.edg.ilkPins, ilkFor := s.edg.ilkFor },
    rst := { z.rst with low := s.rst.low } }
  (((t.keepF s HPT_STATUS.Perst).keepF s PWR_CLK.RefHostOk).keepF s PWR_CLK.RefSysOk)

/-- VDD_AON rises to good: a Cold episode of source PowerOn, its start-up at fuse sensing; after a brown-out it joins the episode
that the brown-out began (R532, R534, R542). -/
def State.aonGood (s : State) : State :=
  let t := (s.setSupply 0 false).coldStart
  if s.supplied 0 then t
  else { t with rst := { t.rst with seen := addOnce s.rst.seen srcPowerOn, ticks := s.rst.ticks, restarts := s.rst.restarts } }

/-- POWER_ON (R542). -/
def execPowerOn (s : State) : Result := .next s.aonGood

/-- The serial lanes lose their supply (R514): inoperative until it returns. -/
def State.lanesDark (s : State) : State :=
  s.each (List.range 64) (fun n t => t.signalLost n false)

/-- BROWN_OUT: a supply falls below its threshold (`low`) or returns (R514, R532).  VDD_CORE is absent by intent in deep
sleep. -/
def execBrownOut (supply : Supply) (low : Bool) (s : State) : Result :=
  let t := s.setSupply (supplyNum supply) low
  .next (match supply, low with
    | .aon, true => { (t.coldStart) with rst := { (t.coldStart).rst with asserted := [srcBrownAon], seen := [srcBrownAon], phase := .asserted } }
    | .aon, false => if s.supplied 0 then t else s.aonGood
    | .core, true =>
      let u := ({ (t.setF PWR_STATUS.CoreGood 0) with edg := { t.edg with ilkLoaded := false }, mnt := { t.mnt with tap := 1#8 } } : State).ilkRefresh
      if s.rst.stage = .asleep then u else (u.assertReset srcBrownCore reachSystem).bodyOff
    | .sram, true => ((t.setF PWR_STATUS.SramGood 0).assertReset srcBrownCore reachSystem)
    | .lane, true => t.lanesDark
    | .edge, _ => t.ilkRefresh
    | _, _ => t)

/-- The hold that M2W commanded while VDD_CORE was down (R557). -/
def State.holdWhenUp (s : State) : State :=
  if s.rst.holdDue then { s with rst := { s.rst with holdDue := false } }.assertHold 0 else s

/-- CORE_GOOD: VDD_CORE and VDD_SRAM are above their thresholds (R542). -/
def execCoreGood (s : State) : Result :=
  let t := ((((s.setSupply 1 false).setSupply 2 false).setF PWR_STATUS.CoreGood 1).setF PWR_STATUS.SramGood 1).holdWhenUp
  let u := t.sourceEnds srcBrownCore
  .next (if u.rst.phase = .core then { u with rst := { u.rst with phase := .pll } } else u)

/-- RESET_PIN: RESET_N low (`low`) or high at two consecutive AOCLK edges (R532). -/
def execResetPin (low : Bool) (s : State) : Result :=
  .next (if low then (if s.rst.asserted.contains srcResetPin then s else s.assertReset srcResetPin reachSystem)
    else s.sourceEnds srcResetPin)

/-! ## Clocks (R516, R517) -/

/-- CLOCK_EVENT (R545). -/
def State.clockEvent (s : State) (unit : Nat) : State := (s.logEvent 0x0806 unit []).raise PWR_IRQ_STATUS.ClockEvent

/-- XTAL_SWITCH: with XtalEn, AOCLK goes to the crystal; not again after a fallback (R516). -/
def execXtalSwitch (s : State) : Result :=
  .next (if (tget (fun _ => 0#32) s.boot.fuses 0x406).getLsbD 0 ∧ !s.rst.xtalFallen then s.setF PWR_CLK.AoSource 1 else s)

/-- AOCLK stays on, or returns to, the internal oscillator until a System reset (R516). -/
def State.xtalFall (s : State) : State :=
  { ((s.setF PWR_CLK.AoSource 0).setF PWR_CLK.XtalFailed 1) with rst := { s.rst with xtalFallen := true } }

/-- XTAL_START_TIMEOUT (R516). -/
def execXtalStartTimeout (s : State) : Result :=
  .next (if (tget (fun _ => 0#32) s.boot.fuses 0x406).getLsbD 0 ∧ !s.on PWR_CLK.AoSource then s.xtalFall else s)

/-- XTAL_STOP (R516). -/
def execXtalStop (s : State) : Result := .next (if s.on PWR_CLK.AoSource then s.xtalFall.clockEvent 0 else s)

/-- SYSTEM_PLL_LOCK (R517, R542, R544): the clear of Stacks starts after a System or Cold reset, the checks of the retained
banks and the clear of the others after deep sleep (R207, R527); the domains are granted; option loading starts. -/
def execSystemPllLock (s : State) : Result :=
  .next (
    let t := (s.setF PWR_CLK.PllLock 1).setF PWR_CLK.RefSysOk 1
    if t.rst.phase ≠ .pll then t
    else
      let u := t.powerDomains
      let banks := List.range 96
      let u := if u.rst.reach ≤ reachSystem then u.each banks (fun b x => (x.zeroBank b).setF (bankStateF b) bkClearing)
        else
          let v := u.each banks (fun b x => 
            if x.bankState b = bkRetained then x.setF (bankStateF b) bkChecking
            else if x.bankState b = bkOff then x.powerBank b else x)
          v.setB STK_STATUS.CheckBusy (banks.any (fun b => v.bankState b == bkChecking))
      { u with rst := { u.rst with phase := .options } })

/-- CLOCK_FAIL: a count outside 148 to 164 for 4 ticks asserts ClockFail (R517). -/
def execClockFail (s : State) : Result :=
  .next (if s.rst.asserted.contains srcClockFail then s
    else ((s.clockEvent 1).setF PWR_CLK.RefSysOk 0).assertReset srcClockFail reachWarm)

/-- CLOCK_RECOVER (R517). -/
def execClockRecover (s : State) : Result := .next ((s.setF PWR_CLK.RefSysOk 1).sourceEnds srcClockFail)

/-! ## OTP and the option folio (R537 to R541) -/

/-- An OTP word; a blank one reads 0. -/
def State.otpWord (s : State) (w : Nat) : Word := tget (fun _ => 0#32) s.boot.otp w

/-- `n` bytes of the folio in the OTP from offset `o`. -/
def State.otpBytes (s : State) (o n : Nat) : List Byte :=
  (List.range n).map (fun i => BitVec.ofNat 8 ((s.otpWord ((o + i) / 4)).toNat / 2 ^ (8 * ((o + i) % 4))))

/-- A folio byte of the OTP. -/
def State.otpByte (s : State) (o : Nat) : Nat := bytesAt (s.otpBytes o 1) 0 1

/-- The Crc the folio holds and the one computed over it. -/
def State.folioCrcs (s : State) : Word × Word := (s.otpWord 0x3FF, crc32c (s.otpBytes 0 0xFFC))

/-- Magic, Version, the ranges of the fields and Crc (R540, R541). -/
def State.folioOk (s : State) : Bool :=
  let c := s.folioCrcs
  s.otpWord 0 == 0x4F464C4F#32 && (s.otpWord 1).truncate 16 == 1#16 && decide (30 ≤ s.otpByte 0xC) && decide (s.otpByte 0xC ≤ 36) &&
  decide (s.otpByte 0xD ≤ 2) && decide (s.otpByte 0xE ≤ 1) && (s.otpWord 4).toNat % 0x100000 == 0 &&
  (List.range 12).all (fun p => decide ((s.otpWord (0x34 + p)).toNat % 4 ≤ 2) && decide ((s.otpWord (0x34 + p)).toNat / 4 % 4 ≤ 2)) && c.1 == c.2

/-- FUSE_SENSING_DONE: words 0x400 to 0x41F are latched, the pins take their fuse-map states and AON is released (R272,
R537, R542). -/
def execFuseSensingDone (s : State) : Result :=
  .next (if s.rst.phase ≠ .fuses then s
    else
      let t := { s with boot := { s.boot with fuses := s.boot.otp.filter (fun p => decide (0x400 ≤ p.1) && decide (p.1 < 0x420)) } }
      let t := (t.fuseCopies).setDom 0 domRunning
      let good := t.on PWR_STATUS.CoreGood && t.on PWR_STATUS.SramGood
      { t with rst := { t.rst with phase := if good then .pll else .core } })

/-- The folio's values become the Folio reset values (R541, R254, R381). -/
def State.loadFolio (s : State) : State :=
  let t := (s.wr DEV_SUBSYS (s.folioWord 2)).setF DEV_BAR4.Bar4Log (max 30 ((s.folioWord 3).toNat % 256))
  let t := t.putReg FAB_NODE (s.folioWord 8)
  let c := s.folioWord 9
  let t := ((t.setB FAB_CTRL.AutoRoute (c.getLsbD 0)).setB FAB_CTRL.FormEn (c.getLsbD 1)).setF FAB_CTRL.Keystone (c.toNat / 2 ^ 16 % 1024)
  let t := t.setB FAB_CTRL.KeyEn (c.getLsbD 26)
  let t := t.each (List.range 32) (fun i t => t.putReg (FAB_FORM i) (s.folioWord (0x10 + i)))
  let t := t.each (List.range 12) (fun p t =>
    let b := (s.folioWord (0x30 + p / 4)).toNat / 2 ^ (8 * (p % 4))
    (t.setF (FAB_SLOT_CTRL.SlotEn p) (b % 2)).setF (FAB_SLOT_CTRL.AutoPower p) (b / 2 % 2))
  let t := t.each (List.range 8) (fun k t => t.putReg (EDG_ILK k) (s.folioWord (0x40 + k)))
  (t.putReg EDG_POL_LO (s.folioWord 0x48)).putReg EDG_POL_HI (s.folioWord 0x49)

/-! ## Sealing and deep sleep (R206, R213, R524 to R531) -/

/-- The next banks enter SEALING, at most 8 at a time in ascending order. -/
def State.sealMore (s : State) : State :=
  let room := 8 - s.banksIn bkSealing
  let now := s.rst.toSeal.take room
  { (s.each now (fun b t => t.setF (bankStateF b) bkSealing)) with rst := { s.rst with toSeal := s.rst.toSeal.drop room } }

/-- Entries queued are written to bank 1 before banks 0 and 1 are sealed (R206). -/
def State.flushLog : Nat → State → State
  | 0, s => s
  | n + 1, s =>
    match execAccessionWrite s with
    | .next t => if t.log.queue.length < s.log.queue.length then State.flushLog n t else s
    | _ => s

/-- DEEP_SLEEP_ENTER (R524 step 3, R530): the wake detector takes the lanes' WakeEn; a reset of Warm reach that holds until
the wake; the body powered off and CORE_EN driven low. -/
def State.deepSleep (s : State) : State :=
  let wakes := (List.range 48).filter (fun n => s.on (lnWakeEn (16 + n)))
  let active := (if wakes.any (fun n => s.on (lnSigDet (16 + n))) then [2] else []) ++
    (if s.on HPT_STATUS.Perst then [] else [3]) ++ (if s.on PWR_STATUS.Pfail then [] else [6])
  let pf := s.rst.pfail
  let t := s.when pf (fun s => s.each (List.range 48) (fun l t =>
    if t.linkExists l ∧ t.on (onLink LNK_OUTST.Outstanding l) then t.linkDown l dcNoLane else t))
  -- a bank that is not RETAINED keeps nothing: it comes up CLEARING (R527)
  let t := t.each ((List.range 96).filter (fun b => t.bankState b != bkRetained)) (fun b t => t.offBank b)
  -- no interlock configuration is held in sleep, so none is latched (R255)
  let t := ((({ t with edg := { t.edg with ilkLoaded := false } } : State).resetBody reachWarm).bodyOff).setF PWR_CLK.PllLock 0
  -- where an episode is under way, the sleep's source joins it (R531, R534)
  let fresh := s.rst.phase == .none
  { t with
    cat := State.reset.cat, eng := { t.eng with sram := [] }, mnt := { t.mnt with tap := 1#8 },
    rst := { t.rst with asserted := [srcSleepWake], seen := if fresh then [srcSleepWake] else addOnce s.rst.seen srcSleepWake,
                        reach := reachWarm, phase := .asserted, ticks := if fresh then 0 else s.rst.ticks,
                        restarts := if fresh then 0 else if s.rst.phase == .asserted then s.rst.restarts else s.rst.restarts + 1, stage := .asleep, pfail := false, entry := false, slept := true, sleepTicks := 0,
                        wakeLanes := wakes.map (· + 16), wakeNow := active } }

/-- The sealing of banks 2 to 95 ends: the entry of the event that caused it is written, then banks 0 and 1 are sealed
together (R206). -/
def State.sealLow (s : State) : State :=
  -- the links that have flits outstanding now go DOWN when sealing ends (R530)
  let links := ((List.range 48).filter (fun l => s.linkExists l && s.on (onLink LNK_OUTST.Outstanding l))).length
  let s := { s with rst := { s.rst with links := if s.rst.pfail then links else 0 } }
  let r := s.rst
  let t := if !r.entry then s
    else if r.pfail then
      s.logEvent 0x0801 0 (leBytes 4 r.drainFrom ++ leBytes 2 (min 0xFFFF r.lost) ++ leBytes 2 (min 0xFFFF r.segments) ++ leBytes 1 r.links)
    else s.logEvent 0x0802 1 (leBytes 1 ((List.range 96).filter s.retained).length)
  let t := State.flushLog 64 t
  let low := [0, 1].filter (fun b => t.retained b && t.bankState b == bkOn)
  let t := t.each [0, 1] (fun b t => if t.bankState b = bkOn ∧ !t.retained b then t.offBank b else t)
  { (t.each low (fun b t => t.setF (bankStateF b) bkSealing)) with rst := { t.rst with stage := .sealingLow } }

/-- Sealing has ended: SealDone, and deep sleep follows (R213, R530). -/
def State.sealEnd (s : State) : State :=
  if s.banksIn bkSealing ≠ 0 then s
  else ((s.setF STK_STATUS.SealBusy 0).raise STK_IRQ_STATUS.SealDone).deepSleep

/-- What follows once no bank is in SEALING and none is to be. -/
def State.sealNext (s : State) : State :=
  if s.rst.stage = .sealing ∧ s.banksIn bkSealing = 0 ∧ s.rst.toSeal.isEmpty then s.sealLow.sealEnd
  else if s.rst.stage = .sealingLow then s.sealEnd
  else s

/-- Sealing starts: banks that are ON and retained are sealed, the others in ON are turned off (R204, R206, R212). -/
def State.startSeal (s : State) : State :=
  let high := (List.range 96).filter (fun b => decide (2 ≤ b) && s.bankState b == bkOn)
  let t := s.each high (fun b t => if t.retained b then t else t.offBank b)
  let t := { (t.setF STK_STATUS.SealBusy 1) with rst := { t.rst with stage := .sealing, toSeal := high.filter t.retained } }
  t.sealMore.sealNext

/-- SEAL_COMPLETE (R204 to R206). -/
def execSealComplete (bank : Fin 96) (s : State) : Result :=
  .next (if s.bankState bank ≠ bkSealing then s else ((s.sealBank bank).sealMore).sealNext)

/-- Is deep-sleep entry's step 1 at its end: movers idle, links as R330 admits (R524)? -/
def State.sleepReady (s : State) : Bool :=
  s.dma.movers.all (fun m => m.2.job == .idle) &&
  (List.range 48).all (fun l => !s.linkExists l || s.linkState l == lkDown ||
    (s.fld (onLink LNK_OUTST.Outstanding l) == 0 && (s.link l).rx.isEmpty))

/-- SLEEP_DRAIN_DONE: sealing starts; SLEEP_ENTER is its entry (R524). -/
def execSleepDrainDone (s : State) : Result :=
  .next (if s.rst.stage = .draining ∧ s.sleepReady then
      { s with rst := { s.rst with pfail := false, entry := true } }.startSeal
    else s)

/-- SLEEP_ENTRY_TIMEOUT: after 10 ms the entry is abandoned (R524). -/
def execSleepEntryTimeout (s : State) : Result := .next (s.abandonSleep 1)

/-- Deep-sleep entry starts (R524). -/
def State.enterSleep (s : State) : State :=
  { (s.setF PWR_STATUS.Entering 1) with rst := { s.rst with stage := .draining } }

/-- Standby is entered: every bay that bears no vote is power-gated at once (R523). -/
def State.enterStandby (s : State) (timer : Bool) : State :=
  let t := { ((s.setF PWR_STATUS.Standby 1).setF PWR_CTRL.Standby 1) with rst := { s.rst with standbyTimer := timer } }
  t.each (List.range 64) (fun b t => if t.domVotes (32 + b) = 0 then t.gateOff (32 + b) else t)

/-- Standby ends (R523). -/
def State.leaveStandby (s : State) : State :=
  { ((s.setF PWR_STATUS.Standby 0).setF PWR_CTRL.Standby 0) with rst := { s.rst with standbyTimer := false } }

/-- A refused standby or sleep write. -/
def State.sleepRefused (s : State) : State := s.setF PWR_STATUS.SleepRefused 1

/-- A write of PWR_CTRL.Standby (R523). -/
def State.writeStandby (s : State) (on : Bool) : State :=
  if !on then s.leaveStandby
  else if s.sched ≠ stopped then s.sleepRefused
  else s.enterStandby false

/-- STANDBY_WRITE. -/
def execStandbyWrite (on : Bool) (s : State) : Result := .next (s.writeStandby on)

/-- A write of 1 to PWR_CTRL.Sleep (R524). -/
def State.writeSleep (s : State) : State :=
  if s.sched ≠ stopped ∨ !s.holdAsserted then s.sleepRefused
  else if s.rst.stage ≠ .awake then s
  else s.enterSleep

/-- SLEEP_WRITE. -/
def execSleepWrite (s : State) : Result := .next s.writeSleep

/-- PWR_SLEEP (R509, R523, R524). -/
def execPwrSleep (h : SlipHdr) (mode : Byte) (ticks : Word) (s : State) : Result :=
  .next (s.runSlip h 0x0803 .none (fun s =>
    if 1 < mode.toNat then refuse s stValueRange
    else if s.sched ≠ stopped then refuse s stNotRunning
    else if mode = 1#8 ∧ !s.holdAsserted then refuse s stHoldNotAsserted
    else
      let t := s.when (ticks != 0#32) (·.wr PWR_AOTIMER ticks)
      (if mode = 0#8 then t.enterStandby (ticks != 0#32) else if t.rst.stage = .awake then t.enterSleep else t, okAns)))

/-- The wake of deep sleep by a source's code (R526, R527): the STK registers other than the seals, and the banks' states
which the seals belong to, take their Reset values. -/
def State.wake (s : State) (code : Nat) : State :=
  if s.rst.stage ≠ .asleep then s
  else
    let isSeal (a : Nat) : Bool := decide (STK_SEAL_LO 0 ≤ a) && decide (a < STK_SEAL_LO 96)
    let stk (a : Nat) : Bool := decide (0x50000 ≤ a) && decide (a < 0x60000) && !isSeal a
    let t := { s with regs := s.regs.filter (fun p => !stk p.1) }
    let t := t.each (List.range 96) (fun b t => t.keepF s (bankStateF b))
    let t := (t.setF PWR_WAKE.Source code).wr PWR_WAKE_TICKS 0#32
    { t with rst := { t.rst with asserted := t.rst.asserted.erase srcSleepWake, stage := .awake, wakeNow := [], woke := some (code, t.rst.sleepTicks) } }

/-- The Maelid wake source: the lanes that detect a signal set Wake, and where the source names none the first that the wake
detector holds (R297, R526; DESIGN CHOICE, log 53). -/
def State.laneWake (s : State) : State :=
  let lit := s.rst.wakeLanes.filter (fun n => s.on (lnSigDet n))
  if s.rst.stage ≠ .asleep then s
  else s.each (if lit.isEmpty then s.rst.wakeLanes.take 1 else lit) (fun n t => t.raise (lnFlag n 5))

/-- DEEP_SLEEP_WAKE: a wake source that is enabled in PWR_WAKEEN is recognised (R526); a Maelid lane wakes only where the
wake detector holds a WakeEn. -/
def execDeepSleepWake (source : Fin 6) (s : State) : Result :=
  .next (if (s.fld PWR_WAKEEN.Enable).testBit source ∧ (source.val = 1 → !s.rst.wakeLanes.isEmpty) then
      (s.when (source.val == 1) (·.laneWake)).wake (source + 1) else s)

/-- A wake source is recognised; it acts where its bit in PWR_WAKEEN is 1 (R526). -/
def State.wakeIf (s : State) (code : Nat) : State := if (s.fld PWR_WAKEEN.Enable).testBit (code - 1) then s.wake code else s

/-- A source that was already active when entry ended wakes the bridge at the next tick (R526, R531), the lowest code first (DESIGN
CHOICE, assumption log 56). -/
def State.wakeTick (s : State) : State :=
  match s.rst.wakeNow.find? (fun c => (s.fld PWR_WAKEEN.Enable).testBit (c - 1)) with
  | some c => (s.when (c == 2) (·.laneWake)).wake c
  | none => s

/-- SIGNAL_DETECT_WAKE: a signal on a DISABLED Maelid lane with WakeEn, which in deep sleep the wake detector holds, is the
Maelid wake source (R297, R526). -/
def execSignalDetectWake (n : Fin 64) (s : State) : Result :=
  .next (if !s.supplied 3 then s
    else if s.rst.wakeLanes.contains n.val ∧ s.rst.stage = .asleep then (s.raise (lnFlag n 5)).wakeIf 2
    else if 16 ≤ n.val ∧ s.laneState n = lnDisabled ∧ s.on (lnWakeEn n) then (s.setF (lnSigDet n) 1).raise (lnFlag n 5)
    else s)

/-- INTERLOCK: the ILK pins are at the levels `x.pins`, and have been for `x.ns` ns since the last INTERLOCK or, where a pin's
level has changed, since the change (R253; the two operands are the model's, log entry 18).  In deep sleep a change of a pin's
level is a wake source (R255, R526). -/
def execInterlock (x : IlkLevels) (s : State) : Result :=
  let stood := (List.range 8).foldl (fun (t : Tab Nat) k =>
    let before := if x.pins.getLsbD k = s.edg.ilkPins.getLsbD k then tget (fun _ => 0) s.edg.ilkFor k else 0
    tset (fun _ => 0) t k (min 255 (before + x.ns.toNat))) s.edg.ilkFor
  let t := ({ s with edg := { s.edg with ilkPins := x.pins, ilkFor := stood } } : State).ilkRefresh
  .next (if x.pins ≠ s.edg.ilkPins then t.wakeIf 4 else t)

/-! ## The AO timer (R526, R546) -/

/-- AO_TIMER_SET. -/
def execAoTimerSet (h : SlipHdr) (ticks : Word) (s : State) : Result :=
  .next (s.runSlip h 0x0804 .none (fun s => (s.wr PWR_AOTIMER ticks, okAns)))

/-- The AO timer reaches 0: Curator source 19, AoTimer and wake code 5; the end of a standby that names it (R523). -/
def State.aoTimer (s : State) : State :=
  let t := ((s.wr PWR_AOTIMER 0#32).curEdge 19).raise PWR_IRQ_STATUS.AoTimer
  let t := if t.rst.standbyTimer then t.leaveStandby else t
  t.wakeIf 5

/-- AO_TIMER_EXPIRY. -/
def execAoTimerExpiry (s : State) : Result := .next (if s.rd PWR_AOTIMER = 0#32 then s else s.aoTimer)

/-! ## PFAIL_N (R528 to R531) -/

/-- The sequence starts (R528), or, where one is under way, PFAIL_N is recognised once more (R267): HOLD_N, the armed swap, MISSED; engines issue nothing more, movers take nothing more and
links send no new sequenced flits while the sequence is under way. -/
def State.startPfail (s : State) : State :=
  if s.rst.pfail then s.when (s.on EDG_HOLD.PfailHold) (·.assertHold 4)
  else
    let s := s.bistsPfail
    let r := { s.rst with stage := .pfailDrain, pfail := true, entry := true, drainFrom := s.now, lost := 0, segments := 0, links := 0 }
    let t := { s with rst := r }
    let t := t.setF PWR_STATUS.Entering 1
    let t := t.when (t.on EDG_HOLD.PfailHold) (·.assertHold 4)
    if t.on FRM_STATUS.SwapArmed then t.cancelSwap.commitReport cmMissedType else t

/-- PFAIL: PFAIL_N is recognised low, or (`low` false) high again, which in deep sleep is a wake source (R526).  During a reset
of Warm reach or wider, and in deep sleep, only Pfail changes (R531). -/
def execPfail (low : Bool) (s : State) : Result :=
  .next (
    let t := (s.setB PWR_STATUS.Pfail low).setB EDG_STATUS.Pfail low
    if !low then t.wakeIf 6
    else if s.on PWR_STATUS.Pfail then t
    else
      let u := t.raise PWR_IRQ_STATUS.Pfail
      if u.rst.phase ≠ .none ∨ u.rst.stage = .asleep then u else u.startPfail)

/-- Engines stopped by PFAIL_N halt with HaltCause Pfail (R133). -/
def State.haltPfail (s : State) : State :=
  s.each (List.range 512) (fun c t => if 1 ≤ t.level c ∧ t.level c ≤ 5 then t.haltCore c 4 else t)

/-- The drain ends (R529): movers' unfinished work is abandoned without writeback, and sealing starts (R213). -/
def State.drainEnd (s : State) (lost : Nat) : State :=
  let a := s.abandonWork (fun _ => true)
  let t := a.1.haltPfail
  let r := { t.rst with lost := lost, segments := a.2.1, drainFrom := t.now - t.rst.drainFrom }
  State.startSeal { t with rst := r }

/-- No mover awaits a read: each has stopped at its 64-byte boundary with nothing under way (R528, R529). -/
def State.moversStopped (s : State) : Bool :=
  s.host.outstanding.all (fun o => o.abandoned || match o.requester with
    | .mover m => m == 31
    | _ => true)

/-- PFAIL_DRAIN_DONE: every store buffer and mover is empty. -/
def execPfailDrainDone (s : State) : Result :=
  .next (if s.rst.stage = .pfailDrain ∧ s.eng.ports.all (fun p => p.2.sb.isEmpty) ∧ s.moversStopped then s.drainEnd 0 else s)

/-- PFAIL_DRAIN_TIMEOUT: after DrainTo ticks the stores still buffered are lost and outstanding host reads abandoned
(R529). -/
def execPfailDrainTimeout (s : State) : Result :=
  .next (if s.rst.stage ≠ .pfailDrain then s
    else
      let n := s.bufferedStores
      let t := s.each (s.eng.ports.map (·.1)) (fun e t =>
        let q := t.port e
        let u := t.each q.sb (fun x u => u.declareLost e x true)
        u.setPort e { u.port e with sb := [] })
      let os := t.host.outstanding.map (fun o => { o with abandoned := true })
      State.drainEnd { t with host := { t.host with outstanding := os } } n)

/-! ## The watchdog (R535) -/

/-- A kick. -/
def State.kick (s : State) : State := s.wr RST_WDT_COUNT 0#32

/-- The watchdog enabled or disabled; enabling restarts the count. -/
def State.setWatchdog (s : State) (en : Bool) : State :=
  (s.setB RST_WDT_CFG.Enable en).when (en && !s.on RST_WDT_CFG.Enable) (·.kick)

/-- The range of RST_WDT_TO. -/
def wdtOk (n : Nat) : Bool := decide (100000 ≤ n) && decide (n ≤ 4000000000)

/-- WDT_CONFIG. -/
def execWdtConfig (h : SlipHdr) (ticks : Word) (en : Byte) (s : State) : Result :=
  .next (s.runSlip h 0x0805 .none (fun s =>
    if !wdtOk ticks.toNat ∨ 1 < en.toNat then refuse s stValueRange
    else ((s.wr RST_WDT_TO ticks).setWatchdog (en == 1#8), okAns)))

/-- WDT_KICK. -/
def execWdtKick (h : SlipHdr) (s : State) : Result := .next (s.runSlip h 0x0806 .none (fun s => (s.kick, okAns)))

/-- A write of RST_WDT_KICK: only 0x5A5A kicks. -/
def State.writeKick (s : State) (v : Word) : State := if v.toNat % 0x10000 = 0x5A5A then s.kick else s

/-- WDT_KICK_WRITE. -/
def execWdtKickWrite (v : Word) (s : State) : Result := .next (s.writeKick v)

/-- WDT_HALF: the count has reached half the timeout. -/
def execWdtHalf (s : State) : Result :=
  .next (if s.on RST_WDT_CFG.Enable ∧ (s.rd RST_WDT_TO).toNat ≤ 2 * (s.rd RST_WDT_COUNT).toNat then
      s.raise RST_IRQ_STATUS.WdtHalf
    else s)

/-- WATCHDOG_EXPIRY: a Warm reset where the count has reached the timeout; a kick that arrived in the tick has set it to 0,
and the watchdog does not expire (R8, R535). -/
def execWatchdogExpiry (s : State) : Result :=
  .next (if s.on RST_WDT_CFG.Enable ∧ (s.rd RST_WDT_TO).toNat ≤ (s.rd RST_WDT_COUNT).toNat then
      (s.assertReset srcWatchdog reachWarm).kick
    else s)

/-! ## Software resets (R509, R532) -/

/-- A software reset of a reach code: 0 Warm, 1 System. -/
def State.softReset (s : State) (reach : Nat) : State :=
  if reach = 0 then s.assertReset srcSoftWarm reachWarm else s.assertReset srcSoftSystem reachSystem

/-- RST_REQUEST: ACCEPTED is written, then the reset begins (R482, R509). -/
def execRstRequest (h : SlipHdr) (reach : Byte) (key : Word) (s : State) : Result :=
  let t := s.runSlip h 0x0807 .none (fun s =>
    if 1 < reach.toNat ∨ key ≠ 0xA55A5AA5#32 then refuse s stValueRange else (s, .accepted (.reset reach.toNat)))
  .next (match t.cmd.background.findSome? (fun g => match g.cmd with
      | .reset r => some r
      | _ => none) with
    | some r => t.softReset r
    | none => t)

/-- A write of RST_SWREQ; only the key in bits 31:8 asserts the reset. -/
def State.writeSwreq (s : State) (v : Word) : State :=
  if v.toNat / 256 = 0xA55A5A then s.softReset (v.toNat % 2) else s

/-- RST_SWREQ_WRITE. -/
def execRstSwreqWrite (v : Word) (s : State) : Result := .next (s.writeSwreq v)

/-- The TAP works: VDD_CORE and VDD_IO are present (R548). -/
def State.tapWorks (s : State) : Bool := s.on PWR_STATUS.CoreGood && s.supplied 4

/-- DEBUG_RESET: at Update-IR, the Debug source when DebugUnlock is 1; otherwise as BYPASS (R567). -/
def execDebugReset (s : State) : Result :=
  .next (if !s.tapWorks then s
    else if (tget (fun _ => 0#32) s.boot.fuses 0x406).getLsbD 1 then
      { s with mnt := { s.mnt with tap := 0x40#8 } }.assertReset srcDebug reachWarm
    else { s with mnt := { s.mnt with tap := 0xFF#8 } })

/-! ## Start-up (R541 to R544, R590) -/

/-- The mask of the sources seen. -/
def RstUnit.mask (r : RstUnit) : Nat := (r.seen.map (fun b => 2 ^ b)).sum

/-- OPTION_LOADING_DONE: the folio is checked and loaded, the interlock path takes its values, the Curator is released and
its cores self-checked: `failed` names a core that fails (R237, R255, R534, R541).  A PFAIL_N still recognised starts its
sequence (R531). -/
def execOptionLoadingDone (failed : Option (Fin 2)) (s : State) : Result :=
  .next (if s.rst.phase ≠ .options then s
    else
      let ok := s.folioOk
      let c := s.folioCrcs
      let t := { s with boot := { s.boot with folio := if ok then s.boot.otp.filter (fun p => decide (p.1 < 0x400)) else [],
                                              optInvalid := if ok then none else some c } }
      let t := t.loadFolio
      let t := { t with edg := { t.edg with ilkLoaded := true } }
      let t := t.ilkRefresh
      let t := ((t.setB RST_STATUS.OptInvalid (!ok)).when (!ok) (·.raise RST_IRQ_STATUS.OptInvalid)).setF RST_STATUS.BootState 1
      let t := ((t.setF RST_CAUSE.Sources t.rst.mask).setF RST_CAUSE_ALL.Sources (t.fld RST_CAUSE_ALL.Sources ||| t.rst.mask)).kick
      let t := t.when (t.rst.reach != reachCold) (·.incF RST_EPISODES.Count)
      let t := match failed with
        | some k => t.fenceCore k.val
        | none => t
      let t := { t with rst := { t.rst with phase := .none, optionsRead := true, solo := failed.map (·.val) } }
      if t.on PWR_STATUS.Pfail ∧ t.rst.stage = .awake then t.startPfail else t)

/-- The preferred boot slot (R540). -/
def State.bootSlot (s : State) : Nat := (s.folioWord 3).toNat / 2 ^ 16 % 2

/-- The reason the boot ROM rejects a slot, 0 where it accepts it (R543): key hash words 0x408 to 0x413, the least
SecVersion from word 0x414. -/
def State.slotReason (s : State) (slot : Nat) : Nat :=
  let w := tget (fun _ => 0#32) s.boot.fuses
  let bits := ((List.range 32).filter (fun i => (w 0x414).getLsbD i)).length
  Config.slotReason s.boot.flash ((List.range 12).map (fun i => w (0x408 + i))) bits slot % 7

/-- The console's line at a firmware start and on entry to recovery (R552). -/
def State.banner (s : State) (tail : List Byte) : State :=
  if s.on MNT_STATUS.ConsoleMode then s
  else
    s.consoleOut (ascii "SF7260 B0 " ++ hexN 8 (s.rd DEV_SERIAL_HI).toNat ++ hexN 8 (s.rd DEV_SERIAL_LO).toNat ++ ascii " NODE " ++
      dec3 s.nodeId ++ ascii " FW " ++ hexN 8 (s.rd RST_FWVER).toNat ++ tail ++ s.prompt)

/-- IMAGE_VERIFIED: the slot under trial, the preferred one and then the other, is accepted, or rejected; with both
rejected the Curator enters recovery (R543). -/
def execImageVerified (s : State) : Result :=
  .next (if s.fld RST_STATUS.BootState ≠ 1 ∨ s.rst.phase ≠ .none ∨ s.boot.booting then s
    else
      let slot := if s.boot.tried = 0 then s.bootSlot else 1 - s.bootSlot
      let why := s.slotReason slot
      if why = 0 then
        { (s.setF RST_STATUS.BootSlot slot) with
          boot := { s.boot with booting := true, verified := true, build := Config.slotBuild s.boot.flash slot,
                                digest := leBytes 12 (Config.slotDigest s.boot.flash slot).toNat } }
      else if s.boot.tried = 0 then
        { s with boot := { s.boot with tried := 1, reason := why } }.raise RST_IRQ_STATUS.BootFallback
      else ({ s with boot := { s.boot with tried := 2 }, host := { s.host with romBad := true } }.setF RST_STATUS.BootState 3).banner
        (ascii " RECOVERY"))

/-- The firmware applies a port's folio word as LINK_PORT_SPLIT, LANE_RATE, LANE_CONFIG and LINK_ENABLE would (R541). -/
def State.applyPort (s : State) (p : Nat) : State :=
  let w := s.folioWord (0x34 + p)
  let t := (s.writeSplit p (w.toNat % 4)).writeRate p (w.toNat / 4 % 4)
  let t := t.each (List.range 4) (fun k t =>
    (t.setB (lnWakeEn (16 + 4 * p + k)) (w.getLsbD (12 + k))).laneEnable (16 + 4 * p + k) (w.getLsbD (4 + k)))
  t.each (List.range 4) (fun k t =>
    if w.getLsbD (8 + k) ∧ t.linkExists (4 * p + k) then (t.setF (onLink LNK_CTRL.AutoRestart (4 * p + k)) 1).linkEnable (4 * p + k) true else t)

/-- The entries the Curator writes after boot, in the order of R590: RESET, BOOT, WAKE, OPT_INVALID, STORE_DISCARD, the
interlocks, and CURATOR_SOLO (R237). -/
def State.bootEntries (s : State) : State :=
  let r := s.rst
  let t := s.logEvent 0x0805 r.reach (leBytes 4 r.mask ++ leBytes 4 r.ticks ++ leBytes 1 (min 255 r.restarts))
  let t := t.logEvent 0x0807 (t.fld RST_STATUS.BootSlot) (leBytes 1 s.boot.tried ++ leBytes 1 s.boot.reason ++ leBytes 2 0 ++
    leBytes 4 (t.rd RST_FWVER).toNat)
  let t := match r.woke with
    | some (c, n) => (t.logEvent 0x0803 c (leBytes 4 (min 0xFFFFFFFF n))).raise PWR_IRQ_STATUS.Woke
    | none => t
  let t := match s.boot.optInvalid with
    | some (a, b) => t.logEvent 0x0808 0 (leBytes 4 a.toNat ++ leBytes 4 b.toNat)
    | none => t
  let n := t.fld ENG_WBDISCARD.Count
  let t := t.when (r.reach == reachWarm && n != 0) (·.logEvent 0x0307 0 (leBytes 2 n))
  let t := t.each ((List.range 8).filter (fun k => (t.rd EDG_TRIP_ILK).getLsbD k)) (fun k t =>
    t.logEvent 0x0501 k (leBytes 1 (t.fld (EDG_ILK.Hold k))))
  match r.solo with
  | some k => t.logEvent 0x0A03 k []
  | none => t

/-- FIRMWARE_START: the ROM region checked (`romOk`), the firmware starts (R395, R542, R590). -/
def execFirmwareStart (romOk : Bool) (s : State) : Result :=
  .next (if s.fld RST_STATUS.BootState ≠ 1 ∨ !s.boot.booting then s
    else
      let slot := s.fld RST_STATUS.BootSlot
      let t := (s.setF RST_STATUS.BootState 2).wr RST_FWVER (Config.slotVersion s.boot.flash slot)
      let t := { t with host := { t.host with romBad := !romOk }, boot := { t.boot with booting := false } }.bootEntries
      let t := { t with boot := { t.boot with optInvalid := none }, rst := { t.rst with woke := none, solo := none, slept := false } }
      let t := (t.each (List.range 12) (fun p t => t.applyPort p)).keepTime
      -- the classes are those of the B0 firmware: sources 0 to 5 are fast
      let t := { t with irq := { t.irq with curEnable := Config.curatorEnables, curFast := 0x3F#256 } }
      t.banner (ascii " SLOT " ++ hexN 1 slot))

/-! ## Commands (R509, R520) -/

/-- A domain is powered. -/
def State.powered (s : State) (d : Nat) : Bool := s.fld (PWR_DOM.State d) != domOff

/-- PWR_INFO. -/
def execPwrInfo (h : SlipHdr) (s : State) : Result :=
  .next (s.runSlip h 0x0800 .none (fun s =>
    (s, .done stOk (leBytes 12 (((List.range 96).filter s.powered).map (fun d => 2 ^ d)).sum ++ leBytes 1 (s.fld PWR_WAKE.Source) ++
      leBytes 3 0 ++ s.words [PWR_WAKE_TICKS]))))

/-- PWR_DOMAIN_READ. -/
def execPwrDomainRead (h : SlipHdr) (d : Byte) (s : State) : Result :=
  .next (s.runSlip h 0x0801 .none (fun s =>
    if 95 < d.toNat then refuse s stValueRange
    else (s, .done stOk (leBytes 1 (s.domState d.toNat) ++ leBytes 1 (min 255 (s.domVotes d.toNat)) ++ leBytes 2 0 ++
      s.words [PWR_DOMWAKE d.toNat]))))

/-- A manager vote placed or withdrawn (R520). -/
def State.holdDomain (s : State) (d : Nat) (on : Bool) : State :=
  let t := s.setB (PWR_DOM.Hold d) on
  if on then t.voteDom d false else t

/-- PWR_HOLD. -/
def execPwrHold (h : SlipHdr) (d on : Byte) (s : State) : Result :=
  .next (s.runSlip h 0x0802 .none (fun s =>
    if 95 < d.toNat ∨ 1 < on.toNat then refuse s stValueRange else (s.holdDomain d.toNat (on == 1#8), okAns)))

/-- PWR_DOM_HOLD_WRITE. -/
def execPwrDomHoldWrite (d : Fin 96) (on : Bool) (s : State) : Result := .next (s.holdDomain d on)

/-- RST_CAUSE. -/
def execRstCause (h : SlipHdr) (s : State) : Result :=
  .next (s.runSlip h 0x0808 .none (fun s => (s, .done stOk (s.words [RST_CAUSE, RST_CAUSE_ALL] ++ leBytes 2 (s.fld RST_EPISODES.Count)))))

/-- BACKUP_READ. -/
def execBackupRead (h : SlipHdr) (i : Byte) (s : State) : Result :=
  .next (s.runSlip h 0x0809 .none (fun s =>
    if 15 < i.toNat then refuse s stValueRange else (s, .done stOk (s.words [RST_BACKUP i.toNat]))))

/-- BACKUP_WRITE. -/
def execBackupWrite (h : SlipHdr) (i : Byte) (v : Word) (s : State) : Result :=
  .next (s.runSlip h 0x080A .none (fun s =>
    if 15 < i.toNat then refuse s stValueRange else (s.wr (RST_BACKUP i.toNat) v, okAns)))

/-- An offset of RETAINED_READ, RETAINED_WRITE and OPT_READ: a multiple of 16 up to `top`. -/
def offsetOk (off : BitVec 16) (top : Nat) : Bool := off.toNat % 16 == 0 && decide (off.toNat ≤ top)

/-- RETAINED_READ (R536). -/
def execRetainedRead (h : SlipHdr) (off : BitVec 16) (s : State) : Result :=
  .next (s.runSlip h 0x080B .none (fun s =>
    if !offsetOk off 8176 then refuse s stValueRange
    else (s, .done stOk (s.words ((List.range 4).map (fun i => RST_RETAINED (off.toNat / 4 + i)))))))

/-- RETAINED_WRITE (R536). -/
def execRetainedWrite (h : SlipHdr) (off : BitVec 16) (data : List Byte) (s : State) : Result :=
  .next (s.runSlip h 0x080C .none (fun s =>
    if !offsetOk off 8176 then refuse s stValueRange
    else (s.each (List.range 4) (fun i t => t.wr (RST_RETAINED (off.toNat / 4 + i)) (BitVec.ofNat 32 (bytesAt data (4 * i) 4))), okAns)))

/-- OPT_READ. -/
def execOptRead (h : SlipHdr) (off : BitVec 16) (s : State) : Result :=
  .next (s.runSlip h 0x080D .none (fun s =>
    if !offsetOk off 4080 then refuse s stValueRange else (s, .done stOk (s.otpBytes off.toNat 16))))

/-! ## VDD_CORE target and temperature (R515, R556, R576) -/

/-- AVS_STEP: the bridge moves its VDD_CORE target by one step of 5 mV, within 0.70 V to 0.80 V.
The pins hold 0.75 V until the first option loading ends, and their last value in deep sleep; at most one step comes in 100
ticks (R576). -/
def execAvsStep (up : Bool) (s : State) : Result :=
  let t := s.fld PWR_AVS.Target
  .next (if !s.rst.optionsRead || s.rst.stage == .asleep || s.rst.avsWait != 0 then s
    else { (s.setF PWR_AVS.Target (if up then min 20 (t + 1) else t - 1)) with rst := { s.rst with avsWait := 100 } })

/-- TEMP_SAMPLE: the junction temperature is sampled while VDD_CORE is good, otherwise it reads 0x80 (R556). -/
def execTempSample (t : Byte) (s : State) : Result :=
  .next (if s.on PWR_STATUS.CoreGood then (s.setF MNT_TEMP.Temp t.toNat).setF MNT_TEMP.Valid 1
    else (s.setF MNT_TEMP.Temp 0x80).setF MNT_TEMP.Valid 0)

end Sys2Proof.Machine
end

