-- ==== Sys2Proof/Machine/Maint.lean ====
section
/-! DEFINITION. Machine/Maint.lean: the Plirex port (R510, R548 to R569): monitors, lamps, fuses, flash, the console, the
two-wire port and the TAP. -/

namespace Sys2Proof.Machine

/-! ## AMON, FMON and lamps (R558 to R562) -/

/-- An AMON source of the table (R558). -/
def amonOk (src : Nat) : Bool := decide (src ≤ 12)

/-- The symbol rate of lane `n` in MBd times 10,000: by the port's rate code, or by the host link's rate (R279, R281). -/
def State.symbolRate (s : State) (n : Nat) : Nat :=
  if n < 16 then
    match s.fld HPT_STATUS.Rate with
    | 0 => 25000000
    | 1 => 50000000
    | 2 => 80000000
    | 3 => 160000000
    | _ => 320000000
  else match s.fld (LNK_PHY.Rate ((n - 16) / 4)) with
    | 0 => 103125000
    | 1 => 281250000
    | _ => 280000000

/-- An FMON source and divider that R559 takes: a code of the table, Div not 0, and at most 10 kHz. -/
def State.fmonOk (s : State) (src div : Nat) : Bool :=
  let known := decide (src ≤ 11) || (decide (0x10 ≤ src) && decide (src ≤ 0x4F))
  -- nominal fsrc ÷ Pre, in Hz, as a fraction
  let f : Nat × Nat :=
    if src = 0 then (0, 1)
    else if src ≤ 3 then (1000000, 1)
    else if src = 4 then (156250, 1)
    else if src = 5 then (100000, 1)
    else if src = 6 then (120000, 1)
    else if src = 7 then (1000000000, s.period)
    else if src ≤ 11 then (1000000, s.fld (EDG_MCLK.Period (src - 8)))
    else (s.symbolRate (src - 0x10), 10000)
  known && div != 0 && decide (f.1 ≤ 10000 * div * f.2)

/-- A lamp pattern of the table, or 0xFF (R560). -/
def ledOk (p : Nat) : Bool := decide (p ≤ 4) || (decide (0x11 ≤ p) && decide (p ≤ 0x1F)) || p == 0xFF

/-- A refused write of an MNT register. -/
def State.mntRefused (s : State) : State := s.raise MNT_IRQ_STATUS.CfgRefused

/-- AMON_SELECT. -/
def execAmonSelect (h : SlipHdr) (source : BitVec 16) (s : State) : Result :=
  .next (s.runSlip h 0x0903 .none (fun s =>
    if !amonOk source.toNat then refuse s stValueRange else (s.setF MNT_AMON.Source source.toNat, okAns)))

/-- FMON_SELECT. -/
def execFmonSelect (h : SlipHdr) (source div : BitVec 16) (s : State) : Result :=
  .next (s.runSlip h 0x0904 .none (fun s =>
    if !s.fmonOk source.toNat div.toNat then refuse s stValueRange
    else ((s.setF MNT_FMON.Source source.toNat).setF MNT_FMON.Div div.toNat, okAns)))

/-- LED_SET. -/
def execLedSet (h : SlipHdr) (led pattern : Byte) (s : State) : Result :=
  .next (s.runSlip h 0x0905 .none (fun s =>
    if 1 < led.toNat ∨ !ledOk pattern.toNat then refuse s stValueRange
    else (s.setF (if led = 0#8 then MNT_LED.PatternA else MNT_LED.PatternB) pattern.toNat, okAns)))

/-- A write of MNT_LED; the bytes written hold their codes, a code not in the table refuses the write. -/
def State.writeLed (s : State) (v : Word) : State :=
  if !ledOk (v.toNat % 256) || !ledOk (v.toNat / 256 % 256) then s.mntRefused
  else (s.setF MNT_LED.PatternA (v.toNat % 256)).setF MNT_LED.PatternB (v.toNat / 256 % 256)

/-- A write of MNT_AMON. -/
def State.writeAmon (s : State) (v : Word) : State :=
  if amonOk (v.toNat % 0x10000) then s.setF MNT_AMON.Source (v.toNat % 0x10000) else s.mntRefused

/-- A write of MNT_FMON. -/
def State.writeFmon (s : State) (v : Word) : State :=
  let src := v.toNat % 0x10000
  let div := v.toNat / 0x10000
  if s.fmonOk src div then (s.setF MNT_FMON.Source src).setF MNT_FMON.Div div else s.mntRefused

/-- LED_A under the bridge's own choice (R561). -/
def State.ledOwnA (s : State) : Nat :=
  if !s.supplied 0 || s.rst.phase == .fuses || s.rst.stage == .asleep then 0x00
  else if s.rst.phase != .none || decide (s.fld RST_STATUS.BootState ≤ 1) then 0x01
  else if s.fld RST_STATUS.BootState = 3 then 0x03
  else if s.sched = held then 0x13
  else if s.sched = run then (if s.holdAsserted then 0x11 else 0x04)
  else 0x02

/-- The conditions of LED_B, in order (R562). -/
def State.ledConditions (s : State) : List Bool :=
  [s.on PWR_STATUS.Pfail, s.tripLatched, s.on PWR_CLK.XtalFailed || !s.on PWR_CLK.RefSysOk || !s.on PWR_CLK.PllLock,
   s.boot.tried != 0, s.on RST_STATUS.OptInvalid, s.on FLT_STATUS.CuratorSolo, s.on FLT_STATUS.Uncovered,
   (List.range 96).any (fun b => s.bankState b == bkUnsealed) || s.on STK_STATUS.LogLost || s.on STK_STATUS.PoolLost,
   (List.range 48).any (fun l => s.linkExists l && s.on (onLink LNK_CTRL.Enable l) && s.linkState l == lkDown),
   s.on HPT_IRQ_STATUS.Uncorrectable, s.mnt.runs.any (fun r => match r.2 with
     | some b => b.outcome == 1
     | none => false),
   s.on FAB_STATUS.DupId]

/-- LED_B under the bridge's own choice (R562). -/
def State.ledOwnB (s : State) : Nat :=
  match s.ledConditions.findIdx? (· == true) with
  | some i => 0x11 + i
  | none => 0

/-- The pattern in force on LED_A. -/
def State.ledA (s : State) : Nat := if s.fld MNT_LED.PatternA = 0xFF then s.ledOwnA else s.fld MNT_LED.PatternA

/-- The pattern in force on LED_B. -/
def State.ledB (s : State) : Nat := if s.fld MNT_LED.PatternB = 0xFF then s.ledOwnB else s.fld MNT_LED.PatternB

/-- MNT_LED as a read returns it. -/
def State.ledWord (s : State) : Word :=
  MNT_LED.ShownB.put (MNT_LED.ShownA.put (s.rd MNT_LED) s.ledA) s.ledB

/-- MNT_STATUS and MNT_BIST as a read returns them. -/
def State.mntStatus (s : State) : Word :=
  MNT_STATUS.JtagTest.put (MNT_STATUS.BistBusy.put (s.rd MNT_STATUS) (!s.bistsRunning.isEmpty).toNat) s.jtagTest.toNat
def State.mntBist (s : State) : Word := MNT_BIST.Busy.put (s.rd MNT_BIST) (!s.bistsRunning.isEmpty).toNat

/-! ## Console rate (R549) -/

/-- The baud rate of Div and Frac: 48,000,000 ÷ (16 Div + Frac), rounded down. -/
def baudOf (div frac : Nat) : Nat := 48000000 / (16 * div + frac)

/-- The divider nearest to a rate, in sixteenths. -/
def baudDivider (baud : Nat) : Nat := (48000000 + baud / 2) / baud

/-- A rate the divider reaches within ±1 %, from 9,600 to 3,000,000 baud. -/
def baudOk (baud : Nat) : Bool :=
  let n := baudDivider baud
  decide (9600 ≤ baud) && decide (baud ≤ 3000000) &&
  decide (100 * 48000000 ≤ 101 * baud * n) && decide (99 * baud * n ≤ 100 * 48000000)

/-- The rate and the mode after reset set. -/
def State.setConsole (s : State) (baud mode : Nat) : State :=
  let n := baudDivider baud
  ((s.setF MNT_CONSOLE.Div (n / 16)).setF MNT_CONSOLE.Frac (n % 16)).setF MNT_CONSOLE.ModeAfterReset mode

/-- CONSOLE_CONFIG. -/
def execConsoleConfig (h : SlipHdr) (baud : Word) (mode : Byte) (s : State) : Result :=
  .next (s.runSlip h 0x0906 .none (fun s =>
    if !baudOk baud.toNat ∨ 1 < mode.toNat then refuse s stValueRange else (s.setConsole baud.toNat mode.toNat, okAns)))

/-- A write of MNT_CONSOLE. -/
def State.writeConsole (s : State) (v : Word) : State :=
  let n := v.toNat % 0x10000 / 16 * 16 + v.toNat % 16
  if n = 0 ∨ 48000000 < 9600 * n ∨ 3000000 * n < 48000000 then s.mntRefused else s.wr MNT_CONSOLE (v &&& 0x1FFFF#32)

/-- MNT_INFO. -/
def execMntInfo (h : SlipHdr) (s : State) : Result :=
  .next (s.runSlip h 0x0900 .none (fun s =>
    (s, .done stOk (leBytes 1 (s.fld MNT_STATUS.ConsoleMode) ++ leBytes 3 0 ++
      leBytes 4 (baudOf (s.fld MNT_CONSOLE.Div) (s.fld MNT_CONSOLE.Frac)) ++ leBytes 2 0x5A ++ leBytes 2 (s.fld MNT_AMON.Source) ++
      leBytes 2 (s.fld MNT_FMON.Source) ++ leBytes 2 (s.fld MNT_FMON.Div) ++ leBytes 1 s.ledA ++ leBytes 1 s.ledB))))

/-! ## Fuses (R537 to R539, R565) -/

/-- FUSE_READ. -/
def execFuseRead (h : SlipHdr) (w : BitVec 16) (s : State) : Result :=
  .next (s.runSlip h 0x0907 .none (fun s =>
    if 0x41F < w.toNat then refuse s stValueRange else (s, .done stOk (leBytes 4 (s.otpWord w.toNat).toNat))))

/-- A word that FUSE_PROGRAM can address (R565). -/
def fuseProgrammable (w : Nat) : Bool :=
  decide (w ≤ 0x41F) && !(w == 0x407 || w == 0x415 || w == 0x416 || w == 0x417 || decide (0x41A ≤ w))

/-- A word that R537 or R539 locks; the lock bits act from the AON latches. -/
def State.fuseLocked (s : State) (w : Nat) : Bool :=
  let c := tget (fun _ => 0#32) s.boot.fuses 0x406
  if w < 0x400 then c.getLsbD 2
  else if w < 0x406 then c.getLsbD 3
  else if w = 0x406 then c.getLsbD 4
  else w != 0x414

/-- FUSE_PROGRAM; which of the requested bits read back as 1 is a free value. -/
def execFuseProgram (h : SlipHdr) (w : BitVec 16) (bits key : Word) (s : State) : Result :=
  .next (s.runSlip h 0x0908 .none (fun s =>
    let n := w.toNat
    let old := s.otpWord n
    if key ≠ 0xA55A5AA5#32 ∨ !fuseProgrammable n then refuse s stValueRange
    else if s.fuseLocked n ∨ old &&& bits ≠ 0#32 then refuse s stFuseState
    else if !s.supplied 6 then refuse s stVppAbsent
    else
      let f := s.takeFree
      let new := old ||| (bits &&& f.1)
      let t := { f.2 with boot := { f.2.boot with otp := tset (fun _ => 0#32) f.2.boot.otp n new } }
      ((t.raise MNT_IRQ_STATUS.FuseProgrammed).logEvent 0x0902 n (leBytes 4 bits.toNat ++ leBytes 4 new.toNat),
       .done stOk (leBytes 4 new.toNat))))

/-! ## Flash (R510, R543) -/

/-- The size of the QSPI flash: at least 4 MB. -/
def flashSize : Nat := 0x400000 + Config.flashExtra

/-- FLASH_WRITE. -/
def execFlashWrite (h : SlipHdr) (flash stk len : Word) (s : State) : Result :=
  .next (s.runSlip h 0x0909 .none (fun s =>
    let n := len.toNat
    if n = 0 ∨ flashSize < flash.toNat + n then refuse s stValueRange
    else if stk.toNat < 2 * bankSize ∨ stkEnd < stk.toNat + n then refuse s stAddressInvalid
    else (s, .accepted (.flashWrite flash.toNat stk.toNat n))))

/-- Bytes stored in the flash. -/
def putFlash : Tab Byte → Nat → List Byte → Tab Byte
  | f, _, [] => f
  | f, o, b :: r => putFlash (tset (fun _ => 0xFF#8) f o b) (o + 1) r

/-- FLASH_WRITE_DONE: the oldest write ends.  A failed erase or program leaves free values in the range; a poisoned or
unusable source ends the write before it with MEDIA_ERROR. -/
def execFlashWriteDone (failed : Bool) (s : State) : Result :=
  .next (match s.cmd.background.find? (fun g => match g.cmd with
      | .flashWrite _ _ _ => true
      | _ => false) with
    | none => s
    | some g =>
      match g.cmd with
      | .flashWrite o src n =>
        if failed then
          let bs := (List.range n).map (fun i => (Config.freeWord (s.free + i)).truncate 8)
          { s with free := s.free + n, boot := { s.boot with flash := putFlash s.boot.flash o bs } }.finishBackground g stFlashError []
        else match s.stkRead rqCurator src n with
          | (_, .wait) => s
          | (t, .data bs) => { t with boot := { t.boot with flash := putFlash t.boot.flash o bs } }.finishBackground g stOk []
          | (t, _) => t.finishBackground g stMediaError []
      | _ => s)

/-- FLASH_VERIFY. -/
def execFlashVerify (h : SlipHdr) (slot : Byte) (s : State) : Result :=
  .next (s.runSlip h 0x090A .none (fun s =>
    if 1 < slot.toNat then refuse s stValueRange
    else
      let why := s.slotReason slot.toNat
      if why = 6 then refuse s stFlashError
      else if why ≠ 0 then refuse s stSignatureInvalid
      else (s, .done stOk (leBytes 4 1 ++ leBytes 4 (Config.slotVersion s.boot.flash slot.toNat).toNat))))

/-! ## Breaks and modes (R550) -/

/-- Text mode with an empty line and no partial frame. -/
def State.textMode (s : State) : State :=
  { (s.setF MNT_STATUS.ConsoleMode 0) with mnt := { s.mnt with line := some [], cr := false, frame := [] } }

/-- A break, short (0) or long (1). -/
def State.breakSeen (s : State) (long : Nat) : State :=
  ((s.textMode.inc MNT_BREAKS).raise MNT_IRQ_STATUS.Break).logEvent 0x0903 long []

/-- BREAK. -/
def execUartBreak (s : State) : Result := .next (s.breakSeen 0)

/-- LONG_BREAK: the rate returns to 115,200 baud and ModeAfterReset to text. -/
def execLongBreak (s : State) : Result :=
  .next ((((s.breakSeen 1).setF MNT_CONSOLE.Div 26).setF MNT_CONSOLE.Frac 1).setF MNT_CONSOLE.ModeAfterReset 0)

/-! ## Text commands (R495, R553) -/

/-- The console takes text commands: text mode, with firmware or recovery running. -/
def State.textRuns (s : State) : Bool := s.consoleRuns && !s.on MNT_STATUS.ConsoleMode

/-- A line answered at once, with CR LF and the prompt (R551). -/
def State.answerLine (s : State) (t : String) : State := (s.consoleOut (ascii t)).consoleOut s.prompt

/-- The 64 bytes of a call slip (R479), with L the count of the parameter bytes given. -/
def slipBytes (op seq target : Nat) (params : List Byte) : List Byte :=
  let b := padTo 60 (leBytes 2 op ++ leBytes 2 seq ++ leBytes 2 target ++ [0#8] ++ leBytes 1 (min 255 params.length) ++ params)
  b ++ leBytes 4 (crc32c b).toNat

/-- A call slip of a text command, numbered by the console's own counter, with the form of its answer (R553). -/
def State.textSlip (s : State) (op : Nat) (params : List Byte) (a : TextAns) : State :=
  let q := s.mnt.seq
  { s with mnt := { s.mnt with seq := q + 1#16, texts := s.mnt.texts.filter (fun (x : Nat × TextAns) => x.1 != q.toNat) ++ [(q.toNat, a)] } }.queueSlip
    .console (slipBytes op q.toNat 0xFFFF params)

/-- HELP. -/
def State.textHelp (s : State) : State :=
  s.answerLine ("HELP, INFO, STATUS, LOG [n], LANE l, LINK l, AMON s, FMON s d, LED a|b p|AUTO, BIST t [u] [o], BIST? t, " ++
    "FUSE w, FUSE PROG w bits key, BAUD r [m], FRAMED, SLIP seq name [@node] [bytes]")

/-- INFO. -/
def State.textInfo (s : State) : State := (s.textSlip 0x0000 [] (.fields "DEV_INFO")).textSlip 0x0002 [] (.fields "FW_INFO")

/-- STATUS, with the lamp codes shown. -/
def State.textStatus (s : State) : State :=
  let t := s.consoleOut (ascii "LED " ++ hexN 2 s.ledA ++ ascii " " ++ hexN 2 s.ledB ++ [13#8, 10#8])
  ((t.textSlip 0x0100 [] (.fields "FRAME_INFO")).textSlip 0x0500 [] (.fields "EDG_INFO")).textSlip 0x0610 [] (.fields "FAB_INFO")

/-- LOG n: the newest n entries, newest first; FLT_LOG_HEAD names the index after the newest. -/
def State.textLog (s : State) (n : Nat) : State :=
  if n < 1 ∨ 0x40 < n then s.answerLine (statusName stValueRange)
  else
    let head := s.fld FLT_LOG_HEAD.Next
    (s.textSlip 0x0A00 [] (.fields "LOG_INFO")).each (List.range n) (fun i t =>
      let ix := (head + 4096 - 1 - i) % 4096
      t.each [0, 1] (fun half t => t.textSlip 0x0A01 (leBytes 2 ix ++ leBytes 1 half) (.fields "LOG_READ")))

/-- BIST t u o. -/
def State.textBist (s : State) (test unit options : Nat) : State :=
  s.textSlip 0x0901 (leBytes 1 test ++ [0#8] ++ leBytes 2 unit ++ leBytes 4 options) (.bist test unit)

/-- SLIP seq op node bytes (R495): L is their count, so more bytes than a slip holds fail the length check of R483 in its turn. -/
def State.textCall (s : State) (seq op node : Nat) (params : List Byte) : State := s.queueSlip .console (slipBytes op seq node params)

/-- FRAMED. -/
def State.textFramed (s : State) : State :=
  { ((s.answerLine "OK FRAMED").setF MNT_STATUS.ConsoleMode 1) with mnt := { s.mnt with
      tx := (s.answerLine "OK FRAMED").mnt.tx, line := some [], frame := [] } }

/-- A text command acts only while the console takes text commands; with the console path disabled it is discarded and counted
(R485). -/
def State.text (s : State) (f : State → State) : Result :=
  .next (if !s.textRuns then s else if s.on CMD_CTRL.ConsoleEn then f s else s.inc CMD_PATHDROP)

def execTextHelp (s : State) : Result := s.text State.textHelp
def execTextInfo (s : State) : Result := s.text State.textInfo
def execTextStatus (s : State) : Result := s.text State.textStatus
def execTextLog (n : Option Byte) (s : State) : Result := s.text (·.textLog (n.getD 8#8).toNat)
def execTextLane (l : Byte) (s : State) : Result := s.text (·.textSlip 0x0680 [l] (.fields "LANE"))
def execTextLink (l : Byte) (s : State) : Result := s.text (·.textSlip 0x0600 [l] (.fields "LINK"))
def execTextAmon (source : BitVec 16) (s : State) : Result := s.text (·.textSlip 0x0903 (leBytes 2 source.toNat) .ok)
def execTextFmon (source div : BitVec 16) (s : State) : Result :=
  s.text (·.textSlip 0x0904 (leBytes 2 source.toNat ++ leBytes 2 div.toNat) .ok)
def execTextLed (led pattern : Byte) (s : State) : Result := s.text (·.textSlip 0x0905 [led, pattern] .ok)
def execTextBist (test : Byte) (unit : Option (BitVec 16)) (options : Option Word) (s : State) : Result :=
  s.text (·.textBist test.toNat (unit.getD 0xFFFF#16).toNat (options.getD 0#32).toNat)
def execTextBistQuery (test : Byte) (s : State) : Result := s.text (·.textSlip 0x0902 [test] (.bist test.toNat 0x10000))

/-- FUSE w and FUSE PROG w bits key. -/
def State.textFuse (s : State) (w : Nat) (prog : Option (Word × Word)) : State :=
  match prog with
  | none => s.textSlip 0x0907 (leBytes 2 w) .word
  | some (bits, key) => s.textSlip 0x0908 (leBytes 2 w ++ [0#8, 0#8] ++ leBytes 4 bits.toNat ++ leBytes 4 key.toNat) .word

def execTextFuse (w : BitVec 16) (prog : Option (Word × Word)) (s : State) : Result := s.text (·.textFuse w.toNat prog)

/-- BAUD r m; m defaults to the present ModeAfterReset. -/
def State.textBaud (s : State) (rate : Nat) (mode : Option Byte) : State :=
  s.textSlip 0x0906 (leBytes 4 rate ++ leBytes 1 ((mode.map (·.toNat)).getD (s.fld MNT_CONSOLE.ModeAfterReset))) .ok

def execTextBaud (rate : Word) (mode : Option Byte) (s : State) : Result := s.text (·.textBaud rate.toNat mode)
def execTextFramed (s : State) : Result := s.text State.textFramed
def execTextSlip (seq op : BitVec 16) (node : Option (BitVec 16)) (params : List Byte) (s : State) : Result :=
  s.text (·.textCall seq.toNat op.toNat (node.getD 0xFFFF#16).toNat params)

/-! ### Lines -/

/-- The words of a line. -/
def splitWords : List Byte → List Byte → List (List Byte)
  | cur, [] => if cur.isEmpty then [] else [cur]
  | cur, b :: r => if b = 32#8 then (if cur.isEmpty then splitWords [] r else cur :: splitWords [] r) else splitWords (cur ++ [b]) r

/-- The value of a hexadecimal digit. -/
def digitVal (b : Byte) : Option Nat :=
  let n := b.toNat
  if 48 ≤ n ∧ n ≤ 57 then some (n - 48)
  else if 65 ≤ n ∧ n ≤ 70 then some (n - 55)
  else if 97 ≤ n ∧ n ≤ 102 then some (n - 87)
  else none

/-- A hexadecimal number of at most 32 bits. -/
def hexVal (w : List Byte) : Option Nat :=
  if w.isEmpty then none
  else (w.foldl (fun a b => match a, digitVal b with
    | some x, some d => some (16 * x + d)
    | _, _ => none) (some 0)).filter (fun n => decide (n < 2 ^ 32))

/-- The bytes spelled by pairs of hexadecimal digits. -/
def pairBytes : List Byte → Option (List Byte)
  | [] => some []
  | [_] => none
  | a :: b :: r =>
    match digitVal a, digitVal b, pairBytes r with
    | some x, some y, some t => some (BitVec.ofNat 8 (16 * x + y) :: t)
    | _, _, _ => none

/-- A word that spells a name. -/
def wordIs (w : List Byte) (name : String) : Bool := w == ascii name

/-- The opcode that a SLIP line names: a mnemonic or four digits (R495). -/
def slipName (w : List Byte) : Option Nat :=
  match opRows.find? (fun r => wordIs w r.name) with
  | some r => some r.op
  | none => if w.length = 4 then hexVal w else none

/-- SLIP seq name [@node] [bytes]. -/
def State.slipLine (s : State) (ws : List (List Byte)) : Option State :=
  match ws with
  | seq :: name :: rest =>
    let node : Option Nat × List (List Byte) := match rest with
      | (0x40#8 :: n) :: r => (hexVal n, r)
      | r => (some 0xFFFF, r)
    match hexVal seq, slipName name, node.1, pairBytes node.2.flatten with
    | some q, some op, some n, some ps => if q < 0x10000 ∧ n < 0x10000 then some (s.textCall q op n ps) else none
    | _, _, _, _ => none
  | _ => none

/-- A line parsed as a text command (R553); none: it is none of them. -/
def State.lineCommand (s : State) (ws : List (List Byte)) : Option State :=
  let num (w : List Byte) (top : Nat) : Option Nat := (hexVal w).filter (fun n => decide (n ≤ top))
  match ws with
  | [] => none
  | c :: args =>
    if wordIs c "SLIP" then s.slipLine args
    else match args with
      | [] =>
        if wordIs c "HELP" then some s.textHelp
        else if wordIs c "INFO" then some s.textInfo
        else if wordIs c "STATUS" then some s.textStatus
        else if wordIs c "LOG" then some (s.textLog 8)
        else if wordIs c "FRAMED" then some s.textFramed
        else none
      | [a] =>
        if wordIs c "LOG" then (num a 0xFF).map s.textLog
        else if wordIs c "LANE" then (num a 0xFF).map (fun n => s.textSlip 0x0680 (leBytes 1 n) (.fields "LANE"))
        else if wordIs c "LINK" then (num a 0xFF).map (fun n => s.textSlip 0x0600 (leBytes 1 n) (.fields "LINK"))
        else if wordIs c "AMON" then (num a 0xFFFF).map (fun n => s.textSlip 0x0903 (leBytes 2 n) .ok)
        else if wordIs c "BIST" then (num a 0xFF).map (fun n => s.textBist n 0xFFFF 0)
        else if wordIs c "BIST?" then (num a 0xFF).map (fun n => s.textSlip 0x0902 (leBytes 1 n) (.bist n 0x10000))
        else if wordIs c "FUSE" then (num a 0xFFFF).map (fun n => s.textFuse n none)
        else if wordIs c "BAUD" then (hexVal a).map (fun n => s.textBaud n none)
        else none
      | [a, b] =>
        if wordIs c "FMON" then (num a 0xFFFF).bind (fun x => (num b 0xFFFF).map (fun y =>
          s.textSlip 0x0904 (leBytes 2 x ++ leBytes 2 y) .ok))
        else if wordIs c "LED" then
          (if a = [0x61#8] then some 0 else if a = [0x62#8] then some 1 else none).bind (fun x =>
            (if wordIs b "AUTO" then some 0xFF else num b 0xFF).map (fun y => s.textSlip 0x0905 (leBytes 1 x ++ leBytes 1 y) .ok))
        else if wordIs c "BIST" then (num a 0xFF).bind (fun x => (num b 0xFFFF).map (fun y => s.textBist x y 0))
        else if wordIs c "BAUD" then (hexVal a).bind (fun x => (num b 0xFF).map (fun y => s.textBaud x (some (BitVec.ofNat 8 y))))
        else none
      | [a, b, d] =>
        if wordIs c "BIST" then (num a 0xFF).bind (fun x => (num b 0xFFFF).bind (fun y => (hexVal d).map (fun z => s.textBist x y z)))
        else none
      | [a, b, d, e] =>
        if wordIs c "FUSE" && wordIs a "PROG" then
          (num b 0xFFFF).bind (fun w => (hexVal d).bind (fun x => (hexVal e).map (fun k =>
            s.textFuse w (some (BitVec.ofNat 32 x, BitVec.ofNat 32 k)))))
        else none
      | _ => none

/-- The line typed ends: carried out, discarded and counted where the console path is disabled (R485), or answered ?LONG where it was
too long; a line that is no command is answered by the prompt alone. -/
def State.endLine (s : State) : State :=
  let t := { s with mnt := { s.mnt with line := some [] } }
  match s.mnt.line with
  | none => (t.inc MNT_LINEDROP).answerLine "?LONG"
  | some bs => match t.lineCommand (splitWords [] bs) with
    | some u => if t.on CMD_CTRL.ConsoleEn then u else t.inc CMD_PATHDROP
    | none => t.consoleOut t.prompt

/-- TEXT_LINE: the line collected ends. -/
def execTextLine (s : State) : Result := .next (if s.textRuns then s.endLine else s)

/-- CHARACTER_RECEIVED: a character in text mode is echoed and edited into the line; in framed mode it goes to the frame
receiver; one that overflows the buffer or has a framing error (`ok` false) is counted (R549 to R551). -/
def execCharacterReceived (c : Byte) (ok : Bool) (s : State) : Result :=
  .next (
    if !s.consoleRuns then s
    else if !ok then (s.inc MNT_UARTERR).raise MNT_IRQ_STATUS.UartError
    else if s.on MNT_STATUS.ConsoleMode then
      State.scanFrame 67 { s with mnt := { s.mnt with frame := s.mnt.frame ++ [c] } }
    else
      let t := { s with mnt := { s.mnt with cr := c == 13#8 } }
      if c = 10#8 ∧ s.mnt.cr then t
      else
        let e := t.consoleOut [c]
        if c = 13#8 ∨ c = 10#8 then e.endLine
        else match s.mnt.line with
          | none => e
          | some bs =>
            let keep (l : Option (List Byte)) : State := { e with mnt := { e.mnt with line := l } }
            if c = 0x08#8 ∨ c = 0x7F#8 then keep (some bs.dropLast)
            else if c = 0x15#8 then keep (some [])
            else if 160 ≤ bs.length then keep none
            else keep (some (bs ++ [c])))

/-! ## M2W (R555 to R557) -/

/-- The byte at an M2W address (R556), HOLD_N low only where the bridge asserts it. -/
def State.m2wByte (s : State) (a : Nat) : Byte :=
  let byte (v i : Nat) : Byte := BitVec.ofNat 8 (v / 2 ^ (8 * i))
  if a = 0x00 then 0x60#8
  else if a = 0x01 then 0x72#8
  else if a = 0x02 then 0xB0#8
  else if a = 0x03 then
    BitVec.ofNat 8 (s.fld RST_STATUS.BootState + 4 * s.fld PWR_STATUS.Pfail + 8 * s.fld EDG_STATUS.HoldAsserted +
      16 * s.fld PWR_STATUS.CoreGood + 32 * s.fld PWR_STATUS.SramGood + 64 * (s.rst.stage == .asleep).toNat +
      128 * s.fld PWR_CLK.AoSource)
  else if a = 0x04 ∨ a = 0x05 then byte (s.fld RST_CAUSE.Sources) (a - 0x04)
  else if a = 0x06 ∨ a = 0x07 then byte (s.fld RST_CAUSE_ALL.Sources) (a - 0x06)
  else if a = 0x08 then byte (s.fld PWR_WAKE.Source) 0
  else if a = 0x09 then byte s.ledB 0
  else if a = 0x0A ∨ a = 0x0B then byte ((s.folioWord 8).toNat % 1024) (a - 0x0A)
  else if a = 0x0C then (if s.on PWR_STATUS.CoreGood then byte (s.fld MNT_TEMP.Temp) 0 else 0x80#8)
  else if 0x10 ≤ a ∧ a ≤ 0x4F then byte (s.rd (RST_BACKUP ((a - 0x10) / 4))).toNat ((a - 0x10) % 4)
  else 0#8

/-- The port works: VDD_AON and VDD_IO are present (R548). -/
def State.m2wWorks (s : State) : Bool := s.supplied 0 && s.supplied 4

/-- The command byte 0x01 (R557). -/
def State.m2wWake (s : State) : State := (s.wake 1).raise MNT_IRQ_STATUS.M2wCommand

/-- The command byte 0x02 (R557): it asserts HOLD_N once VDD_CORE is up. -/
def State.m2wHold (s : State) : State :=
  (if s.on PWR_STATUS.CoreGood then s.assertHold 0 else { s with rst := { s.rst with holdDue := true } }).raise MNT_IRQ_STATUS.M2wCommand

/-- Bytes written from the pointer onwards; only 0x80 takes one. -/
def State.m2wPut : Nat → List Byte → State → State
  | _, [], s => s
  | a, b :: r, s =>
    let t := if a % 256 ≠ 0x80 then s else if b = 1#8 then s.m2wWake else if b = 2#8 then s.m2wHold else s
    State.m2wPut (a + 1) r t

/-- A transfer addressed to the bridge: counted, and an address match in deep sleep wakes it as the M2W source where that
source is enabled (R526, R557). -/
def State.m2wMatch (s : State) : State :=
  let t := (s.inc MNT_M2WXFER).curEdge 18
  t.wakeIf 1

/-- M2W_WRITE: the first data byte sets the pointer, the others are written from there. -/
def execM2wWrite (ptr : Byte) (data : List Byte) (s : State) : Result :=
  .next (if !s.m2wWorks then s
    else
      let t := { s with mnt := { s.mnt with m2wPtr := ptr + BitVec.ofNat 8 data.length } }
      State.m2wPut ptr.toNat data t.m2wMatch)

/-- M2W_READ: `n` bytes from the pointer, all taken at the address phase. -/
def execM2wRead (n : Fin 257) (s : State) : Result :=
  .next (if !s.m2wWorks then s
    else
      let hold := if s.holdPin.2 then 0#8 else 8#8
      let bs := (List.range n).map (fun i =>
        let a := (s.mnt.m2wPtr.toNat + i) % 256
        if a = 3 then s.m2wByte a ||| hold else s.m2wByte a)
      let t := s.holdPin.1
      { t with mnt := { t.mnt with m2wPtr := t.mnt.m2wPtr + BitVec.ofNat 8 n, m2wOut := bs } }.m2wMatch)

/-- M2W_WAKE. -/
def execM2wWake (s : State) : Result := .next (if s.m2wWorks then s.m2wWake else s)

/-- M2W_HOLD. -/
def execM2wHold (s : State) : Result := .next (if s.m2wWorks then s.m2wHold else s)

/-! ## JTAG (R566, R567) -/

/-- A TAP instruction at Update-IR. -/
def State.tapInstr (s : State) (code : Byte) : Result :=
  .next (if !s.tapWorks then s else { s with mnt := { s.mnt with tap := code } })

/-- TAP_RESET selects IDCODE. -/
def execTapReset (s : State) : Result := s.tapInstr 0x01#8
def execExtest (s : State) : Result := s.tapInstr 0x00#8
def execIdcode (s : State) : Result := s.tapInstr 0x01#8
def execSamplePreload (s : State) : Result := s.tapInstr 0x02#8
def execClamp (s : State) : Result := s.tapInstr 0x04#8
def execHighz (s : State) : Result := s.tapInstr 0x05#8
def execExtestPulse (s : State) : Result := s.tapInstr 0x08#8
def execExtestTrain (s : State) : Result := s.tapInstr 0x09#8
/-- The identification register: version 1, part 0x7260, manufacturer 0x7B5 (R566). -/
def tapIdcode : Word := 0x17260F6B#32

/-- The register a TAP scan passes through: IDCODE's 32 bits, the boundary register (none: its cells are in the BSDL file), or
BYPASS's single 0; every code the table does not list acts as BYPASS (R566, R567). -/
def State.tapRegister (s : State) : Option (List Bool) :=
  match s.tapActs with
  | 0x01#8 => some ((List.range 32).map tapIdcode.getLsbD)
  | 0x00#8 => none
  | 0x02#8 => none
  | 0x08#8 => none
  | 0x09#8 => none
  | _ => some [false]

def execBypass (s : State) : Result := s.tapInstr 0xFF#8

end Sys2Proof.Machine
end

