-- ==== Sys2Proof/Machine/Pins.lean ====
section
/-! DEFINITION. Machine/Pins.lean: what the bridge drives on its GATE, AUX, MCLK and slot pins (R17, R245, R257, R264, R271,
R272, R374 to R377, R533, R538, R558 to R560, R566, R576). -/

namespace Sys2Proof.Machine

/-- What a pin does: driven low or high, high-Z with a weak pull down or up, high-Z without one, or (a lamp) driven low by
turns so many times a second. -/
inductive Drive
  | low
  | high
  | pullDown
  | pullUp
  | float
  | blink (hz : Nat)
deriving DecidableEq, Repr

/-- The fuse-map state of the pin with index `i` (R538).  Before fuse sensing no word is latched, and the pin is high-Z with a
weak pull-down (R272). -/
def State.fuseDrive (s : State) (i : Nat) : Drive :=
  match (tget (fun _ => 0#32) s.boot.fuses (0x400 + i / 16)).toNat / 2 ^ (2 * (i % 16)) % 4 with
  | 0 => .pullDown
  | 1 => .low
  | 2 => .high
  | _ => .pullUp

/-- A push-pull level. -/
def driveOf (level : Bool) : Drive := if level then .high else .low

/-- GATE `g`, the H output of pair g / 2 where g is even and the L output where it is odd, by its polarity bit (R257, R264); the edge pins are powered
from VDD_EDGE (R514). -/
def State.gatePin (s : State) (g : Nat) : Drive :=
  if !s.supplied 5 then .float
  else if s.on EDG_STATUS.FuseMode then s.fuseDrive g
  else
    let o := s.pairOut (g / 2)
    let on := if g % 2 = 0 then o.h else o.l
    let activeLow := (s.rd (if g < 32 then EDG_POL_LO else EDG_POL_HI)).getLsbD (g % 32)
    driveOf (on != activeLow)

/-- AUX `k`: an output push-pull, or open-drain and then high-Z at a high level; an input high-Z (R271). -/
def State.auxPin (s : State) (k : Nat) : Drive :=
  if !s.supplied 5 then .float
  else if s.on EDG_STATUS.FuseMode then s.fuseDrive (48 + k)
  else if !(s.rd EDG_AUX_DIR).getLsbD k then .float
  else if (s.rd EDG_AUX_DIR).getLsbD (16 + k) && s.auxLevelOf k then .float
  else driveOf (s.auxLevelOf k)

/-- MCLK `m`: its fuse-map state until it is first enabled; then edge j rises at j × Period and falls ⌊Period / 2⌋ later, and
the pin is low with Enable 0 (R245). -/
def State.mclkPin (s : State) (m : Nat) : Drive :=
  if !s.supplied 5 then .float
  else if !s.edg.mclkUsed.getLsbD m then s.fuseDrive (64 + m)
  else
    let p := s.fld (EDG_MCLK.Period m)
    driveOf (s.on (EDG_MCLK.Enable m) && decide (s.now % p < p / 2))

/-- The outputs on VDD_IO that AON drives are powered (R514, R576). -/
def State.aonPins (s : State) : Bool := s.supplied 0 && s.supplied 4

/-- CORE_EN: high while the bridge needs VDD_CORE, low in deep sleep (R515, R524, R576). -/
def State.coreEnPin (s : State) : Drive := if s.aonPins then driveOf (s.rst.stage != .asleep) else .float

/-- A reset of Warm reach or wider, or its start-up up to the end of option loading (R374, R533). -/
def State.slotsInReset (s : State) : Bool := s.rst.phase != .none

/-- Mp_PWREN (R374 to R376). -/
def State.pwrenPin (s : State) (p : Nat) : Drive :=
  if !s.supplied 4 then .float
  else if s.slotsInReset then s.fuseDrive (68 + p)
  else driveOf (s.on (FAB_SLOT_CTRL.SlotEn p) && s.on (FAB_SLOT_STAT.PowerOn p))

/-- Mp_ATTNLED, open-drain, lit while it is driven low (R377). -/
def State.attnPin (s : State) (p : Nat) : Drive :=
  if !s.supplied 4 then .float
  else if s.slotsInReset then s.fuseDrive (80 + p)
  else match s.slotLed p with
    | 0 => .float
    | 1 => .low
    | 2 => .blink 1
    | _ => .blink 4

/-- AVS_VID `i`: bit i of the VDD_CORE target (R576). -/
def State.avsPin (s : State) (i : Nat) : Drive := if s.aonPins then driveOf ((s.fld PWR_AVS.Target).testBit i) else .float

/-- HOLD_N, open-drain: low while the bridge asserts it and VDD_EDGE powers its pull-down (R266). -/
def State.holdDrive (s : State) : Drive := if s.holdAsserted && s.supplied 5 then .low else .float

/-! ## Monitors and lamps (R558 to R560) -/

/-- Is a lamp that shows the pattern of code `p` lit, `ms` milliseconds after the pattern began (R560)? -/
def lampLit (p ms : Nat) : Bool :=
  match p with
  | 0x00 => false
  | 0x01 => true
  | 0x02 => decide (ms % 1000 < 500)
  | 0x03 => decide (ms % 250 < 125)
  | 0x04 => decide (ms % 1000 < 100)
  | _ =>
    let n := p - 0x10
    let t := ms % (400 * n + 2000)
    decide (t < 400 * n) && decide (t % 400 < 200)

/-- FMON `k` periods of its source after a rising edge: a square wave of Pre × Div periods, high for the rounded-up half (R559). -/
def fmonHigh (pre div k : Nat) : Bool := decide (k % (pre * div) < (pre * div + 1) / 2)

/-- The prescaler of an FMON source (R559). -/
def fmonPre (src : Nat) : Nat :=
  match src with
  | 1 => 1
  | 2 => 25
  | 3 => 1
  | 4 => 1000
  | 5 => 1000
  | 6 => 10000
  | 7 => 1
  | _ => if src < 0x10 then 1000 else 1000000

/-- The expected reading of AMON in millivolts; `rail` gives the supplies of sources 1 to 8 in millivolts, and none is a pin
that is high-Z (R558). -/
def State.amonReading (s : State) (rail : Nat → Int) : Option Int :=
  match s.fld MNT_AMON.Source with
  | 0 => none
  | 5 => some (rail 5 / 2)
  | 6 => some (rail 6 / 2)
  | 7 => some (rail 7 / 4)
  | 8 => some (rail 8 / 2)
  | 9 => some (600 + 4 * (BitVec.ofNat 8 (s.fld MNT_TEMP.Temp)).toInt)
  | 10 => some (700 + 5 * s.fld PWR_AVS.Target)
  | 11 => some 600
  | 12 => some 0
  | n => some (rail n)

end Sys2Proof.Machine
end

