-- ==== Sys2Proof/Machine/RegWrite.lean ====
section
/-! DEFINITION. Machine/RegWrite.lean: reads and writes of the bridge's registers: by access code (R5, R6) where a register
has no behaviour of its own, otherwise by the rule that gives it one, and the wait of R522 for a power-gated domain. -/

namespace Sys2Proof.Machine

/-- The word a write of `v` with the byte mask `m` puts to a register that holds `old`: RW bits of the bytes not written
keep their value, and every other bit of those bytes sees no access (R394). -/
def RegRow.merged (r : RegRow) (old v m : Word) : Word := (v &&& m) ||| (old &&& r.bits .rw &&& ~~~ m)

/-! ## Command channel (R490 to R493, R513) -/

/-- A refused CMD write. -/
def State.cmdRefused (s : State) : State := s.raise CMD_IRQ_STATUS.CfgRefused

/-- A write of a CMD register. -/
def State.writeCmd (s : State) (a : Nat) (v m : Word) : State :=
  if a = CMD_CTRL then
    let t := s.writeByCode CMD_CTRL (v &&& 0x6#32) (m &&& 0x6#32)
    if m.getLsbD 0 then t.writeRingEn (v.getLsbD 0) else t
  else if a = CMD_CQ_SIZE ∨ a = CMD_RQ_SIZE then
    if s.on CMD_CTRL.RingEn ∨ v.toNat % 16 < 3 ∨ 12 < v.toNat % 16 then s.cmdRefused else s.writeByCode a v m
  else if a = CMD_CQ_BASE_LO ∨ a = CMD_CQ_BASE_HI ∨ a = CMD_RQ_BASE_LO ∨ a = CMD_RQ_BASE_HI ∨
      a = CMD_RQ_TAILADDR_LO ∨ a = CMD_RQ_TAILADDR_HI then
    if s.on CMD_CTRL.RingEn then s.cmdRefused else s.writeByCode a v m
  else if a = CMD_DOORBELL then s.cmdDoorbell v.toNat
  else if a = CMD_RQ_HEAD then
    let t := s.setF CMD_RQ_HEAD.Index (v.toNat % 4096 % s.replySlots)
    (State.replyFlush t.cmd.hold.length t).intxUpdate
  else if a = CMD_RELAYTO then
    let n := v.toNat % 2 ^ 20
    if n < 10 ∨ 1000000 < n then s.cmdRefused else s.writeByCode a v m
  else if a = CMD_HOLDTO then if v.toNat % 2 ^ 16 = 0 then s.cmdRefused else s.writeByCode a v m
  else s.writeByCode a v m

/-! ## Frames (R28, R35, R68) -/

/-- A write of an FRM register. -/
def State.writeFrm (s : State) (a : Nat) (v m : Word) : State :=
  if a = FRM_CTRL then s.writeFrmCtrl v
  else if a = FRM_PERIOD then
    let n := v.toNat % 2 ^ 20
    if s.sched = stopped ∧ 2000 ≤ n ∧ n ≤ 1000000 then s.writeByCode a v m else s
  else if a = FRM_GUARD then
    let n := v.toNat % 128
    if 2 ≤ n ∧ n ≤ 64 then s.writeByCode a v m else s
  else if a = FRM_GATHER ∨ a = FRM_COMPUTE ∨ a = FRM_STAGE ∨ a = FRM_PREWAKE ∨ a = FRM_SHGUARD then
    if s.sched = stopped then s.writeByCode a v m else s
  else s.writeByCode a v m

/-! ## Stacks and fault recovery (R194, R200, R216, R244) -/

/-- A write of an STK register. -/
def State.writeStk (s : State) (a : Nat) (v m : Word) : State :=
  if STK_SPILL 0 ≤ a ∧ a < STK_SPILL 48 ∧ a % 4 = 0 then s.writeSpill ((a - STK_SPILL 0) / 4) v
  else if a = STK_INJECT ∧ s.eccTested (fun _ => true) then s
  else if a = STK_SCRUB then s.writeByCode a v (if v.toNat / 65536 = 0 then m &&& 0xFFFF#32 else m)
  else s.writeByCode a v m

/-- A write of an FLT register: Window 0 leaves Window, and FLT_INJECT.Armed sets only where R244 lets it. -/
def State.writeFlt (s : State) (a : Nat) (v m : Word) : State :=
  if a = FLT_HARD then s.writeByCode a v (if v.toNat / 65536 = 0 then m &&& 0xFFFF#32 else m)
  else if a = FLT_INJECT then
    let t := s.writeByCode a v (m &&& 0x7FFFFFFF#32)
    if m.getLsbD 31 && v.getLsbD 31 then t.armInjection else t
  else s.writeByCode a v m

/-! ## Edge I/O (R245 to R271) -/

/-- The state of an EDG configuration write: the new state, or one counted as refused (R245, R248, R251, R252). -/
def State.orRefused (r : State × Nat) : State := if r.2 = stOk then r.1 else r.1.edgRefused

/-- A write of an EDG register, by requester `who` of the staging arbiter of R262. -/
def State.writeEdg (s : State) (who a : Nat) (v m : Word) : State :=
  let o := a - 0x70000
  if a = EDG_HOLD then s.writeEdgHold v
  else if a = EDG_TRIP_ILK then s.clearLatches (v.toNat % 256) 0
  else if a = EDG_TRIP_MOD then s.clearLatches 0 v.toNat
  else if a = EDG_POL_LO ∨ a = EDG_AUX_DIR then (s.setInStopped a v).1
  else if a = EDG_POL_HI then (s.setInStopped a (v &&& 0xFFFF#32)).1
  else if a = EDG_AUX_SH0 ∨ a = EDG_AUX_SH1 then s.writeShadow a v
  else if a = EDG_AUX_SH2 then s.writeShadow a (v &&& 1#32)
  else if 0x100 ≤ o ∧ o < 0x110 ∧ o % 4 = 0 then State.orRefused (s.setMclk ((o - 0x100) / 4) (v.getLsbD 0) (cut v 15 8))
  else if 0x200 ≤ o ∧ o < 0x220 ∧ o % 4 = 0 then (s.setIlk ((o - 0x200) / 4) v).1
  else if 0x400 ≤ o ∧ o < 0x600 ∧ o % 4 = 0 then
    let c := (o - 0x400) / 16
    match o % 16 with
    | 0 => State.orRefused (s.setModCfg c v)
    | 4 => State.orRefused (s.setTrip c v (s.rd (EDG_MOD_THR c)) (s.rd (EDG_MOD_MASK c)))
    | 8 => State.orRefused (s.setTrip c (s.rd (EDG_MOD_TRIP c)) v (s.rd (EDG_MOD_MASK c)))
    | _ => State.orRefused (s.setTrip c (s.rd (EDG_MOD_TRIP c)) (s.rd (EDG_MOD_THR c)) v)
  else if 0x800 ≤ o ∧ o < 0x8C0 ∧ o % 4 = 0 then s.writePairHalf ((o - 0x800) / 8) (o % 8 == 4) v
  else if 0x1000 ≤ o ∧ o < 0x11C0 ∧ o % 4 = 0 then s.stageDyn who ((o - 0x1000) / 4) v
  else s.writeByCode a v m

/-! ## Lanes and links (R279, R286 to R295, R344) -/

/-- A write of register `o` of lane set `n`. -/
def State.writeLane (s : State) (n o : Nat) (v m : Word) : State :=
  match o with
  | 0x00 => s.writeLaneCtrl n v
  | 0x08 => s.writeTaps n (v.toNat % 16) (v.toNat / 32 % 64) (v.toNat / 2048 % 32)
  | 0x0C => (s.writeByCode (laneBase n + 0x0C) v m).laneAdapt n
  | 0x10 => s.writeLanePrbs n v
  | 0x20 => s.writeLaneMargin n v
  | _ => s.writeByCode (laneBase n + o) v m

/-- A write of an LNK register. -/
def State.writeLnk (s : State) (a : Nat) (v m : Word) : State :=
  let p := (a - 0x80000) / 0x1000
  let o := a % 0x1000
  let r := o % 0x100
  if 12 ≤ p then s
  else if o = 0 then s.writeSplit p (v.toNat % 4)
  else if 0x200 ≤ o ∧ o < 0x600 then
    let l := 4 * p + (o / 0x100 - 2)
    if r = 0 then s.writeLinkCtrl l v
    else if r = 8 ∨ r = 12 ∨ r = 16 ∨ r = 20 then s.writeLinkTimer l ((r - 8) / 4) v
    else s.writeByCode a v m
  else if o = 0xB00 then s.writeRate p (v.toNat % 4)
  else if 0xC00 ≤ o then s.writeLane (16 + 4 * p + (o / 0x100 - 12)) r v m
  else s

/-! ## Fabric (R345, R354, R374, R381) -/

/-- A write of an FAB register. -/
def State.writeFab (s : State) (a : Nat) (v m : Word) : State :=
  if a = FAB_NODE then s.writeNode v
  else if a = FAB_CTRL then s.writeFabCtrl v
  else if a = FAB_BEAT then if beatOk v then s.writeByCode a v m else s
  else if a = FAB_TIME_CFG then if timeCfgOk v then s.writeByCode a v m else s
  else if FAB_SLOT_CTRL 0 ≤ a ∧ a < FAB_SLOT_CTRL 12 ∧ a % 4 = 0 then s.writeSlotCtrl ((a - FAB_SLOT_CTRL 0) / 4) v
  else if FAB_FORM 0 ≤ a ∧ a < FAB_FORM 32 ∧ a % 4 = 0 then
    if s.on FAB_STATUS.Member then s else ((s.writeByCode a v m).notMemberCheck s.notMember).formCheck
  else if FAB_ROUTE 0 ≤ a ∧ a < FAB_ROUTE 1024 ∧ a % 4 = 0 then s.writeRoute ((a - FAB_ROUTE 0) / 4) v
  else s.writeByCode a v m

/-! ## Host port and interrupts (R398 to R410, R419, R422 to R442) -/

/-- A write of an HPT register. -/
def State.writeHpt (s : State) (a : Nat) (v m : Word) : State :=
  if a = HPT_CTRL then if v.toNat % 256 = 0 ∨ v.toNat / 256 % 65536 < 10 then s else s.writeByCode a v m
  else if a = HPT_WINCTRL then
    let t := s.writeByCode a (v &&& 4#32) m
    let t := if v.getLsbD 1 then t.windowsRevert else t
    if v.getLsbD 0 then t.winctrlCommit else t
  else if 0xAF000 ≤ a then s.writeLane ((a - 0xAF000) / 0x100) (a % 0x100) v m
  else s.writeByCode a v m

/-- A write of an IRQ register or of the MSI-X table. -/
def State.writeIrq (s : State) (a : Nat) (v m : Word) : State :=
  let o := a - 0xB0000
  if 0x200 ≤ o ∧ o < 0x300 ∧ o % 4 = 0 then s.ringDoorbell ((o - 0x200) / 4) (v.truncate 8)
  else if 0x1000 ≤ o ∧ o < 0x3000 ∧ o % 4 = 0 then s.writeIrqMod ((o - 0x1000) / 4) (v.toNat % 256) (v.toNat / 65536)
  else if 0x8000 ≤ o ∧ o % 16 = 12 then s.writeVectorMask ((o - 0x8000) / 16) (v.getLsbD 0)
  else s.writeByCode a v m

/-! ## Movers, carrels, power, reset and maintenance -/

/-- A write of a DMA register (R450, R458, R476). -/
def State.writeDma (s : State) (a : Nat) (v m : Word) : State :=
  let o := a - 0xC0000
  if a = DMA_QUANTUM then if v.toNat % 65536 = 0 then s else s.writeByCode a v m
  else if 0x1000 ≤ o ∧ o < 0x1800 ∧ o % 0x20 = 0 then s.writeShadow a (v &&& 0x80003FFF#32)
  else if 0x1000 ≤ o ∧ o < 0x1800 ∧ o % 0x20 = 4 then s.writeShadow a v
  else if 0x8000 ≤ o ∧ o % 8 = 0 then s.doorbell ((o - 0x8000) / 8) (v.toNat % 4096) (v.getLsbD 31)
  else s.writeByCode a v m

/-- A write of a PWR register (R519, R520, R523, R524, R546). -/
def State.writePwr (s : State) (a : Nat) (v m : Word) : State :=
  if a = PWR_CTRL then
    let t := if m.getLsbD 0 && v.getLsbD 0 != s.on PWR_CTRL.Standby then s.writeStandby (v.getLsbD 0) else s
    if v.getLsbD 1 then t.writeSleep else t
  else if a = PWR_PFAIL then
    let n := v.toNat % 2048
    if n < 10 ∨ 1000 < n then s else s.writeByCode a v m
  else if a = PWR_IDLE then if v.toNat % 65536 = 0 then s else s.writeByCode a v m
  else if PWR_DOM 0 ≤ a ∧ a < PWR_DOM 96 ∧ a % 4 = 0 then s.holdDomain ((a - PWR_DOM 0) / 4) (v.getLsbD 16)
  else s.writeByCode a v m

/-- A write of an RST register (R532, R535, R547). -/
def State.writeRst (s : State) (a : Nat) (v m : Word) : State :=
  if a = RST_SWREQ then if m = 0xFFFFFFFF#32 ∨ m &&& 0xFFFFFF01#32 = 0xFFFFFF01#32 then s.writeSwreq v else s
  else if a = RST_WDT_CFG then s.setWatchdog (v.getLsbD 0)
  else if a = RST_WDT_TO then if wdtOk v.toNat then s.writeByCode a v m else s
  else if a = RST_WDT_KICK then s.writeKick v
  else s.writeByCode a v m

/-- A write of an MNT register (R558 to R560, R569). -/
def State.writeMnt (s : State) (a : Nat) (v m : Word) : State :=
  if a = MNT_CONSOLE then s.writeConsole v
  else if a = MNT_AMON then s.writeAmon v
  else if a = MNT_FMON then s.writeFmon v
  else if a = MNT_LED then s.writeLed v
  else s.writeByCode a v m

/-- A write of an ENG register (R107, R153). -/
def State.writeEng (s : State) (a : Nat) (v m : Word) : State :=
  if a = ENG_STORE_TO then
    let n := v.toNat % 2 ^ 17
    if n < 10 ∨ 100000 < n then s else s.writeByCode a v m
  else if ENG_BAY_CFG 0 ≤ a ∧ a < ENG_BAY_CFG 64 ∧ a % 0x40 = 0 then s.writeBayCfg ((a - ENG_BAY_CFG 0) / 0x40) v
  else s.writeByCode a v m

/-! ## The register blocks (R393) -/

/-- The key is a register of a link that its port's split does not create: it reads 0 and ignores writes (R303). -/
def State.linkAbsent (s : State) (a : Nat) : Bool :=
  let p := (a - 0x80000) / 0x1000
  let o := a % 0x1000
  decide (0x80000 ≤ a) && decide (p < 12) && decide (0x200 ≤ o) && decide (o < 0x600) && !s.linkExists (4 * p + (o / 0x100 - 2))

/-- A write of `v` in the bytes of `m` to the register at BAR0 offset `a`, by requester `who` of R262. -/
def State.writeReg (s : State) (who a : Nat) (v0 m : Word) : State :=
  match regRow a with
  | none => s
  | some r =>
    if s.linkAbsent a then s else
    -- the bytes a write leaves out are those of the latch where one is held (R49; DEDUCED, assumption log 48)
    let v := r.merged (s.shadowNow a) v0 m
    if isWindowKey a then s.writeByCode (a + 0xB000000) v0 m
    else if (flagVector a).isSome then (s.writeByCode a v m).intxUpdate
    else if 4 ≤ a ∧ (flagVector (a - 4)).isSome then s.writeIrqEnable a (v &&& r.bits .rw)
    else match a / 0x10000 with
      | 0x01 => s.writeCmd a v m
      | 0x02 => s.writeFrm a v m
      | 0x04 => s.writeEng a v m
      | 0x05 => s.writeStk a v m
      | 0x06 => s.writeFlt a v m
      | 0x07 => s.writeEdg who a v m
      | 0x08 => s.writeLnk a v m
      | 0x09 => s.writeFab a v m
      | 0x0A => s.writeHpt a v m
      | 0x0B => s.writeIrq a v m
      | 0x0C => s.writeDma a v m
      | 0x0E => s.writePwr a v m
      | 0x0F => s.writeRst a v m
      | 0x10 => s.writeMnt a v m
      | _ => s.writeByCode a v m

/-- Registers whose LO half latches the HI half when read: the HI half's key (R26, R250, R293). -/
def hiHalf (a : Nat) : Option Nat :=
  if a = EDG_TRIP_STIME_LO then some EDG_TRIP_STIME_HI
  else if (0x80000 ≤ a ∧ a < 0x8C000 ∧ 0xC00 ≤ a % 0x1000 ∧ a % 0x100 = 0x18) ∨ (0xAF000 ≤ a ∧ a < 0xB0000 ∧ a % 0x100 = 0x18) then
    some (a + 4)
  else none

/-- The value of a register whose fields the hardware derives when they are read; none: as it is held. -/
def State.view (s : State) (a : Nat) : Option Word :=
  let o := a % 0x10000
  match a / 0x10000 with
  | 0x01 => if a = CMD_STATUS then some s.cmdStatus else none
  | 0x04 =>
    if ENG_BAY_STATUS 0 ≤ a ∧ a < ENG_BAY_STATUS 64 ∧ a % 0x40 = 4 then
      let b := (o - 0x1004) / 0x40
      some ((ENG_BAY_STATUS.Power b).put (s.rd a) (if s.bayAwake b then 0 else s.fld (ENG_BAY_STATUS.Power b)))
    else if ENG_BAY_CFG 0 ≤ a ∧ a < ENG_BAY_CFG 64 ∧ a % 0x40 = 0xC then
      let d := 32 + (o - 0x1000) / 0x40
      some (if s.domVotes d = 0 then BitVec.ofNat 32 (min 0xFFFFFFFF (s.idleTicks d)) else 0#32)
    else none
  | 0x05 => if a = STK_STATUS then some s.stkStatus else none
  | 0x06 =>
    if FLT_COVER 0 ≤ a ∧ a < FLT_COVER 64 ∧ a % 4 = 0 then
      let b := (a - FLT_COVER 0) / 4
      -- the fields of a frame hold 0 while the bay is not RUNNING
      let w := if s.bayState b = byRunning then s.rd a else 0#32
      some ((FLT_COVER.SpareReady b).put ((FLT_COVER.Paired b).put w (s.paired b).toNat) (s.spareReady b).toNat)
    else none
  | 0x0A =>
    if a = HPT_STATUS then some s.hptStatus
    else if a = HPT_TAGS then some s.hptTags
    else if a = HPT_CPLTO then some (BitVec.ofNat 32 s.cplTimeout)
    else none
  | 0x0B =>
    if a = IRQ_STATUS then some (BitVec.ofNat 32 (s.fld CFG_MSIX.Enable + 2 * s.fld CFG_MSIX.FunctionMask + 4 * s.irq.inta.toNat +
      8 * s.fld CFG_PMCSR.PmeStatus))
    else if a = IRQ_INTX then some ((List.range 16).foldl (fun w v => if s.intxCause v then w ||| BitVec.ofNat 32 (2 ^ v) else w) 0#32)
    else if 0x100 ≤ o ∧ o < 0x120 ∧ o % 4 = 0 then some (s.curPendWord ((o - 0x100) / 4))
    else if 0x200 ≤ o ∧ o < 0x300 ∧ o % 4 = 0 then some (s.doorbellWord ((o - 0x200) / 4))
    else none
  | 0x0C => if a = DMA_STATUS then some s.dmaStatus else if a = DMA_MOVER 31 then some s.mover31 else none
  | 0x0E =>
    if PWR_DOM 0 ≤ a ∧ a < PWR_DOM 96 ∧ a % 4 = 0 then
      let d := (a - PWR_DOM 0) / 4
      some ((PWR_DOM.Votes d).put ((PWR_DOM.State d).put (s.rd a) (s.domState d)) (s.domVotes d))
    else none
  | 0x10 =>
    if a = MNT_STATUS then some s.mntStatus
    else if a = MNT_BIST then some s.mntBist
    else if a = MNT_LED then some s.ledWord
    else none
  | _ => none

/-- The levels of the AUX pins (R271): a pin that the bridge drives has the level driven; the board sets every other pin,
and its level is free (assumption log 6). -/
def State.auxPins (s : State) : State × Word :=
  let f := s.takeFree
  (f.2, (List.range 16).foldl (fun w k => match s.auxPin k with
    | .low => w
    | .high => w ||| BitVec.ofNat 32 (2 ^ k)
    | _ => w ||| (f.1 &&& BitVec.ofNat 32 (2 ^ k))) 0#32)

/-- MaxOutstanding after a read of LNK_OUTST: the largest Outstanding since then is the one that stands (R344). -/
def State.keepMost (s : State) (a : Nat) : State :=
  if 0x80000 ≤ a ∧ a < 0x8C000 ∧ [0x21C, 0x31C, 0x41C, 0x51C].contains (a % 0x1000) then
    s.setF ⟨a, 26, 16⟩ (max (s.fld ⟨a, 26, 16⟩) (s.fld ⟨a, 10, 0⟩))
  else s

/-- A read of the register at BAR0 offset `a`, its RC fields in the bytes of `m` clearing. -/
def State.readReg (s : State) (a : Nat) (m : Word) : State × Word :=
  if s.linkAbsent a then (s, 0#32)
  else if a = FRM_STIME_LO then (s.wr FRM_STIME_HI (BitVec.ofNat 32 (s.now / 2 ^ 32)), BitVec.ofNat 32 s.now)
  else if a = FRM_FRAME_LO then (s.wr FRM_FRAME_HI (BitVec.ofNat 32 (s.frame / 2 ^ 32)), BitVec.ofNat 32 s.frame)
  else if a = CAT_EVENT then (s.popEvent.2, s.popEvent.1)
  else if a = EDG_AUX_IN then s.auxPins
  else if a = EDG_HOLD then s.holdWord
  else match hiHalf a with
    | some h => ({ s with hiLatch := tset (fun _ => 0#32) s.hiLatch h (s.rd h) }, s.rd a)
    | none =>
      if 4 ≤ a ∧ hiHalf (a - 4) = some a then (s, tget (fun _ => 0#32) s.hiLatch a)
      else match s.view a, regRow a with
        | some w, _ => (s, w)
        | none, none => (s, 0#32)
        | none, some r =>
          let w := s.rd a
          ((s.wr a ((r.afterRead w &&& m) ||| (w &&& ~~~ m))).keepMost a, r.readValue w)

/-! ## Carrel pages (R467, R478) -/

/-- What page offset `o` of carrel `c` names: a BAR0 register it shares, or a register of its own. -/
inductive PageReg
  | none
  | own (key : Nat)
  | shared (a : Nat)
  | ring (r : Nat)
  | ctrl
  | id
  | status
  | pba (k : Nat)
deriving DecidableEq, Repr

/-- The register at page offset `o` of carrel `c`. -/
def State.pageReg (s : State) (c o : Nat) : PageReg :=
  let slot (k : Nat) : Option Nat := if k < 64 ∧ s.on (CRP_RINGMAP.Valid c k) then some (s.fld (CRP_RINGMAP.Ring c k)) else Option.none
  let vec (j : Nat) : Option Nat := if j < 64 ∧ s.on (CRP_VECMAP.Valid c j) then some (s.fld (CRP_VECMAP.Vector c j)) else Option.none
  if !s.on (CRL_STATE.Exists c) ∨ o % 4 ≠ 0 then .none
  else if o = 0 then .id
  else if o = 4 then .ctrl
  else if o = 8 then .status
  else if o = 0xC then .own (CRP_EVENT c)
  else if 0x100 ≤ o ∧ o < 0x300 then match slot ((o - 0x100) / 8) with
    | some r => if o % 8 = 0 then .ring r else .shared (DMA_RING_STAT r)
    | Option.none => .none
  else if 0x400 ≤ o ∧ o < 0x500 then .own (CRP_RINGMAP c ((o - 0x400) / 4))
  else if 0x1000 ≤ o ∧ o < 0x1400 then match vec ((o - 0x1000) / 16) with
    | some v => .shared (IRQ_MSIX_W0 v + o % 16)
    | Option.none => .none
  else if 0x1800 ≤ o ∧ o < 0x1900 then match vec ((o - 0x1800) / 4) with
    | some v => .shared (IRQ_MOD v)
    | Option.none => .none
  else if 0x1900 ≤ o ∧ o < 0x1A00 then match vec ((o - 0x1900) / 4) with
    | some v => .shared (vstat v)
    | Option.none => .none
  else if o = 0x1C00 ∨ o = 0x1C04 then .pba ((o - 0x1C00) / 4)
  else if 0x1E00 ≤ o ∧ o < 0x1F00 then .own (CRP_VECMAP c ((o - 0x1E00) / 4))
  else .none

/-- A write to a carrel page. -/
def State.writePage (s : State) (c o : Nat) (v m : Word) : State :=
  match s.pageReg c o with
  | .ring r => if s.on (CRL_STATE.Resetting c) then s else s.writeReg 64 (DMA_RING_DB r) v m
  | .shared a => s.writeReg 64 a v m
  | .own k => s.writeByCode k v m
  | .ctrl => if m.getLsbD 0 && v.getLsbD 0 then s.pageReset c else s
  | _ => s

/-- A read of a carrel page. -/
def State.readPage (s : State) (c o : Nat) (m : Word) : State × Word :=
  match s.pageReg c o with
  | .ring r => s.readReg (DMA_RING_DB r) m
  | .shared a => s.readReg a m
  | .own k => (s, s.rd k)
  | .id => (s, BitVec.ofNat 32 (c + 2 ^ 8 * s.fld (CRL_STATE.Rings c) + 2 ^ 16 * s.fld (CRL_STATE.Vectors c)))
  | .status => (s, BitVec.ofNat 32 (s.fld (CRL_STATE.Ready c) + 2 * s.fld (CRL_STATE.Resetting c) +
      4 * (!s.on CFG_CMDSTS.BusMaster || s.fld CFG_PMCSR.PowerState == 3).toNat + 8 * (s.fld (CRL_SHARE_C.Current c) == 0).toNat))
  | .pba k => (s, (List.range 32).foldl (fun w i =>
      if s.on (CRP_VECMAP.Valid c (32 * k + i)) && s.on (pbaBit (s.fld (CRP_VECMAP.Vector c (32 * k + i)))) then
        w ||| BitVec.ofNat 32 (2 ^ i) else w) 0#32)
  | _ => (s, 0#32)

/-! ## The address space of a register access -/

/-- The key of BAR2 offset 0 (assumption log 3). -/
abbrev pageBase : Nat := 0x10000000

/-- The domain a register lies in, where that domain can be power-gated apart from the one the access comes through:
CATSW, MOV, the Maelid ports and the bays behind the engine windows (DEDUCED from R10, R114, R518). -/
def regDomain (a : Nat) : Option Nat :=
  if a / 0x10000 = 3 ∨ (0x400000 ≤ a ∧ a < 0x800000) then some 5
  else if a / 0x10000 = 0xC then some 8
  else if 0x80000 ≤ a ∧ a < 0x8C000 then some (20 + (a - 0x80000) / 0x1000)
  else if 0x2000000 ≤ a ∧ a < 0x4000000 then some (32 + (a - 0x2000000) / 0x80000)
  else none

/-- Has a domain its power? -/
def State.domainUp (s : State) (d : Nat) : Bool := 2 ≤ s.fld (PWR_DOM.State d)

/-- A write of a DW at BAR0 offset `a`, or at a page's or a bay register's key, performed; one to a Comp register is taken for its own
engine's. -/
def State.writeNow (s : State) (a : Nat) (v m : Word) : State :=
  if 0x20000000 ≤ a ∧ a < 0x20040000 then s.bayWrite ((a % 0x1000 - 0x900) / 16) ((a - 0x20000000) / 0x1000) (a % 0x1000) v m
  else if pageBase ≤ a then if a < 0x11000000 then s.writePage ((a - pageBase) / 0x10000) (a % 0x10000) v m else s
  else if 0x2000000 ≤ a then
    if a < 0x4000000 then
      s.windowWrite ((a - 0x2000000) / 0x10000) (a % 0x10000)
        ((List.range 4).map (fun i => if m.getLsbD (8 * i) then some (BitVec.ofNat 8 (v.toNat / 2 ^ (8 * i))) else none))
    else s
  else if 0x400000 ≤ a ∧ a < 0x800000 then s.inc CAT_WINWR
  else if a < 0x110000 then s.writeReg 64 a v m
  else s

/-- A read of a DW, performed. -/
def State.readNow (s : State) (a : Nat) (m : Word) : State × Word :=
  if 0x20000000 ≤ a ∧ a < 0x20040000 then s.bayRead ((a - 0x20000000) / 0x1000) (a % 0x1000) m
  else if pageBase ≤ a then if a < 0x11000000 then s.readPage ((a - pageBase) / 0x10000) (a % 0x10000) m else (s, 0#32)
  else if 0x2000000 ≤ a then
    if a < 0x4000000 then
      let e := (a - 0x2000000) / 0x10000
      (s.touchBay (e / 8),
       BitVec.ofNat 32 (leNat ((List.range 4).map (fun i => s.slotByte e (a % 0x10000 + i)))))
    else (s, 0#32)
  else if 0x400000 ≤ a ∧ a < 0x800000 then
    let id := (a - 0x400000) / 64
    if s.windowPoison id then
      let f := (s.catWindowRead id).takeFree
      (f.2, f.1)
    else (s.catWindowRead id, s.ctxViewWord id (a % 64 / 4) false)
  else if a < 0x110000 then s.readReg a m
  else (s, 0#32)

/-- The gated domain an access waits for (R522). -/
def State.accessDomain (s : State) (a : Nat) : Option Nat :=
  match regDomain a with
  | some d => if s.domainUp d then none else some d
  | none => none

/-- An access that places a vote on its power-gated domain and waits for it (R522). -/
def State.accessLater (s : State) (d a : Nat) (v : Option Word) (m : Word) : State :=
  let t := s.voteDom d true
  { t with pwr := { t.pwr with accesses := t.pwr.accesses ++ [(⟨d, a, v, m⟩ : RegAccess)] } }

/-- A register write, at once or when its domain runs. -/
def State.writeAt (s : State) (a : Nat) (v m : Word) : State :=
  match s.accessDomain a with
  | some d => s.accessLater d a (some v) m
  | none => s.writeNow a v m

/-- REGISTER_WRITE: all four bytes of a register. -/
def execRegisterWrite (a v : Word) (s : State) : Result := .next (s.writeAt (a.toNat / 4 * 4) v 0xFFFFFFFF#32)

/-- REGISTER_READ: the value is left in `readData`. -/
def execRegisterRead (a : Word) (s : State) : Result :=
  .next (let k := a.toNat / 4 * 4
    match s.accessDomain k with
    | some d => { s with readData := none }.accessLater d k none 0xFFFFFFFF#32
    | none =>
      let r := s.readNow k 0xFFFFFFFF#32
      { r.1 with readData := some r.2 })

/-- Is the register a shadow register of the EDG or DMA block (R48)? -/
def isShadow (a : Nat) : Bool :=
  a == EDG_AUX_SH0 || a == EDG_AUX_SH1 || a == EDG_AUX_SH2 ||
  (decide (EDG_PAIR_CFG 0 ≤ a) && decide (a < EDG_PAIR_CFG 24) && a % 4 == 0) ||
  (decide (DMA_CH_CFG 0 ≤ a) && decide (a < DMA_CH_CFG 64) && (a % 0x20 == 0 || a % 0x20 == 4))

/-- SHADOW_REGISTER_WRITE (R47, R49). -/
def execShadowRegisterWrite (a v : Word) (s : State) : Result :=
  .next (if isShadow a.toNat then s.writeAt a.toNat v 0xFFFFFFFF#32 else s)

/-! ## DOMAIN_RUNNING (R521, R522) -/

/-- A waiting access performed. -/
def State.accessDone (s : State) (x : RegAccess) : State :=
  match x.value with
  | some v => s.writeNow x.addr v x.mask
  | none =>
    let r := s.readNow x.addr x.mask
    { r.1 with readData := some r.2 }

/-- The accesses that waited for domain `d`, in order, performed. -/
def State.accessesDone (s : State) (d : Nat) : State :=
  let mine := s.pwr.accesses.filter (fun x => x.domain == d)
  let t := { s with pwr := { s.pwr with accesses := s.pwr.accesses.filter (fun x => x.domain != d) } }
  t.each mine (fun x t => t.accessDone x)

/-- DOMAIN_RUNNING: a granted domain runs; a waking bay's deferred compute-starts are delivered, and waiting accesses
complete. -/
def execDomainRunning (d : Fin 96) (s : State) : Result :=
  .next (if !s.pwr.granted.contains d.val then s
    else
      let t := (s.domainRuns d).accessesDone d
      if d.val < 32 then t else t.each (bayEngines (d.val - 32)) (fun e t => t.resumeStart e))

end Sys2Proof.Machine
end

