-- ==== Sys2Proof/Machine/System.lean ====
section
/-! DEFINITION. Machine/System.lean: the system instructions, control registers, interrupt entry and illegal words
(R131, R158, R178 to R187). -/

namespace Sys2Proof.Machine

/-! ## Control registers (R179, R180) -/

/-- The bits of a CSR that a write changes. -/
def csrMask (k : Nat) : Word :=
  match k with
  | 0 => 0x7F#32
  | 5 => 3#32
  | _ => 0xFFFFFFFF#32

/-- CYCLE: cycles since the last compute-start at 1.6 GHz, or since the Curator's last reset at 800 MHz, saturating. -/
def State.cycle (s : State) (e : Nat) : Nat :=
  let ns := s.time.local_ - (s.port e).clock
  min 0xFFFFFFFF (if e = curator then ns * 4 / 5 else ns * 8 / 5)

/-- XSTAT.Level: the level of the core, 1 where it neither computes nor handles (R180). -/
def State.xstatLevel (s : State) (c : Nat) : Nat := if 1 ≤ s.level c ∧ s.level c ≤ 5 then s.level c else 1

/-- An access to FSTAT waits until every older instruction has completed: the older loads have returned and the older transfers
are not in flight (R185; DEDUCED, assumption log 51). -/
def State.fstatWaits (s : State) (e k : Nat) : Bool :=
  k == 0 && !((s.port e).lq.isEmpty && (s.port e).xf.all (·.failed))

/-- The value of a CSR of core `c`, which executes for `e`; `own` is the Curator's unstated ENGNO. -/
def State.csrValue (s : State) (e c k : Nat) (own : Word) : Word :=
  match k with
  | 1 => BitVec.ofNat 32 (s.cycle e)
  | 2 => BitVec.ofNat 32 s.now
  | 4 => if e = curator then own else BitVec.ofNat 32 (s.logical e)
  | 6 => (s.core c).rc 6 ||| BitVec.ofNat 32 (s.xstatLevel c)
  | _ => (s.core c).rc k

/-- CSRR: a read of STIMEL latches STIMEH. -/
def execICsrr (e : Fin 513) (d : BitVec 5) (csr : BitVec 10) (s : State) : Result :=
  .next (
    let k := csr.toNat
    if !csrKnown k then s.illegal e (wordSY d.toNat 0 6 k)
    else s.issue e [d.toNat] [] (fun t =>
      let own := if k = 4 ∧ e.val = curator then t.takeFree else (0#32, t)
      if t.fstatWaits e k then t
      else own.2.each (own.2.cores e) (fun c u =>
        let r := u.core c
        let x := u.viaPath c (u.csrValue e c k own.1)
        let r' := if k = 2 then r.wc 3 (BitVec.ofNat 32 (u.now / 2 ^ 32)) else r
        x.2.setCore c ((r'.wg d.toNat x.1).next))))

/-- A write of `f old A` to a CSR; ILLEGAL for an unknown or RO one. -/
def State.csrWrite (s : State) (e : Fin 513) (a : BitVec 5) (csr : BitVec 10) (fcode : Nat) (f : Word → Word → Word) : State :=
  let k := csr.toNat
  if !csrKnown k || csrReadOnly k then s.illegal e (wordSY 0 a.toNat fcode k)
  else s.issue e [a.toNat] [] (fun t => if t.fstatWaits e k then t else t.each (t.cores e) (fun c u =>
    let r := u.core c
    u.setCore c ((r.wc k (f (r.rc k) (r.rg a.toNat) &&& csrMask k)).next)))

/-- CSRW. -/
def execICsrw (e : Fin 513) (a : BitVec 5) (csr : BitVec 10) (s : State) : Result := .next (s.csrWrite e a csr 7 (fun _ x => x))

/-- CSRS. -/
def execICsrs (e : Fin 513) (a : BitVec 5) (csr : BitVec 10) (s : State) : Result := .next (s.csrWrite e a csr 8 (fun o x => o ||| x))

/-- CSRC. -/
def execICsrc (e : Fin 513) (a : BitVec 5) (csr : BitVec 10) (s : State) : Result :=
  .next (s.csrWrite e a csr 9 (fun o x => o &&& ~~~ x))

/-! ## Barriers (R131) -/

/-- The instruction at the PC ends without a result. -/
def State.retire (s : State) (e : Nat) : State := s.each (s.cores e) (fun c u => u.setCore c (u.core c).next)

/-- FENCE.S: every older store Accepted. -/
def execIFenceS (e : Fin 513) (s : State) : Result := .next (s.issue e [] [] (fun t => t.waitThen e false false (·.retire e)))

/-- FENCE.A: every older load returned and every older store Accepted. -/
def execIFenceA (e : Fin 513) (s : State) : Result := .next (s.issue e [] [] (fun t => t.waitThen e true false (·.retire e)))

/-- FENCE.D: as FENCE.A, and every older store Completed. -/
def execIFenceD (e : Fin 513) (s : State) : Result := .next (s.issue e [] [] (fun t => t.waitThen e true true (·.retire e)))

/-! ## Compare points and the frame end (R105, R121, R186) -/

/-- A compare point of the pair `e`: the engines must be at one instruction and agree on `key` (R105). -/
def State.compared (s : State) (e point : Nat) (key : Regs → List Nat) (f : State → State) : State :=
  if s.inPair e && ((s.core e).pc != (s.core (e + 1)).pc || key (s.core e) != key (s.core (e + 1))) then s.mismatch e point
  else f s

/-- FEND: waits as FENCE.D, compares in a pair, and enters the wait for compute-start with its PC kept (R121, R183);
ILLEGAL at a handler level and in the Curator. -/
def execIFend (e : Fin 513) (s : State) : Result :=
  .next (s.engineOnly e (wordSY 0 0 3 0) (fun s =>
    if 3 ≤ s.level e then s.illegal e (wordSY 0 0 3 0)
    else s.issue e [] [] (fun t => t.waitThen e true true (fun t => t.compared e cpFend (fun _ => []) (fun t =>
      let u := t.each (t.cores e) (fun c u => u.setLevel c 1)
      ((u.setPort e { u.port e with fend := some u.now }).recovered e).dropFrameVote (e.val / 8))))))

/-! ## Traps and returns (R178, R184) -/

/-- TRAP: raises TRAP with IMM in EADDR; EPC is the next instruction. -/
def execITrap (e : Fin 513) (imm : BitVec 10) (s : State) : Result :=
  .next (s.issue e [] [] (fun t =>
    if (t.port e).drained then t.exception e 3 (fun r => r.pc + 4#32) (fun _ => imm.zeroExtend 32)
    else t.setPort e { t.port e with draining := true }))

/-- XRET: PC and the level from the current level's registers; ILLEGAL at Level 2. -/
def execIXret (e : Fin 513) (s : State) : Result :=
  .next (if s.level e ≤ 2 then s.illegal e (wordSY 0 0 5 0)
    else s.issue e [] [] (fun t =>
      if !(t.port e).lq.isEmpty then t
      else
        let u := t.each (t.cores e) (fun c u =>
          let r := u.core c
          match u.level c with
          | 5 => (u.setCore c (r.goto (r.rc 0x10))).setLevel c (r.prev 3)
          | 4 => (u.setCore c (r.goto (r.rc 0x18))).setLevel c (r.prev 6)
          | 3 => (u.setCore c (r.goto (r.rc 0x20))).setLevel c (r.prev 9)
          | _ => u)
        -- back at the level of a wait that was cut short, its instruction waits again (R183)
        let u := u.when (!(u.port e).cuts.isEmpty) (fun u => u.setPort e { u.port e with cuts := (u.port e).cuts.filter (fun c => decide (c.1 < u.level e)) })
        -- back in the wait, the engine needs the frame scheduler's vote no more (R122)
        u.when (e.val != curator && u.level e == 1) (·.dropFrameVote (e.val / 8))))

/-! ## Waiting instructions (R178, R187) -/

/-- SWAIT: waits until the sort status has Busy 0, then reads it, clearing Done and Error. -/
def execISwait (e : Fin 513) (d : BitVec 5) (s : State) : Result :=
  .next (s.engineOnly e (wordSY d.toNat 0 0xA 0) (fun s => s.issue e [d.toNat] [] (fun t =>
    let b := e.val / 8
    let i := t.sortEngine b (e.val % 8)
    if t.on (BAYR_SS.Busy b i) then t.setPort e { t.port e with waiting := true }
    else
      let t := t.when (t.port e).waiting (fun t => t.setPort e { t.port e with waiting := false })
      let r := t.bayRead b (0x480 + 4 * i) 0xFFFFFFFF#32
      r.1.each (r.1.cores e) (fun c u =>
        let x := u.viaPath c r.2
        x.2.setCore c (((u.core c).wg d.toNat x.1).next)))))

/-- PHLD: the four result words of a phasor bin as a Device load, once the frame's update is complete (R145). -/
def execIPhld (e : Fin 513) (d : BitVec 4) (bin : BitVec 5) (s : State) : Result :=
  .next (s.engineOnly e (wordSY d.toNat 0 0xB bin.toNat) (fun s => s.issue e [] [d.toNat] (fun t =>
    let b := e.val / 8
    let k := bin.toNat
    t.waitThen e true false (fun t =>
      if t.phasorBusy b then t.setPort e { t.port e with waiting := true }
      else t.compared e cpDevice (fun _ => []) (fun t =>
        let v := t.rd (BAYR_PR_STAT b k) ++ t.rd (BAYR_PR_COUNT b k) ++ t.rd (BAYR_PR_IM b k) ++ t.rd (BAYR_PR_RE b k)
        t.each (t.cores e) (fun c u =>
          let x := u.viaPathV c v
          x.2.setCore c (((u.core c).wv d.toNat x.1).next)))))))

/-- WFI: the Curator waits until an interrupt is pending and enabled; ILLEGAL in an engine. -/
def execIWfi (e : Fin 513) (s : State) : Result :=
  .next (if e.val ≠ curator then s.illegal e (wordSY 0 0 0xC 0)
    else s.issue e [] [] (fun t => if t.curSelect.isSome then t.retire e else t))

/-! ## Interrupts (R137, R139, R181, R183) -/

/-- The selection an engine or the Curator may take: source and class. -/
def State.interruptFor (s : State) (e : Nat) : Option (Nat × Bool) :=
  let sel := if e = curator then s.curSelect else s.baySelect (e / 8) (e % 8)
  match sel with
  | none => none
  | some (src, fast) =>
    let ien := (s.core e).rc 5
    let l := s.level e
    if fast then (if ien.getLsbD 1 && decide (1 ≤ l) && decide (l ≤ 3) then some (src, true) else none)
    else (if ien.getLsbD 0 && decide (1 ≤ l) && decide (l ≤ 2) then some (src, false) else none)

/-- INTERRUPT_ENTRY: core `e` takes its selection at an instruction boundary, after the drain. -/
def execInterruptEntry (e : Fin 513) (s : State) : Result :=
  .next (
    let ready := if e.val = curator then s.curatorUp
      else s.bayAwake (e.val / 8) && s.bayRuns (e.val / 8) && (!s.inPair e || e.val % 2 == 0) && (s.pair e).fault.isNone
    if !ready || (e.val != curator && s.pfail) || !(s.port e).drained then s
    else match s.interruptFor e with
      | none => s
      | some (src, fast) =>
        let t := if e.val = curator then s.curTake src fast else (s.bayTake (e.val / 8) (e.val % 8) src fast).restartIdle (32 + e.val / 8)
        -- an edge taken is taken again in a re-execution; a level source is sampled anew (R140)
        let u := t.when (t.inPair e && !bayLevelSource src) (fun t => t.setPair e { t.pair e with irqs := (t.pair e).irqs ++ [(src, true, false)] })
        -- an instruction that waits is cut short: what is lost of the stores before it is its own to meet (R183)
        let u := u.when (u.port e).waiting (fun u => u.setPort e { u.port e with
          waiting := false, cuts := (u.port e).cuts ++ [(u.level e, (u.port e).issued)] })
        u.each (u.cores e) (fun c x =>
          let r := x.core c
          let l := x.level c
          let r' := if fast then ((r.setPrev 6 l).wc 0x18 r.pc).goto (x.handlerBase c + 0x200#32)
                    else ((r.setPrev 9 l).wc 0x20 r.pc).goto (x.handlerBase c + 0x220#32)
          (x.setCore c r').setLevel c (if fast then 4 else 3)))

end Sys2Proof.Machine
end

