-- ==== Sys2Proof/Machine/MemIsa.lean ====
section
/-! DEFINITION. Machine/MemIsa.lean: the loads, stores and transfers of Limken and the Curator's atomics (R109, R112,
R125 to R129, R170, R171, R187, R354), with what a pair re-executing after a rollback meets (R222, R223). -/

namespace Sys2Proof.Machine

/-! ## Where an access goes -/

/-- The address map of an engine (R109, R112, R354), and, with the assumption of log 10, of the Curator; none raises ACCESS.
The accesses are aligned, so none crosses a region's end. -/
def State.placeOf (s : State) (e addr : Nat) : Option Place :=
  if e = curator then
    if addr < 0x200000 then some (.sram addr)
    else if 0x2000000 ≤ addr ∧ addr < 0x2010000 then some (.edg (addr - 0x2000000))
    else if 0x10000000 ≤ addr ∧ addr < 0x16000000 then some (.stacks (addr - 0x10000000))
    else none
  else if 0x10000 ≤ addr ∧ addr < 0x18000 then some (.dmem (addr - 0x10000))
  else if 0x1000000 ≤ addr ∧ addr < 0x1001000 then some (.bay (addr - 0x1000000))
  else if 0x2000000 ≤ addr ∧ addr < 0x2010000 then some (.edg (addr - 0x2000000))
  else if 0x10200000 ≤ addr ∧ addr < 0x16000000 then some (.stacks (addr - 0x10000000))
  else if 0x40000000 ≤ addr ∧ addr < 0x80000000 then
    let i := (addr - 0x40000000) / 2 ^ 24
    let o := addr % 2 ^ 24
    let node := s.fld (FAB_RWIN.Node i)
    let cls := s.fld (FAB_RWIN.Cls i)
    if !s.on (FAB_RWIN.Enable i) then none
    else if s.on (FAB_RWIN.Kind i) then if o < 0x10000 then some (.remote true node cls o) else none
    else
      let off := s.fld (FAB_RWIN.Bank i) * 2 ^ 20 + o
      if 0x200000 ≤ off ∧ off < 0x6000000 then some (.remote false node cls off) else none
  else if 0x80000000 ≤ addr then
    let i := (addr - 0x80000000) / 2 ^ 27
    if s.on (ENG_HWIN_LO.Enable i) then
      some (.host i (s.fld (ENG_HWIN_LO.HostBaseLow i) * 4096 + (s.rd (ENG_HWIN_HI i)).toNat * 2 ^ 32 + addr % 2 ^ 27))
    else none
  else none

/-- Is the place Device memory (R109, R354)? -/
def Place.device : Place → Bool
  | .bay _ => true
  | .edg _ => true
  | .remote d _ _ _ => d
  | .host _ _ => true
  | _ => false

/-- Do the bytes lie in a parameter copy of the engine (R117)? -/
def State.inParams (s : State) (e o n : Nat) : Bool :=
  match s.image e with
  | some i => spans o n i.paramOffset (2 * i.span)
  | none => false

/-- A Device load has not returned, so no younger access issues (R129). -/
def State.deviceOut (s : State) (e : Nat) : Bool := (s.port e).lq.any (fun l => l.place.device)

/-- The 32-bit byte mask of `n` bytes at `o` within their word. -/
def wordMask (o n : Nat) : Word := BitVec.ofNat 32 ((2 ^ (8 * min n 4) - 1) * 2 ^ (8 * (o % 4)))

/-- A Device read of `n` bytes at `o` of the bay registers or of the EDG block, by words. -/
def State.deviceRead (s : State) (n o : Nat) (f : State → Nat → Word → State × Word) : State × List Byte :=
  if n ≤ 4 then
    let r := f s (o / 4 * 4) (wordMask o n)
    (r.1, leBytes n (r.2.toNat / 2 ^ (8 * (o % 4))))
  else (List.range (n / 4)).foldl (fun (p : State × List Byte) i =>
    let r := f p.1 (o + 4 * i) 0xFFFFFFFF#32
    (r.1, p.2 ++ leBytes 4 r.2.toNat)) (s, [])

/-- A Device write of the same kind. -/
def State.deviceWrite (s : State) (o : Nat) (data : List Byte) (f : State → Nat → Word → Word → State) : State :=
  if data.length ≤ 4 then
    f s (o / 4 * 4) (BitVec.ofNat 32 (leNat data * 2 ^ (8 * (o % 4)))) (wordMask o data.length)
  else s.each (List.range (data.length / 4)) (fun i t => f t (o + 4 * i) (BitVec.ofNat 32 (bytesAt data (4 * i) 4)) 0xFFFFFFFF#32)

/-- The index of a core at the staging arbiter of R262. -/
def dynRequester (e : Nat) : Nat := if e = curator then 65 else e / 8

/-- The EDG block read and written by core `e`. -/
def State.edgRead (s : State) (o n : Nat) : State × List Byte := s.deviceRead n o (fun t a m => t.readReg (0x70000 + a) m)
def State.edgWrite (s : State) (who o : Nat) (data : List Byte) : State :=
  s.deviceWrite o data (fun t a v m => t.writeReg who (0x70000 + a) v m)

/-- `n` bytes of the Curator's SRAM (R187). -/
def State.sramBytes (s : State) (o n : Nat) : List Byte := (List.range n).map (fun i => tget (fun _ => 0#8) s.eng.sram (o + i))

/-- Bytes written to the Curator's SRAM. -/
def State.sramPut (s : State) (o : Nat) (data : List Byte) : State :=
  { s with eng := { s.eng with sram := (data.zipIdx).foldl (fun m b => tset (fun _ => 0#8) m (o + b.2) b.1) s.eng.sram } }

/-! ## Re-execution (R222, R223) -/

/-- What an access of a re-executing pair meets in the abandoned attempt's journal. -/
inductive Meets
  /-- The pair does not re-execute, or is past the journal. -/
  | past
  | same (j : JEntry)
  | differs
deriving DecidableEq, Repr

/-- The next entry of a kind, compared with the access. -/
def State.meets (s : State) (e : Nat) (kind same : JEntry → Bool) : Meets :=
  let p := s.pair e
  if !s.inPair e || !p.again then .past
  else match p.left.find? kind with
    | none => .past
    | some j => if same j then .same j else .differs

/-- The entry has been met. -/
def State.metEntry (s : State) (e : Nat) (j : JEntry) : State := s.setPair e { s.pair e with left := (s.pair e).left.erase j }

def isS : JEntry → Bool
  | .s _ _ _ => true
  | _ => false
def isX : JEntry → Bool
  | .x _ _ => true
  | _ => false
def isL : JEntry → Bool
  | .l _ _ _ => true
  | _ => false
def sameS (addr : Nat) (data : List Byte) : JEntry → Bool
  | .s a _ new => a == addr && new == data
  | _ => false
def sameX (addr : Nat) (data : List Byte) : JEntry → Bool
  | .x a bs => a == addr && bs == data
  | _ => false
def sameL (addr n : Nat) : JEntry → Bool
  | .l a m _ => a == addr && m == n
  | _ => false

/-- A divergence: the access is not performed and the pair stops for the frame. -/
def State.diverge (s : State) (e : Nat) : State := (s.reportPair e 3 0xFFFFFFFF).stopPair e

/-! ## Loads (R127 to R129, R170) -/

/-- An access's address operand. -/
def Regs.at_ (r : Regs) (a : BitVec 5) (imm : BitVec 16) : Word := r.rg a.toNat + imm.signExtend 32

/-- A load whose data is at hand: written to the register of every core that executes it, which goes on. -/
def State.loaded (s : State) (e : Nat) (d : LoadDest) (n : Nat) (data : Nat → List Byte) : State :=
  s.each (s.cores e) (fun c u => u.setCore c (((u.core c).load d n (data c)).next))

/-- A load in the load queue; the cores go on. -/
def State.queueLoad (s : State) (e addr : Nat) (p : Place) (n : Nat) (d : LoadDest) (tag entry : Option Nat) (g : Got) : State :=
  let q := s.port e
  let l : Load := { addr := addr, place := p, size := n, dest := d, tag := tag, got := g,
                    before := (s.cores e).map (fun c => (c, s.core c)), entry := entry }
  ((s.setPort e { q with lq := q.lq ++ [l] }).retire e).drain e

/-- The youngest buffered store that overlaps the load. -/
def Port.forward (q : Port) (addr n : Nat) : Option Store := (q.sb.filter (fun x => spans addr n x.addr x.data.length)).getLast?

/-- A load from DMEM (R111): `ecc0` mod 3 is 1 where it meets a single-bit error, 2 an uncorrectable one, and `ecc0` is 3 or more
where the load's own word in IMEM was corrected as it was fetched. -/
def State.loadDmem (s : State) (e o n : Nat) (d : LoadDest) (addrOf : Regs → Word) (ecc0 : Nat) : State :=
  let ecc := ecc0 % 3
  s.overXfers e o n (fun t =>
    let t := if 3 ≤ ecc0 then t.inc ENG_ECCCOR else t
    let t := if ecc = 1 then t.inc ENG_ECCCOR else t
    let t := if ecc = 2 ∧ !t.inPair e then
        { t with eng := { t.eng with bad := addOnce t.eng.bad (32768 * e + o / 4 * 4) } } else t
    -- which engine of a pair holds the bad word nothing tells: a free value (DESIGN CHOICE, assumption log 51)
    let t := if ecc = 2 ∧ t.inPair e then
        let f := t.takeFree
        { f.2 with eng := { f.2.eng with bad := addOnce f.2.eng.bad (32768 * (e + (f.1.getLsbD 0).toNat) + o / 4 * 4) } } else t
    if t.inPair e ∧ (t.badWord e o n ∨ t.badWord (e + 1) o n) then t.mismatch e cpEcc
    else if !t.inPair e ∧ t.badWord e o n then t.fault e 7 addrOf
    else t.loaded e d n (fun c =>
      let oc := (addrOf (t.core c)).toNat - 0x10000
      t.dmBytes c (if oc + n ≤ 0x8000 then oc else o) n))

/-- A load of another place, after its wait. -/
def State.loadOuter (s : State) (e addr : Nat) (p : Place) (n : Nat) (d : LoadDest) : State :=
  let full := decide (16 ≤ (s.port e).lq.length)
  match p with
  | .bay o =>
    if s.phasorBusy (e / 8) && decide (0x200 ≤ o) && decide (o < 0x400) then s
    else
      let r := s.deviceRead n o (fun t a m => t.bayRead (e / 8) a m)
      r.1.loaded e d n (fun _ => r.2)
  | .stacks _ => if full then s else s.queueLoad e addr p n d none none .nothing
  | .sram o => s.loaded e d n (fun _ => s.sramBytes o n)
  | .dmem _ => s
  | _ =>
    match s.meets e isL (sameL addr n) with
    | .differs => s.diverge e
    | .same j =>
      let g := match j with
        | .l _ _ g => g
        | _ => .error
      if full then s else (s.metEntry e j).queueLoad e addr p n d none none g
    | .past =>
      match p with
      | .edg o =>
        let r := s.edgRead o n
        (r.1.record1 e (.l addr n (.bytes r.2))).loaded e d n (fun _ => r.2)
      | .remote dev node cls o =>
        if full then s
        else
          let r := (s.record1 e (.l addr n .nothing)).remoteIssue 51 (.load e) node cls dev.toNat o n none
          r.1.queueLoad e addr p n d (some r.2.1) (s.nextEntry e) .nothing
      | .host _ a =>
        if full then s
        else if !s.canRequest then (s.record1 e (.l addr n .error)).queueLoad e addr p n d none none .error
        else
          let tag := s.freeTag.getD 0
          match if s.apertureOpen then s.issueRead (.engineLoad e) a n none else none with
          | none => ((s.apertureWait e false).record1 e (.l addr n .nothing)).queueLoad e addr p n d none (s.nextEntry e) .nothing
          | some t => (t.record1 e (.l addr n .nothing)).queueLoad e addr p n d (some tag) (s.nextEntry e) .nothing
      | _ => s

/-- A load: ALIGN, then ACCESS, then forwarding from the store buffer or the access itself (R127, R129, R170). -/
def State.memLoad (s : State) (e n : Nat) (a : BitVec 5) (imm : BitVec 16) (d : LoadDest) (ecc : Nat) : State :=
  let dg := match d with
    | .g r _ => [r]
    | .v _ => []
  let dv := match d with
    | .v r => [r]
    | _ => []
  s.issue e (a.toNat :: dg) dv (fun t =>
    let addr := ((t.core e).at_ a imm).toNat
    if addr % n ≠ 0 then t.fault e 4 (·.at_ a imm)
    else match t.placeOf e addr with
      | none => t.fault e 5 (·.at_ a imm)
      | some p =>
        let vecEdg := match p with
          | .edg _ => n == 16
          | _ => false
        if vecEdg then t.fault e 5 (·.at_ a imm)
        else if t.deviceOut e then t
        else if p.device then
          t.waitThen e true false (fun t => t.compared e cpDevice (fun r => [(r.at_ a imm).toNat]) (fun t => t.loadOuter e addr p n d))
        else match p with
          | .dmem o => t.loadDmem e o n d (·.at_ a imm) ecc
          | _ => match (t.port e).forward addr n with
            | some x =>
              if x.addr ≤ addr ∧ addr + n ≤ x.addr + x.data.length then
                t.loaded e d n (fun _ => (x.data.drop (addr - x.addr)).take n)
              else t
            | none => t.loadOuter e addr p n d)

/-- LD.B. -/
def execLdB (e : Fin 513) (d a : BitVec 5) (imm : BitVec 16) (ecc : Fin 6) (s : State) : Result :=
  .next (s.memLoad e 1 a imm (.g d.toNat true) ecc)

/-- LD.BU. -/
def execLdBu (e : Fin 513) (d a : BitVec 5) (imm : BitVec 16) (ecc : Fin 6) (s : State) : Result :=
  .next (s.memLoad e 1 a imm (.g d.toNat false) ecc)

/-- LD.H. -/
def execLdH (e : Fin 513) (d a : BitVec 5) (imm : BitVec 16) (ecc : Fin 6) (s : State) : Result :=
  .next (s.memLoad e 2 a imm (.g d.toNat true) ecc)

/-- LD.HU. -/
def execLdHu (e : Fin 513) (d a : BitVec 5) (imm : BitVec 16) (ecc : Fin 6) (s : State) : Result :=
  .next (s.memLoad e 2 a imm (.g d.toNat false) ecc)

/-- LD.W. -/
def execLdW (e : Fin 513) (d a : BitVec 5) (imm : BitVec 16) (ecc : Fin 6) (s : State) : Result :=
  .next (s.memLoad e 4 a imm (.g d.toNat false) ecc)

/-- VLD; ILLEGAL in the Curator (R187). -/
def execVld (e : Fin 513) (d : BitVec 4) (a : BitVec 5) (imm : BitVec 16) (ecc : Fin 6) (s : State) : Result :=
  .next (s.engineOnly e (wordIM 0x15 d.toNat a.toNat imm.toNat) (fun s => s.memLoad e 16 a imm (.v d.toNat) ecc))

/-! ## Stores (R126, R127, R129, R170, R222) -/

/-- A store in the store buffer. -/
def State.bufferStore (s : State) (e addr : Nat) (p : Place) (data : List Byte) (tag : Option Nat) : State :=
  let q := s.port e
  s.setPort e { q with sb := q.sb ++ [(⟨addr, p, data, tag, q.issued⟩ : Store)], issued := q.issued + 1 }

/-- The bytes of Stacks that a store replaces, with the older buffered stores applied. -/
def State.oldBytes (s : State) (e o addr n : Nat) : List Byte :=
  (s.port e).sb.foldl (fun (bs : List Byte) x => bs.zipIdx.map (fun (b : Byte × Nat) =>
    let k := addr + b.2
    if x.addr ≤ k ∧ k < x.addr + x.data.length then x.data.getD (k - x.addr) b.1 else b.1)) (s.stkBytes o n)

/-- A store beyond the core's local memories, after its wait and its compare. -/
def State.storeOuter (s : State) (e addr : Nat) (p : Place) (data : List Byte) : State :=
  let full := decide (8 ≤ (s.port e).sb.length)
  match p with
  | .bay o => (s.deviceWrite o data (fun t a v m => t.bayWrite (if t.inPair e then e % 8 / 2 * 2 else e % 8) (e / 8) a v m)).retire e
  | .stacks o =>
    if full then s
    else match s.meets e isS (sameS o data) with
      | .differs => s.diverge e
      | .same j => ((s.metEntry e j).bufferStore e addr p data none).retire e
      | .past => ((s.record1 e (.s o (s.oldBytes e o addr data.length) data)).bufferStore e addr p data none).retire e
  | .dmem _ => s
  | .sram o => (s.sramPut o data).retire e
  | _ =>
    -- a store waits behind an older one to overlapping bytes, so that the two are Accepted in program order (R127)
    if full || ((s.port e).forward addr data.length).isSome then s
    else match s.meets e isX (sameX addr data) with
      | .differs => s.diverge e
      | .same j => (s.metEntry e j).retire e
      | .past =>
        let t := s.record1 e (.x addr data)
        match p with
        | .edg o => (t.edgWrite (dynRequester e) o data).retire e
        | .remote dev node cls o =>
          let r := t.remoteIssue 51 (.store e) node cls dev.toNat o data.length (some data)
          let u := r.1.bufferStore e addr p data (some r.2.1)
          if r.2.2 then u.retire e
          else
            let n := (t.port e).sb.length
            match (u.port e).sb[n]? with
            | some x => (((u.remoteForget r.2.1).popStore e n).declareLost e x true).retire e
            | none => u
        | _ => (t.bufferStore e addr p data none).retire e

/-- A store (R170): it waits until the older loads have returned, so that a DATA_ERROR of one of them stays precise
(DESIGN CHOICE, assumption log 11). -/
def State.memStore (s : State) (e n : Nat) (gs vs : List Nat) (a : BitVec 5) (imm : BitVec 16) (data : Regs → List Byte) : State :=
  s.issue e (a.toNat :: gs) vs (fun t =>
    let addr := ((t.core e).at_ a imm).toNat
    if addr % n ≠ 0 then t.fault e 4 (·.at_ a imm)
    else match t.placeOf e addr with
      | none => t.fault e 5 (·.at_ a imm)
      | some p =>
        let denied := match p with
          | .edg _ => n == 16
          | .dmem o => t.inParams e o n
          | _ => false
        if denied then t.fault e 5 (·.at_ a imm)
        else if p.device then
          t.waitThen e true false (fun t => t.compared e cpStore (fun r => [(r.at_ a imm).toNat, leNat (data r)]) (fun t =>
            t.storeOuter e addr p (data (t.core e))))
        else if !(t.port e).lq.isEmpty then t
        else t.compared e cpStore (fun r => [(r.at_ a imm).toNat, leNat (data r)]) (fun t =>
          match p with
          | .dmem o => if 8 ≤ (t.port e).sb.length then t
            else t.overXfers e o n (fun t => (t.dmStore e o (fun _ => data (t.core e))).retire e)
          | _ => t.storeOuter e addr p (data (t.core e))))

/-- ST.B. -/
def execStB (e : Fin 513) (d a : BitVec 5) (imm : BitVec 16) (s : State) : Result :=
  .next (s.memStore e 1 [d.toNat] [] a imm (fun r => leBytes 1 (r.rg d.toNat).toNat))

/-- ST.H. -/
def execStH (e : Fin 513) (d a : BitVec 5) (imm : BitVec 16) (s : State) : Result :=
  .next (s.memStore e 2 [d.toNat] [] a imm (fun r => leBytes 2 (r.rg d.toNat).toNat))

/-- ST.W. -/
def execStW (e : Fin 513) (d a : BitVec 5) (imm : BitVec 16) (s : State) : Result :=
  .next (s.memStore e 4 [d.toNat] [] a imm (fun r => leBytes 4 (r.rg d.toNat).toNat))

/-- VST; ILLEGAL in the Curator (R187). -/
def execVst (e : Fin 513) (d : BitVec 4) (a : BitVec 5) (imm : BitVec 16) (s : State) : Result :=
  .next (s.engineOnly e (wordIM 0x1B d.toNat a.toNat imm.toNat) (fun s =>
    s.memStore e 16 [] [d.toNat] a imm (fun r => leBytes 16 (r.rv d.toNat).toNat)))

/-! ## Transfers (R171) -/

/-- A transfer in the table; D advances by the size. -/
def State.queueXfer (s : State) (e : Nat) (d : BitVec 5) (x : Xfer) : State :=
  let q := s.port e
  (s.setPort e { q with xf := q.xf ++ [x] }).each (s.cores e) (fun c u =>
    u.setCore c (((u.core c).wg d.toNat ((u.core c).rg d.toNat + BitVec.ofNat 32 x.size)).next))

/-- XLD.H, XLD.W and XLD.V. -/
def State.memXfer (s : State) (e n maj : Nat) (d a : BitVec 5) (imm : BitVec 16) : State :=
  s.engineOnly e (wordIM maj d.toNat a.toNat imm.toNat) (fun s => s.issue e [d.toNat, a.toNat] [] (fun t =>
    let addr := ((t.core e).at_ a imm).toNat
    let dst := ((t.core e).rg d.toNat).toNat
    let o := dst - 0x10000
    if addr % n ≠ 0 then t.fault e 4 (·.at_ a imm)
    else if dst % n ≠ 0 then t.fault e 4 (·.rg d.toNat)
    else match t.placeOf e addr with
      | none => t.fault e 5 (·.at_ a imm)
      | some p =>
        let source := match p with
          | .stacks _ => true
          | .remote dev _ _ _ => !dev
          | _ => false
        if !source then t.fault e 5 (·.at_ a imm)
        else if dst < 0x10000 ∨ 0x18000 ≤ dst ∨ t.inParams e o n then t.fault e 5 (·.rg d.toNat)
        else if t.deviceOut e ∨ 64 ≤ ((t.port e).xf.filter (fun x => !x.failed)).length then t
        else match p with
          | .remote dev node cls off =>
            match t.meets e isL (sameL addr n) with
            | .differs => t.diverge e
            | .same j =>
              let u := (t.metEntry e j).queueXfer e d ⟨addr, p, o, n, none, false, none, none⟩
              let i := (t.port e).xf.length
              u.xferGot e i (match j with
                | .l _ _ g => g
                | _ => .error)
            | .past =>
              let r := (t.record1 e (.l addr n .nothing)).remoteIssue 51 (.transfer e) node cls dev.toNat off n none
              let u := r.1.queueXfer e d ⟨addr, p, o, n, some r.2.1, false, t.nextEntry e, none⟩
              if r.2.2 then u else (u.remoteForget r.2.1).xferGot e (t.port e).xf.length .error
          | _ => t.queueXfer e d ⟨addr, p, o, n, none, false, none, none⟩))

/-- XLD.H. -/
def execXldH (e : Fin 513) (d a : BitVec 5) (imm : BitVec 16) (s : State) : Result := .next (s.memXfer e 2 0x1C d a imm)

/-- XLD.W. -/
def execXldW (e : Fin 513) (d a : BitVec 5) (imm : BitVec 16) (s : State) : Result := .next (s.memXfer e 4 0x1D d a imm)

/-- XLD.V. -/
def execXldV (e : Fin 513) (d a : BitVec 5) (imm : BitVec 16) (s : State) : Result := .next (s.memXfer e 16 0x1E d a imm)

/-! ## Atomics of the Curator (R187; their operands are PRESUMED, assumption log 10) -/

/-- An atomic on the word at A: D takes the word, and the word takes `f`'s value where it gives one; ILLEGAL in an engine. -/
def State.atomic (s : State) (e fcode : Nat) (d a b c : BitVec 5) (f : Regs → Word → Option Word) : State :=
  if e ≠ curator then s.illegal e (wordOP 1 d.toNat a.toNat b.toNat c.toNat fcode)
  else s.issue e [d.toNat, a.toNat, b.toNat, c.toNat] [] (fun t =>
    let addr := ((t.core e).rg a.toNat).toNat
    let r := t.core e
    let done (u : State) (x : Word) : State := u.setCore e ((r.wg d.toNat x).next)
    if addr % 4 ≠ 0 then t.fault e 4 (·.rg a.toNat)
    else match t.placeOf e addr with
      | some (.sram o) =>
        let x := BitVec.ofNat 32 (leNat (t.sramBytes o 4))
        done (match f r x with
          | none => t
          | some y => t.sramPut o (leBytes 4 y.toNat)) x
      | some (.stacks o) =>
        if !(t.port e).drained then t
        else match t.stkRead rqCurator o 4 with
          | (_, .wait) => t
          | (u, .data bs) =>
            let x := BitVec.ofNat 32 (leNat bs)
            done (match f r x with
              | none => u
              | some y => u.stkPut rqCurator o (leBytes 4 y.toNat)) x
          | (u, _) => u.fault e 7 (·.rg a.toNat)
      | _ => t.fault e 5 (·.rg a.toNat))

/-- AMOSWAP: the word takes B. -/
def execAmoswap (e : Fin 513) (d a b : BitVec 5) (s : State) : Result :=
  .next (s.atomic e 0x38 d a b 0#5 (fun r _ => some (r.rg b.toNat)))

/-- AMOADD: the word takes its sum with B. -/
def execAmoadd (e : Fin 513) (d a b : BitVec 5) (s : State) : Result :=
  .next (s.atomic e 0x39 d a b 0#5 (fun r x => some (x + r.rg b.toNat)))

/-- AMOCAS: the word takes B where it equals C. -/
def execAmocas (e : Fin 513) (d a b c : BitVec 5) (s : State) : Result :=
  .next (s.atomic e 0x3A d a b c (fun r x => if x = r.rg c.toNat then some (r.rg b.toNat) else none))

end Sys2Proof.Machine
end

