-- ==== Sys2Proof/Machine/Inbound.lean ====
section
/-! DEFINITION. Machine/Inbound.lean: where an inbound memory request goes (R384, R392 to R397) and the service of
inbound reads in their order of arrival (R394, R398, R401, R407). -/

namespace Sys2Proof.Machine

/-! ## Address decode -/

/-- Does `n` bytes from `a` lie wholly in the range of `size` bytes at `base`? -/
def inRange (a n base size : Nat) : Bool := decide (base ≤ a) && decide (a + max n 1 ≤ base + size)

/-- The host window that wholly covers a request at BAR4 offset `x` (R397). -/
def State.hostWindow (s : State) (x n : Nat) : Option Nat :=
  (List.range 64).find? (fun i => s.on (HPT_WIN_CFG.Enable i) &&
    inRange x n (s.fld (HPT_WIN_CFG.BarOffset i) * 2 ^ 20) (2 ^ s.fld (HPT_WIN_CFG.SizeLog i)))

/-- The bases of BAR0, BAR2, BAR4 and the ROM (R392). -/
def State.bar0 (s : State) : Nat := s.fld CFG_BAR0.Addr * 2 ^ 26 + (s.rd CFG_BAR1).toNat * 2 ^ 32
def State.bar2 (s : State) : Nat := s.fld CFG_BAR2.Addr * 2 ^ 24 + (s.rd CFG_BAR3).toNat * 2 ^ 32
def State.bar4 (s : State) : Nat := s.fld CFG_BAR4.Addr * 2 ^ 30 + (s.rd CFG_BAR5).toNat * 2 ^ 32
def State.romBase (s : State) : Nat := s.fld CFG_ROMBAR.Addr * 2 ^ 20

/-- The target of a request of `n` bytes at host address `a` (R384, R392 to R397, R409). -/
def State.targetOf (s : State) (a n : Nat) : Target :=
  if !s.on CFG_CMDSTS.MemSpace || s.fld CFG_PMCSR.PowerState == 3 then .absent
  else if inRange a n s.bar0 (2 ^ 26) then
    let o := a - s.bar0
    if (0x400000 ≤ o ∧ o < 0x800000) ∨ 0x2000000 ≤ o then .window o else if o < 0x110000 then .reg o else .void
  else if inRange a n s.bar2 (2 ^ 24) then .reg (pageBase + (a - s.bar2))
  else if inRange a n s.bar4 (2 ^ s.fld DEV_BAR4.Bar4Log) then
    match s.hostWindow (a - s.bar4) n with
    | none => .absent
    | some i =>
      let o := s.fld (HPT_WIN_TGT.Bank i) * 2 ^ 20 + (a - s.bar4 - s.fld (HPT_WIN_CFG.BarOffset i) * 2 ^ 20)
      if s.on (HPT_WIN_CFG.Remote i) then .remote (s.fld (HPT_WIN_TGT.Node i)) (s.fld (HPT_WIN_CFG.Cls i)) o else .stacks o
  else if s.on CFG_ROMBAR.Enable && inRange a n s.romBase (2 ^ 20) then .rom (a - s.romBase)
  else .absent

/-- Is a register access of `n` bytes at key `k` performed (R394)? -/
def regAccessOk (k n : Nat) : Bool := (n == 4 && k % 4 == 0) || (n == 8 && k % 8 == 0)

/-- Naturally aligned pieces of 16, 4, 2 or 1 bytes of the `n` bytes at `o` (R398), by offset. -/
def cutPieces : Nat → Nat → Nat → List (Nat × Nat)
  | 0, _, _ => []
  | k + 1, o, n =>
    if n = 0 then []
    else
      let m := if o % 16 = 0 ∧ 16 ≤ n then 16 else if o % 4 = 0 ∧ 4 ≤ n then 4 else if o % 2 = 0 ∧ 2 ≤ n then 2 else 1
      (o, m) :: cutPieces k (o + m) (n - m)

/-! ## Inbound reads -/

/-- A byte of the catalogue table window or of an engine window. -/
def State.windowByte (s : State) (o : Nat) : Byte :=
  if o < 0x800000 then
    BitVec.ofNat 8 ((s.ctxViewWord ((o - 0x400000) / 64) (o % 64 / 4) false).toNat / 2 ^ (8 * (o % 4)))
  else s.slotByte ((o - 0x2000000) / 0x10000) (o % 0x10000)

/-- A read answered. -/
def InRead.answered (r : InRead) (status : Nat) (data : List Byte) (poison : Bool) : InRead :=
  { r with done := some (status, data, poison) }

/-- A read refused with Completer Abort (R394, R407). -/
def State.readAborted (s : State) (r : InRead) : State × Option InRead :=
  (s.completerAbort false r.header, some (r.answered 4 [] false))

/-- The byte mask of the DW at byte `i` of a read; a byte the enables do not name is enabled. -/
def readMask (be : List Bool) (i : Nat) : Word :=
  BitVec.ofNat 32 (((List.range 4).map (fun k => if be.getD (i + k) true then 0xFF * 2 ^ (8 * k) else 0)).sum)

/-- The answer of a register read: its words in ascending order; a word with no byte enabled sees no access, and its data is
undefined (R394). -/
def State.readRegs (s : State) (k i : Nat) (be : List Bool) : Nat → State × List Byte
  | 0 => (s, [])
  | n + 1 =>
    let m := readMask be i
    let p := if m = 0#32 then (s.takeFree.2, s.takeFree.1) else s.readNow (k + i) m
    let q := State.readRegs p.1 k (i + 4) be n
    (q.1, leBytes 4 p.2.toNat ++ q.2)

/-- The remote pieces of a read issued (R398); a piece R350 discards is unanswered at once (status 9 here). -/
def State.issuePiecesIn (s : State) (id node cls base : Nat) : List (Nat × Nat) → State × List InPiece
  | [] => (s, [])
  | (o, n) :: rest =>
    let p := s.remoteIssue 51 (.window id true (o - base)) node cls 0 o n none
    let t := if p.2.2 then p.1 else p.1.remoteForget p.2.1
    let q := State.issuePiecesIn t id node cls base rest
    (q.1, ⟨o - base, n, if p.2.2 then none else some (9, [])⟩ :: q.2)

/-- Must a read still wait for older writes (R401)? -/
def State.writesOut (s : State) (r : InRead) : Bool :=
  r.after.any (fun t => s.rem.out.any (fun q => q.tag == t)) || s.stk.waiting.any (fun a => a.req == rqHost && a.data.isSome) ||
  s.pwr.accesses.any (fun a => a.value.isSome)

/-- The answer to a configuration read: RRS until CfgReady and while an FLR is in progress (R413, R414). -/
def State.configAnswer (s : State) (dw : Nat) : Nat × List Byte :=
  if !s.on HPT_STATUS.CfgReady || s.on HPT_STATUS.FlrActive then (2, []) else (0, leBytes 4 (s.configWord (4 * dw)).toNat)

/-- A read issues; none: it must wait, with the vote it places on a power-gated domain (R522). -/
def State.readIssue (s : State) (r : InRead) : State × Option InRead :=
  if s.writesOut r then (s, none)
  else
    let tgt := r.target
    let gated : Option Nat := if r.len = 0 then none else match tgt with
      | .reg k => s.accessDomain k
      | .window o => s.accessDomain o
      | _ => none
    match tgt, gated with
    | .absent, _ => (s.unsupported false r.header, some (r.answered 1 [] false))
    | _, some d => (s.voteDom d true, none)
    | _, none =>
      if r.len = 0 then
        let f := s.takeFree
        (f.2, some (r.answered 0 (leBytes 4 f.1.toNat) false))
      else match tgt with
        | .reg k =>
          if regAccessOk k r.len then
            let p := s.readRegs k 0 r.be (r.len / 4)
            (p.1, some (r.answered 0 p.2 false))
          else s.readAborted r
        | .window o =>
          if s.mps < r.len then s.readAborted r
          else
            let cat : List Nat := if o < 0x800000 then
                (List.range ((o + r.len + 63) / 64 - o / 64)).map (fun i => (o - 0x400000) / 64 + i) else []
            let t := if o < 0x2000000 then s.each cat (fun id t => t.catWindowRead id) else (s.readNow o 0#32).1
            if cat.any s.windowPoison then (t, some (r.answered 0 [] true))
            else (t, some (r.answered 0 ((List.range r.len).map (fun i => s.windowByte (o + i))) false))
        | .stacks o =>
          match s.stkRead rqHost o r.len with
          | (t, .data bs) => (t, some (r.answered 0 bs false))
          | (t, .poison) => (t, some (r.answered 0 [] true))
          | (t, .error) => t.readAborted r
          | (t, .wait) => (t, none)
        | .remote node cls o =>
          let p := s.issuePiecesIn r.id node cls o (cutPieces r.len o r.len)
          (p.1, some { r with pieces := some p.2 })
        | .void => (s, some (r.answered 0 (List.replicate r.len 0#8) false))
        | .config dw => (s, some (r.answered (s.configAnswer dw).1 (s.configAnswer dw).2 false))
        -- its turn is State.configTurns
        | .configWrite _ _ _ => (s, none)
        | .rom o =>
          (s, some (r.answered 0 ((List.range r.len).map (fun i => s.romByte (o + i))) false))
        | .absent => (s, none)

/-- A read of the queue replaced. -/
def State.setRead (s : State) (r : InRead) : State :=
  { s with host := { s.host with reads := s.host.reads.map (fun x => if x.id = r.id then r else x) } }

/-- The completion of a read whose pieces have all been answered (R398). -/
def State.gathered (s : State) (r : InRead) : State × InRead :=
  match r.pieces, r.done with
  | some ps, none =>
    let got := ps.filterMap (·.got)
    if got.length < ps.length then (s, r)
    else if got.any (fun g => decide (2 ≤ g.1)) then (s.completerAbort false r.header, r.answered 4 [] false)
    else if got.any (fun g => g.1 == 1) then (s, r.answered 0 [] true)
    else (s, r.answered 0 (got.flatMap (·.2)) false)
  | _, _ => (s, r)

/-- Reads issue in their order of arrival. -/
def State.issueReads : Nat → State → State
  | 0, s => s
  | n + 1, s =>
    match s.host.reads.find? (fun r => r.pieces.isNone && r.done.isNone) with
    | none => s
    | some r => match s.readIssue r with
      | (t, none) => t
      | (t, some r') =>
        let p := t.gathered r'
        State.issueReads n (p.1.setRead p.2)

/-- Completions return in the order of their reads. -/
def State.completeReads : Nat → State → State
  | 0, s => s
  | n + 1, s =>
    match s.host.reads with
    | [] => s
    | r :: rest => match r.done with
      | none => s
      | some (st, data, poison) =>
        State.completeReads n ({ s with host := { s.host with reads := rest } }.sendTlp (.completion st data poison))

/-- Every read that can issue does, and every completion that can return does. -/
def State.serveReads (s : State) : State :=
  let t := State.issueReads s.host.reads.length s
  State.completeReads t.host.reads.length t

/-- A piece of a read answered (R398), or unanswered (status 9). -/
def State.pieceGot (s : State) (id at_ status : Nat) (data : List Byte) : State :=
  match s.host.reads.find? (fun r => r.id == id) with
  | none => s
  | some r =>
    match r.pieces with
    | none => s
    | some ps =>
      let p := s.gathered { r with pieces := some (ps.map (fun (x : InPiece) =>
        if x.at_ = at_ ∧ x.got.isNone then { x with got := some (status, data.take x.size) } else x)) }
      (p.1.setRead p.2).serveReads

end Sys2Proof.Machine
end

