-- ==== Sys2Proof/Machine/Remote.lean ====
section
/-! DEFINITION. Machine/Remote.lean: the fabric inbound unit (R356) and the responses to this node's REMOTE requests
(R172, R357, R398). -/

namespace Sys2Proof.Machine

/-- A response in the class of its request (R355); every status other than OK counts. -/
def State.respond (s : State) (op : Nat) (r : RemoteMsg) (cls : BitVec 2) (status : Nat) (data : List Byte) : State :=
  let f := mkFlit ftRemote cls.toNat r.requester.toNat 0
    (remotePayload op r.size.toNat status r.kind.toNat r.requester.toNat r.tag.toNat r.offset.toNat data)
  (s.when (status != 0) (·.inc FAB_REMDENY)).switchFlit 50 f none s.time.stime |>.1

/-- Does the request keep R354: a size of R355 at an offset of its kind? -/
def remoteOffsetOk (r : RemoteMsg) : Bool :=
  let o := r.offset.toNat
  let n := r.size.toNat
  (n == 1 || n == 2 || n == 4 || n == 16) && o % n == 0 &&
  (if r.kind = 0#8 then decide (0x200000 ≤ o) && decide (o + n ≤ 0x6000000)
   else r.kind == 1#8 && decide (o + n ≤ 0x10000))

/-- A REMOTE read performed and answered (R356); none: it waits at a bank that is CLEARING or CHECKING. -/
def State.remoteRead (t : State) (r : RemoteMsg) (cls : BitVec 2) : Option State :=
  let o := r.offset.toNat
  let n := r.size.toNat
  if !remoteOffsetOk r then some (t.respond 8 r cls 4 [])
  else if r.kind = 1#8 then
    if !t.on FAB_CTRL.RemoteEdg then some (t.respond 8 r cls 2 [])
    else
      let p := t.edgRead o n
      some (p.1.respond 8 r cls 0 p.2)
  else match t.stkRead rqFabric o n, t.verdict rqFabric o n false with
    | (_, .wait), _ => none
    | (u, .data bs), _ => some (u.respond 8 r cls 0 bs)
    | (u, .poison), _ => some (u.respond 8 r cls 1 [])
    | (u, .error), .denied => some (u.respond 8 r cls 2 [])
    | (u, .error), _ => some (u.respond 8 r cls 3 [])

/-- A REMOTE write performed and answered (R356); none: it waits. -/
def State.remoteWrite (t : State) (r : RemoteMsg) (cls : BitVec 2) : Option State :=
  let o := r.offset.toNat
  let data := padTo r.size.toNat r.data
  if !remoteOffsetOk r then some (t.respond 9 r cls 4 [])
  else if r.kind = 1#8 then
    if !t.on FAB_CTRL.RemoteEdg then some (t.respond 9 r cls 2 [])
    else some ((t.edgWrite 64 o data).respond 9 r cls 0 [])
  else match t.stkWrite rqFabric o (data.map some) false with
    | (_, .wait) => none
    | (u, .done) => some (u.respond 9 r cls 0 [])
    | (u, .denied) => some (u.respond 9 r cls 2 [])
    | (u, _) => some (u.respond 9 r cls 3 [])

/-- A request that waits, tried. -/
def State.remoteTry (s : State) (w : RemoteWait) : Option State :=
  if w.write then s.remoteWrite w.msg w.cls else s.remoteRead w.msg w.cls

/-- A REMOTE request taken from the inbox: it waits behind a request of its link that waits, so that those of one link keep their
order of arrival, or at its bank (R356). -/
def State.takeRemote (s : State) (write : Bool) (r : RemoteMsg) (cls : BitVec 2) : State :=
  let link := (s.fab.inbox.find? (fun d => d.flit.type == ftRemote)).bind (·.link)
  let t := s.popInbox ftRemote
  let w : RemoteWait := ⟨link, write, r, cls⟩
  let filed : State := { t with fab := { t.fab with remoteWait := t.fab.remoteWait ++ [w] } }
  if t.fab.remoteWait.any (fun x => x.link == link) then filed else (t.remoteTry w).getD filed

/-- REMOTE_READ (R356). -/
def execRemoteRead (r : RemoteMsg) (cls : BitVec 2) (s : State) : Result := .next (s.takeRemote false r cls)

/-- REMOTE_WRITE (R356). -/
def execRemoteWrite (r : RemoteMsg) (cls : BitVec 2) (s : State) : Result := .next (s.takeRemote true r cls)

/-- The place in a list of the first element that satisfies `p`. -/
def placeIn {α : Type} (l : List α) (p : α → Bool) : Option Nat := l.findIdx? p

/-- A response whose tag is outstanding for `u`, with its status and data (R357, R398). -/
def State.answered (s : State) (u : RemoteUser) (tag status : Nat) (data : List Byte) : State :=
  let got : Got := if status = 0 then .bytes data else .error
  match u with
  | .load e => match placeIn (s.port e).lq (fun l => l.tag == some tag && l.got == .nothing && match l.place with
      | .remote _ _ _ _ => true
      | _ => false) with
    | some i => s.loadGot e i got
    | none => s.inc ENG_LATEACK
  | .transfer e => match placeIn (s.port e).xf (fun x => x.tag == some tag && !x.failed && x.data.isNone) with
    | some i => s.xferGot e i got
    | none => s.inc ENG_LATEACK
  | .store e => match placeIn (s.port e).sb (fun x => x.tag == some tag) with
    | some i =>
      match (s.port e).sb[i]? with
      | none => s
      | some x =>
        let t := s.popStore e i
        if status = 0 then t.drain e else (t.declareLost e x true).drain e
    | none => s.inc ENG_LATEACK
  | .window id true o => s.pieceGot id o status data
  | .window _ false _ => (s.when (status != 0) (·.inc HPT_RMTERR)).serveReads

/-- A response is taken from the inbox; one whose tag matches no outstanding request is late (R357). -/
def State.takeResponse (s : State) (r : RemoteMsg) (data : List Byte) : State :=
  let t := s.popInbox ftRemote
  match t.rem.out.find? (fun q => q.tag == r.tag.toNat) with
  | none => t.inc ENG_LATEACK
  | some q => (t.remoteForget q.tag).answered q.user q.tag r.status.toNat (data.take q.size)

/-- REMOTE_DATA. -/
def execRemoteData (r : RemoteMsg) (s : State) : Result := .next (s.takeResponse r r.data)

/-- REMOTE_DONE. -/
def execRemoteDone (r : RemoteMsg) (s : State) : Result := .next (s.takeResponse r [])

/-- REMOTE_PIECE_TIMEOUT: a piece of a host read unanswered for HPT_CTRL.RemoteTo ticks (R398); a later answer to it is
discarded.  A write completes nothing, and the reads after it go on waiting for its DONE (R401). -/
def execRemotePieceTimeout (tag : BitVec 16) (s : State) : Result :=
  .next (match s.rem.out.find? (fun q => q.tag == tag.toNat) with
    | none => s
    | some q => match q.user with
      | .window id true o => (s.remoteForget q.tag).pieceGot id o 9 []
      | _ => s)

end Sys2Proof.Machine
end

