-- ==== Sys2Proof/Machine/HostReset.lean ====
section
/-! DEFINITION. Machine/HostReset.lean: error responses to the bridge's requesters (R405, R411) and the host-port resets
(R12 to R16, R411 to R413, R432, R472, R493, R517). -/

namespace Sys2Proof.Machine

/-- The requester of an outstanding request receives an error response (R405); its entry has been taken off the list. -/
def State.errorResponse (s : State) (o : Outstanding) : State :=
  match o.requester with
  | .mover m => s.moverGot m o.addr none
  | .engineLoad e => match (s.port e).lq.findIdx? (fun l => l.tag == some o.tag && l.got == .nothing && match l.place with
      | .host _ _ => true
      | _ => false) with
    | some i => s.loadGot e i .error
    | none => s.inc ENG_LATEACK
  | .engineStore e => match (s.port e).open_.find? (fun x => x.tag == some o.tag) with
    | some x =>
      let q := s.port e
      (s.setPort e { q with open_ := q.open_.erase x }).declareLost e x false
    | none => s
  | .slipFetch _ _ => s
  | .transfer _ => s

/-- Registers of the staged window copies that a host-port reset returns to their reset values. -/
def isStagedWindow (a : Nat) : Bool := decide (0xB0A0100 ≤ a) && decide (a < 0xB0A0300)

/-- The link fields of configuration space that an FLR keeps (R411). -/
def linkField (a : Nat) : Bool :=
  a == CFG_LNKCTL || a == CFG_LNKCTL2 || a == CFG_L1SSCTL1 || a == CFG_L1SSCTL2 || (decide (CFG_LNKCTL3 ≤ a) && decide (a < CFG_MARGINHDR))

/-- Does a host-port reset of `kind` return the register at `a` to its reset value (R298, R391, R411, R419, R493)? -/
def hostResets (kind a : Nat) : Bool :=
  isStagedWindow a ||
  match regRow a with
  | none => false
  | some r => match r.cls with
    | .warmHost => !(kind == 3 && linkField a)
    | .warmPerst => kind == 0
    | _ => false

/-- A remote request after a host-port reset: a piece of an inbound read is forgotten, and one of a write no longer holds reads
back. -/
def RemoteReq.outlives (q : RemoteReq) : Option RemoteReq :=
  match q.user with
  | .window _ true _ => none
  | .window _ false o => some { q with user := .window 1 false o }
  | _ => some q

/-- The bridge's outstanding requests and inbound reads at a host-port reset: PERST#, hot reset and link down forget every
request; after an FLR late completions are still recognised (R406, R411). -/
def State.forgetRequests (s : State) (kind : Nat) : State :=
  let left : List Outstanding := if kind = 3 then s.host.outstanding.map (fun (o : Outstanding) => { o with abandoned := true }) else []
  { s with
    host := { s.host with outstanding := left, quarantine := if kind = 3 then s.host.quarantine else [],
                          waiting := [], reads := [], ltr := none },
    rem := { s.rem with out := s.rem.out.filterMap RemoteReq.outlives } }

/-- The host's stores still in the engines' store buffers are declared lost: their link is down, or the aperture answers with errors
(R130, R412). -/
def State.hostStoresLost (s : State) : State :=
  s.each (s.eng.ports.map (·.1)) (fun e t =>
    let held := (t.port e).sb.filter (fun x => match x.place with
      | .host _ _ => true
      | _ => false)
    if held.isEmpty then t
    else
      let u := t.setPort e { t.port e with sb := (t.port e).sb.filter (fun x => match x.place with
        | .host _ _ => false
        | _ => true) }
      (u.each held (fun x u => u.declareLost e x true)).drain e)

/-- PERST# ends what the host lanes measure and returns them to their reset state (R295, R298). -/
def State.hostLanesReset (s : State) : State :=
  let t := s.each (List.range 16) (fun n t => (t.when (t.on (lnMarginStart n)) (·.marginEnd n 0xFFFFFFFF#32)).setLane n LaneUnit.zero)
  { t with hiLatch := t.hiLatch.filter (fun p => !hostResets 0 p.1) }

/-- The host port goes down, or, for an FLR, starts it: from here no return slip is written, no event counts toward a vector, and
INTx and PME are silent (R15, R432). -/
def State.hostPortDown (s : State) (kind : Nat) : State :=
  let t := if kind = 3 then s.setF HPT_STATUS.FlrActive 1
    else (((s.setF HPT_STATUS.LinkUp 0).setF HPT_STATUS.CfgReady 0).setF HPT_STATUS.LinkPower 0).setF HPT_STATUS.FlrActive 0
  let u := (((t.when (kind == 0) (·.setF HPT_STATUS.Perst 1)).setF CMD_CTRL.RingEn 0).setF CFG_MSIX.Enable 0).setF CFG_PMCSR.PowerState 0
  { u with irq := { u.irq with inta := false } }

/-- A host-port reset: 0 PERST#, 1 hot reset, 2 link down, 3 FLR. -/
def State.hostReset (s : State) (kind : Nat) : State :=
  let open_ := s.host.outstanding.filter (fun o => !o.abandoned)
  let wasUp := s.on HPT_STATUS.LinkUp
  let engines := open_.filter (fun o => match o.requester with
    | .engineLoad _ => true
    | .engineStore _ => true
    | _ => false)
  let s := ((s.forgetRequests kind).hostPortDown kind).dmaHostReset
  let s := if kind = 3 then s else s.hostLanesDown
  let s := (s.when (kind == 0) State.hostLanesReset).irqHostReset
  let s := { s with regs := s.regs.filter (fun p => !hostResets kind p.1) }
  let s := (s.each engines (fun o t => t.errorResponse o)).apertureFail.hostStoresLost
  let s := match kind with
    | 0 => s.incF HPT_RESETS.Perst
    | 1 => s.incF HPT_RESETS.Hot
    | 2 => s.incF HPT_RESETS.LinkDown
    | _ => s.incF HPT_RESETS.Flr
  let s := (s.logEvent 0x0701 kind (leBytes 2 open_.length)).raise
    (if kind = 3 then HPT_IRQ_STATUS.Flr else HPT_IRQ_STATUS.HostReset)
  if kind ≠ 3 ∧ wasUp then
    (s.logEvent 0x0702 0 [BitVec.ofNat 8 (s.fld HPT_STATUS.Rate), BitVec.ofNat 8 (s.fld HPT_STATUS.Width),
      BitVec.ofNat 8 (s.fld HPT_STATUS.FlitMode)]).raise HPT_IRQ_STATUS.LinkDown
  else s

/-- PERST: PERST# is asserted. -/
def execPerst (s : State) : Result := .next (if s.on HPT_STATUS.Perst then s else s.hostReset 0)

/-- PERST_RELEASE: the link may train; the ticks of R417 count from here.  In deep sleep it is the host wake source (R526). -/
def execPerstRelease (s : State) : Result :=
  .next (if s.on HPT_STATUS.Perst then
      ({ (s.setF HPT_STATUS.Perst 0) with host := { (s.setF HPT_STATUS.Perst 0).host with perstTicks := 0 } } : State).wakeIf 3
    else s)

/-- HOT_RESET: it arrives over a link that is up. -/
def execHotReset (s : State) : Result := .next (if s.on HPT_STATUS.LinkUp then s.hostReset 1 else s)

/-- HOST_LINK_DOWN. -/
def execHostLinkDown (s : State) : Result := .next (if s.on HPT_STATUS.LinkUp then s.hostReset 2 else s)

/-- REFCLK_HOST_LOSS (R517): the link goes down. -/
def execRefclkHostLoss (s : State) : Result :=
  .next (if !s.on PWR_CLK.RefHostOk then s
    else (((s.when (s.on HPT_STATUS.LinkUp) (·.hostReset 2)).setF PWR_CLK.RefHostOk 0).clockEvent 2))

/-- REFCLK_HOST_BACK. -/
def execRefclkHostBack (s : State) : Result :=
  .next (if s.on PWR_CLK.RefHostOk then s else (s.setF PWR_CLK.RefHostOk 1).clockEvent 3)

/-- A write of 1 to Initiate FLR starts a function-level reset, unless one is in progress (R413). -/
def State.initiateFlr (s : State) : State :=
  if s.on HPT_STATUS.LinkUp && s.on HPT_STATUS.CfgReady && !s.on HPT_STATUS.FlrActive then s.hostReset 3 else s

/-- INITIATE_FLR. -/
def execInitiateFlr (s : State) : Result := .next s.initiateFlr

/-- FLR_COMPLETE. -/
def execFlrComplete (s : State) : Result := .next (if s.on HPT_STATUS.FlrActive then (s.setF HPT_STATUS.FlrActive 0).intxUpdate else s)

end Sys2Proof.Machine
end

