-- ==== Sys2Proof/Machine/Bus.lean ====
section
/-! DEFINITION. Machine/Bus.lean: inbound memory and configuration requests, and completions and timeouts of the bridge's
own requests (R384, R392 to R408, R413, R457, R493). -/

namespace Sys2Proof.Machine

/-! ## The host path -/

/-- The requesters that wait for a tag are granted under R9 while the host port takes them (R402, R403). -/
def State.requestTurns : Nat → State → State
  | 0, s => s
  | n + 1, s =>
    match (arbPick s.host.grants s.hostAsking).bind (fun r => if r = 31 then s.apertureNext else s.issueNext r) with
    | none => s
    | some t => State.requestTurns n t

/-- How many requests wait for a tag. -/
def State.requestsOut (s : State) : Nat :=
  s.host.aperture.length + (s.dma.movers.map (fun m => (m.2.pieces.filter (fun p => !p.issued)).length)).sum

/-- A configuration write performed: its completion, with RRS as for a read (R413, R414), then its effect. -/
def State.configWritten (s : State) (r : InRead) (dw : Nat) (data : Word) (be : BitVec 4) : State :=
  if !s.on HPT_STATUS.CfgReady || s.on HPT_STATUS.FlrActive then s.setRead (r.answered 2 [] false)
  else
    let t := s.setRead (r.answered 0 [] false)
    (State.completeReads t.host.reads.length t).configEffect (4 * dw) data (byteMask be) (·.initiateFlr)

/-- Configuration writes whose turn has come, in the order of arrival of all non-posted requests (R401). -/
def State.configTurns : Nat → State → State
  | 0, s => s
  | n + 1, s =>
    match s.host.reads.find? (fun r => r.pieces.isNone && r.done.isNone) with
    | none => s
    | some r => match r.target with
      | .configWrite dw data be =>
        if s.writesOut r then s else State.configTurns n (s.configWritten r dw data be).serveReads
      | _ => s

/-- Inbound non-posted requests served in their order of arrival. -/
def State.serveHost (s : State) : State :=
  let t := s.serveReads
  State.configTurns t.host.reads.length t

/-- What the host path can do is done: reads of mover 31 first, then of the movers and the aperture, held return slips, inbound
requests, what the hold of R456 has kept or ends; and the latency the bridge requires is told the host where it has changed
(R388). -/
def State.hostFlow (s : State) : State :=
  let t := s.serveHost
  let t := if t.canRequest then t.bulkFlush else (t.chansHeld).apertureFail
  let t := t.fetchSlips
  let t := State.requestTurns t.requestsOut t
  (State.replyFlush t.cmd.hold.length t).ltrUpdate

/-- POWER_STATE_WRITE. -/
def execPowerStateWrite (v : BitVec 2) (s : State) : Result :=
  .next (if s.on HPT_STATUS.CfgReady ∧ !s.on HPT_STATUS.FlrActive then (s.writePowerState v.toNat).hostFlow else s)

/-! ## Inbound requests -/

/-- A non-posted request joins those not yet completed, behind the remote writes that are older and not yet done (R401). -/
def State.takeRead (s : State) (target : Target) (len : Nat) (be : List Bool) (header : List Byte)
    (done : Option (Nat × List Byte × Bool)) : State :=
  let older := (s.rem.out.filter (fun q => match q.user with
    | .window 0 false _ => true
    | _ => false)).map (·.tag)
  let r : InRead := ⟨s.host.nextRead, target, len, be, header, older, none, done⟩
  { s with host := { s.host with reads := s.host.reads ++ [r], nextRead := s.host.nextRead + 1 } }

/-- MEMORY_READ: the read is translated, joins those not yet completed and issues in its turn (R400, R401); one that the port's
buffers lose is answered with Completer Abort (R407). -/
def execMemoryRead (addr : Dword) (len : Fin 4097) (head : ReadHead) (s : State) : Result :=
  .next (if !s.on HPT_STATUS.LinkUp || s.on HPT_STATUS.FlrActive then s
    else
      let target (t : State) : Target := if head.header.finding = .unknown then .absent else t.targetOf addr.toNat len.val
      s.receive head.header
        (fun t => (t.takeRead .absent len.val head.be head.header.bytes (some (4, [], false))).serveReads)
        (fun t => (t.takeRead (target t) len.val head.be head.header.bytes none).serveReads))

/-- CONFIG_READ (R401, R414). -/
def execConfigRead (dw : Fin 1024) (s : State) : Result :=
  .next (if !s.on HPT_STATUS.LinkUp then s else (s.takeRead (.config dw) 4 [] [] none).serveReads)

/-- CONFIG_WRITE (R401, R413, R414). -/
def execConfigWrite (dw : Fin 1024) (data : Word) (be : BitVec 4) (s : State) : Result :=
  .next (if !s.on HPT_STATUS.LinkUp then s else (s.takeRead (.configWrite dw data be) 4 [] [] none).hostFlow)

/-- The bytes of a write whose enables are set. -/
def enabledBytes (data : List Byte) (be : List Bool) : List (Option Byte) :=
  data.zipIdx.map (fun (x : Byte × Nat) => if be.getD x.2 true then some x.1 else none)

/-- The runs of consecutive enabled bytes, each with its offset from `o`. -/
def runsOf : Nat → List (Option Byte) → List (Nat × List Byte)
  | _, [] => []
  | o, none :: r => runsOf (o + 1) r
  | o, some b :: r => match runsOf (o + 1) r with
    | (k, bs) :: rest => if k = o + 1 then (o, b :: bs) :: rest else (o, [b]) :: (k, bs) :: rest
    | [] => [(o, [b])]

/-- The byte mask of the DW at `i` of a write's bytes. -/
def dwMask (bs : List (Option Byte)) (i : Nat) : Word :=
  BitVec.ofNat 32 (((List.range 4).map (fun k => if ((bs[i + k]?).getD none).isSome then 0xFF * 2 ^ (8 * k) else 0)).sum)

/-- A write to a local window (R197, R202, R203, R397); one that must wait joins its bank's waiting accesses, in runs. -/
def State.writeStacks (s : State) (o : Nat) (bs : List (Option Byte)) (poison : Bool) (header : List Byte) : State :=
  let s := s.when poison (·.poisonedTlp true header)
  match s.stkWrite rqHost o bs poison with
  | (t, .wait) => t.each (runsOf o bs) (fun (r : Nat × List Byte) t => t.fileWrite rqHost r.1 r.2 poison)
  | (t, .denied) => t.completerAbort true header
  | (t, .refused) => t.completerAbort true header
  | (t, _) => t

/-- A write to a remote window (R398): its pieces are sent, and one R350 discards is forgotten. -/
def State.writeRemote (s : State) (node cls o : Nat) (bs : List (Option Byte)) : State :=
  s.each (runsOf o bs) (fun (r : Nat × List Byte) t =>
    t.each (cutPieces r.2.length r.1 r.2.length) (fun (p : Nat × Nat) t =>
      let x := t.remoteIssue 51 (.window 0 false 0) node cls 0 p.1 p.2 (some ((r.2.drop (p.1 - r.1)).take p.2))
      if x.2.2 then x.1 else x.1.remoteForget x.2.1))

/-- A posted write to its target (R384, R394 to R398, R407). -/
def State.writeTarget (s : State) (target : Target) (data : List Byte) (be : List Bool) (poison : Bool) (header : List Byte) : State :=
  let n := data.length
  let bs := enabledBytes data be
  let local_ : Bool := match target with
    | .stacks _ => true
    | .absent => true
    | _ => false
  if poison && !local_ then s.poisonedTlp false header
  else match target with
    | .absent => s.unsupported true header
    | .stacks o => s.writeStacks o bs poison header
    | .remote node cls o => s.writeRemote node cls o bs
    | .reg k =>
      if n = 0 then s
      else if !regAccessOk k n then s.completerAbort true header
      else s.each (List.range (n / 4)) (fun i t =>
        if dwMask bs (4 * i) = 0#32 then t
        else t.writeAt (k + 4 * i) (BitVec.ofNat 32 (bytesAt data (4 * i) 4)) (dwMask bs (4 * i)))
    | .window o =>
      if s.mps < n then s.completerAbort true header
      else if o < 0x2000000 then s.inc CAT_WINWR
      else s.windowStore ((o - 0x2000000) / 0x10000) (o % 0x10000) bs
    -- the ROM and the rest of BAR0 ignore writes (R393, R395); a configuration write is not posted
    | .rom _ => s
    | .void => s
    | .config _ => s
    | .configWrite _ _ _ => s

/-- MEMORY_WRITE (R384, R394 to R398, R407). -/
def execMemoryWrite (addr : Dword) (data : List Byte) (be : List Bool) (poison : Bool) (header : TlpHead) (s : State) : Result :=
  .next (if !s.on HPT_STATUS.LinkUp || s.on HPT_STATUS.FlrActive then s
    else s.receive header id (fun t =>
      t.writeTarget (if header.finding = .unknown then .absent else t.targetOf addr.toNat data.length) data be poison header.bytes))

/-! ## Completions (R403 to R407) -/

/-- The outstanding request of a tag. -/
def State.outstandingTag (s : State) (tag : Nat) : Option Outstanding := s.host.outstanding.find? (fun o => o.tag == tag)

/-- A request off the list. -/
def State.requestEnded (s : State) (o : Outstanding) : State :=
  { s with host := { s.host with outstanding := s.host.outstanding.erase o } }

/-- A request ends in an error response: `code` as R493 counts it for a command-ring fetch. -/
def State.requestFailed (s : State) (o : Outstanding) (code : Nat) : State :=
  match o.requester with
  | .slipFetch _ _ => s.fetchFailed o code
  | _ => (s.requestEnded o).errorResponse o

/-- A request ends with data, poisoned or not. -/
def State.requestDone (s : State) (o : Outstanding) (data : List Byte) (poison : Bool) : State :=
  let t := s.requestEnded o
  match o.requester with
  | .slipFetch _ n => if poison then s.fetchFailed o 2 else s.slipsFetched o n data
  | .mover m => t.moverGot m o.addr (some (data, poison))
  | .engineLoad e => match (t.port e).lq.findIdx? (fun l => l.tag == some o.tag && l.got == .nothing && match l.place with
      | .host _ _ => true
      | _ => false) with
    | some i => t.loadGot e i (if poison then .error else .bytes (data.take o.len))
    | none => t.inc ENG_LATEACK
  | .engineStore e =>
    let q := t.port e
    -- the read behind a store declared lost is a late acknowledgement (R130)
    if q.open_.any (fun x => x.tag == some o.tag) then
      (t.setPort e { q with open_ := q.open_.filter (fun x => x.tag != some o.tag) }).drain e
    else t.inc ENG_LATEACK
  | .transfer _ => t

/-- A completion taken: unexpected (R406), given up, in error, of a wrong length, or with its data (R384, R407). -/
def State.completed (s : State) (tag : Nat) (status : CplStatus) (poison : Bool) (data header : List Byte) : State :=
  match s.outstandingTag tag with
  | none => ((s.aerUncorrectable 16 true header).inc HPT_UNEXPCPL).raise HPT_IRQ_STATUS.Unexpected
  | some o =>
    if o.abandoned then (s.requestEnded o).hostFlow
    else match status with
      | .unsupported => ((s.setF CFG_CMDSTS.ReceivedMasterAbort 1).requestFailed o 0).hostFlow
      | .abort => ((s.setF CFG_CMDSTS.ReceivedTargetAbort 1).requestFailed o 1).hostFlow
      | .success =>
        if data.length ≠ (if o.len = 0 then 4 else o.len) then s.aerUncorrectable 18 false header
        else ((s.when poison (fun t => (t.poisonedTlp true header).masterParity)).requestDone o data poison).hostFlow

/-- A completion the port's buffers lost: its requester receives an error response (R407). -/
def State.completionLost (s : State) (tag : Nat) : State :=
  match s.outstandingTag tag with
  | none => s
  | some o => if o.abandoned then (s.requestEnded o).hostFlow else (s.requestFailed o 1).hostFlow

/-- COMPLETION. -/
def execCompletion (tag : BitVec 10) (status : CplStatus) (poison : Bool) (data : List Byte) (header : TlpHead) (s : State) : Result :=
  .next (if !s.on HPT_STATUS.LinkUp then s
    else s.receive header (·.completionLost tag.toNat) (·.completed tag.toNat status poison data header.bytes))

/-- COMPLETION_TIMEOUT (R404, R405): never while timeouts are disabled; a request abandoned by FLR is dropped silently. -/
def execCompletionTimeout (tag : BitVec 10) (s : State) : Result :=
  .next (match s.outstandingTag tag.toNat with
    | none => s
    | some o =>
      if s.cplTimeout = 0 then s
      else if o.abandoned then (s.requestEnded o).hostFlow
      else
        let t := ((s.aerUncorrectable 14 false []).inc HPT_CPLTOCNT).logEvent 0x0704 o.tag
          (leBytes 4 o.requester.index ++ leBytes 8 o.addr)
        let u := t.raise HPT_IRQ_STATUS.CplTimeout
        ({ u with host := { u.host with quarantine := u.host.quarantine ++ [o.tag] } }.requestFailed o 3).hostFlow)

end Sys2Proof.Machine
end

