-- ==== Sys2Proof/Machine/Scalar.lean ====
section
/-! DEFINITION. Machine/Scalar.lean: the scalar integer, predicate, branch and floating-point instructions (R161 to
R169). -/

namespace Sys2Proof.Machine

/-- D from A and B. -/
def State.binF (s : State) (e : Fin 513) (d a b : BitVec 5) (f : Word → Word → Flagged) : State :=
  s.aluG e d [a, b] (fun r => f (r.rg a.toNat) (r.rg b.toNat))

/-- D from A and B, no flags. -/
def State.bin (s : State) (e : Fin 513) (d a b : BitVec 5) (f : Word → Word → Word) : State :=
  s.binF e d a b (fun x y => (f x y, 0#32))

/-- D from A. -/
def State.unF (s : State) (e : Fin 513) (d a : BitVec 5) (f : Word → Flagged) : State :=
  s.aluG e d [a] (fun r => f (r.rg a.toNat))

/-- p(D) from p(A) and p(B). -/
def State.binP (s : State) (e : Fin 513) (d a b : BitVec 3) (f : Byte → Byte → Byte) : State :=
  s.aluP e d [] [] (fun r => (f (r.rp a.toNat) (r.rp b.toNat), 0#32))

/-- True as a predicate (R155). -/
def boolByte (b : Bool) : Byte := if b then 0xFF#8 else 0#8

/-- A quotient, 0xFFFFFFFF with DivZero for B = 0 (R164). -/
def divOf (_x y q : Word) : Flagged := if y = 0#32 then (0xFFFFFFFF#32, fsDivZero) else (q, 0#32)

/-- A remainder, A with DivZero for B = 0 (R164). -/
def remOf (x y q : Word) : Flagged := if y = 0#32 then (x, fsDivZero) else (q, 0#32)

/-- The compare codes of CMP (R163). -/
def cmpOf (cc : Nat) (x y : Word) : Bool :=
  match cc with
  | 0 => x == y
  | 1 => x != y
  | 2 => x.slt y
  | 3 => !x.slt y
  | 4 => x.ult y
  | _ => !x.ult y

/-- The compare codes of CMPI (R163). -/
def cmpiOf (cc : Nat) (x y : Word) : Bool :=
  match cc with
  | 0 => x == y
  | 1 => x.slt y
  | 2 => x.ult y
  | _ => !y.slt x

/-- The shift kinds of SHI (R159). -/
def shiftOf (kind : Nat) (x : Word) (n : Nat) : Word :=
  match kind with
  | 0 => x <<< n
  | 1 => x >>> n
  | 2 => x.sshiftRight n
  | _ => x.rotateRight n

/-- ADD: A + B modulo 2^32 (R161). -/
def execIAdd (e : Fin 513) (d a b : BitVec 5) (s : State) : Result :=
  .next (s.bin e d a b (fun x y => x + y))

/-- SUB: A − B modulo 2^32. -/
def execISub (e : Fin 513) (d a b : BitVec 5) (s : State) : Result :=
  .next (s.bin e d a b (fun x y => x - y))

/-- AND. -/
def execIAnd (e : Fin 513) (d a b : BitVec 5) (s : State) : Result :=
  .next (s.bin e d a b (fun x y => x &&& y))

/-- OR. -/
def execIOr (e : Fin 513) (d a b : BitVec 5) (s : State) : Result :=
  .next (s.bin e d a b (fun x y => x ||| y))

/-- XOR. -/
def execIXor (e : Fin 513) (d a b : BitVec 5) (s : State) : Result :=
  .next (s.bin e d a b (fun x y => x ^^^ y))

/-- ANDN: A and not B. -/
def execIAndn (e : Fin 513) (d a b : BitVec 5) (s : State) : Result :=
  .next (s.bin e d a b (fun x y => x &&& ~~~ y))

/-- SLL: shift left by B[4:0]. -/
def execISll (e : Fin 513) (d a b : BitVec 5) (s : State) : Result :=
  .next (s.bin e d a b (fun x y => x <<< (y.toNat % 32)))

/-- SRL: shift right by B[4:0], zero fill. -/
def execISrl (e : Fin 513) (d a b : BitVec 5) (s : State) : Result :=
  .next (s.bin e d a b (fun x y => x >>> (y.toNat % 32)))

/-- SRA: shift right by B[4:0], sign fill. -/
def execISra (e : Fin 513) (d a b : BitVec 5) (s : State) : Result :=
  .next (s.bin e d a b (fun x y => x.sshiftRight (y.toNat % 32)))

/-- ROR: rotate right by B[4:0]. -/
def execIRor (e : Fin 513) (d a b : BitVec 5) (s : State) : Result :=
  .next (s.bin e d a b (fun x y => x.rotateRight (y.toNat % 32)))

/-- MIN: signed minimum. -/
def execIMin (e : Fin 513) (d a b : BitVec 5) (s : State) : Result :=
  .next (s.bin e d a b (fun x y => if x.slt y then x else y))

/-- MAX: signed maximum. -/
def execIMax (e : Fin 513) (d a b : BitVec 5) (s : State) : Result :=
  .next (s.bin e d a b (fun x y => if x.slt y then y else x))

/-- MINU: unsigned minimum. -/
def execIMinu (e : Fin 513) (d a b : BitVec 5) (s : State) : Result :=
  .next (s.bin e d a b (fun x y => if x.ult y then x else y))

/-- MAXU: unsigned maximum. -/
def execIMaxu (e : Fin 513) (d a b : BitVec 5) (s : State) : Result :=
  .next (s.bin e d a b (fun x y => if x.ult y then y else x))

/-- ABS: the absolute value; 0x80000000 saturates and sets Sat. -/
def execIAbs (e : Fin 513) (d a : BitVec 5) (s : State) : Result :=
  .next (s.unF e d a (fun x => sat32 x.toInt.natAbs))

/-- CLZ: leading zeros, 0 to 32. -/
def execIClz (e : Fin 513) (d a : BitVec 5) (s : State) : Result :=
  .next (s.unF e d a (fun x => (BitVec.ofNat 32 (if x = 0#32 then 32 else 31 - x.toNat.log2), 0#32)))

/-- POPC: ones. -/
def execIPopc (e : Fin 513) (d a : BitVec 5) (s : State) : Result :=
  .next (s.unF e d a (fun x => (BitVec.ofNat 32 ((List.range 32).filter (fun i => x.getLsbD i)).length, 0#32)))

/-- SEL: A where bit 0 of p(C) is 1, otherwise B. -/
def execISel (e : Fin 513) (d a b : BitVec 5) (p : BitVec 3) (s : State) : Result :=
  .next (s.aluG e d [a, b] (fun r => (if r.cond p.toNat then r.rg a.toNat else r.rg b.toNat, 0#32)))

/-- MUL: bits 31:0 of the product. -/
def execIMul (e : Fin 513) (d a b : BitVec 5) (s : State) : Result :=
  .next (s.bin e d a b (fun x y => x * y))

/-- MULH: bits 63:32 of the signed product. -/
def execIMulh (e : Fin 513) (d a b : BitVec 5) (s : State) : Result :=
  .next (s.bin e d a b (fun x y => BitVec.ofInt 32 (x.toInt * y.toInt / 2 ^ 32)))

/-- MULHU: bits 63:32 of the unsigned product. -/
def execIMulhu (e : Fin 513) (d a b : BitVec 5) (s : State) : Result :=
  .next (s.bin e d a b (fun x y => BitVec.ofNat 32 (x.toNat * y.toNat / 2 ^ 32)))

/-- DIV: signed, truncated (R164); 0x80000000 ÷ −1 wraps to 0x80000000. -/
def execIDiv (e : Fin 513) (d a b : BitVec 5) (s : State) : Result :=
  .next (s.binF e d a b (fun x y => divOf x y (BitVec.ofInt 32 (x.toInt.tdiv y.toInt))))

/-- DIVU (R164). -/
def execIDivu (e : Fin 513) (d a b : BitVec 5) (s : State) : Result :=
  .next (s.binF e d a b (fun x y => divOf x y (x / y)))

/-- REM: signed, the sign of A (R164). -/
def execIRem (e : Fin 513) (d a b : BitVec 5) (s : State) : Result :=
  .next (s.binF e d a b (fun x y => remOf x y (BitVec.ofInt 32 (x.toInt.tmod y.toInt))))

/-- REMU (R164). -/
def execIRemu (e : Fin 513) (d a b : BitVec 5) (s : State) : Result :=
  .next (s.binF e d a b (fun x y => remOf x y (x % y)))

/-- ADDS: saturating signed sum (R165). -/
def execIAdds (e : Fin 513) (d a b : BitVec 5) (s : State) : Result :=
  .next (s.binF e d a b (fun x y => sat32 (x.toInt + y.toInt)))

/-- SUBS: saturating signed difference. -/
def execISubs (e : Fin 513) (d a b : BitVec 5) (s : State) : Result :=
  .next (s.binF e d a b (fun x y => sat32 (x.toInt - y.toInt)))

/-- QMUL: the Q31 product, rounded once and saturated. -/
def execIQmul (e : Fin 513) (d a b : BitVec 5) (s : State) : Result :=
  .next (s.binF e d a b (fun x y => sat32 (rneInt (x.toInt * y.toInt) (2 ^ 31))))

/-- QMAC: D + A × B in Q31, rounded once and saturated; reads D. -/
def execIQmac (e : Fin 513) (d a b : BitVec 5) (s : State) : Result :=
  .next (s.aluG e d [a, b] (fun r =>
    sat32 (rneInt ((r.rg d.toNat).toInt * 2 ^ 31 + (r.rg a.toNat).toInt * (r.rg b.toNat).toInt) (2 ^ 31))))

/-- SHLS: saturating shift left by B[4:0]. -/
def execIShls (e : Fin 513) (d a b : BitVec 5) (s : State) : Result :=
  .next (s.binF e d a b (fun x y => sat32 (x.toInt * 2 ^ (y.toNat % 32))))

/-- RSHR: rounding shift right by B[4:0]. -/
def execIRshr (e : Fin 513) (d a b : BitVec 5) (s : State) : Result :=
  .next (s.bin e d a b (fun x y => BitVec.ofInt 32 (rneInt x.toInt (2 ^ (y.toNat % 32)))))

/-- CMP: a predicate from A cc B; codes 6 and 7 raise ILLEGAL (R163). -/
def execICmp (e : Fin 513) (pd : BitVec 3) (a b : BitVec 5) (cc : BitVec 3) (s : State) : Result :=
  .next (if 6 ≤ cc.toNat then s.illegal e (wordOP 1 pd.toNat a.toNat b.toNat cc.toNat 0x20)
    else s.aluP e pd [a, b] [] (fun r => (boolByte (cmpOf cc.toNat (r.rg a.toNat) (r.rg b.toNat)), 0#32)))

/-- PAND. -/
def execIPand (e : Fin 513) (d a b : BitVec 3) (s : State) : Result :=
  .next (s.binP e d a b (fun x y => x &&& y))

/-- POR. -/
def execIPor (e : Fin 513) (d a b : BitVec 3) (s : State) : Result :=
  .next (s.binP e d a b (fun x y => x ||| y))

/-- PXOR. -/
def execIPxor (e : Fin 513) (d a b : BitVec 3) (s : State) : Result :=
  .next (s.binP e d a b (fun x y => x ^^^ y))

/-- PANDN. -/
def execIPandn (e : Fin 513) (d a b : BitVec 3) (s : State) : Result :=
  .next (s.binP e d a b (fun x y => x &&& ~~~ y))

/-- PANY: true if any bit of p(A) is 1. -/
def execIPany (e : Fin 513) (d a : BitVec 3) (s : State) : Result :=
  .next (s.binP e d a a (fun x _ => boolByte (x != 0#8)))

/-- PALL: true if every bit of p(A) is 1. -/
def execIPall (e : Fin 513) (d a : BitVec 3) (s : State) : Result :=
  .next (s.binP e d a a (fun x _ => boolByte (x == 0xFF#8)))

/-- MOVGP: a predicate, zero-extended. -/
def execIMovgp (e : Fin 513) (d : BitVec 5) (p : BitVec 3) (s : State) : Result :=
  .next (s.aluG e d [] (fun r => ((r.rp p.toNat).zeroExtend 32, 0#32)))

/-- MOVPG: bits 7:0 of A to a predicate. -/
def execIMovpg (e : Fin 513) (p : BitVec 3) (a : BitVec 5) (s : State) : Result :=
  .next (s.aluP e p [a] [] (fun r => ((r.rg a.toNat).truncate 8, 0#32)))

/-- ADDI: A + sext(IMM) (R162). -/
def execIAddi (e : Fin 513) (d a : BitVec 5) (imm : BitVec 16) (s : State) : Result :=
  .next (s.unF e d a (fun x => (x + imm.signExtend 32, 0#32)))

/-- ANDI: A and zext(IMM). -/
def execIAndi (e : Fin 513) (d a : BitVec 5) (imm : BitVec 16) (s : State) : Result :=
  .next (s.unF e d a (fun x => (x &&& imm.zeroExtend 32, 0#32)))

/-- ORI: A or zext(IMM). -/
def execIOri (e : Fin 513) (d a : BitVec 5) (imm : BitVec 16) (s : State) : Result :=
  .next (s.unF e d a (fun x => (x ||| imm.zeroExtend 32, 0#32)))

/-- XORI: A xor zext(IMM). -/
def execIXori (e : Fin 513) (d a : BitVec 5) (imm : BitVec 16) (s : State) : Result :=
  .next (s.unF e d a (fun x => (x ^^^ imm.zeroExtend 32, 0#32)))

/-- SHI: shift A by IMM[4:0], of kind IMM[6:5]: SLL, SRL, SRA, ROR (R159). -/
def execIShi (e : Fin 513) (d a : BitVec 5) (kind : BitVec 2) (n : BitVec 5) (s : State) : Result :=
  .next (s.unF e d a (fun x => (shiftOf kind.toNat x n.toNat, 0#32)))

/-- LUI: IMM << 16. -/
def execILui (e : Fin 513) (d : BitVec 5) (imm : BitVec 16) (s : State) : Result :=
  .next (s.aluG e d [] (fun _ => (imm.zeroExtend 32 <<< 16, 0#32)))

/-- CMPI: EQ, LT, LTU or LE against sext(IMM) (R163). -/
def execICmpi (e : Fin 513) (pd : BitVec 3) (a : BitVec 5) (cc : BitVec 2) (imm : BitVec 16) (s : State) : Result :=
  .next (s.aluP e pd [a] [] (fun r => (boolByte (cmpiOf cc.toNat (r.rg a.toNat) (imm.signExtend 32)), 0#32)))

/-- JALR: D = PC + 4, PC = A (R169). -/
def execIJalr (e : Fin 513) (d a : BitVec 5) (s : State) : Result :=
  .next (s.aluR e [d, a] (fun r => (r.wg d.toNat (r.pc + 4#32)).goto (r.rg a.toNat)))

/-- B: to PC + 4 × sext(OFF) when bit 0 of p(P) differs from S (R169). -/
def execIB (e : Fin 513) (p : BitVec 3) (sense : Bool) (off : BitVec 16) (s : State) : Result :=
  .next (s.aluR e [] (fun r => if r.cond p.toNat != sense then r.goto (r.pc + (off.signExtend 32 <<< 2)) else r.next))

/-- JAL: D = PC + 4, PC + 4 × sext(OFF) (R169). -/
def execIJal (e : Fin 513) (d : BitVec 5) (off : BitVec 21) (s : State) : Result :=
  .next (s.aluR e [d] (fun r => (r.wg d.toNat (r.pc + 4#32)).goto (r.pc + (off.signExtend 32 <<< 2))))

/-- FADD (R167, R168). -/
def execIFadd (e : Fin 513) (d a b : BitVec 5) (s : State) : Result :=
  .next (s.binF e d a b (fun x y => fpAdd x y))

/-- FSUB. -/
def execIFsub (e : Fin 513) (d a b : BitVec 5) (s : State) : Result :=
  .next (s.binF e d a b (fun x y => fpSub x y))

/-- FMUL. -/
def execIFmul (e : Fin 513) (d a b : BitVec 5) (s : State) : Result :=
  .next (s.binF e d a b (fun x y => fpMul x y))

/-- FMA: D + A × B, fused. -/
def execIFma (e : Fin 513) (d a b : BitVec 5) (s : State) : Result :=
  .next (s.aluG e d [a, b] (fun r => fpFma (r.rg d.toNat) (r.rg a.toNat) (r.rg b.toNat)))

/-- FMS: D − A × B, fused. -/
def execIFms (e : Fin 513) (d a b : BitVec 5) (s : State) : Result :=
  .next (s.aluG e d [a, b] (fun r => fpFms (r.rg d.toNat) (r.rg a.toNat) (r.rg b.toNat)))

/-- FDIV. -/
def execIFdiv (e : Fin 513) (d a b : BitVec 5) (s : State) : Result :=
  .next (s.binF e d a b (fun x y => fpDiv x y))

/-- FSQRT. -/
def execIFsqrt (e : Fin 513) (d a : BitVec 5) (s : State) : Result :=
  .next (s.unF e d a fpSqrt)

/-- FMIN: −0 below +0; one NaN gives the other input. -/
def execIFmin (e : Fin 513) (d a b : BitVec 5) (s : State) : Result :=
  .next (s.binF e d a b (fun x y => fpMinMax false x y))

/-- FMAX. -/
def execIFmax (e : Fin 513) (d a b : BitVec 5) (s : State) : Result :=
  .next (s.binF e d a b (fun x y => fpMinMax true x y))

/-- FABS: bit 31 cleared; no flags. -/
def execIFabs (e : Fin 513) (d a : BitVec 5) (s : State) : Result :=
  .next (s.unF e d a (fun x => (fpAbs x, 0#32)))

/-- FNEG: bit 31 inverted; no flags. -/
def execIFneg (e : Fin 513) (d a : BitVec 5) (s : State) : Result :=
  .next (s.unF e d a (fun x => (fpNeg x, 0#32)))

/-- FCMP: EQ, LT, LE or UN. -/
def execIFcmp (e : Fin 513) (pd : BitVec 3) (a b : BitVec 5) (cc : BitVec 2) (s : State) : Result :=
  .next (s.aluP e pd [a, b] [] (fun r =>
    let c := fpCmp cc.toNat (r.rg a.toNat) (r.rg b.toNat)
    (boolByte c.1, c.2)))

/-- FCVT.S.W: a signed integer as FP32. -/
def execIFcvtSW (e : Fin 513) (d a : BitVec 5) (s : State) : Result :=
  .next (s.unF e d a (fun x => fpOfFixed x.toInt 0))

/-- FCVT.W.S: sat(rnd(A)); NaN gives 0 and sets Invalid. -/
def execIFcvtWS (e : Fin 513) (d a : BitVec 5) (s : State) : Result :=
  .next (s.unF e d a (fcvtFixed 32 0))

/-- FCVT.S.Q: signed A ÷ 2^C. -/
def execIFcvtSQ (e : Fin 513) (d a c : BitVec 5) (s : State) : Result :=
  .next (s.unF e d a (fun x => fpOfFixed x.toInt c.toNat))

/-- FCVT.Q.S: sat(rnd(A × 2^C)). -/
def execIFcvtQS (e : Fin 513) (d a c : BitVec 5) (s : State) : Result :=
  .next (s.unF e d a (fcvtQS c.toNat))

end Sys2Proof.Machine
end

