-- ==== Sys2Proof/Machine/Vector.lean ====
section
/-! DEFINITION. Machine/Vector.lean: the vector instructions and the moves between g and v registers (R173 to R177). -/

namespace Sys2Proof.Machine

/-! ## Lanes (R155, R173) -/

/-- The lane types. -/
abbrev tyF : Nat := 0
abbrev tyQ31 : Nat := 1
abbrev tyQ15 : Nat := 2
abbrev tyInt : Nat := 3

/-- The lane width of a type. -/
def laneWidth (t : Nat) : Nat := if t = tyQ15 then 16 else 32

/-- The lanes of a type. -/
def laneCount (t : Nat) : Nat := if t = tyQ15 then 8 else 4

/-- Lane `i`, zero-extended. -/
def laneVal (t : Nat) (v : BitVec 128) (i : Nat) : Word := BitVec.ofNat 32 (v.toNat / 2 ^ (laneWidth t * i) % 2 ^ laneWidth t)

/-- Lane `i` as a signed number. -/
def laneInt (t : Nat) (v : BitVec 128) (i : Nat) : Int := signedOf (laneWidth t) (laneVal t v i).toNat

/-- A vector from its lanes. -/
def ofLanes (t : Nat) (f : Nat → Word) : BitVec 128 :=
  BitVec.ofNat 128 (((List.range (laneCount t)).map (fun i => (f i).toNat % 2 ^ laneWidth t * 2 ^ (laneWidth t * i))).sum)

/-- The bit of a predicate that governs lane `i`. -/
def governs (t : Nat) (p : Byte) (i : Nat) : Bool := p.getLsbD (if t = tyQ15 then i else 2 * i)

/-- Each lane of type `t` computed where its governing bit is 1, kept otherwise, with the flags of the computed lanes. -/
def maskedLanes (t : Nat) (p : Byte) (old : BitVec 128) (f : Nat → Flagged) : BitVec 128 × Word :=
  (ofLanes t (fun i => if governs t p i then (f i).1 else laneVal t old i),
   (List.range (laneCount t)).foldl (fun w i => if governs t p i then w ||| (f i).2 else w) 0#32)

/-- An exact result in a lane: Q saturates, INT wraps (R165). -/
def laneResult (t : Nat) (x : Int) : Flagged :=
  if t = tyInt then (BitVec.ofInt 32 x, 0#32)
  else
    let r := satInt (laneWidth t) x
    (BitVec.ofInt 32 r.1, if r.2 then fsSat else 0#32)

/-- The fraction bits of a Q type; 0 for INT. -/
def fracOf (t : Nat) : Nat := if t = tyQ31 then 31 else if t = tyQ15 then 15 else 0

/-! ## The shape of a VE instruction -/

/-- A VE instruction that writes vector lanes: ILLEGAL in the Curator and for a lane type it does not permit; `f` gives
lane `i` from the registers. -/
def State.vop (s : State) (e : Fin 513) (word : Word) (ok : Bool) (vd : BitVec 4) (vs : List (BitVec 4)) (pm : BitVec 3)
    (t : Nat) (f : Regs → Nat → Flagged) : State :=
  s.engineOnly e word (fun s =>
    if !ok then s.illegal e word
    else s.aluV e vd [] vs (fun r => maskedLanes t (r.rp pm.toNat) (r.rv vd.toNat) (f r)))

/-- A two-operand VE instruction on floating-point lanes by `ff` and on the other types by `fi`, exactly. -/
def State.vbin (s : State) (e : Fin 513) (fc : Nat) (vd va vb : BitVec 4) (pm : BitVec 3) (t : BitVec 2)
    (ff : Word → Word → Flagged) (fi : Int → Int → Int) : State :=
  s.vop e (wordVE vd.toNat va.toNat vb.toNat 0 pm.toNat t.toNat fc) true vd [va, vb] pm t.toNat (fun r i =>
    if t.toNat = tyF then ff (laneVal tyF (r.rv va.toNat) i) (laneVal tyF (r.rv vb.toNat) i)
    else laneResult t.toNat (fi (laneInt t.toNat (r.rv va.toNat) i) (laneInt t.toNat (r.rv vb.toNat) i)))

/-- A one-operand VE instruction. -/
def State.vun (s : State) (e : Fin 513) (fc : Nat) (vd va : BitVec 4) (pm : BitVec 3) (t : BitVec 2)
    (ff : Word → Flagged) (fi : Int → Int) : State :=
  s.vop e (wordVE vd.toNat va.toNat 0 0 pm.toNat t.toNat fc) true vd [va] pm t.toNat (fun r i =>
    if t.toNat = tyF then ff (laneVal tyF (r.rv va.toNat) i)
    else laneResult t.toNat (fi (laneInt t.toNat (r.rv va.toNat) i)))

/-- VADD. -/
def execIVadd (e : Fin 513) (vd va vb : BitVec 4) (pm : BitVec 3) (t : BitVec 2) (s : State) : Result :=
  .next (s.vbin e 0 vd va vb pm t fpAdd (fun x y => x + y))

/-- VSUB. -/
def execIVsub (e : Fin 513) (vd va vb : BitVec 4) (pm : BitVec 3) (t : BitVec 2) (s : State) : Result :=
  .next (s.vbin e 1 vd va vb pm t fpSub (fun x y => x - y))

/-- VMUL: Q products rounded once (R165). -/
def execIVmul (e : Fin 513) (vd va vb : BitVec 4) (pm : BitVec 3) (t : BitVec 2) (s : State) : Result :=
  .next (s.vbin e 2 vd va vb pm t fpMul (fun x y => rneInt (x * y) (2 ^ fracOf t.toNat)))

/-- VMAC and VMSU: VC ± VA × VB, fused or rounded once. -/
def State.vmac (s : State) (e : Fin 513) (fc : Nat) (vd va vb vc : BitVec 4) (pm : BitVec 3) (t : BitVec 2)
    (ff : Word → Word → Word → Flagged) (sign : Int) : State :=
  s.vop e (wordVE vd.toNat va.toNat vb.toNat vc.toNat pm.toNat t.toNat fc) true vd [va, vb, vc] pm t.toNat (fun r i =>
    if t.toNat = tyF then ff (laneVal tyF (r.rv vc.toNat) i) (laneVal tyF (r.rv va.toNat) i) (laneVal tyF (r.rv vb.toNat) i)
    else
      let q := fracOf t.toNat
      laneResult t.toNat (rneInt (laneInt t.toNat (r.rv vc.toNat) i * 2 ^ q +
        sign * (laneInt t.toNat (r.rv va.toNat) i * laneInt t.toNat (r.rv vb.toNat) i)) (2 ^ q)))

/-- VMAC. -/
def execIVmac (e : Fin 513) (vd va vb vc : BitVec 4) (pm : BitVec 3) (t : BitVec 2) (s : State) : Result :=
  .next (s.vmac e 3 vd va vb vc pm t fpFma 1)

/-- VMSU. -/
def execIVmsu (e : Fin 513) (vd va vb vc : BitVec 4) (pm : BitVec 3) (t : BitVec 2) (s : State) : Result :=
  .next (s.vmac e 4 vd va vb vc pm t fpFms (-1))

/-- VMIN. -/
def execIVmin (e : Fin 513) (vd va vb : BitVec 4) (pm : BitVec 3) (t : BitVec 2) (s : State) : Result :=
  .next (s.vbin e 5 vd va vb pm t (fpMinMax false) (fun x y => min x y))

/-- VMAX. -/
def execIVmax (e : Fin 513) (vd va vb : BitVec 4) (pm : BitVec 3) (t : BitVec 2) (s : State) : Result :=
  .next (s.vbin e 6 vd va vb pm t (fpMinMax true) (fun x y => max x y))

/-- VABS: FP32 clears the sign, without flags. -/
def execIVabs (e : Fin 513) (vd va : BitVec 4) (pm : BitVec 3) (t : BitVec 2) (s : State) : Result :=
  .next (s.vun e 7 vd va pm t (fun x => (fpAbs x, 0#32)) (fun x => Int.ofNat x.natAbs))

/-- VNEG: FP32 inverts the sign, without flags. -/
def execIVneg (e : Fin 513) (vd va : BitVec 4) (pm : BitVec 3) (t : BitVec 2) (s : State) : Result :=
  .next (s.vun e 8 vd va pm t (fun x => (fpNeg x, 0#32)) (fun x => -x))

/-- The compare codes of VCMP: 0 EQ, 1 NE, 2 LT, 3 LE. -/
def laneCmp (t cc : Nat) (a b : BitVec 128) (i : Nat) : Bool × Word :=
  if t = tyF then
    let x := laneVal tyF a i
    let y := laneVal tyF b i
    let f := (fpCmp 0 x y).2
    (match cc with
      | 0 => fpEq x y
      | 1 => !fpEq x y
      | 2 => fpLt x y
      | _ => fpLt x y || fpEq x y, f)
  else
    let x := laneInt t a i
    let y := laneInt t b i
    (match cc with
      | 0 => decide (x = y)
      | 1 => decide (x ≠ y)
      | 2 => decide (x < y)
      | _ => decide (x ≤ y), 0#32)

/-- A predicate from lane conditions: both bits of a 4-lane type's laneVal (R155). -/
def lanePred (t : Nat) (f : Nat → Bool) : Byte :=
  BitVec.ofNat 8 (((List.range 8).map (fun k => if f (if t = tyQ15 then k else k / 2) then 2 ^ k else 0)).sum)

/-- VCMP: a masked lane writes 0 to its bits (R174). -/
def execIVcmp (e : Fin 513) (pd : BitVec 3) (va vb : BitVec 4) (cc : BitVec 2) (pm : BitVec 3) (t : BitVec 2) (s : State) : Result :=
  .next (s.engineOnly e (wordVE pd.toNat va.toNat vb.toNat cc.toNat pm.toNat t.toNat 9) (fun s =>
    s.aluP e pd [] [va, vb] (fun r =>
      let k := t.toNat
      let m := r.rp pm.toNat
      let c := laneCmp k cc.toNat (r.rv va.toNat) (r.rv vb.toNat)
      (lanePred k (fun i => governs k m i && (c i).1),
       (List.range (laneCount k)).foldl (fun w i => if governs k m i then w ||| (c i).2 else w) 0#32))))

/-- VSEL: PM selects VA or VB in every lane (R174). -/
def execIVsel (e : Fin 513) (vd va vb : BitVec 4) (pm : BitVec 3) (t : BitVec 2) (s : State) : Result :=
  .next (s.vop e (wordVE vd.toNat va.toNat vb.toNat 0 pm.toNat t.toNat 0xA) true vd [va, vb] 0#3 t.toNat (fun r i =>
    (if governs t.toNat (r.rp pm.toNat) i then laneVal t.toNat (r.rv va.toNat) i else laneVal t.toNat (r.rv vb.toNat) i, 0#32)))

/-- VAND, VOR and VXOR: INT lanes only. -/
def State.vlogic (s : State) (e : Fin 513) (fc : Nat) (vd va vb : BitVec 4) (pm : BitVec 3) (t : BitVec 2) (f : Word → Word → Word) :
    State :=
  s.vop e (wordVE vd.toNat va.toNat vb.toNat 0 pm.toNat t.toNat fc) (t.toNat == tyInt) vd [va, vb] pm tyInt (fun r i =>
    (f (laneVal tyInt (r.rv va.toNat) i) (laneVal tyInt (r.rv vb.toNat) i), 0#32))

/-- VAND. -/
def execIVand (e : Fin 513) (vd va vb : BitVec 4) (pm : BitVec 3) (t : BitVec 2) (s : State) : Result :=
  .next (s.vlogic e 0xB vd va vb pm t (fun x y => x &&& y))

/-- VOR. -/
def execIVor (e : Fin 513) (vd va vb : BitVec 4) (pm : BitVec 3) (t : BitVec 2) (s : State) : Result :=
  .next (s.vlogic e 0xC vd va vb pm t (fun x y => x ||| y))

/-- VXOR. -/
def execIVxor (e : Fin 513) (vd va vb : BitVec 4) (pm : BitVec 3) (t : BitVec 2) (s : State) : Result :=
  .next (s.vlogic e 0xD vd va vb pm t (fun x y => x ^^^ y))

/-- VSRA and VSLS: `n` is VB:VC; ILLEGAL for FP32 and for n at or past the lane width (R175). -/
def State.vshift (s : State) (e : Fin 513) (fc : Nat) (vd va : BitVec 4) (n : BitVec 8) (pm : BitVec 3) (t : BitVec 2)
    (f : Int → Flagged) : State :=
  s.vop e (wordVE vd.toNat va.toNat (n.toNat / 16) (n.toNat % 16) pm.toNat t.toNat fc)
    (t.toNat != tyF && decide (n.toNat < laneWidth t.toNat)) vd [va] pm t.toNat (fun r i => f (laneInt t.toNat (r.rv va.toNat) i))

/-- VSRA. -/
def execIVsra (e : Fin 513) (vd va : BitVec 4) (n : BitVec 8) (pm : BitVec 3) (t : BitVec 2) (s : State) : Result :=
  .next (s.vshift e 0xE vd va n pm t (fun x => (BitVec.ofInt 32 (x / 2 ^ n.toNat), 0#32)))

/-- VSLS: saturates, INT lanes too. -/
def execIVsls (e : Fin 513) (vd va : BitVec 4) (n : BitVec 8) (pm : BitVec 3) (t : BitVec 2) (s : State) : Result :=
  .next (s.vshift e 0xF vd va n pm t (fun x =>
    laneResult (if t.toNat = tyInt then tyQ31 else t.toNat) (x * 2 ^ n.toNat)))

/-! ## Conversions and reductions (R176) -/

/-- One lane converted from type `a` to type `b`, both stated by R176. -/
def convertLane (a b : Nat) (x : Word) : Flagged :=
  if a = b then (x, 0#32)
  else if a = tyF then
    if b = tyInt then fcvtFixed 32 0 x
    else
      let r := fpToQ (laneWidth b) (fracOf b) x
      (BitVec.ofInt 32 r.1, r.2)
  else if b = tyF then fpOfFixed (signedOf (laneWidth a) x.toNat) (fracOf a)
  else if a = tyQ15 then (BitVec.ofInt 32 (signedOf 16 x.toNat * 2 ^ 16), 0#32)
  else if b = tyQ15 then laneResult tyQ15 (rneInt x.toInt (2 ^ 16))
  else (x, 0#32)

/-- VCVT: to type VB[1:0], half VC[0].  The spec states no conversion between Q15 and INT: those lanes are free values. -/
def execIVcvt (e : Fin 513) (vd va : BitVec 4) (dst : BitVec 2) (half : Bool) (pm : BitVec 3) (t : BitVec 2) (s : State) : Result :=
  .next (
    let a := t.toNat
    let b := dst.toNat
    let h := half.toNat
    let unstated := (a == tyQ15 && b == tyInt) || (a == tyInt && b == tyQ15)
    let free (i : Nat) : Word := Config.freeWord (s.free + i)
    let s := if unstated then { s with free := s.free + 8 } else s
    let conv (i : Nat) (x : Word) : Flagged := if unstated then (free i, 0#32) else convertLane a b x
    s.engineOnly e (wordVE vd.toNat va.toNat b h pm.toNat a 0x10) (fun s =>
      s.aluV e vd [] [va] (fun r =>
        let src := r.rv va.toNat
        let old := r.rv vd.toNat
        let m := r.rp pm.toNat
        if a ≠ tyQ15 ∧ b = tyQ15 then
          -- toward Q15: lanes 4H to 4H + 3, the others kept
          let inHalf (i : Nat) : Bool := i / 4 == h
          (ofLanes tyQ15 (fun i => if inHalf i && governs tyQ15 m i then (conv i (laneVal a src (i % 4))).1 else laneVal tyQ15 old i),
           (List.range 8).foldl (fun w i => if inHalf i && governs tyQ15 m i then w ||| (conv i (laneVal a src (i % 4))).2 else w) 0#32)
        else if a = tyQ15 ∧ b ≠ tyQ15 then maskedLanes b m old (fun i => conv i (laneVal tyQ15 src (4 * h + i)))
        else maskedLanes b m old (fun i => conv i (laneVal a src i)))))

/-- VPACK: Q31 lanes of VA and VB to Q15 lanes, each sat(rnd(x ÷ 2^16)). -/
def execIVpack (e : Fin 513) (vd va vb : BitVec 4) (pm : BitVec 3) (t : BitVec 2) (s : State) : Result :=
  .next (s.vop e (wordVE vd.toNat va.toNat vb.toNat 0 pm.toNat t.toNat 0x11) (t.toNat == tyQ31) vd [va, vb] pm tyQ15 (fun r i =>
    laneResult tyQ15 (rneInt (laneInt tyQ31 (if i < 4 then r.rv va.toNat else r.rv vb.toNat) (i % 4)) (2 ^ 16))))

/-- VSWZ: lane i takes lane s(i) of VA, bits 2i + 1 to 2i of VB:VC; not for Q15. -/
def execIVswz (e : Fin 513) (vd va : BitVec 4) (sel : BitVec 8) (pm : BitVec 3) (t : BitVec 2) (s : State) : Result :=
  .next (s.vop e (wordVE vd.toNat va.toNat (sel.toNat / 16) (sel.toNat % 16) pm.toNat t.toNat 0x12) (t.toNat != tyQ15) vd [va] pm
    t.toNat (fun r i => (laneVal t.toNat (r.rv va.toNat) (sel.toNat / 2 ^ (2 * i) % 4), 0#32)))

/-- The sum of the unmasked lanes (R176). -/
def laneSum (t : Nat) (m : Byte) (v : BitVec 128) : Flagged :=
  if t = tyF then
    let x (i : Nat) : Word := if governs t m i then laneVal t v i else 0#32
    let a := fpAdd (x 0) (x 1)
    let b := fpAdd (x 2) (x 3)
    let c := fpAdd a.1 b.1
    (c.1, a.2 ||| b.2 ||| c.2)
  else laneResult t (((List.range (laneCount t)).map (fun i => if governs t m i then laneInt t v i else 0)).sum)

/-- VSUM: lane 0 the sum of the unmasked lanes, the other lanes 0. -/
def execIVsum (e : Fin 513) (vd va : BitVec 4) (pm : BitVec 3) (t : BitVec 2) (s : State) : Result :=
  .next (s.engineOnly e (wordVE vd.toNat va.toNat 0 0 pm.toNat t.toNat 0x13) (fun s => s.aluV e vd [] [va] (fun r =>
    let x := laneSum t.toNat (r.rp pm.toNat) (r.rv va.toNat)
    (ofLanes t.toNat (fun i => if i = 0 then x.1 else 0#32), x.2))))

/-- VMOVV. -/
def execIVmovv (e : Fin 513) (vd va : BitVec 4) (pm : BitVec 3) (t : BitVec 2) (s : State) : Result :=
  .next (s.vop e (wordVE vd.toNat va.toNat 0 0 pm.toNat t.toNat 0x14) true vd [va] pm t.toNat (fun r i =>
    (laneVal t.toNat (r.rv va.toNat) i, 0#32)))

/-! ## Moves between g and v (R177) -/

/-- A lane number within the type's lanes. -/
def laneOk (t lane : Nat) : Bool := decide (lane < laneCount t)

/-- VEXT: a lane to g, sign-extended from Q15. -/
def execIVext (e : Fin 513) (g : BitVec 5) (v : BitVec 4) (ln : BitVec 3) (t : BitVec 2) (s : State) : Result :=
  .next (
    let word := wordVX g.toNat v.toNat ln.toNat t.toNat 0
    s.engineOnly e word (fun s =>
      if !laneOk t.toNat ln.toNat then s.illegal e word
      else s.issue e [g.toNat] [v.toNat] (fun x => x.each (x.cores e) (fun c u =>
        let r := u.core c
        let y := u.viaPath c (BitVec.ofInt 32 (laneInt t.toNat (r.rv v.toNat) ln.toNat))
        y.2.setCore c ((r.wg g.toNat y.1).next)))))

/-- VINS: g to one lane, the other lanes unchanged. -/
def execIVins (e : Fin 513) (g : BitVec 5) (v : BitVec 4) (ln : BitVec 3) (t : BitVec 2) (s : State) : Result :=
  .next (
    let word := wordVX g.toNat v.toNat ln.toNat t.toNat 1
    s.engineOnly e word (fun s =>
      if !laneOk t.toNat ln.toNat then s.illegal e word
      else s.aluV e v [g] [] (fun r =>
        (ofLanes t.toNat (fun i => if i = ln.toNat then r.rg g.toNat else laneVal t.toNat (r.rv v.toNat) i), 0#32))))

/-- VSPLAT: g to every lane. -/
def execIVsplat (e : Fin 513) (g : BitVec 5) (v : BitVec 4) (t : BitVec 2) (s : State) : Result :=
  .next (s.engineOnly e (wordVX g.toNat v.toNat 0 t.toNat 2) (fun s =>
    s.aluV e v [g] [] (fun r => (ofLanes t.toNat (fun _ => r.rg g.toNat), 0#32))))

/-- VZERO. -/
def execIVzero (e : Fin 513) (v : BitVec 4) (s : State) : Result :=
  .next (s.engineOnly e (wordVX 0 v.toNat 0 0 3) (fun s => s.aluV e v [] [] (fun _ => (0#128, 0#32))))

end Sys2Proof.Machine
end

