-- ==== Sys2Proof/Machine/Execute.lean ====
section
/-! DEFINITION. Machine/Execute.lean: the instruction that a word encodes, by its major opcode and the fields of its format
(R157 to R159), and the execution of a word. -/

namespace Sys2Proof.Machine

/-- The words of the branch and jump formats (R157). -/
def wordBR (p sense off : Nat) : Word := BitVec.ofNat 32 (0x20 * 2 ^ 26 + p * 2 ^ 23 + sense * 2 ^ 22 + off)
def wordJP (d off : Nat) : Word := BitVec.ofNat 32 (0x21 * 2 ^ 26 + d * 2 ^ 21 + off)

/-- Major 0x01 by F (R161). -/
def runScalar (e : Fin 513) (d a b c : BitVec 5) (f : Nat) : State → Result :=
  match f with
  | 0x00 => execIAdd e d a b
  | 0x01 => execISub e d a b
  | 0x02 => execIAnd e d a b
  | 0x03 => execIOr e d a b
  | 0x04 => execIXor e d a b
  | 0x05 => execIAndn e d a b
  | 0x06 => execISll e d a b
  | 0x07 => execISrl e d a b
  | 0x08 => execISra e d a b
  | 0x09 => execIRor e d a b
  | 0x0A => execIMin e d a b
  | 0x0B => execIMax e d a b
  | 0x0C => execIMinu e d a b
  | 0x0D => execIMaxu e d a b
  | 0x0E => execIAbs e d a
  | 0x0F => execIClz e d a
  | 0x10 => execIPopc e d a
  | 0x11 => execISel e d a b (c.setWidth 3)
  | 0x12 => execIMul e d a b
  | 0x13 => execIMulh e d a b
  | 0x14 => execIMulhu e d a b
  | 0x15 => execIDiv e d a b
  | 0x16 => execIDivu e d a b
  | 0x17 => execIRem e d a b
  | 0x18 => execIRemu e d a b
  | 0x19 => execIAdds e d a b
  | 0x1A => execISubs e d a b
  | 0x1B => execIQmul e d a b
  | 0x1C => execIQmac e d a b
  | 0x1D => execIShls e d a b
  | 0x1E => execIRshr e d a b
  | 0x20 => execICmp e (d.setWidth 3) a b (c.setWidth 3)
  | 0x21 => execIPand e (d.setWidth 3) (a.setWidth 3) (b.setWidth 3)
  | 0x22 => execIPor e (d.setWidth 3) (a.setWidth 3) (b.setWidth 3)
  | 0x23 => execIPxor e (d.setWidth 3) (a.setWidth 3) (b.setWidth 3)
  | 0x24 => execIPandn e (d.setWidth 3) (a.setWidth 3) (b.setWidth 3)
  | 0x25 => execIPany e (d.setWidth 3) (a.setWidth 3)
  | 0x26 => execIPall e (d.setWidth 3) (a.setWidth 3)
  | 0x27 => execIMovgp e d (a.setWidth 3)
  | 0x28 => execIMovpg e (d.setWidth 3) a
  | 0x30 => execIJalr e d a
  | 0x38 => execAmoswap e d a b
  | 0x39 => execAmoadd e d a b
  | 0x3A => execAmocas e d a b c
  | _ => .next

/-- Major 0x0C by F (R168). -/
def runFloat (e : Fin 513) (d a b c : BitVec 5) (f : Nat) : State → Result :=
  match f with
  | 0x0 => execIFadd e d a b
  | 0x1 => execIFsub e d a b
  | 0x2 => execIFmul e d a b
  | 0x3 => execIFma e d a b
  | 0x4 => execIFms e d a b
  | 0x5 => execIFdiv e d a b
  | 0x6 => execIFsqrt e d a
  | 0x7 => execIFmin e d a b
  | 0x8 => execIFmax e d a b
  | 0x9 => execIFabs e d a
  | 0xA => execIFneg e d a
  | 0xB => execIFcmp e (d.setWidth 3) a b (c.setWidth 2)
  | 0xC => execIFcvtSW e d a
  | 0xD => execIFcvtWS e d a
  | 0xE => execIFcvtSQ e d a c
  | 0xF => execIFcvtQS e d a c
  | _ => .next

/-- Major 0x30 by F (R175). -/
def runVector (e : Fin 513) (vd va vb vc : BitVec 4) (pm : BitVec 3) (t : BitVec 2) (f : Nat) : State → Result :=
  match f with
  | 0x00 => execIVadd e vd va vb pm t
  | 0x01 => execIVsub e vd va vb pm t
  | 0x02 => execIVmul e vd va vb pm t
  | 0x03 => execIVmac e vd va vb vc pm t
  | 0x04 => execIVmsu e vd va vb vc pm t
  | 0x05 => execIVmin e vd va vb pm t
  | 0x06 => execIVmax e vd va vb pm t
  | 0x07 => execIVabs e vd va pm t
  | 0x08 => execIVneg e vd va pm t
  | 0x09 => execIVcmp e (vd.setWidth 3) va vb (vc.setWidth 2) pm t
  | 0x0A => execIVsel e vd va vb pm t
  | 0x0B => execIVand e vd va vb pm t
  | 0x0C => execIVor e vd va vb pm t
  | 0x0D => execIVxor e vd va vb pm t
  | 0x0E => execIVsra e vd va (vb ++ vc) pm t
  | 0x0F => execIVsls e vd va (vb ++ vc) pm t
  | 0x10 => execIVcvt e vd va (vb.setWidth 2) (vc.getLsbD 0) pm t
  | 0x11 => execIVpack e vd va vb pm t
  | 0x12 => execIVswz e vd va (vb ++ vc) pm t
  | 0x13 => execIVsum e vd va pm t
  | 0x14 => execIVmovv e vd va pm t
  | _ => .next

/-- Major 0x31 by F (R177). -/
def runMove (e : Fin 513) (g : BitVec 5) (v : BitVec 4) (lane : BitVec 3) (t : BitVec 2) (f : Nat) : State → Result :=
  match f with
  | 0 => execIVext e g v lane t
  | 1 => execIVins e g v lane t
  | 2 => execIVsplat e g v t
  | 3 => execIVzero e v
  | _ => .next

/-- Major 0x38 by F (R178, R187). -/
def runSystem (e : Fin 513) (d a : BitVec 5) (f : Nat) (imm : BitVec 10) : State → Result :=
  match f with
  | 0x0 => execIFenceS e
  | 0x1 => execIFenceA e
  | 0x2 => execIFenceD e
  | 0x3 => execIFend e
  | 0x4 => execITrap e imm
  | 0x5 => execIXret e
  | 0x6 => execICsrr e d imm
  | 0x7 => execICsrw e a imm
  | 0x8 => execICsrs e a imm
  | 0x9 => execICsrc e a imm
  | 0xA => execISwait e d
  | 0xB => execIPhld e (d.setWidth 4) (imm.setWidth 5)
  | 0xC => execIWfi e
  | _ => .next

/-- The instruction of a word by its major opcode (R159), on core `e`; a load finds its words without error. -/
def runWord (e : Fin 513) (w : Word) : State → Result :=
  let d : BitVec 5 := w.extractLsb' 21 5
  let a : BitVec 5 := w.extractLsb' 16 5
  let b : BitVec 5 := w.extractLsb' 11 5
  let c : BitVec 5 := w.extractLsb' 6 5
  let imm : BitVec 16 := w.extractLsb' 0 16
  match wordField w 31 26 with
  | 0x01 => runScalar e d a b c (wordField w 5 0)
  | 0x02 => execIAddi e d a imm
  | 0x03 => execIAndi e d a imm
  | 0x04 => execIOri e d a imm
  | 0x05 => execIXori e d a imm
  | 0x06 => execIShi e d a (w.extractLsb' 5 2) (w.extractLsb' 0 5)
  | 0x07 => execILui e d imm
  | 0x08 => execICmpi e (w.extractLsb' 23 3) a (w.extractLsb' 21 2) imm
  | 0x0C => runFloat e d a b c (wordField w 5 0)
  | 0x10 => execLdB e d a imm 0
  | 0x11 => execLdBu e d a imm 0
  | 0x12 => execLdH e d a imm 0
  | 0x13 => execLdHu e d a imm 0
  | 0x14 => execLdW e d a imm 0
  | 0x15 => execVld e (d.setWidth 4) a imm 0
  | 0x18 => execStB e d a imm
  | 0x19 => execStH e d a imm
  | 0x1A => execStW e d a imm
  | 0x1B => execVst e (d.setWidth 4) a imm
  | 0x1C => execXldH e d a imm
  | 0x1D => execXldW e d a imm
  | 0x1E => execXldV e d a imm
  | 0x20 => execIB e (w.extractLsb' 23 3) (w.getLsbD 22) imm
  | 0x21 => execIJal e d (w.extractLsb' 0 21)
  | 0x30 => runVector e (w.extractLsb' 22 4) (w.extractLsb' 18 4) (w.extractLsb' 14 4) (w.extractLsb' 10 4) (w.extractLsb' 7 3)
      (w.extractLsb' 5 2) (wordField w 4 0)
  | 0x31 => runMove e d (w.extractLsb' 17 4) (w.extractLsb' 14 3) (w.extractLsb' 12 2) (wordField w 3 0)
  | 0x38 => runSystem e d a (wordField w 15 10) (w.extractLsb' 0 10)
  | _ => .next

/-- EXECUTE_ILLEGAL_WORD: an undefined or malformed word raises ILLEGAL (R158); a word that encodes an instruction executes it. -/
def execExecuteIllegalWord (e : Fin 513) (word : Word) (s : State) : Result :=
  if legalWord (e.val == curator) word then runWord e word s else .next (s.illegal e word)

end Sys2Proof.Machine
end

