-- ==== Sys2Proof/Machine/Banks.lean ====
section
/-! DEFINITION. Machine/Banks.lean: what waits at a Stacks bank (line accesses, the engines' loads, stores and transfers, requests
of remote nodes), and how a bank that lets them go on serves them (R150, R190, R203, R356). -/

namespace Sys2Proof.Machine

/-- Something that waits at a bank. -/
inductive Waiter
  /-- A line access that was filed. -/
  | listed (a : StkAccess)
  /-- Load `i` of the load queue of core `e`. -/
  | load (e i : Nat)
  /-- Store `i` of the store buffer of core `e`, of these bytes to Stacks offset `o`. -/
  | store (e i o : Nat) (data : List Byte)
  /-- The transfer at place `j` of engine `e`'s list. -/
  | xfer (e j : Nat)
  /-- A request of a remote node. -/
  | remote (w : RemoteWait)
  /-- A mover's segment. -/
  | mover (m : Nat)
deriving DecidableEq, Repr

/-- The core whose bay port the access comes through; none for the others. -/
def Waiter.core : Waiter → Option Nat
  | .listed _ => none
  | .load e _ => some e
  | .store e _ _ _ => some e
  | .xfer e _ => some e
  | .remote _ => none
  | .mover _ => none

/-- The requester of R190 an access is of. -/
def Waiter.requester : Waiter → Nat
  | .listed a => a.req
  | .remote _ => rqFabric
  | .load e _ => stkRequester e
  | .store e _ _ _ => stkRequester e
  | .xfer e _ => stkRequester e
  | .mover _ => rqMover

/-- Does bank `b` hold Stacks offset `o`? -/
def inBank (b o : Nat) : Bool := o / bankSize == b

/-- The accesses of core `e` that have not returned and that bank `b` does not make wait: loads, stores not behind one they
overlap, transfers. -/
def State.coreWaiters (s : State) (b e : Nat) : List Waiter :=
  let q := s.port e
  let r := stkRequester e
  q.lq.zipIdx.filterMap (fun x => match x.1.place, x.1.got with
    | .stacks o, .nothing => if inBank b o && !s.readWaits r o x.1.size then some (.load e x.2) else none
    | _, _ => none) ++
  q.sb.zipIdx.filterMap (fun x => match x.1.place with
    | .stacks o =>
      if inBank b o && !q.storeBehind x.2 x.1 && s.verdict r o x.1.data.length true != .wait then some (.store e x.2 o x.1.data)
      else none
    | _ => none) ++
  q.xf.zipIdx.filterMap (fun x => match x.1.place, x.1.failed || x.1.data.isSome with
    | .stacks o, false => if inBank b o && !s.readWaits r o x.1.size then some (.xfer e x.2) else none
    | _, _ => none)

/-- The waiting requests of remote nodes that no earlier one of their link keeps waiting (R356). -/
def State.remoteHeads (s : State) : List RemoteWait :=
  s.fab.remoteWait.foldl (fun l w => if l.any (fun x => x.link == w.link) then l else l ++ [w]) []

/-- A line of mover `m`'s segment lies in bank `b`. -/
def State.segmentAt (s : State) (b m : Nat) : Bool :=
  match (s.mover m).job with
  | .segment r i off len => match (s.ring r).fetched[s.descPlace r i]? with
    | some d => decide ((d.stk + off) / bankSize ≤ b) && decide (b ≤ (d.stk + off + len - 1) / bankSize)
    | none => false
  | _ => false

/-- What waits at bank `b` and need wait no more. -/
def State.waitersAt (s : State) (b : Nat) : List Waiter :=
  (s.readyAt b).map .listed ++ (List.range 513).flatMap (s.coreWaiters b) ++
    ((s.remoteHeads.filter (fun w => inBank b w.msg.offset.toNat && w.msg.kind == 0#8 && (s.remoteTry w).isSome)).map .remote) ++
    ((s.dma.stalled.filter (fun m => s.segmentAt b m && !s.segmentWaits m)).map .mover)

/-- The index of the access at the arbiter of the port it comes through: its core's in the bay (R150), its mover's (R455); none for
the others. -/
def Waiter.port (w : Waiter) : Option Nat :=
  match w with
  | .mover m => some m
  | _ => w.core.map (· % 8)

/-- The history of the port of a requester of R190: a bay's, or the movers'. -/
def State.portGrants (s : State) (r : Nat) : List Nat :=
  if r = rqMover then s.dma.portGrants else tget (fun _ => []) s.eng.portGrants r

/-- The one of them that the bank's arbiter grants (R190), through the arbiter of its port (R150, R455). -/
def State.pickWaiter (s : State) (b : Nat) (ws : List Waiter) : Option Waiter :=
  match arbPick (s.bankGrants b) (ws.map (·.requester)) with
  | none => none
  | some r =>
    let mine := ws.filter (fun w => w.requester == r)
    match arbPick (s.portGrants r) (mine.filterMap Waiter.port) with
    | none => mine.head?
    | some p => mine.find? (fun w => w.port.all (fun e => e == p))

/-- A request of a remote node that waited is performed, where nothing makes it wait any more. -/
def State.remoteServed (s : State) (w : RemoteWait) : State :=
  match s.remoteTry w with
  | none => s
  | some t => { t with fab := { t.fab with remoteWait := t.fab.remoteWait.erase w } }

/-- An access that waited is performed. -/
def State.serveWaiter (s : State) : Waiter → State
  | .listed a => { s with stk := { s.stk with waiting := s.stk.waiting.erase a } }.access a
  | .load e i => s.loadReturned e i
  | .store e i o d => s.storeWritten e i o d
  | .xfer e j => s.xferReturned e j
  | .remote w => s.remoteServed w
  | .mover m => (s.moverGrant m).segmentDone m

/-- The accesses waiting at a bank are performed one after another, each the one that R9 grants. -/
def State.drainWaiting : Nat → Nat → State → State
  | 0, _, s => s
  | n + 1, b, s =>
    match s.pickWaiter b (s.waitersAt b) with
    | none => s
    | some w => State.drainWaiting n b (s.serveWaiter w)

/-- The requests of remote nodes that waited behind one of their link go on, each link's oldest first. -/
def State.drainRemotes : Nat → State → State
  | 0, s => s
  | n + 1, s =>
    match s.remoteHeads.find? (fun w => (s.remoteTry w).isSome) with
    | none => s
    | some w => State.drainRemotes n (s.remoteServed w)

/-- How many accesses there are that could wait at a bank. -/
def State.accessesOut (s : State) : Nat :=
  s.stk.waiting.length + s.fab.remoteWait.length + s.dma.stalled.length +
    ((List.range 513).map (fun e => (s.port e).lq.length + (s.port e).sb.length + (s.port e).xf.length)).sum

/-- Every access waiting at bank `b` is handled by the state the bank has reached (R203). -/
def State.releaseBank (s : State) (b : Nat) : State :=
  let t := State.drainWaiting s.accessesOut b s
  State.drainRemotes t.fab.remoteWait.length t

end Sys2Proof.Machine
end

