-- ==== Sys2Proof/Machine/SelfTest.lean ====
section
/-! DEFINITION. Machine/SelfTest.lean: the commands that run and end a built-in self-test (R510, R563, R564). -/

namespace Sys2Proof.Machine

/-- A self-test ends, and what waited at the banks it held goes on. -/
def State.bistOver (s : State) (g : Background) (test unit : Nat) (r : BistRun) : State :=
  let t := s.bistEnd g test unit r
  let banks := if test ≠ 3 ∧ test ≠ 4 then [] else if unit = 0xFFFF then List.range 96 else [unit]
  t.each banks (fun b t => t.releaseBank b)

/-- BIST_RUN (R510, R563): ACCEPTED, and at once a final OK with outcome 2 where the named unit keeps the test from
running. -/
def execBistRun (h : SlipHdr) (test : Byte) (unit : BitVec 16) (options : Word) (s : State) : Result :=
  let t := test.toNat
  let u := unit.toNat
  let r := s.runSlip h 0x0901 (bistUnit t u) (fun s =>
    if !bistValid t u options.toNat then refuse s stValueRange
    else if !s.bistState t then refuse s stNotRunning
    else (s, .accepted (.bist t u options.toNat)))
  let g : Background := ⟨h, 0x0901#16, bistUnit t u, .bist t u options.toNat⟩
  let bar := s.bistBars t u
  .next (if bar ≠ 0 ∧ s.cmd.background.length < r.cmd.background.length ∧ r.cmd.background.contains g then
      r.bistOver g t u ⟨2, u, BitVec.ofNat 32 bar, 0#32⟩
    else r)

/-- BIST_COMPLETE: the oldest test of that code and unit ends. -/
def execBistComplete (test : Byte) (unit : BitVec 16) (outcome : Fin 3) (failing : BitVec 16) (detail duration : Word) (s : State) :
    Result :=
  .next (match s.bistsRunning.find? (fun x => x.2.1 == test.toNat && x.2.2 == unit.toNat) with
    | none => s
    | some (g, t, u) => s.bistOver g t u ⟨outcome, failing.toNat, detail, duration⟩)

/-- BIST_RESULT: the last run of a test since the last reset; outcome 2 where there was none. -/
def execBistResult (h : SlipHdr) (test : Byte) (s : State) : Result :=
  .next (s.runSlip h 0x0902 .none (fun s =>
    if !((1 ≤ test.toNat && test.toNat ≤ 0x0A) || test.toNat == 0xF0) then refuse s stValueRange
    else (s, .done stOk ((tget (fun _ => none) s.mnt.runs test.toNat).getD ⟨2, 0, 0#32, 0#32⟩).bytes)))

end Sys2Proof.Machine
end

