-- ==== Sys2Proof/Machine/SlipExec.lean ====
section
/-! DEFINITION. Machine/SlipExec.lean: a call slip at the head of the queue: the checks of R483, the relay of R497 and the
command of its opcode; call slips held by R94 and R118; the Curator's retries (R236, R237). -/

namespace Sys2Proof.Machine

/-! ## The command of an opcode -/

/-- Opcodes 0x0000 to 0x00FF with parameters `p` of length `l`. -/
def runOp0 (op : Nat) (h : SlipHdr) (l : Nat) (p : List Byte) (s : State) : Result :=
  let pb (i : Nat) : Byte := BitVec.ofNat 8 (bytesAt p i 1)
  let pw (i : Nat) : Word := BitVec.ofNat 32 (bytesAt p i 4)
  match op with
  | 0x0000 => execDevInfo h s
  | 0x0001 => execDevSerial h s
  | 0x0002 => execFwInfo h s
  | 0x0003 => execEcho h (p.take l) s
  | 0x0004 => execCmdInfo h s
  | 0x0005 => execCmdConfig h ((pb 0).getLsbD 1) ((pb 0).getLsbD 2) (pw 4) (pw 8) s
  | _ => .next s

/-- Opcodes 0x0100 to 0x01FF with parameters `p` of length `l`. -/
def runOp1 (op : Nat) (h : SlipHdr) (_l : Nat) (p : List Byte) (s : State) : Result :=
  let pb (i : Nat) : Byte := BitVec.ofNat 8 (bytesAt p i 1)
  let pw (i : Nat) : Word := BitVec.ofNat 32 (bytesAt p i 4)
  let pd (i : Nat) : Dword := BitVec.ofNat 64 (bytesAt p i 8)
  match op with
  | 0x0100 => execFrameInfo h s
  | 0x0101 => execFrameConfig h (pw 0) (pw 4) (pw 8) (pw 12) (pw 16) (pw 20) (pb 24) s
  | 0x0102 => execFrameStart h (pd 0) s
  | 0x0103 => execFrameStop h s
  | 0x0110 => execEditionInfo h s
  | 0x0111 => execEditionCommit h ((pb 0).getLsbD 0) (pd 4) (pw 12) s
  | 0x0112 => execEditionAbort h s
  | 0x0113 => execEditionAdopt h (pw 0) (pd 4) s
  | 0x0114 => execEditionRevert h s
  | _ => .next s

/-- Opcodes 0x0200 to 0x02FF with parameters `p` of length `l`. -/
def runOp2 (op : Nat) (h : SlipHdr) (_l : Nat) (p : List Byte) (s : State) : Result :=
  let pb (i : Nat) : Byte := BitVec.ofNat 8 (bytesAt p i 1)
  let ph (i : Nat) : BitVec 16 := BitVec.ofNat 16 (bytesAt p i 2)
  let pw (i : Nat) : Word := BitVec.ofNat 32 (bytesAt p i 4)
  match op with
  | 0x0200 => execCatInfo h s
  | 0x0201 => execCatRead h (ph 0) (pb 2) (pb 3) s
  | 0x0202 => execCatStage h (ph 0) ((List.range 7).map (fun i => pw (4 + 4 * i))) s
  | 0x0203 => execCatStageDisable h (ph 0) (ph 2) s
  | 0x0204 => execCatUnstage h (ph 0) s
  | 0x0205 => execCatClearStatus h (ph 0) (pw 2) s
  | 0x0206 => execCatCheck h s
  | 0x0207 => execCatEventRead h s
  | _ => .next s

/-- Opcodes 0x0300 to 0x03FF with parameters `p` of length `l`. -/
def runOp3 (op : Nat) (h : SlipHdr) (l : Nat) (p : List Byte) (s : State) : Result :=
  let pb (i : Nat) : Byte := BitVec.ofNat 8 (bytesAt p i 1)
  let ph (i : Nat) : BitVec 16 := BitVec.ofNat 16 (bytesAt p i 2)
  let pw (i : Nat) : Word := BitVec.ofNat 32 (bytesAt p i 4)
  match op with
  | 0x0300 => execEngInfo h s
  | 0x0301 => execEngBayConfig h (pb 0) (pb 1) (pb 2) (pb 3) s
  | 0x0302 => execEngImageLoad h (pb 0) (pb 1) (pw 4) s
  | 0x0303 => execEngBayStart h (pb 0) s
  | 0x0304 => execEngBayStop h (pb 0) s
  | 0x0305 => execEngParamStage h (ph 0) (ph 2) ((p.take l).drop 4) s
  | 0x0306 => execEngParamRead h (ph 0) (ph 2) (pb 4) s
  | 0x0307 => execEngStatus h (ph 0) s
  | _ => .next s

/-- Opcodes 0x0400 to 0x04FF with parameters `p` of length `l`. -/
def runOp4 (op : Nat) (h : SlipHdr) (_l : Nat) (p : List Byte) (s : State) : Result :=
  let pb (i : Nat) : Byte := BitVec.ofNat 8 (bytesAt p i 1)
  let ph (i : Nat) : BitVec 16 := BitVec.ofNat 16 (bytesAt p i 2)
  match op with
  | 0x0400 => execStkInfo h s
  | 0x0401 => execStkBankStatus h (pb 0) s
  | 0x0402 => execStkBankScrub h (pb 0) (pb 1) s
  | 0x0403 => execStkBankPower h (pb 0) (pb 1) s
  | 0x0404 => execStkRetainSet h (BitVec.ofNat 96 (bytesAt p 0 12)) s
  | 0x0405 => execStkAclSet h (pb 0) (pb 1) (pb 2) (pb 3) s
  | 0x0406 => execStkSpillSet h (pb 0) (ph 2) (ph 4) s
  | _ => .next s

/-- Opcodes 0x0500 to 0x05FF with parameters `p` of length `l`. -/
def runOp5 (op : Nat) (h : SlipHdr) (_l : Nat) (p : List Byte) (s : State) : Result :=
  let pb (i : Nat) : Byte := BitVec.ofNat 8 (bytesAt p i 1)
  let pw (i : Nat) : Word := BitVec.ofNat 32 (bytesAt p i 4)
  match op with
  | 0x0500 => execEdgInfo h s
  | 0x0501 => execEdgMclkConfig h (pb 0) (pb 1) (pb 2) s
  | 0x0502 => execEdgModConfig h (pb 0) (pw 4) s
  | 0x0503 => execEdgTripConfig h (pb 0) (pw 4) (pw 8) (pw 12) s
  | 0x0504 => execEdgIlkConfig h (pb 0) (pw 4) s
  | 0x0505 => execEdgPolSet h (BitVec.ofNat 48 (bytesAt p 0 6)) s
  | 0x0506 => execEdgPairStage h (pb 0) (pw 4) (pw 8) s
  | 0x0507 => execEdgAuxStage h (pw 0) (pw 4) s
  | 0x0508 => execEdgAuxDirSet h (pw 0) s
  | 0x0509 => execEdgTripClear h (pb 0) (pw 4) s
  | 0x050A => execEdgHoldRelease h s
  | 0x050B => execEdgHoldAssert h s
  | _ => .next s

/-- Opcodes 0x0600 to 0x06FF with parameters `p` of length `l`. -/
def runOp6 (op : Nat) (h : SlipHdr) (l : Nat) (p : List Byte) (s : State) : Result :=
  let pb (i : Nat) : Byte := BitVec.ofNat 8 (bytesAt p i 1)
  let ph (i : Nat) : BitVec 16 := BitVec.ofNat 16 (bytesAt p i 2)
  let pw (i : Nat) : Word := BitVec.ofNat 32 (bytesAt p i 4)
  match op with
  | 0x0600 => execLinkInfo h (pb 0) s
  | 0x0601 => execLinkPortSplit h (pb 0) (pb 1) s
  | 0x0602 => execLinkConfig h (pb 0) (pw 4) (pw 8) (pw 12) (pw 16) s
  | 0x0603 => execLinkEnable h (pb 0) (pb 1) (pb 2) s
  | 0x0604 => execLinkWidth h (pb 0) (pb 1) s
  | 0x0605 => execLinkRetrain h (pb 0) s
  | 0x0606 => execLinkCounters h (pb 0) (pb 1) s
  | 0x0610 => execFabInfo h s
  | 0x0611 => execFabRouteSet h (ph 0) (pb 2) ((List.range ((l - 4) / 4)).map (fun i => pw (4 + 4 * i))) s
  | 0x0612 => execFabRouteRead h (ph 0) s
  | 0x0613 => execFabConfig h (pw 0) (pw 4) (pw 8) (pw 12) s
  | 0x0614 => execFabFormSet h (pb 0) ((p.drop 4).take 32) s
  | 0x0615 => execFabRwinSet h (pb 0) (pw 4) s
  | 0x0616 => execFabMemberRead h (ph 0) s
  | 0x0617 => execFabTimeInfo h s
  | 0x0618 => execFabFence h s
  | 0x0619 => execFabUnfence h s
  | 0x061A => execFabSlot h (pb 0) (pb 1) (pb 2) s
  | 0x0680 => execLaneInfo h (pb 0) s
  | 0x0681 => execLaneConfig h (pb 0) (pw 4) (pw 8) s
  | 0x0682 => execLaneRate h (pb 0) (pb 1) s
  | 0x0683 => execLanePrbs h (pb 0) (pw 4) s
  | 0x0684 => execLanePrbsRead h (pb 0) s
  | 0x0685 => execLaneMargin h (pb 0) (pb 1) (pb 2) (pb 3) (pb 4) s
  | _ => .next s

/-- Opcodes 0x0700 to 0x07FF with parameters `p` of length `l`. -/
def runOp7 (op : Nat) (h : SlipHdr) (_l : Nat) (p : List Byte) (s : State) : Result :=
  let pb (i : Nat) : Byte := BitVec.ofNat 8 (bytesAt p i 1)
  let ph (i : Nat) : BitVec 16 := BitVec.ofNat 16 (bytesAt p i 2)
  let pw (i : Nat) : Word := BitVec.ofNat 32 (bytesAt p i 4)
  let pd (i : Nat) : Dword := BitVec.ofNat 64 (bytesAt p i 8)
  match op with
  | 0x0700 => execHostInfo h s
  | 0x0701 => execWinStage h (pb 0) (pb 1) (pw 4) (pw 8) s
  | 0x0702 => execWinCommit h s
  | 0x0703 => execWinRevert h s
  | 0x0704 => execWinRead h (pb 0) (pb 1) (pb 2) s
  | 0x0705 => execHostCounters h s
  | 0x0710 => execCarrelCreate h (ph 0) (pb 2) (pb 3) (pw 4) (ph 8) s
  | 0x0711 => execCarrelDestroy h (ph 0) s
  | 0x0712 => execCarrelReset h (ph 0) s
  | 0x0713 => execCarrelShare h (ph 0) (ph 2) s
  | 0x0714 => execCarrelInfo h (ph 0) s
  | 0x0715 => execRingConfig h (ph 0) (ph 2) (pb 4) (pb 5) (pb 6) (pd 8) s
  | 0x0716 => execRingRelease h (ph 0) s
  | 0x0717 => execRingInfo h (ph 0) s
  | 0x0718 => execChanStage h (pb 0) (pw 4) (pw 8) s
  | 0x0719 => execDmaInfo h s
  | _ => .next s

/-- Opcodes 0x0800 to 0x08FF with parameters `p` of length `l`. -/
def runOp8 (op : Nat) (h : SlipHdr) (_l : Nat) (p : List Byte) (s : State) : Result :=
  let pb (i : Nat) : Byte := BitVec.ofNat 8 (bytesAt p i 1)
  let ph (i : Nat) : BitVec 16 := BitVec.ofNat 16 (bytesAt p i 2)
  let pw (i : Nat) : Word := BitVec.ofNat 32 (bytesAt p i 4)
  match op with
  | 0x0800 => execPwrInfo h s
  | 0x0801 => execPwrDomainRead h (pb 0) s
  | 0x0802 => execPwrHold h (pb 0) (pb 1) s
  | 0x0803 => execPwrSleep h (pb 0) (pw 4) s
  | 0x0804 => execAoTimerSet h (pw 0) s
  | 0x0805 => execWdtConfig h (pw 0) (pb 4) s
  | 0x0806 => execWdtKick h s
  | 0x0807 => execRstRequest h (pb 0) (pw 4) s
  | 0x0808 => execRstCause h s
  | 0x0809 => execBackupRead h (pb 0) s
  | 0x080A => execBackupWrite h (pb 0) (pw 4) s
  | 0x080B => execRetainedRead h (ph 0) s
  | 0x080C => execRetainedWrite h (ph 0) ((p.drop 4).take 16) s
  | 0x080D => execOptRead h (ph 0) s
  | _ => .next s

/-- Opcodes 0x0900 to 0x09FF with parameters `p` of length `l`. -/
def runOp9 (op : Nat) (h : SlipHdr) (_l : Nat) (p : List Byte) (s : State) : Result :=
  let pb (i : Nat) : Byte := BitVec.ofNat 8 (bytesAt p i 1)
  let ph (i : Nat) : BitVec 16 := BitVec.ofNat 16 (bytesAt p i 2)
  let pw (i : Nat) : Word := BitVec.ofNat 32 (bytesAt p i 4)
  match op with
  | 0x0900 => execMntInfo h s
  | 0x0901 => execBistRun h (pb 0) (ph 2) (pw 4) s
  | 0x0902 => execBistResult h (pb 0) s
  | 0x0903 => execAmonSelect h (ph 0) s
  | 0x0904 => execFmonSelect h (ph 0) (ph 2) s
  | 0x0905 => execLedSet h (pb 0) (pb 1) s
  | 0x0906 => execConsoleConfig h (pw 0) (pb 4) s
  | 0x0907 => execFuseRead h (ph 0) s
  | 0x0908 => execFuseProgram h (ph 0) (pw 4) (pw 8) s
  | 0x0909 => execFlashWrite h (pw 0) (pw 4) (pw 8) s
  | 0x090A => execFlashVerify h (pb 0) s
  | _ => .next s

/-- Opcodes 0x0A00 to 0x0AFF with parameters `p` of length `l`. -/
def runOpA (op : Nat) (h : SlipHdr) (_l : Nat) (p : List Byte) (s : State) : Result :=
  let pb (i : Nat) : Byte := BitVec.ofNat 8 (bytesAt p i 1)
  let ph (i : Nat) : BitVec 16 := BitVec.ofNat 16 (bytesAt p i 2)
  let pw (i : Nat) : Word := BitVec.ofNat 32 (bytesAt p i 4)
  match op with
  | 0x0A00 => execLogInfo h s
  | 0x0A01 => execLogRead h (ph 0) (pb 2) s
  | 0x0A02 => execLogCopy h (ph 0) (ph 2) (pw 4) s
  | 0x0A10 => execFltInfo h s
  | _ => .next s

/-- The command of opcode `op` with parameters `p` of length `l`. -/
def runOp (op : Nat) (h : SlipHdr) (l : Nat) (p : List Byte) (s : State) : Result :=
  match op / 256 with
  | 0 => runOp0 op h l p s
  | 1 => runOp1 op h l p s
  | 2 => runOp2 op h l p s
  | 3 => runOp3 op h l p s
  | 4 => runOp4 op h l p s
  | 5 => runOp5 op h l p s
  | 6 => runOp6 op h l p s
  | 7 => runOp7 op h l p s
  | 8 => runOp8 op h l p s
  | 9 => runOp9 op h l p s
  | 10 => runOpA op h l p s
  | _ => .next s

/-- The state a command leaves; every command of an opcode answers a next state. -/
def Result.state (r : Result) (s : State) : State :=
  match r with
  | .next t => t
  | _ => s

/-! ## The checks of R483 -/

/-- Bits of a parameter byte that an opcode's row marks 0 beside whole bytes. -/
def reservedBits (op : Nat) (p : List Byte) : Bool :=
  (op == 0x0005 && (p.getD 0 0#8) &&& 0xF9#8 != 0#8) || (op == 0x0111 && (p.getD 0 0#8) &&& 0xFE#8 != 0#8)

/-- Does L suit the opcode? -/
def lengthOk (r : OpRow) (l : Nat) (p : List Byte) : Bool :=
  decide (r.lo ≤ l) && decide (l ≤ r.hi) && (r.op != 0x0611 || l == 4 + 4 * (p.getD 2 0#8).toNat)

/-- What the checks of R483 decide. -/
inductive SlipCheck
  | refused (status : Nat)
  | relay (target : Nat)
  | run
deriving DecidableEq, Repr

/-- Checks 1 to 7 in order; a slip from the fabric is not relayed again (R498). -/
def State.checkSlip (s : State) (q : QueuedSlip) : SlipCheck :=
  let b (i n : Nat) : Nat := bytesAt q.bytes i n
  let p := (q.bytes.drop 8).take 52
  let target := b 4 2
  let l := b 7 1
  let fromFabric : Bool := match q.path with
    | .fabric _ => true
    | _ => false
  if !slipCrcOk q.bytes then .refused stCrcError
  else if target ≠ 0xFFFF ∧ 1024 ≤ target then .refused stTargetInvalid
  else if target ≠ 0xFFFF ∧ target ≠ s.nodeId then if fromFabric then .refused stTargetInvalid else .relay target
  else match opRow (b 0 2) with
    | none => .refused stUnknownOpcode
    | some r =>
      if b 6 1 / 2 ≠ 0 then .refused stFlagsInvalid
      else if !lengthOk r l p then .refused stLengthInvalid
      else if (p.drop l).any (fun x => x != 0#8) || r.zero.any (fun i => p.getD i 0#8 != 0#8) || reservedBits r.op p then
        .refused stReservedNonzero
      else .run

/-- The header of a queued call slip. -/
def QueuedSlip.hdr (q : QueuedSlip) : SlipHdr :=
  ⟨BitVec.ofNat 16 (bytesAt q.bytes 2 2), (BitVec.ofNat 8 (bytesAt q.bytes 6 1)).getLsbD 0,
   BitVec.ofNat 32 (bytesAt q.bytes 60 4), q.path⟩

/-- R497: the relay entry and its SLIP flit, or RELAY_FULL or NO_ROUTE with Relayed set. -/
def State.relaySlip (s : State) (q : QueuedSlip) (target : Nat) : State :=
  let op := BitVec.ofNat 16 (bytesAt q.bytes 0 2)
  let fail (t : State) (st : Nat) : State := t.sendReturn q.path { mkReturn op q.hdr.seq st [] with flags := 5#8 }
  if 64 ≤ s.cmd.relays.length then fail s stRelayFull
  else
    let e : Relay := ⟨op, q.hdr.seq, BitVec.ofNat 10 target, q.path, false⟩
    match s.curatorFlit ftSlip target (slipPayload 1 s.nodeId q.bytes) with
    | (t, true) => { t with cmd := { t.cmd with relays := t.cmd.relays ++ [e] } }
    | (t, false) => fail t stNoRoute

/-- SLIP_EXECUTE: the Curator takes the slip at the head of the queue (R483, R486). -/
def execSlipExecute (s : State) : Result :=
  if !s.takesSlip then .next s
  else match s.cmd.queue with
    | [] => .next s
    | q :: rest =>
      let t := { s with cmd := { s.cmd with queue := rest } }
      let op := bytesAt q.bytes 0 2
      let r : State := match t.checkSlip q with
        | .refused st =>
          let t := t.formatError
          if st = stCrcError ∧ q.path = .console then t
          else t.answer q.hdr (mkReturn (BitVec.ofNat 16 op) q.hdr.seq st [])
        | .relay n => t.relaySlip q n
        | .run => (runOp op q.hdr (bytesAt q.bytes 7 1) ((q.bytes.drop 8).take 52) t).state t
      .next r.fetchSlips

/-! ## Held call slips (R94, R118) -/

/-- The held call slips run, oldest first. -/
def State.runHeld (s : State) : State :=
  let cs := s.cmd.held
  { s with cmd := { s.cmd with held := [] } }.each cs (fun c t =>
    (runOp c.opcode.toNat c.hdr c.params.length (padTo 52 c.params) t).state t)

/-- COPY_IN_DONE: the last entry has been written: CopyBusy clears and held call slips run (R94). -/
def execCopyInDone (s : State) : Result :=
  .next (if s.on CAT_STATUS.CopyBusy && s.pendingIds.isEmpty then s.copyInEnd.runHeld else s)

/-- PARAM_COPY_DONE: the copy of R117 or of EDITION_REVERT ends, and held call slips run (R118). -/
def execParamCopyDone (s : State) : Result :=
  .next (if !s.eng.copying then s
    else
      let t := s.copyParams
      { t with eng := { t.eng with copying := false } }.runHeld)

/-! ## Curator mismatches (R236, R237) -/

/-- One retry of a transaction. -/
def State.curatorRetry (s : State) (op seq : BitVec 16) (attempt : Nat) : State :=
  ((s.inc FLT_CURRETRY).raise FLT_IRQ_STATUS.CuratorRetry).logEvent 0x0A02 0
    (leBytes 2 op.toNat ++ leBytes 2 seq.toNat ++ leBytes 1 attempt)

/-- CURATOR_MISMATCH in the transaction of call slip `op`, `seq` (0xFFFF: internal work): it is retried.  `again`: a second
mismatch in the retry, whose pair check named a core, or none.  A solo Curator compares nothing. -/
def execCuratorMismatch (op seq : BitVec 16) (again : Option (Option (Fin 2))) (s : State) : Result :=
  .next (if !s.curatorUp || s.on FLT_STATUS.CuratorSolo then s
    else
      let t := s.curatorRetry op seq 1
      match again with
      | none => t
      | some (some k) =>
        ((t.fenceCore k.val).logEvent 0x0A03 k.val []).curatorRetry op seq 2
      | some none => t.assertReset srcLockup reachWarm)

/-! ## A bank that lets its accesses go on (R203) -/

/-- The accesses waiting at bank `b` go on, and with them the slips that waited for their reads. -/
def State.openBank (s : State) (b : Nat) : State := (s.releaseBank b).runHeld

/-- CLEAR_COMPLETE: the clear ends, the bank becomes ON, waiting accesses proceed. -/
def execClearComplete (bank : Fin 96) (s : State) : Result :=
  .next (if s.bankState bank = bkClearing ∧ !s.stk.powering.contains bank.val then
      (((s.zeroBank bank).setF (bankStateF bank) bkOn).raise STK_IRQ_STATUS.ClearDone).openBank bank
    else s)

/-- CHECK_COMPLETE: a matching seal makes the bank ON; a mismatch makes it UNSEALED, or clears bank 0 or 1 and marks the
pool or the log lost (R207 to R209).  A bank whose turn has not come has no check that could end. -/
def execCheckComplete (bank : Fin 96) (s : State) : Result :=
  .next (if s.bankState bank ≠ bkChecking ∨ !s.checkTurn bank then s
    else
      let b := bank.val
      let taken := s.rd64 (STK_SEAL_LO b) (STK_SEAL_HI b)
      let now := (s.sealOf b).toNat
      let s := s.sealReads b
      let detail := leBytes 8 taken ++ leBytes 8 now
      let t :=
        if taken = now then (s.setF (bankStateF b) bkOn).openBank b
        else if b < 2 then (s.checkLost b).logEvent 0x0403 b detail
        else (((s.setF (bankStateF b) bkUnsealed).logEvent 0x0402 b detail).raise STK_IRQ_STATUS.Unsealed).openBank b
      if (List.range 96).any (fun x => t.bankState x == bkChecking) then t
      else (t.setF STK_STATUS.CheckBusy 0).raise STK_IRQ_STATUS.CheckDone)

end Sys2Proof.Machine
end

