-- ==== Sys2Proof/Machine/Dispatch.lean ====
section
/-! DEFINITION. Machine/Dispatch.lean: the meaning of every command, one arm per constructor of Instr. -/

namespace Sys2Proof.Machine

def exec (i : Instr) (s : State) : Host.Outcome State Fault Refusal :=
  match i with
  | .registerWrite a v => Sys2Proof.Machine.execRegisterWrite a v s
  | .boundary => Sys2Proof.Machine.execBoundary s
  | .timeStep => Sys2Proof.Machine.execTimeStep s
  | .guardWindowOpen => Sys2Proof.Machine.execGuardWindowOpen s
  | .gatherEnd => Sys2Proof.Machine.execGatherEnd s
  | .phasorUpdateDone b => Sys2Proof.Machine.execPhasorUpdateDone b s
  | .preVote => Sys2Proof.Machine.execPreVote s
  | .computeStart => Sys2Proof.Machine.execComputeStart s
  | .release => Sys2Proof.Machine.execRelease s
  | .modulatorCapture => Sys2Proof.Machine.execModulatorCapture s
  | .sumEvaluation id => Sys2Proof.Machine.execSumEvaluation id s
  | .sendAtForward id => Sys2Proof.Machine.execSendAtForward id s
  | .copyIn => Sys2Proof.Machine.execCopyIn s
  | .copyInDone => Sys2Proof.Machine.execCopyInDone s
  | .paramCopyDone => Sys2Proof.Machine.execParamCopyDone s
  | .frameInfo h => Sys2Proof.Machine.execFrameInfo h s
  | .frameConfig h period gather compute stage prewake shguard guard => Sys2Proof.Machine.execFrameConfig h period gather compute stage prewake shguard guard s
  | .frameStart h S => Sys2Proof.Machine.execFrameStart h S s
  | .frameStop h => Sys2Proof.Machine.execFrameStop h s
  | .frmCtrlStart => Sys2Proof.Machine.execFrmCtrlStart s
  | .frmCtrlStop => Sys2Proof.Machine.execFrmCtrlStop s
  | .frmCtrlClearSlackMin => Sys2Proof.Machine.execFrmCtrlClearSlackMin s
  | .editionInfo h => Sys2Proof.Machine.execEditionInfo h s
  | .editionCommit h system F E => Sys2Proof.Machine.execEditionCommit h system F E s
  | .editionAbort h => Sys2Proof.Machine.execEditionAbort h s
  | .editionAdopt h M F => Sys2Proof.Machine.execEditionAdopt h M F s
  | .editionRevert h => Sys2Proof.Machine.execEditionRevert h s
  | .cmPrepare m => Sys2Proof.Machine.execCmPrepare m s
  | .cmAck m => Sys2Proof.Machine.execCmAck m s
  | .cmNack m => Sys2Proof.Machine.execCmNack m s
  | .cmGo m stamp => Sys2Proof.Machine.execCmGo m stamp s
  | .cmAbort m => Sys2Proof.Machine.execCmAbort m s
  | .cmDone m => Sys2Proof.Machine.execCmDone m s
  | .cmMissed m => Sys2Proof.Machine.execCmMissed m s
  | .catInfo h => Sys2Proof.Machine.execCatInfo h s
  | .catRead h id quarter view => Sys2Proof.Machine.execCatRead h id quarter view s
  | .catStage h id w => Sys2Proof.Machine.execCatStage h id w s
  | .catStageDisable h first count => Sys2Proof.Machine.execCatStageDisable h first count s
  | .catUnstage h id => Sys2Proof.Machine.execCatUnstage h id s
  | .catClearStatus h first count => Sys2Proof.Machine.execCatClearStatus h first count s
  | .catCheck h => Sys2Proof.Machine.execCatCheck h s
  | .catEventRead h => Sys2Proof.Machine.execCatEventRead h s
  | .catEventPop => Sys2Proof.Machine.execCatEventPop s
  | .catWindowWrite => Sys2Proof.Machine.execCatWindowWrite s
  | .sample flit link stamp uncor => Sys2Proof.Machine.execSample flit link stamp uncor s
  | .engInfo h => Sys2Proof.Machine.execEngInfo h s
  | .engBayConfig h bay mode spareEn sparePair => Sys2Proof.Machine.execEngBayConfig h bay mode spareEn sparePair s
  | .engBayCfgWrite b v => Sys2Proof.Machine.execEngBayCfgWrite b v s
  | .engImageLoad h bay mask offset => Sys2Proof.Machine.execEngImageLoad h bay mask offset s
  | .imageLoadDone bay => Sys2Proof.Machine.execImageLoadDone bay s
  | .engBayStart h bay => Sys2Proof.Machine.execEngBayStart h bay s
  | .engBayStop h bay => Sys2Proof.Machine.execEngBayStop h bay s
  | .engParamStage h engine offset data => Sys2Proof.Machine.execEngParamStage h engine offset data s
  | .engParamRead h engine offset view => Sys2Proof.Machine.execEngParamRead h engine offset view s
  | .engStatus h engine => Sys2Proof.Machine.execEngStatus h engine s
  | .engineWindowWrite e offset data => Sys2Proof.Machine.execEngineWindowWrite e offset data s
  | .singleFault e parity => Sys2Proof.Machine.execSingleFault e parity s
  | .imemRepairDone e => Sys2Proof.Machine.execImemRepairDone e s
  | .baySleep b => Sys2Proof.Machine.execBaySleep b s
  | .bayDoze b => Sys2Proof.Machine.execBayDoze b s
  | .loadReturn e n => Sys2Proof.Machine.execLoadReturn e n s
  | .storeAccepted e n => Sys2Proof.Machine.execStoreAccepted e n s
  | .storeTimeout e n isOpen took => Sys2Proof.Machine.execStoreTimeout e n isOpen took s
  | .remoteLoadTimeout e n => Sys2Proof.Machine.execRemoteLoadTimeout e n s
  | .transferComplete e n => Sys2Proof.Machine.execTransferComplete e n s
  | .transferTimeout e n => Sys2Proof.Machine.execTransferTimeout e n s
  | .interruptEntry e => Sys2Proof.Machine.execInterruptEntry e s
  | .sortStart b n => Sys2Proof.Machine.execSortStart b n s
  | .sortDone b => Sys2Proof.Machine.execSortDone b s
  | .phasorDescriptorWrite b k w0 w1 => Sys2Proof.Machine.execPhasorDescriptorWrite b k w0 w1 s
  | .executeIllegalWord e word => Sys2Proof.Machine.execExecuteIllegalWord e word s
  | .iAdd e d a b => Sys2Proof.Machine.execIAdd e d a b s
  | .iSub e d a b => Sys2Proof.Machine.execISub e d a b s
  | .iAnd e d a b => Sys2Proof.Machine.execIAnd e d a b s
  | .iOr e d a b => Sys2Proof.Machine.execIOr e d a b s
  | .iXor e d a b => Sys2Proof.Machine.execIXor e d a b s
  | .iAndn e d a b => Sys2Proof.Machine.execIAndn e d a b s
  | .iSll e d a b => Sys2Proof.Machine.execISll e d a b s
  | .iSrl e d a b => Sys2Proof.Machine.execISrl e d a b s
  | .iSra e d a b => Sys2Proof.Machine.execISra e d a b s
  | .iRor e d a b => Sys2Proof.Machine.execIRor e d a b s
  | .iMin e d a b => Sys2Proof.Machine.execIMin e d a b s
  | .iMax e d a b => Sys2Proof.Machine.execIMax e d a b s
  | .iMinu e d a b => Sys2Proof.Machine.execIMinu e d a b s
  | .iMaxu e d a b => Sys2Proof.Machine.execIMaxu e d a b s
  | .iAbs e d a => Sys2Proof.Machine.execIAbs e d a s
  | .iClz e d a => Sys2Proof.Machine.execIClz e d a s
  | .iPopc e d a => Sys2Proof.Machine.execIPopc e d a s
  | .iSel e d a b p => Sys2Proof.Machine.execISel e d a b p s
  | .iMul e d a b => Sys2Proof.Machine.execIMul e d a b s
  | .iMulh e d a b => Sys2Proof.Machine.execIMulh e d a b s
  | .iMulhu e d a b => Sys2Proof.Machine.execIMulhu e d a b s
  | .iDiv e d a b => Sys2Proof.Machine.execIDiv e d a b s
  | .iDivu e d a b => Sys2Proof.Machine.execIDivu e d a b s
  | .iRem e d a b => Sys2Proof.Machine.execIRem e d a b s
  | .iRemu e d a b => Sys2Proof.Machine.execIRemu e d a b s
  | .iAdds e d a b => Sys2Proof.Machine.execIAdds e d a b s
  | .iSubs e d a b => Sys2Proof.Machine.execISubs e d a b s
  | .iQmul e d a b => Sys2Proof.Machine.execIQmul e d a b s
  | .iQmac e d a b => Sys2Proof.Machine.execIQmac e d a b s
  | .iShls e d a b => Sys2Proof.Machine.execIShls e d a b s
  | .iRshr e d a b => Sys2Proof.Machine.execIRshr e d a b s
  | .iCmp e pd a b cc => Sys2Proof.Machine.execICmp e pd a b cc s
  | .iPand e d a b => Sys2Proof.Machine.execIPand e d a b s
  | .iPor e d a b => Sys2Proof.Machine.execIPor e d a b s
  | .iPxor e d a b => Sys2Proof.Machine.execIPxor e d a b s
  | .iPandn e d a b => Sys2Proof.Machine.execIPandn e d a b s
  | .iPany e d a => Sys2Proof.Machine.execIPany e d a s
  | .iPall e d a => Sys2Proof.Machine.execIPall e d a s
  | .iMovgp e d p => Sys2Proof.Machine.execIMovgp e d p s
  | .iMovpg e p a => Sys2Proof.Machine.execIMovpg e p a s
  | .iJalr e d a => Sys2Proof.Machine.execIJalr e d a s
  | .iAddi e d a imm => Sys2Proof.Machine.execIAddi e d a imm s
  | .iAndi e d a imm => Sys2Proof.Machine.execIAndi e d a imm s
  | .iOri e d a imm => Sys2Proof.Machine.execIOri e d a imm s
  | .iXori e d a imm => Sys2Proof.Machine.execIXori e d a imm s
  | .iShi e d a kind n => Sys2Proof.Machine.execIShi e d a kind n s
  | .iLui e d imm => Sys2Proof.Machine.execILui e d imm s
  | .iCmpi e pd a cc imm => Sys2Proof.Machine.execICmpi e pd a cc imm s
  | .iFadd e d a b => Sys2Proof.Machine.execIFadd e d a b s
  | .iFsub e d a b => Sys2Proof.Machine.execIFsub e d a b s
  | .iFmul e d a b => Sys2Proof.Machine.execIFmul e d a b s
  | .iFma e d a b => Sys2Proof.Machine.execIFma e d a b s
  | .iFms e d a b => Sys2Proof.Machine.execIFms e d a b s
  | .iFdiv e d a b => Sys2Proof.Machine.execIFdiv e d a b s
  | .iFsqrt e d a => Sys2Proof.Machine.execIFsqrt e d a s
  | .iFmin e d a b => Sys2Proof.Machine.execIFmin e d a b s
  | .iFmax e d a b => Sys2Proof.Machine.execIFmax e d a b s
  | .iFabs e d a => Sys2Proof.Machine.execIFabs e d a s
  | .iFneg e d a => Sys2Proof.Machine.execIFneg e d a s
  | .iFcmp e pd a b cc => Sys2Proof.Machine.execIFcmp e pd a b cc s
  | .iFcvtSW e d a => Sys2Proof.Machine.execIFcvtSW e d a s
  | .iFcvtWS e d a => Sys2Proof.Machine.execIFcvtWS e d a s
  | .iFcvtSQ e d a c => Sys2Proof.Machine.execIFcvtSQ e d a c s
  | .iFcvtQS e d a c => Sys2Proof.Machine.execIFcvtQS e d a c s
  | .ldB e d a imm ecc => Sys2Proof.Machine.execLdB e d a imm ecc s
  | .ldBu e d a imm ecc => Sys2Proof.Machine.execLdBu e d a imm ecc s
  | .ldH e d a imm ecc => Sys2Proof.Machine.execLdH e d a imm ecc s
  | .ldHu e d a imm ecc => Sys2Proof.Machine.execLdHu e d a imm ecc s
  | .ldW e d a imm ecc => Sys2Proof.Machine.execLdW e d a imm ecc s
  | .vld e d a imm ecc => Sys2Proof.Machine.execVld e d a imm ecc s
  | .stB e d a imm => Sys2Proof.Machine.execStB e d a imm s
  | .stH e d a imm => Sys2Proof.Machine.execStH e d a imm s
  | .stW e d a imm => Sys2Proof.Machine.execStW e d a imm s
  | .vst e d a imm => Sys2Proof.Machine.execVst e d a imm s
  | .xldH e d a imm => Sys2Proof.Machine.execXldH e d a imm s
  | .xldW e d a imm => Sys2Proof.Machine.execXldW e d a imm s
  | .xldV e d a imm => Sys2Proof.Machine.execXldV e d a imm s
  | .iB e p sense off => Sys2Proof.Machine.execIB e p sense off s
  | .iJal e d off => Sys2Proof.Machine.execIJal e d off s
  | .iVadd e vd va vb pm t => Sys2Proof.Machine.execIVadd e vd va vb pm t s
  | .iVsub e vd va vb pm t => Sys2Proof.Machine.execIVsub e vd va vb pm t s
  | .iVmul e vd va vb pm t => Sys2Proof.Machine.execIVmul e vd va vb pm t s
  | .iVmac e vd va vb vc pm t => Sys2Proof.Machine.execIVmac e vd va vb vc pm t s
  | .iVmsu e vd va vb vc pm t => Sys2Proof.Machine.execIVmsu e vd va vb vc pm t s
  | .iVmin e vd va vb pm t => Sys2Proof.Machine.execIVmin e vd va vb pm t s
  | .iVmax e vd va vb pm t => Sys2Proof.Machine.execIVmax e vd va vb pm t s
  | .iVabs e vd va pm t => Sys2Proof.Machine.execIVabs e vd va pm t s
  | .iVneg e vd va pm t => Sys2Proof.Machine.execIVneg e vd va pm t s
  | .iVcmp e pd va vb cc pm t => Sys2Proof.Machine.execIVcmp e pd va vb cc pm t s
  | .iVsel e vd va vb pm t => Sys2Proof.Machine.execIVsel e vd va vb pm t s
  | .iVand e vd va vb pm t => Sys2Proof.Machine.execIVand e vd va vb pm t s
  | .iVor e vd va vb pm t => Sys2Proof.Machine.execIVor e vd va vb pm t s
  | .iVxor e vd va vb pm t => Sys2Proof.Machine.execIVxor e vd va vb pm t s
  | .iVsra e vd va n pm t => Sys2Proof.Machine.execIVsra e vd va n pm t s
  | .iVsls e vd va n pm t => Sys2Proof.Machine.execIVsls e vd va n pm t s
  | .iVcvt e vd va dst half pm t => Sys2Proof.Machine.execIVcvt e vd va dst half pm t s
  | .iVpack e vd va vb pm t => Sys2Proof.Machine.execIVpack e vd va vb pm t s
  | .iVswz e vd va sel pm t => Sys2Proof.Machine.execIVswz e vd va sel pm t s
  | .iVsum e vd va pm t => Sys2Proof.Machine.execIVsum e vd va pm t s
  | .iVmovv e vd va pm t => Sys2Proof.Machine.execIVmovv e vd va pm t s
  | .iVext e g v ln t => Sys2Proof.Machine.execIVext e g v ln t s
  | .iVins e g v ln t => Sys2Proof.Machine.execIVins e g v ln t s
  | .iVsplat e g v t => Sys2Proof.Machine.execIVsplat e g v t s
  | .iVzero e v => Sys2Proof.Machine.execIVzero e v s
  | .iFenceS e => Sys2Proof.Machine.execIFenceS e s
  | .iFenceA e => Sys2Proof.Machine.execIFenceA e s
  | .iFenceD e => Sys2Proof.Machine.execIFenceD e s
  | .iFend e => Sys2Proof.Machine.execIFend e s
  | .iTrap e imm => Sys2Proof.Machine.execITrap e imm s
  | .iXret e => Sys2Proof.Machine.execIXret e s
  | .iCsrr e d csr => Sys2Proof.Machine.execICsrr e d csr s
  | .iCsrw e a csr => Sys2Proof.Machine.execICsrw e a csr s
  | .iCsrs e a csr => Sys2Proof.Machine.execICsrs e a csr s
  | .iCsrc e a csr => Sys2Proof.Machine.execICsrc e a csr s
  | .iSwait e d => Sys2Proof.Machine.execISwait e d s
  | .iPhld e d bin => Sys2Proof.Machine.execIPhld e d bin s
  | .amoswap e d a b => Sys2Proof.Machine.execAmoswap e d a b s
  | .amoadd e d a b => Sys2Proof.Machine.execAmoadd e d a b s
  | .amocas e d a b c => Sys2Proof.Machine.execAmocas e d a b c s
  | .iWfi e => Sys2Proof.Machine.execIWfi e s
  | .compareMismatch e point => Sys2Proof.Machine.execCompareMismatch e point s
  | .rollback e check ns => Sys2Proof.Machine.execRollback e check ns s
  | .migrationDone b => Sys2Proof.Machine.execMigrationDone b s
  | .fltInjectArm => Sys2Proof.Machine.execFltInjectArm s
  | .faultInjection bank reg bit => Sys2Proof.Machine.execFaultInjection bank reg bit s
  | .curatorMismatch op seq again => Sys2Proof.Machine.execCuratorMismatch op seq again s
  | .accessionWrite => Sys2Proof.Machine.execAccessionWrite s
  | .logInfo h => Sys2Proof.Machine.execLogInfo h s
  | .logRead h index half => Sys2Proof.Machine.execLogRead h index half s
  | .logCopy h first count offset => Sys2Proof.Machine.execLogCopy h first count offset s
  | .logCopyDone => Sys2Proof.Machine.execLogCopyDone s
  | .fltInfo h => Sys2Proof.Machine.execFltInfo h s
  | .stacksAccess bank reqs => Sys2Proof.Machine.execStacksAccess bank reqs s
  | .eccWriteback word => Sys2Proof.Machine.execEccWriteback word s
  | .stkInjectArm => Sys2Proof.Machine.execStkInjectArm s
  | .scrubLine => Sys2Proof.Machine.execScrubLine s
  | .bankPowered bank => Sys2Proof.Machine.execBankPowered bank s
  | .clearComplete bank => Sys2Proof.Machine.execClearComplete bank s
  | .sealComplete bank => Sys2Proof.Machine.execSealComplete bank s
  | .checkComplete bank => Sys2Proof.Machine.execCheckComplete bank s
  | .stkInfo h => Sys2Proof.Machine.execStkInfo h s
  | .stkBankStatus h bank => Sys2Proof.Machine.execStkBankStatus h bank s
  | .stkBankScrub h bank mode => Sys2Proof.Machine.execStkBankScrub h bank mode s
  | .bankScrubDone bank => Sys2Proof.Machine.execBankScrubDone bank s
  | .stkBankPower h bank on => Sys2Proof.Machine.execStkBankPower h bank on s
  | .stkRetainSet h mask => Sys2Proof.Machine.execStkRetainSet h mask s
  | .stkAclSet h bank mover remote host => Sys2Proof.Machine.execStkAclSet h bank mover remote host s
  | .stkSpillSet h link base size => Sys2Proof.Machine.execStkSpillSet h link base size s
  | .stkSpillWrite link v => Sys2Proof.Machine.execStkSpillWrite link v s
  | .filterOutput c => Sys2Proof.Machine.execFilterOutput c s
  | .fastOutput c => Sys2Proof.Machine.execFastOutput c s
  | .interlock x => Sys2Proof.Machine.execInterlock x s
  | .pfail low => Sys2Proof.Machine.execPfail low s
  | .pfailDrainDone => Sys2Proof.Machine.execPfailDrainDone s
  | .pfailDrainTimeout => Sys2Proof.Machine.execPfailDrainTimeout s
  | .edgInfo h => Sys2Proof.Machine.execEdgInfo h s
  | .edgMclkConfig h clock en period => Sys2Proof.Machine.execEdgMclkConfig h clock en period s
  | .edgMclkWrite m v => Sys2Proof.Machine.execEdgMclkWrite m v s
  | .edgModConfig h channel v => Sys2Proof.Machine.execEdgModConfig h channel v s
  | .edgModCfgWrite c v => Sys2Proof.Machine.execEdgModCfgWrite c v s
  | .edgTripConfig h channel trip thr mask => Sys2Proof.Machine.execEdgTripConfig h channel trip thr mask s
  | .edgTripRegWrite c which v => Sys2Proof.Machine.execEdgTripRegWrite c which v s
  | .edgIlkConfig h input v => Sys2Proof.Machine.execEdgIlkConfig h input v s
  | .edgIlkWrite k v => Sys2Proof.Machine.execEdgIlkWrite k v s
  | .edgPolSet h mask => Sys2Proof.Machine.execEdgPolSet h mask s
  | .edgPairStage h pair cfg time => Sys2Proof.Machine.execEdgPairStage h pair cfg time s
  | .edgAuxStage h sh0 sh1 => Sys2Proof.Machine.execEdgAuxStage h sh0 sh1 s
  | .edgAuxDirSet h v => Sys2Proof.Machine.execEdgAuxDirSet h v s
  | .shadowRegisterWrite a v => Sys2Proof.Machine.execShadowRegisterWrite a v s
  | .dynWrite reqs => Sys2Proof.Machine.execDynWrite reqs s
  | .edgTripClear h ilk mods => Sys2Proof.Machine.execEdgTripClear h ilk mods s
  | .tripLatchClear ilk mods => Sys2Proof.Machine.execTripLatchClear ilk mods s
  | .edgHoldRelease h => Sys2Proof.Machine.execEdgHoldRelease h s
  | .edgHoldReleaseWrite => Sys2Proof.Machine.execEdgHoldReleaseWrite s
  | .edgHoldAssert h => Sys2Proof.Machine.execEdgHoldAssert h s
  | .edgHoldAssertWrite => Sys2Proof.Machine.execEdgHoldAssertWrite s
  | .signalDetect n => Sys2Proof.Machine.execSignalDetect n s
  | .cdrLock n => Sys2Proof.Machine.execCdrLock n s
  | .trainingBlock n b => Sys2Proof.Machine.execTrainingBlock n b s
  | .lockTimeout n => Sys2Proof.Machine.execLockTimeout n s
  | .signalLoss n cdr => Sys2Proof.Machine.execSignalLoss n cdr s
  | .signalDetectWake n => Sys2Proof.Machine.execSignalDetectWake n s
  | .pllRelock p => Sys2Proof.Machine.execPllRelock p s
  | .rateWrite p rate => Sys2Proof.Machine.execRateWrite p rate s
  | .laneEnableWrite n en => Sys2Proof.Machine.execLaneEnableWrite n en s
  | .loopbackWrite n mode => Sys2Proof.Machine.execLoopbackWrite n mode s
  | .txeqWrite n pre main post => Sys2Proof.Machine.execTxeqWrite n pre main post s
  | .prbsWrite n tx rx => Sys2Proof.Machine.execPrbsWrite n tx rx s
  | .txErrInject n => Sys2Proof.Machine.execTxErrInject n s
  | .marginStart n time volt eye bitsLog => Sys2Proof.Machine.execMarginStart n time volt eye bitsLog s
  | .marginDone n errors => Sys2Proof.Machine.execMarginDone n errors s
  | .laneInfo h n => Sys2Proof.Machine.execLaneInfo h n s
  | .laneConfig h n ctrl txeq => Sys2Proof.Machine.execLaneConfig h n ctrl txeq s
  | .laneRate h p rate => Sys2Proof.Machine.execLaneRate h p rate s
  | .lanePrbs h n v => Sys2Proof.Machine.execLanePrbs h n v s
  | .lanePrbsRead h n => Sys2Proof.Machine.execLanePrbsRead h n s
  | .laneMargin h n time volt eye bitsLog => Sys2Proof.Machine.execLaneMargin h n time volt eye bitsLog s
  | .flitTransmit l => Sys2Proof.Machine.execFlitTransmit l s
  | .flitReceived l bytes => Sys2Proof.Machine.execFlitReceived l bytes s
  | .nakWaitTimeout l => Sys2Proof.Machine.execNakWaitTimeout l s
  | .replayTimeout l => Sys2Proof.Machine.execReplayTimeout l s
  | .creditTimeout l c => Sys2Proof.Machine.execCreditTimeout l c s
  | .flitConsumed l c => Sys2Proof.Machine.execFlitConsumed l c s
  | .creditInit l m => Sys2Proof.Machine.execCreditInit l m s
  | .laneDrop l newMask oldMask switchSeq reason => Sys2Proof.Machine.execLaneDrop l newMask oldMask switchSeq reason s
  | .laneAdd l newMask oldMask switchSeq reason => Sys2Proof.Machine.execLaneAdd l newMask oldMask switchSeq reason s
  | .switchBlock l mask purpose reason switchSeq => Sys2Proof.Machine.execSwitchBlock l mask purpose reason switchSeq s
  | .retrainRequest l reason => Sys2Proof.Machine.execRetrainRequest l reason s
  | .retrainAnswer l reason => Sys2Proof.Machine.execRetrainAnswer l reason s
  | .upWaitTimeout l => Sys2Proof.Machine.execUpWaitTimeout l s
  | .initTimeout l => Sys2Proof.Machine.execInitTimeout l s
  | .huntTimeout l => Sys2Proof.Machine.execHuntTimeout l s
  | .retrainRequestTimeout l => Sys2Proof.Machine.execRetrainRequestTimeout l s
  | .retrainTimeout l => Sys2Proof.Machine.execRetrainTimeout l s
  | .holdoffExpiry l => Sys2Proof.Machine.execHoldoffExpiry l s
  | .lnkPortWrite p split => Sys2Proof.Machine.execLnkPortWrite p split s
  | .linkEnableWrite l en => Sys2Proof.Machine.execLinkEnableWrite l en s
  | .linkRetrainWrite l => Sys2Proof.Machine.execLinkRetrainWrite l s
  | .allowMaskWrite l mask => Sys2Proof.Machine.execAllowMaskWrite l mask s
  | .linkInfo h l => Sys2Proof.Machine.execLinkInfo h l s
  | .linkPortSplit h p split => Sys2Proof.Machine.execLinkPortSplit h p split s
  | .linkConfig h l crto errwin timers holdoff => Sys2Proof.Machine.execLinkConfig h l crto errwin timers holdoff s
  | .linkEnable h l enable autoRestart => Sys2Proof.Machine.execLinkEnable h l enable autoRestart s
  | .linkWidth h l mask => Sys2Proof.Machine.execLinkWidth h l mask s
  | .linkRetrain h l => Sys2Proof.Machine.execLinkRetrain h l s
  | .linkCounters h l group => Sys2Proof.Machine.execLinkCounters h l group s
  | .routeFailover l => Sys2Proof.Machine.execRouteFailover l s
  | .fabRouteWrite d v => Sys2Proof.Machine.execFabRouteWrite d v s
  | .fabIdentityWrite reg v => Sys2Proof.Machine.execFabIdentityWrite reg v s
  | .remoteRead r cls => Sys2Proof.Machine.execRemoteRead r cls s
  | .remoteWrite r cls => Sys2Proof.Machine.execRemoteWrite r cls s
  | .remoteData r => Sys2Proof.Machine.execRemoteData r s
  | .remoteDone r => Sys2Proof.Machine.execRemoteDone r s
  | .probeTick => Sys2Proof.Machine.execProbeTick s
  | .timeProbe l id t1 t2 => Sys2Proof.Machine.execTimeProbe l id t1 t2 s
  | .timeReply l id t1 t2 t3 t4 => Sys2Proof.Machine.execTimeReply l id t1 t2 t3 t4 s
  | .timeTick => Sys2Proof.Machine.execTimeTick s
  | .timeFlit l stime period frame keeper flags depth epoch => Sys2Proof.Machine.execTimeFlit l stime period frame keeper flags depth epoch s
  | .holdoverTimeout => Sys2Proof.Machine.execHoldoverTimeout s
  | .beat => Sys2Proof.Machine.execBeat s
  | .beacon m l => Sys2Proof.Machine.execBeacon m l s
  | .beaconMiss n => Sys2Proof.Machine.execBeaconMiss n s
  | .propose sender epoch part nodes total => Sys2Proof.Machine.execPropose sender epoch part nodes total s
  | .agree sender epoch => Sys2Proof.Machine.execAgree sender epoch s
  | .roster sender epoch part nodes total => Sys2Proof.Machine.execRoster sender epoch part nodes total s
  | .join m => Sys2Proof.Machine.execJoin m s
  | .admitMsg sender epoch subject edition rejoin => Sys2Proof.Machine.execAdmitMsg sender epoch subject edition rejoin s
  | .route sender part entries l => Sys2Proof.Machine.execRoute sender part entries l s
  | .fabInfo h => Sys2Proof.Machine.execFabInfo h s
  | .fabRouteSet h first count words => Sys2Proof.Machine.execFabRouteSet h first count words s
  | .fabRouteRead h d => Sys2Proof.Machine.execFabRouteRead h d s
  | .fabConfig h node ctrl beat timeCfg => Sys2Proof.Machine.execFabConfig h node ctrl beat timeCfg s
  | .fabFormSet h quarter mask => Sys2Proof.Machine.execFabFormSet h quarter mask s
  | .fabRwinSet h entry w => Sys2Proof.Machine.execFabRwinSet h entry w s
  | .fabMemberRead h n => Sys2Proof.Machine.execFabMemberRead h n s
  | .fabTimeInfo h => Sys2Proof.Machine.execFabTimeInfo h s
  | .fabFence h => Sys2Proof.Machine.execFabFence h s
  | .fabUnfence h => Sys2Proof.Machine.execFabUnfence h s
  | .fabSlot h p op ind => Sys2Proof.Machine.execFabSlot h p op ind s
  | .slotInsertion p => Sys2Proof.Machine.execSlotInsertion p s
  | .slotRemoval p => Sys2Proof.Machine.execSlotRemoval p s
  | .buttonPress p => Sys2Proof.Machine.execButtonPress p s
  | .attentionWindowEnd p => Sys2Proof.Machine.execAttentionWindowEnd p s
  | .pgoodTimeout p => Sys2Proof.Machine.execPgoodTimeout p s
  | .pgoodLoss p => Sys2Proof.Machine.execPgoodLoss p s
  | .quiesceDone p => Sys2Proof.Machine.execQuiesceDone p s
  | .powerCtlWrite p on => Sys2Proof.Machine.execPowerCtlWrite p on s
  | .memoryRead addr len head => Sys2Proof.Machine.execMemoryRead addr len head s
  | .memoryWrite addr data be poison header => Sys2Proof.Machine.execMemoryWrite addr data be poison header s
  | .configRead dw => Sys2Proof.Machine.execConfigRead dw s
  | .configWrite dw data be => Sys2Proof.Machine.execConfigWrite dw data be s
  | .powerStateWrite v => Sys2Proof.Machine.execPowerStateWrite v s
  | .initiateFlr => Sys2Proof.Machine.execInitiateFlr s
  | .flrComplete => Sys2Proof.Machine.execFlrComplete s
  | .msixControlWrite enable fmask => Sys2Proof.Machine.execMsixControlWrite enable fmask s
  | .perst => Sys2Proof.Machine.execPerst s
  | .hotReset => Sys2Proof.Machine.execHotReset s
  | .hostLinkDown => Sys2Proof.Machine.execHostLinkDown s
  | .hostLinkUp rate width flit => Sys2Proof.Machine.execHostLinkUp rate width flit s
  | .cfgReady => Sys2Proof.Machine.execCfgReady s
  | .completion tag status poison data header => Sys2Proof.Machine.execCompletion tag status poison data header s
  | .completionTimeout tag => Sys2Proof.Machine.execCompletionTimeout tag s
  | .tagQuarantineEnd tag => Sys2Proof.Machine.execTagQuarantineEnd tag s
  | .remotePieceTimeout tag => Sys2Proof.Machine.execRemotePieceTimeout tag s
  | .l1Entry => Sys2Proof.Machine.execL1Entry s
  | .l0sEntry => Sys2Proof.Machine.execL0sEntry s
  | .winctrlCommit => Sys2Proof.Machine.execWinctrlCommit s
  | .winctrlRevert => Sys2Proof.Machine.execWinctrlRevert s
  | .hostInfo h => Sys2Proof.Machine.execHostInfo h s
  | .winStage h set index w0 w1 => Sys2Proof.Machine.execWinStage h set index w0 w1 s
  | .winCommit h => Sys2Proof.Machine.execWinCommit h s
  | .winRevert h => Sys2Proof.Machine.execWinRevert h s
  | .winRead h set index view => Sys2Proof.Machine.execWinRead h set index view s
  | .hostCounters h => Sys2Proof.Machine.execHostCounters h s
  | .moderationTimerExpiry v => Sys2Proof.Machine.execModerationTimerExpiry v s
  | .msixMessageCommit => Sys2Proof.Machine.execMsixMessageCommit s
  | .irqModWrite v thr timer => Sys2Proof.Machine.execIrqModWrite v thr timer s
  | .vectorMaskWrite v mask => Sys2Proof.Machine.execVectorMaskWrite v mask s
  | .compWrite bank src => Sys2Proof.Machine.execCompWrite bank src s
  | .doorbellWrite b mask => Sys2Proof.Machine.execDoorbellWrite b mask s
  | .ringDoorbell r tail => Sys2Proof.Machine.execRingDoorbell r tail s
  | .ringResume r tail => Sys2Proof.Machine.execRingResume r tail s
  | .descriptorFetch m => Sys2Proof.Machine.execDescriptorFetch m s
  | .segmentDone m => Sys2Proof.Machine.execSegmentDone m s
  | .descriptorWriteback m => Sys2Proof.Machine.execDescriptorWriteback m s
  | .schedulingRound => Sys2Proof.Machine.execSchedulingRound s
  | .moverFree m => Sys2Proof.Machine.execMoverFree m s
  | .channelInbound j => Sys2Proof.Machine.execChannelInbound j s
  | .bulk => Sys2Proof.Machine.execBulk s
  | .pageReset c => Sys2Proof.Machine.execPageReset c s
  | .carrelResetDone c => Sys2Proof.Machine.execCarrelResetDone c s
  | .carrelCreate h c rings vectors pasid share => Sys2Proof.Machine.execCarrelCreate h c rings vectors pasid share s
  | .carrelDestroy h c => Sys2Proof.Machine.execCarrelDestroy h c s
  | .carrelReset h c => Sys2Proof.Machine.execCarrelReset h c s
  | .carrelShare h owner weight => Sys2Proof.Machine.execCarrelShare h owner weight s
  | .carrelInfo h c => Sys2Proof.Machine.execCarrelInfo h c s
  | .ringConfig h owner slot kind sizeLog vector base => Sys2Proof.Machine.execRingConfig h owner slot kind sizeLog vector base s
  | .ringRelease h r => Sys2Proof.Machine.execRingRelease h r s
  | .ringInfo h r => Sys2Proof.Machine.execRingInfo h r s
  | .chanStage h j cfg blk => Sys2Proof.Machine.execChanStage h j cfg blk s
  | .dmaInfo h => Sys2Proof.Machine.execDmaInfo h s
  | .cmdDoorbellWrite v => Sys2Proof.Machine.execCmdDoorbellWrite v s
  | .slipFetched data => Sys2Proof.Machine.execSlipFetched data s
  | .ringEnWrite en => Sys2Proof.Machine.execRingEnWrite en s
  | .cmdRqHeadWrite v => Sys2Proof.Machine.execCmdRqHeadWrite v s
  | .callFrame slip => Sys2Proof.Machine.execCallFrame slip s
  | .frameGapTimeout => Sys2Proof.Machine.execFrameGapTimeout s
  | .textLine => Sys2Proof.Machine.execTextLine s
  | .slipCall sender slip => Sys2Proof.Machine.execSlipCall sender slip s
  | .slipReturn sender slip => Sys2Proof.Machine.execSlipReturn sender slip s
  | .slipExecute => Sys2Proof.Machine.execSlipExecute s
  | .relayTimeout target seq => Sys2Proof.Machine.execRelayTimeout target seq s
  | .holdTimeout => Sys2Proof.Machine.execHoldTimeout s
  | .devInfo h => Sys2Proof.Machine.execDevInfo h s
  | .devSerial h => Sys2Proof.Machine.execDevSerial h s
  | .fwInfo h => Sys2Proof.Machine.execFwInfo h s
  | .echo h bytes => Sys2Proof.Machine.execEcho h bytes s
  | .cmdInfo h => Sys2Proof.Machine.execCmdInfo h s
  | .cmdConfig h consoleEn fabricEn relayTo holdTo => Sys2Proof.Machine.execCmdConfig h consoleEn fabricEn relayTo holdTo s
  | .pwrInfo h => Sys2Proof.Machine.execPwrInfo h s
  | .pwrDomainRead h d => Sys2Proof.Machine.execPwrDomainRead h d s
  | .pwrHold h d on => Sys2Proof.Machine.execPwrHold h d on s
  | .pwrDomHoldWrite d on => Sys2Proof.Machine.execPwrDomHoldWrite d on s
  | .pwrSleep h mode ticks => Sys2Proof.Machine.execPwrSleep h mode ticks s
  | .standbyWrite on => Sys2Proof.Machine.execStandbyWrite on s
  | .sleepWrite => Sys2Proof.Machine.execSleepWrite s
  | .sleepDrainDone => Sys2Proof.Machine.execSleepDrainDone s
  | .sleepEntryTimeout => Sys2Proof.Machine.execSleepEntryTimeout s
  | .deepSleepWake source => Sys2Proof.Machine.execDeepSleepWake source s
  | .aoTimerSet h ticks => Sys2Proof.Machine.execAoTimerSet h ticks s
  | .aoTimerExpiry => Sys2Proof.Machine.execAoTimerExpiry s
  | .wdtConfig h ticks en => Sys2Proof.Machine.execWdtConfig h ticks en s
  | .wdtKick h => Sys2Proof.Machine.execWdtKick h s
  | .wdtKickWrite v => Sys2Proof.Machine.execWdtKickWrite v s
  | .watchdogExpiry => Sys2Proof.Machine.execWatchdogExpiry s
  | .rstRequest h reach key => Sys2Proof.Machine.execRstRequest h reach key s
  | .rstSwreqWrite v => Sys2Proof.Machine.execRstSwreqWrite v s
  | .rstCause h => Sys2Proof.Machine.execRstCause h s
  | .backupRead h n => Sys2Proof.Machine.execBackupRead h n s
  | .backupWrite h n v => Sys2Proof.Machine.execBackupWrite h n v s
  | .retainedRead h off => Sys2Proof.Machine.execRetainedRead h off s
  | .retainedWrite h off data => Sys2Proof.Machine.execRetainedWrite h off data s
  | .optRead h off => Sys2Proof.Machine.execOptRead h off s
  | .powerOn => Sys2Proof.Machine.execPowerOn s
  | .brownOut supply low => Sys2Proof.Machine.execBrownOut supply low s
  | .coreGood => Sys2Proof.Machine.execCoreGood s
  | .resetPin low => Sys2Proof.Machine.execResetPin low s
  | .resetRelease => Sys2Proof.Machine.execResetRelease s
  | .fuseSensingDone => Sys2Proof.Machine.execFuseSensingDone s
  | .systemPllLock => Sys2Proof.Machine.execSystemPllLock s
  | .inrushGrant => Sys2Proof.Machine.execInrushGrant s
  | .domainIdleTimeout d => Sys2Proof.Machine.execDomainIdleTimeout d s
  | .optionLoadingDone failed => Sys2Proof.Machine.execOptionLoadingDone failed s
  | .imageVerified => Sys2Proof.Machine.execImageVerified s
  | .firmwareStart romOk => Sys2Proof.Machine.execFirmwareStart romOk s
  | .xtalSwitch => Sys2Proof.Machine.execXtalSwitch s
  | .xtalStartTimeout => Sys2Proof.Machine.execXtalStartTimeout s
  | .xtalStop => Sys2Proof.Machine.execXtalStop s
  | .clockFail => Sys2Proof.Machine.execClockFail s
  | .clockRecover => Sys2Proof.Machine.execClockRecover s
  | .refclkHostLoss => Sys2Proof.Machine.execRefclkHostLoss s
  | .avsStep up => Sys2Proof.Machine.execAvsStep up s
  | .tempSample t => Sys2Proof.Machine.execTempSample t s
  | .mntInfo h => Sys2Proof.Machine.execMntInfo h s
  | .bistRun h test unit options => Sys2Proof.Machine.execBistRun h test unit options s
  | .bistComplete test unit outcome failing detail duration => Sys2Proof.Machine.execBistComplete test unit outcome failing detail duration s
  | .bistResult h test => Sys2Proof.Machine.execBistResult h test s
  | .amonSelect h source => Sys2Proof.Machine.execAmonSelect h source s
  | .fmonSelect h source div => Sys2Proof.Machine.execFmonSelect h source div s
  | .ledSet h led pattern => Sys2Proof.Machine.execLedSet h led pattern s
  | .consoleConfig h baud mode => Sys2Proof.Machine.execConsoleConfig h baud mode s
  | .fuseRead h w => Sys2Proof.Machine.execFuseRead h w s
  | .fuseProgram h w bits key => Sys2Proof.Machine.execFuseProgram h w bits key s
  | .flashWrite h flash stk len => Sys2Proof.Machine.execFlashWrite h flash stk len s
  | .flashWriteDone failed => Sys2Proof.Machine.execFlashWriteDone failed s
  | .flashVerify h slot => Sys2Proof.Machine.execFlashVerify h slot s
  | .uartBreak => Sys2Proof.Machine.execUartBreak s
  | .textHelp => Sys2Proof.Machine.execTextHelp s
  | .textInfo => Sys2Proof.Machine.execTextInfo s
  | .textStatus => Sys2Proof.Machine.execTextStatus s
  | .textLog n => Sys2Proof.Machine.execTextLog n s
  | .textLane l => Sys2Proof.Machine.execTextLane l s
  | .textLink l => Sys2Proof.Machine.execTextLink l s
  | .textAmon source => Sys2Proof.Machine.execTextAmon source s
  | .textFmon source div => Sys2Proof.Machine.execTextFmon source div s
  | .textLed led pattern => Sys2Proof.Machine.execTextLed led pattern s
  | .textBist test unit options => Sys2Proof.Machine.execTextBist test unit options s
  | .textBistQuery test => Sys2Proof.Machine.execTextBistQuery test s
  | .textFuse w prog => Sys2Proof.Machine.execTextFuse w prog s
  | .textBaud rate mode => Sys2Proof.Machine.execTextBaud rate mode s
  | .textFramed => Sys2Proof.Machine.execTextFramed s
  | .textSlip seq op node params => Sys2Proof.Machine.execTextSlip seq op node params s
  | .m2wWrite ptr data => Sys2Proof.Machine.execM2wWrite ptr data s
  | .m2wRead n => Sys2Proof.Machine.execM2wRead n s
  | .m2wWake => Sys2Proof.Machine.execM2wWake s
  | .m2wHold => Sys2Proof.Machine.execM2wHold s
  | .tapReset => Sys2Proof.Machine.execTapReset s
  | .extest => Sys2Proof.Machine.execExtest s
  | .idcode => Sys2Proof.Machine.execIdcode s
  | .samplePreload => Sys2Proof.Machine.execSamplePreload s
  | .clamp => Sys2Proof.Machine.execClamp s
  | .highz => Sys2Proof.Machine.execHighz s
  | .extestPulse => Sys2Proof.Machine.execExtestPulse s
  | .extestTrain => Sys2Proof.Machine.execExtestTrain s
  | .debugReset => Sys2Proof.Machine.execDebugReset s
  | .bypass => Sys2Proof.Machine.execBypass s
  | .registerRead a => Sys2Proof.Machine.execRegisterRead a s
  | .gatePairStep => Sys2Proof.Machine.execGatePairStep s
  | .mdatSample c bit => Sys2Proof.Machine.execMdatSample c bit s
  | .prbsSync x => Sys2Proof.Machine.execPrbsSync x s
  | .prbsSyncLost n bits errors => Sys2Proof.Machine.execPrbsSyncLost n bits errors s
  | .pgoodAssert p => Sys2Proof.Machine.execPgoodAssert p s
  | .l0Reached => Sys2Proof.Machine.execL0Reached s
  | .perstRelease => Sys2Proof.Machine.execPerstRelease s
  | .refclkHostBack => Sys2Proof.Machine.execRefclkHostBack s
  | .wdtHalf => Sys2Proof.Machine.execWdtHalf s
  | .longBreak => Sys2Proof.Machine.execLongBreak s
  | .domainRunning d => Sys2Proof.Machine.execDomainRunning d s
  | .characterReceived c ok => Sys2Proof.Machine.execCharacterReceived c ok s

end Sys2Proof.Machine
end

