-- ==== Sys2Proof/Machine/Tick.lean ====
section
/-! DEFINITION. Machine/Tick.lean: what one tick (1 µs) brings while no command waits (assumption log 2): the counters of
time (R25, R293, R417, R423, R526, R532, R535) and what the host path can do (R401, R403), and the wake by a source that was active when deep sleep began (R526). -/

namespace Sys2Proof.Machine

/-- STIME over one tick: 1000 ns at the rate of FAB_RATE in ppb, with the 16-bit fraction and what the rate leaves over (R25, R359); it runs while the
system PLL is locked and the bridge is not in deep sleep (R517, R524). -/
def State.tickTime (s : State) : State :=
  if !s.on PWR_CLK.PllLock || s.rst.stage == .asleep then s
  else
    let rate := signedOf 32 (s.rd FAB_RATE).toNat
    let drift : Int := 65536 * rate + Int.ofNat s.time.dither
    let total : Int := Int.ofNat (s.now * 65536 + s.time.frac.toNat) + 65536000 + drift / 1000000
    { s with time := { s.time with stime := BitVec.ofInt 64 (total / 65536), frac := BitVec.ofInt 16 total,
                                   dither := (drift % 1000000).toNat, local_ := s.time.local_ + 1000 } }

/-- Bits a lane receives in a tick, in half bits: Maelid lanes by LNK_PHY.Rate, host lanes by HPT_STATUS.Rate. -/
def State.laneHalfBits (s : State) (n : Nat) : Nat :=
  if n < 16 then match s.fld HPT_STATUS.Rate with
    | 0 => 5000
    | 1 => 10000
    | 2 => 16000
    | 3 => 32000
    | 4 => 64000
    | _ => 128000
  else match s.fld (LNK_PHY.Rate ((n - 16) / 4)) with
    | 0 => 20625
    | 1 => 56250
    | _ => 112000

/-- A generator sends the bits of a tick, and a synchronised checker counts them; a half bit goes to the odd ticks of STIME.  In
near-end loopback the checker finds the bits that TxErrInject inverted; on any other channel the mismatches are free, at most
the 64 in 256 that keep RxSync (R292 to R294). -/
def State.prbsTick (s : State) (n bits : Nat) : State :=
  let u := s.lane n
  let next := u.sent + bits
  let hits := (u.flips.filter (fun i => decide (i < next))).length
  let t := if s.generates n then s.setLane n { u with sent := next, flips := u.flips.filter (fun i => decide (next ≤ i)) } else s
  if !t.on (lnRxSync n) then t
  else if s.fld (lnLoop n) = 1 ∧ s.fld (lnTxPat n) = s.fld (lnRxPat n) then t.prbsCount n bits hits
  else t.takeFree.2.prbsCount n bits (t.takeFree.1.toNat % (bits / 4 + 1))

/-- The test patterns over one tick. -/
def State.tickPrbs (s : State) : State :=
  s.each (List.range 64) (fun n t => t.prbsTick n ((t.laneHalfBits n + s.now / 1000 % 2) / 2))

/-- The receivers go on adapting (R291); a lane back in SEEK whose signal and lock are still there enters LOCK (R286). -/
def State.tickAdapt (s : State) : State := s.each (List.range 64) (fun n t => (t.laneAdapt n).laneRelock n)

/-- Running moderation timers advance; one that reaches Timer makes its message due (R423). -/
def State.tickTimers (s : State) : State :=
  s.each s.irq.timers (fun p t =>
    if t.on (vstatTimer p.1) && t.on (IRQ_MOD.Timer p.1) then
      let n := p.2.getD 0 + 1
      let u := { t with irq := { t.irq with timers := tset (fun _ => none) t.irq.timers p.1 (some n) } }
      if t.fld (IRQ_MOD.Timer p.1) ≤ n then u.vectorDue p.1 else u
    else t)

/-- The always-on counters: the AO timer, the ticks since a wake, those of an episode and of deep sleep, the watchdog, and
the ticks since PERST# was released. -/
def State.tickCounters (s : State) : State :=
  let s := s.inc PWR_WAKE_TICKS
  let s := if s.on RST_WDT_CFG.Enable && decide ((s.rd RST_WDT_COUNT).toNat < (s.rd RST_WDT_TO).toNat) then s.inc RST_WDT_COUNT else s
  let s : State := { s with
    rst := { s.rst with ticks := if s.rst.phase = .none then s.rst.ticks else s.rst.ticks + 1,
                        sleepTicks := if s.rst.stage = .asleep then s.rst.sleepTicks + 1 else s.rst.sleepTicks,
                        avsWait := s.rst.avsWait - 1 },
    host := { s.host with perstTicks := if s.on HPT_STATUS.Perst then s.host.perstTicks else s.host.perstTicks + 1 } }
  match (s.rd PWR_AOTIMER).toNat with
  | 0 => s
  | 1 => s.aoTimer
  | n + 2 => s.wr PWR_AOTIMER (BitVec.ofNat 32 (n + 1))

/-- The ticks each domain has held no vote (R519, R123). -/
def State.tickIdle (s : State) : State :=
  let held : List Nat := (List.range 96).filter (fun d => s.domVotes d != 0)
  let count (m : Tab Nat) (d : Nat) : Tab Nat :=
    tset (fun _ => 0) m d (if held.contains d then 0 else tget (fun _ => 0) s.pwr.idle d + 1)
  { s with pwr := { s.pwr with idle := (List.range 96).foldl count s.pwr.idle } }

/-- What one tick does to the units that count them. -/
def State.tickUnits (s : State) : State :=
  s.tickTime.tickPrbs.tickAdapt.tickTimers.tickIdle.tickCounters.hostFlow.wakeTick

/-- One tick; a slip that waits for a read of Stacks tries it again (R203). -/
def State.tick (s : State) : State :=
  s.tickUnits.when (!s.tickUnits.cmd.held.isEmpty) (·.runHeld)

end Sys2Proof.Machine
end

