-- ==== Sys2Proof/Safety.lean ====
section
/-! DEFINITION. Safety.lean: the words the statements are made of: the canonical form of memory, and the invariant that
every step keeps. -/

namespace Sys2Proof.Machine

/-- The canonical form of Stacks memory: offsets strictly rising, and no entry equal to 0, what an unlisted byte reads as. -/
def Memory.wf (m : List Host.Cell) : Bool := twf (fun _ => 0#8) m

/-- What every step keeps: the register file, Stacks memory, DMEM, IMEM, the Curator's SRAM, the flash, the cores'
register sets, memory paths and pairs, the lanes, links, channels, pair outputs, rings, movers and bins are in canonical form, the log writer's queue holds at most
64 entries (R241), the catalogue's event queue at most 64 events (R100), the call-slip queue at most 64 slips (R485) and
the repeat record at most 16 (R487). -/
structure State.Inv (s : State) : Prop where
  regs : twf regReset s.regs = true
  mem : Memory.wf s.stk.mem = true
  dmem : Memory.wf s.eng.dmem = true
  imem : twf (fun _ => 0#32) s.eng.imem = true
  sram : Memory.wf s.eng.sram = true
  flash : twf (fun _ => 0xFF#8) s.boot.flash = true
  cores : twf (fun _ => Regs.zero) s.eng.regs = true
  ports : twf (fun _ => Port.zero) s.eng.ports = true
  pairs : twf (fun _ => Pair.zero) s.eng.pairs = true
  lanes : twf (fun _ => LaneUnit.zero) s.lanes = true
  links : twf (fun _ => LinkUnit.zero) s.links = true
  chans : twf (fun _ => ModChan.init) s.edg.chans = true
  outs : twf (fun _ => PairOut.init) s.edg.pairs = true
  rings : twf (fun _ => Ring.zero) s.dma.rings = true
  movers : twf (fun _ => (⟨.idle, []⟩ : Mover)) s.dma.movers = true
  bins : twf (fun _ => Bin.zero) s.eng.bins = true
  log : s.log.queue.length ≤ 64
  events : s.cat.events.length ≤ 64
  queue : s.cmd.queue.length ≤ 64
  repeats : s.cmd.repeats.length ≤ 16

end Sys2Proof.Machine
end

