-- ==== Sys2Proof/Safety/Terms.lean ====
section
/-! DEFINITION. Safety/Terms.lean: the conditions and the next states in which the statements speak of call slips and of engine
instructions. -/

namespace Sys2Proof.Machine

/-! ## Call slips -/

/-- The Curator runs the call slip `h` of opcode `op`, which works on `unit`: it takes call slips, its firmware or the recovery
serves the opcode, the slip is no repeat (R487), and no background operation holds the unit (R486). -/
structure State.Serves (s : State) (h : SlipHdr) (op : Nat) (unit : BusyUnit) : Prop where
  takes : s.takesSlip = true
  up : s.curatorUp = true ∨ recoveryOps.contains op = true
  fresh : s.cmd.repeats.find? (fun e => e.seq == h.seq && e.crc == h.crc) = none
  idle : s.unitBusy unit = false

/-- The call slip of opcode `op` is recorded as executed and answered with a status and a result (R481, R487, R489). -/
def State.replied (t : State) (h : SlipHdr) (op status : Nat) (result : List Byte) : State :=
  (t.recordSlip op h (some (mkReturn (BitVec.ofNat 16 op) h.seq status result))).answer h
    (mkReturn (BitVec.ofNat 16 op) h.seq status result)

/-- The call slip of opcode `op` starts a background operation on `unit`, is recorded and answered ACCEPTED (R482, R486). -/
def State.started (t : State) (h : SlipHdr) (op : Nat) (unit : BusyUnit) (cmd : BgCmd) : State :=
  (({ t with cmd := { t.cmd with background := t.cmd.background ++ [⟨h, BitVec.ofNat 16 op, unit, cmd⟩] } } : State).recordSlip
    op h none).answer h (mkReturn (BitVec.ofNat 16 op) h.seq stAccepted [])

/-! ## Engine instructions -/

/-- Core `e` runs the next instruction at once: it may issue, its PC lies in the memory it fetches from, none of the registers
the instruction names (`gs`, `vs`) awaits a load, and no injection has corrupted the result path of a core that runs it. -/
structure State.Ready (s : State) (e : Nat) (gs vs : List Nat) : Prop where
  issues : s.canIssue e = true
  aligned : (s.core e).pc.toNat % 4 = 0
  inside : (s.core e).pc.toNat < fetchEnd e
  free : s.awaits e gs vs = false
  sound : ∀ c ∈ s.cores e, s.eng.hard.contains c = false

/-- None of core `e`'s older accesses is under way and none is lost: its store buffer, load queue and transfer table are empty. -/
structure State.Quiet (s : State) (e : Nat) : Prop where
  sb : (s.port e).sb = []
  lq : (s.port e).lq = []
  xf : (s.port e).xf = []
  lost : (s.port e).lost = []

/-- The instruction at core `e`'s PC no longer waits (R129, R183). -/
def State.unwaited (s : State) (e : Nat) : State :=
  s.when (s.port e).waiting (fun t => t.setPort e { t.port e with waiting := false })

/-- The registers of every core that runs core `e`'s instruction (both engines of a pair, R105) become `f` of what they were;
nothing else changes. -/
def State.onCores (s : State) (e : Nat) (f : Regs → Regs) : State :=
  s.each (s.cores e) (fun c t => t.setCore c (f (s.core c)))

/-- Where core `e` is ready, instruction `i` completes: every core that runs it writes `f`'s value to g(d), sets `f`'s FSTAT bits
and goes on to the next instruction; nothing else changes.  `srcs` are the g registers it reads. -/
def State.YieldsG (s : State) (e : Fin 513) (i : Instr) (d : BitVec 5) (srcs : List (BitVec 5)) (f : Regs → Word × Word) : Prop :=
  s.Ready e (d.toNat :: srcs.map (·.toNat)) [] →
    exec i s = .next (s.onCores e (fun r => ((r.wg d.toNat (f r).1).flag (f r).2).next))

/-- The same of an instruction that writes `f`'s value to p(d). -/
def State.YieldsP (s : State) (e : Fin 513) (i : Instr) (d : BitVec 3) (gs : List (BitVec 5)) (vs : List (BitVec 4))
    (f : Regs → Byte × Word) : Prop :=
  s.Ready e (gs.map (·.toNat)) (vs.map (·.toNat)) →
    exec i s = .next (s.onCores e (fun r => ((r.wp d.toNat (f r).1).flag (f r).2).next))

/-- The same of an instruction that writes `f`'s value to v(d). -/
def State.YieldsV (s : State) (e : Fin 513) (i : Instr) (d : BitVec 4) (gs : List (BitVec 5)) (vs : List (BitVec 4))
    (f : Regs → BitVec 128 × Word) : Prop :=
  s.Ready e (gs.map (·.toNat)) (d.toNat :: vs.map (·.toNat)) →
    exec i s = .next (s.onCores e (fun r => ((r.wv d.toNat (f r).1).flag (f r).2).next))

/-- Where core `e` is ready, instruction `i` completes: every core that runs it has the registers `f` gives; nothing else changes. -/
def State.YieldsR (s : State) (e : Fin 513) (i : Instr) (gs : List (BitVec 5)) (f : Regs → Regs) : Prop :=
  s.Ready e (gs.map (·.toNat)) [] → exec i s = .next (s.onCores e f)

end Sys2Proof.Machine
end

