-- ==== Sys2Proof/Certificates/Slice0/Obligations.lean ====
section
/-! DEFINITION. Certificates/Slice0/Obligations.lean: the statements.  Each is a definition of a proposition; a statement about a call
slip holds where the Curator serves it (`State.Serves`), one about an engine instruction where its core is ready (`State.Ready`). -/

open Sys2Proof Sys2Proof.Machine

/-- The state after reset meets the invariant that every step keeps, holds no waiting command, and is in the state that R31, R66, R266 and
R532 give: scheduler in STOPPED, current edition 0, HOLD_N asserted, an episode of source PowerOn. Where the spec is silent it holds the
model's choices of assumption log 1 (DESIGN CHOICE). -/
def Obligations.ResetMeetsTheInvariant : Prop :=
  State.reset.Inv ∧ State.reset.pending = [] ∧ State.reset.sched = 0 ∧ State.reset.rd FRM_EDITION = 0#32 ∧
    State.reset.on EDG_HOLD.State = true ∧ State.reset.rst.seen = [0] ∧ State.reset.fld RST_STATUS.BootState = 0

/-- The queue of commands is first in, first out: a step with command `c` at its front is `c` run on the state with the queue's rest; on
an empty queue the block idles for one tick of its clock, in which no command runs (DESIGN CHOICE, assumption log 2). -/
def Obligations.StepRunsTheFrontCommand : Prop :=
  ∀ (s : State) (c : Instr) (rest : List Instr),
    (s.pending = c :: rest → step s = exec c { s with pending := rest }) ∧
    step { s with pending := c :: rest } = exec c { s with pending := rest } ∧
    (s.pending = [] → step s = .next s.tick)

/-- Every command runs and every step keeps the invariant: from every state that meets it, a step takes one command from the queue and
answers a next state that meets it, and so does every command, which leaves the queue of waiting commands as it was. -/
def Obligations.EveryStepKeepsTheInvariant : Prop :=
  (∀ s : State, s.Inv → ∃ t, step s = .next t ∧ t.Inv ∧ t.pending = s.pending.tail) ∧
  ∀ (c : Instr) (s : State), s.Inv → ∃ t, exec c s = .next t ∧ t.Inv ∧ t.pending = s.pending

/-- The integer instructions of R161: where the core is ready (see `State.Ready`), each completes, D taking the value its row of R161's
table gives, FSTAT only ABS's Sat, and nothing else changes but the PC. -/
def Obligations.IntegerInstructionsCompute : Prop :=
  ∀ (s : State) (e : Fin 513) (d a b : BitVec 5) (p : BitVec 3),
    let by2 (i : Instr) (f : Word → Word → Word) := s.YieldsG e i d [a, b] (fun r => (f (r.rg a.toNat) (r.rg b.toNat), 0#32))
    let by1 (i : Instr) (f : Word → Word × Word) := s.YieldsG e i d [a] (fun r => f (r.rg a.toNat))
    by2 (.iAdd e d a b) (fun x y => BitVec.ofNat 32 (x.toNat + y.toNat)) ∧
    by2 (.iSub e d a b) (fun x y => BitVec.ofInt 32 (x.toInt - y.toInt)) ∧
    by2 (.iAnd e d a b) (fun x y => x &&& y) ∧
    by2 (.iOr e d a b) (fun x y => x ||| y) ∧
    by2 (.iXor e d a b) (fun x y => x ^^^ y) ∧
    by2 (.iAndn e d a b) (fun x y => x &&& ~~~y) ∧
    by2 (.iSll e d a b) (fun x y => BitVec.ofNat 32 (x.toNat * 2 ^ (y.extractLsb' 0 5).toNat)) ∧
    by2 (.iSrl e d a b) (fun x y => BitVec.ofNat 32 (x.toNat / 2 ^ (y.extractLsb' 0 5).toNat)) ∧
    by2 (.iSra e d a b) (fun x y => BitVec.ofInt 32 (x.toInt / 2 ^ (y.extractLsb' 0 5).toNat)) ∧
    by2 (.iRor e d a b) (fun x y => (x >>> (y.extractLsb' 0 5).toNat) ||| (x <<< (32 - (y.extractLsb' 0 5).toNat))) ∧
    by2 (.iMin e d a b) (fun x y => BitVec.ofInt 32 (min x.toInt y.toInt)) ∧
    by2 (.iMax e d a b) (fun x y => BitVec.ofInt 32 (max x.toInt y.toInt)) ∧
    by2 (.iMinu e d a b) (fun x y => BitVec.ofNat 32 (min x.toNat y.toNat)) ∧
    by2 (.iMaxu e d a b) (fun x y => BitVec.ofNat 32 (max x.toNat y.toNat)) ∧
    by1 (.iAbs e d a) (fun x => if x = 0x80000000#32 then (0x7FFFFFFF#32, 1#32) else (BitVec.ofInt 32 |x.toInt|, 0#32)) ∧
    by1 (.iClz e d a) (fun x => (x.clz, 0#32)) ∧
    by1 (.iPopc e d a) (fun x => (x.cpop, 0#32)) ∧
    s.YieldsG e (.iSel e d a b p) d [a, b]
      (fun r => (if (r.rp p.toNat).getLsbD 0 then r.rg a.toNat else r.rg b.toNat, 0#32))

/-- The multiplications, divisions and saturating instructions of R161, R164 and R165: where the core is ready each completes with its
row's value: DIV and REM truncate toward zero, a division by zero gives all ones or A with DivZero, a clamp to the signed 32-bit range
sets Sat, and rounding is to nearest with ties to even. -/
def Obligations.MultiplyDivideSaturateCompute : Prop :=
  ∀ (s : State) (e : Fin 513) (d a b : BitVec 5),
    let by2 (i : Instr) (f : Word → Word → Word × Word) := s.YieldsG e i d [a, b] (fun r => f (r.rg a.toNat) (r.rg b.toNat))
    let sat (x : Int) : Word × Word :=
      if x < -2 ^ 31 then (0x80000000#32, 1#32) else if 2 ^ 31 ≤ x then (0x7FFFFFFF#32, 1#32) else (BitVec.ofInt 32 x, 0#32)
    -- the nearest integer to n / 2 ^ k, the even one where two are as near
    let rnd (n : Int) (k : Nat) : Int :=
      if 2 * (n % 2 ^ k) < 2 ^ k ∨ 2 * (n % 2 ^ k) = 2 ^ k ∧ n / 2 ^ k % 2 = 0 then n / 2 ^ k else n / 2 ^ k + 1
    by2 (.iMul e d a b) (fun x y => ((x.zeroExtend 64 * y.zeroExtend 64).extractLsb' 0 32, 0#32)) ∧
    by2 (.iMulh e d a b) (fun x y => ((x.signExtend 64 * y.signExtend 64).extractLsb' 32 32, 0#32)) ∧
    by2 (.iMulhu e d a b) (fun x y => ((x.zeroExtend 64 * y.zeroExtend 64).extractLsb' 32 32, 0#32)) ∧
    by2 (.iDiv e d a b) (fun x y => if y = 0#32 then (0xFFFFFFFF#32, 2#32) else (x.sdiv y, 0#32)) ∧
    by2 (.iDivu e d a b) (fun x y => if y = 0#32 then (0xFFFFFFFF#32, 2#32) else (x.udiv y, 0#32)) ∧
    by2 (.iRem e d a b) (fun x y => if y = 0#32 then (x, 2#32) else (x.srem y, 0#32)) ∧
    by2 (.iRemu e d a b) (fun x y => if y = 0#32 then (x, 2#32) else (x.umod y, 0#32)) ∧
    by2 (.iAdds e d a b) (fun x y => sat (x.toInt + y.toInt)) ∧
    by2 (.iSubs e d a b) (fun x y => sat (x.toInt - y.toInt)) ∧
    by2 (.iQmul e d a b) (fun x y => sat (rnd (x.toInt * y.toInt) 31)) ∧
    s.YieldsG e (.iQmac e d a b) d [a, b]
      (fun r => sat (rnd ((r.rg d.toNat).toInt * 2 ^ 31 + (r.rg a.toNat).toInt * (r.rg b.toNat).toInt) 31)) ∧
    by2 (.iShls e d a b) (fun x y => sat (x.toInt * 2 ^ (y.toNat % 32))) ∧
    by2 (.iRshr e d a b) (fun x y => (BitVec.ofInt 32 (rnd x.toInt (y.toNat % 32)), 0#32))

/-- The immediate instructions and LUI (R157, R162), the moves between g and p registers, the branches and jumps (R169), and the compares
and predicate instructions (R161, R163, R168): where the core is ready each completes with its value. ADDI sign-extends and ANDI, ORI and
XORI zero-extend the immediate; B takes its branch when bit 0 of p(P) differs from S, JAL and JALR link PC + 4; a true compare is 0xFF and
a false one 0; codes 6 and 7 of CMP raise ILLEGAL, which is not stated here. -/
def Obligations.ImmediatesComparesAndJumps : Prop :=
  (∀ (s : State) (e : Fin 513) (d a : BitVec 5) (p : BitVec 3) (imm : BitVec 16) (kind : BitVec 2) (n : BitVec 5) (sense : Bool)
    (off : BitVec 21),
    let by1 (i : Instr) (f : Word → Word) := s.YieldsG e i d [a] (fun r => (f (r.rg a.toNat), 0#32))
    by1 (.iAddi e d a imm) (fun x => x + imm.signExtend 32) ∧
    by1 (.iAndi e d a imm) (fun x => x &&& (0#16 ++ imm)) ∧
    by1 (.iOri e d a imm) (fun x => x ||| (0#16 ++ imm)) ∧
    by1 (.iXori e d a imm) (fun x => x ^^^ (0#16 ++ imm)) ∧
    by1 (.iShi e d a kind n) (fun x =>
      if kind = 0#2 then BitVec.ofNat 32 (x.toNat * 2 ^ n.toNat)
      else if kind = 1#2 then BitVec.ofNat 32 (x.toNat / 2 ^ n.toNat)
      else if kind = 2#2 then BitVec.ofInt 32 (x.toInt / 2 ^ n.toNat)
      else (x >>> n.toNat) ||| (x <<< (32 - n.toNat))) ∧
    s.YieldsG e (.iLui e d imm) d [] (fun _ => (imm ++ 0#16, 0#32)) ∧
    s.YieldsG e (.iMovgp e d p) d [] (fun r => (0#24 ++ r.rp p.toNat, 0#32)) ∧
    s.YieldsP e (.iMovpg e p a) p [a] [] (fun r => ((r.rg a.toNat).extractLsb' 0 8, 0#32)) ∧
    s.YieldsR e (.iB e p sense imm) [] (fun r =>
      if (r.rp p.toNat).getLsbD 0 = true ∧ sense = false ∨ (r.rp p.toNat).getLsbD 0 = false ∧ sense = true then
        { r with pc := r.pc + 4#32 * imm.signExtend 32 }
      else { r with pc := r.pc + 4#32 }) ∧
    s.YieldsR e (.iJal e d off) [d] (fun r => { r.wg d.toNat (r.pc + 4#32) with pc := r.pc + 4#32 * off.signExtend 32 }) ∧
    s.YieldsR e (.iJalr e d a) [d, a] (fun r => { r.wg d.toNat (r.pc + 4#32) with pc := r.rg a.toNat })) ∧
  (∀ (s : State) (e : Fin 513) (pd pa pb : BitVec 3) (a b : BitVec 5) (cc : BitVec 3) (c2 : BitVec 2) (imm : BitVec 16),
    let truth (c : Bool) : Byte := if c then 0xFF#8 else 0x00#8
    let byP (i : Instr) (f : Byte → Byte → Byte) := s.YieldsP e i pd [] [] (fun r => (f (r.rp pa.toNat) (r.rp pb.toNat), 0#32))
    let cmp (x y : Word) : Bool :=
      if cc = 0#3 then decide (x = y) else if cc = 1#3 then decide (x ≠ y) else if cc = 2#3 then decide (x.toInt < y.toInt)
      else if cc = 3#3 then decide (x.toInt ≥ y.toInt) else if cc = 4#3 then decide (x.toNat < y.toNat)
      else decide (x.toNat ≥ y.toNat)
    let cmpi (x y : Word) : Bool :=
      if c2 = 0#2 then decide (x = y) else if c2 = 1#2 then decide (x.toInt < y.toInt)
      else if c2 = 2#2 then decide (x.toNat < y.toNat) else decide (x.toInt ≤ y.toInt)
    (cc.toNat < 6 → s.YieldsP e (.iCmp e pd a b cc) pd [a, b] [] (fun r => (truth (cmp (r.rg a.toNat) (r.rg b.toNat)), 0#32))) ∧
    s.YieldsP e (.iCmpi e pd a c2 imm) pd [a] [] (fun r => (truth (cmpi (r.rg a.toNat) (imm.signExtend 32)), 0#32)) ∧
    s.YieldsP e (.iFcmp e pd a b c2) pd [a, b] [] (fun r =>
      let x := r.rg a.toNat
      let y := r.rg b.toNat
      let unordered : Bool := (fpOf x).isNan || (fpOf y).isNan
      (truth (if c2 = 3#2 then unordered
        else !unordered && ((c2 != 0#2 && fpLt x y) || (c2 != 1#2 && fpEq x y))),
       if (fpOf x).isSnan || (fpOf y).isSnan then 4#32 else 0#32)) ∧
    byP (.iPand e pd pa pb) (fun x y => x &&& y) ∧
    byP (.iPor e pd pa pb) (fun x y => x ||| y) ∧
    byP (.iPxor e pd pa pb) (fun x y => x ^^^ y) ∧
    byP (.iPandn e pd pa pb) (fun x y => x &&& ~~~y) ∧
    byP (.iPany e pd pa) (fun x _ => truth (x != 0#8)) ∧
    byP (.iPall e pd pa) (fun x _ => truth (x == 0xFF#8)))

/-- The scalar floating-point instructions of R168 complete where the core is ready. FADD, FSUB and FMUL are the fused multiply-add of
R167 with one operand fixed (A × 1 + B and −0 + A × B), FSUB and FMS with an operand negated; FABS and FNEG change bit 31 alone and set no
flag; a conversion from an integer rounds A ÷ 2^C once, and a conversion to one of a value that is no NaN and no infinity gives sat(rnd(A
× 2^C)), clamped to 32 bits, or to 16 bits and sign-extended for FCVT.Q.S with C = 15. Where the spec is silent it holds the model's
choices of assumption log 40 (DEDUCED). -/
def Obligations.FloatInstructionsCompute : Prop :=
  ∀ (s : State) (e : Fin 513) (d a b c : BitVec 5),
    let by2 (i : Instr) (f : Word → Word → Word × Word) := s.YieldsG e i d [a, b] (fun r => f (r.rg a.toNat) (r.rg b.toNat))
    let by1 (i : Instr) (f : Word → Word × Word) := s.YieldsG e i d [a] (fun r => f (r.rg a.toNat))
    let toFixed (w q : Nat) (x : Word) : Word × Word :=
      if (fpOf x).isNan then (0#32, 4#32)
      else if (fpOf x).isInf then (BitVec.ofInt 32 (if x.getLsbD 31 then -2 ^ (w - 1) else 2 ^ (w - 1) - 1), 5#32)
      else
        let n := rneInt ((fpOf x).rat.1 * 2 ^ q) (fpOf x).rat.2
        let m := max (-2 ^ (w - 1)) (min (2 ^ (w - 1) - 1) n)
        (BitVec.ofInt 32 m, if m = n then 0#32 else 1#32)
    by2 (.iFadd e d a b) (fun x y => fpFma x 0x3F800000#32 y) ∧
    by2 (.iFsub e d a b) (fun x y => fpFma x 0x3F800000#32 (y ^^^ 0x80000000#32)) ∧
    by2 (.iFmul e d a b) (fun x y => fpFma 0x80000000#32 x y) ∧
    s.YieldsG e (.iFma e d a b) d [a, b] (fun r => fpFma (r.rg d.toNat) (r.rg a.toNat) (r.rg b.toNat)) ∧
    s.YieldsG e (.iFms e d a b) d [a, b] (fun r => fpFma (r.rg d.toNat) (r.rg a.toNat ^^^ 0x80000000#32) (r.rg b.toNat)) ∧
    by2 (.iFdiv e d a b) fpDiv ∧
    by1 (.iFsqrt e d a) fpSqrt ∧
    by2 (.iFmin e d a b) (fpMinMax false) ∧
    by2 (.iFmax e d a b) (fpMinMax true) ∧
    by1 (.iFabs e d a) (fun x => (0#1 ++ x.extractLsb' 0 31, 0#32)) ∧
    by1 (.iFneg e d a) (fun x => (~~~(x.extractLsb' 31 1) ++ x.extractLsb' 0 31, 0#32)) ∧
    by1 (.iFcvtSW e d a) (fun x => fpOfRat x.toInt 1) ∧
    by1 (.iFcvtWS e d a) (toFixed 32 0) ∧
    by1 (.iFcvtSQ e d a c) (fun x => fpOfRat x.toInt (2 ^ c.toNat)) ∧
    by1 (.iFcvtQS e d a c) (toFixed (if c.toNat = 15 then 16 else 32) c.toNat)

/-- R167 on NaN, infinite and zero operands: a NaN operand of FADD, FSUB, FMUL, FDIV, FMA and FMS and every invalid operation give the
canonical quiet NaN 0x7FC00000; ∞ − ∞, 0 × ∞, 0 ÷ 0, ∞ ÷ ∞ and the root of a negative value set Invalid, as does a signalling NaN; a
finite non-zero value divided by zero sets DivByZero and gives an infinity; FMIN and FMAX take the other input of one NaN and order −0
below +0. Where the spec is silent it holds the model's choices of assumption log 40 (DEDUCED). -/
def Obligations.FloatSpecialOperands : Prop :=
  ∀ (x y z : Word) (p q : Bool),
    let nan (w : Word) : Bool := (fpOf w).isNan
    let snan (w : Word) : Bool := (fpOf w).isSnan
    let inf (b : Bool) : Word := if b then 0xFF800000#32 else 0x7F800000#32
    let zero (b : Bool) : Word := if b then 0x80000000#32 else 0#32
    ((nan x || nan y) = true → (fpAdd x y).1 = 0x7FC00000#32 ∧ (fpSub x y).1 = 0x7FC00000#32 ∧ (fpMul x y).1 = 0x7FC00000#32 ∧
      (fpDiv x y).1 = 0x7FC00000#32) ∧
    ((nan x || nan y || nan z) = true → (fpFma x y z).1 = 0x7FC00000#32 ∧ (fpFms x y z).1 = 0x7FC00000#32) ∧
    ((snan x || snan y || snan z) = true → (fpFma x y z).2 = 4#32) ∧
    fpAdd (inf p) (inf (!p)) = (0x7FC00000#32, 4#32) ∧ fpSub (inf p) (inf p) = (0x7FC00000#32, 4#32) ∧
    fpMul (zero p) (inf q) = (0x7FC00000#32, 4#32) ∧ fpMul (inf q) (zero p) = (0x7FC00000#32, 4#32) ∧
    fpDiv (zero p) (zero q) = (0x7FC00000#32, 4#32) ∧ fpDiv (inf p) (inf q) = (0x7FC00000#32, 4#32) ∧
    (nan x = false → x.getLsbD 31 = true → (fpOf x).isZero = false → fpSqrt x = (0x7FC00000#32, 4#32)) ∧
    (nan x = false → (fpOf x).isInf = false → (fpOf x).isZero = false →
      fpDiv x (zero p) = (inf (x.getLsbD 31 != p), 8#32)) ∧
    (nan x = true → nan y = false → (fpMinMax p x y).1 = fpFlush y ∧ (fpMinMax p y x).1 = fpFlush y) ∧
    (nan x = true → nan y = true → (fpMinMax p x y).1 = 0x7FC00000#32) ∧
    fpMinMax false (zero p) (zero (!p)) = (0x80000000#32, 0#32) ∧ fpMinMax true (zero p) (zero (!p)) = (0#32, 0#32)

/-- Rounding: where the FP32 value that the model rounds a positive rational to is neither a flushed zero nor an infinity, no FP32 value
lies nearer to that rational, and Inexact is set exactly when the two differ. Rests on parts of R167. -/
def Obligations.FloatRoundsToNearest : Prop :=
  ∀ (neg : Bool) (num den : Nat), 0 < num → 0 < den →
    let value (w : Word) : ℚ := ((fpOf w).rat.1 : ℚ) / ((fpOf w).rat.2 : ℚ)
    let exact : ℚ := if neg then -((num : ℚ) / den) else (num : ℚ) / den
    let w := (fpRound neg num den).1
    (fpOf w).isZero = false → (fpOf w).isInf = false →
      (fpOf w).isNan = false ∧
      (∀ v : Word, (fpOf v).isNan = false → (fpOf v).isInf = false → |value w - exact| ≤ |value v - exact|) ∧
      ((fpRound neg num den).2 = if value w = exact then 0#32 else 64#32)

/-- The vector arithmetic and logic instructions of R173 to R175, in an engine whose core is ready: each completes for every lane type its
row permits, lane by lane under its mask: FP32 lanes by the FP32 operation, Q lanes exactly with one rounding and one saturation, INT
lanes modulo 2^32. -/
def Obligations.VectorArithmeticComputes : Prop :=
  ∀ (s : State) (e : Fin 513) (vd va vb vc : BitVec 4) (pm : BitVec 3) (t : BitVec 2) (n : BitVec 8), e.val ≠ 512 →
    let k := t.toNat
    let q := if t = 1#2 then 31 else if t = 2#2 then 15 else 0
    let width := if t = 2#2 then 16 else 32
    -- an exact lane result: INT wraps, Q saturates
    let fit (w : Nat) (x : Int) : Word × Word :=
      if x < -2 ^ (w - 1) then (BitVec.ofInt 32 (-2 ^ (w - 1)), 1#32)
      else if 2 ^ (w - 1) ≤ x then (BitVec.ofInt 32 (2 ^ (w - 1) - 1), 1#32) else (BitVec.ofInt 32 x, 0#32)
    let lane (x : Int) : Word × Word := if t = 3#2 then (BitVec.ofInt 32 x, 0#32) else fit width x
    let yields (i : Instr) (vs : List (BitVec 4)) (f : Regs → Nat → Word × Word) :=
      s.YieldsV e i vd [] vs (fun r => maskedLanes k (r.rp pm.toNat) (r.rv vd.toNat) (f r))
    let by2 (i : Instr) (ff : Word → Word → Word × Word) (fi : Int → Int → Int) := yields i [va, vb] (fun r j =>
      if t = 0#2 then ff (laneVal 0 (r.rv va.toNat) j) (laneVal 0 (r.rv vb.toNat) j)
      else lane (fi (laneInt k (r.rv va.toNat) j) (laneInt k (r.rv vb.toNat) j)))
    let by1 (i : Instr) (ff : Word → Word) (fi : Int → Int) := yields i [va] (fun r j =>
      if t = 0#2 then (ff (laneVal 0 (r.rv va.toNat) j), 0#32) else lane (fi (laneInt k (r.rv va.toNat) j)))
    let mac (i : Instr) (ff : Word → Word → Word → Word × Word) (sign : Int) := yields i [va, vb, vc] (fun r j =>
      if t = 0#2 then ff (laneVal 0 (r.rv vc.toNat) j) (laneVal 0 (r.rv va.toNat) j) (laneVal 0 (r.rv vb.toNat) j)
      else lane (rneInt (laneInt k (r.rv vc.toNat) j * 2 ^ q + sign * (laneInt k (r.rv va.toNat) j * laneInt k (r.rv vb.toNat) j)) (2 ^ q)))
    let logic (i : Instr) (f : Word → Word → Word) := t = 3#2 → yields i [va, vb] (fun r j =>
      (f (laneVal 3 (r.rv va.toNat) j) (laneVal 3 (r.rv vb.toNat) j), 0#32))
    by2 (.iVadd e vd va vb pm t) fpAdd (fun x y => x + y) ∧
    by2 (.iVsub e vd va vb pm t) fpSub (fun x y => x - y) ∧
    by2 (.iVmul e vd va vb pm t) fpMul (fun x y => rneInt (x * y) (2 ^ q)) ∧
    mac (.iVmac e vd va vb vc pm t) fpFma 1 ∧
    mac (.iVmsu e vd va vb vc pm t) fpFms (-1) ∧
    by2 (.iVmin e vd va vb pm t) (fpMinMax false) (fun x y => min x y) ∧
    by2 (.iVmax e vd va vb pm t) (fpMinMax true) (fun x y => max x y) ∧
    by1 (.iVabs e vd va pm t) (fun x => x &&& 0x7FFFFFFF#32) (fun x => |x|) ∧
    by1 (.iVneg e vd va pm t) (fun x => x ^^^ 0x80000000#32) (fun x => -x) ∧
    logic (.iVand e vd va vb pm t) (fun x y => x &&& y) ∧
    logic (.iVor e vd va vb pm t) (fun x y => x ||| y) ∧
    logic (.iVxor e vd va vb pm t) (fun x y => x ^^^ y) ∧
    (t ≠ 0#2 → n.toNat < width →
      yields (.iVsra e vd va n pm t) [va] (fun r j => (BitVec.ofInt 32 (laneInt k (r.rv va.toNat) j / 2 ^ n.toNat), 0#32)) ∧
      yields (.iVsls e vd va n pm t) [va] (fun r j => fit width (laneInt k (r.rv va.toNat) j * 2 ^ n.toNat)))

/-- The vector compares, selects, conversions, packs, swizzles, sums and moves of R174, R176 and R177, in an engine whose core is ready:
each completes for every lane type its row permits. A masked lane of VCMP gives 0, VSUM puts the sum of the unmasked lanes in lane 0 and 0
in the others, VEXT sign-extends a Q15 lane, and VINS leaves the other lanes as they were. VCVT is stated for the conversions R176 gives
(not Q15 to INT or INT to Q15, whose lanes are free values, log entry 6). -/
def Obligations.VectorMovesCompute : Prop :=
  ∀ (s : State) (e : Fin 513) (vd va vb : BitVec 4) (pd pm : BitVec 3) (g : BitVec 5) (cc t dst : BitVec 2) (sel : BitVec 8)
    (ln : BitVec 3) (half : Bool), e.val ≠ 512 →
    let k := t.toNat
    let h := half.toNat
    let yields (i : Instr) (vs : List (BitVec 4)) (ty : Nat) (f : Regs → Nat → Word × Word) :=
      s.YieldsV e i vd [] vs (fun r => maskedLanes ty (r.rp pm.toNat) (r.rv vd.toNat) (f r))
    s.YieldsP e (.iVcmp e pd va vb cc pm t) pd [] [va, vb] (fun r =>
      let on (j : Nat) : Bool := governs k (r.rp pm.toNat) j && (laneCmp k cc.toNat (r.rv va.toNat) (r.rv vb.toNat) j).1
      (lanePred k on, (List.range (laneCount k)).foldl
        (fun w j => if governs k (r.rp pm.toNat) j then w ||| (laneCmp k cc.toNat (r.rv va.toNat) (r.rv vb.toNat) j).2 else w) 0#32)) ∧
    s.YieldsV e (.iVsel e vd va vb pm t) vd [] [va, vb] (fun r =>
      (ofLanes k (fun j => laneVal k (if governs k (r.rp pm.toNat) j then r.rv va.toNat else r.rv vb.toNat) j), 0#32)) ∧
    (dst = t → yields (.iVcvt e vd va dst half pm t) [va] k (fun r j => (laneVal k (r.rv va.toNat) j, 0#32))) ∧
    (t = 0#2 → dst = 1#2 → yields (.iVcvt e vd va dst half pm t) [va] 1 (fun r j =>
      (BitVec.ofInt 32 (fpToQ 32 31 (laneVal 0 (r.rv va.toNat) j)).1, (fpToQ 32 31 (laneVal 0 (r.rv va.toNat) j)).2))) ∧
    (t = 0#2 → dst = 3#2 → yields (.iVcvt e vd va dst half pm t) [va] 3 (fun r j => fcvtFixed 32 0 (laneVal 0 (r.rv va.toNat) j))) ∧
    (t = 1#2 → dst = 0#2 → yields (.iVcvt e vd va dst half pm t) [va] 0 (fun r j => fpOfRat (laneInt 1 (r.rv va.toNat) j) (2 ^ 31))) ∧
    (t = 3#2 → dst = 0#2 → yields (.iVcvt e vd va dst half pm t) [va] 0 (fun r j => fpOfRat (laneInt 3 (r.rv va.toNat) j) 1)) ∧
    (t = 2#2 → dst = 0#2 → yields (.iVcvt e vd va dst half pm t) [va] 0 (fun r j =>
      fpOfRat (laneInt 2 (r.rv va.toNat) (4 * h + j)) (2 ^ 15))) ∧
    (t = 2#2 → dst = 1#2 → yields (.iVcvt e vd va dst half pm t) [va] 1 (fun r j =>
      (BitVec.ofInt 32 (laneInt 2 (r.rv va.toNat) (4 * h + j) * 2 ^ 16), 0#32))) ∧
    (t = 1#2 ∧ dst = 3#2 ∨ t = 3#2 ∧ dst = 1#2 → yields (.iVcvt e vd va dst half pm t) [va] dst.toNat (fun r j =>
      (laneVal k (r.rv va.toNat) j, 0#32))) ∧
    (t = 0#2 ∨ t = 1#2 → dst = 2#2 → s.YieldsV e (.iVcvt e vd va dst half pm t) vd [] [va] (fun r =>
      let on (j : Nat) : Bool := j / 4 == h && governs 2 (r.rp pm.toNat) j
      let x (j : Nat) : Word × Word :=
        if t = 0#2 then (BitVec.ofInt 32 (fpToQ 16 15 (laneVal 0 (r.rv va.toNat) (j % 4))).1, (fpToQ 16 15 (laneVal 0 (r.rv va.toNat) (j % 4))).2)
        else laneResult 2 (rneInt (laneInt 1 (r.rv va.toNat) (j % 4)) (2 ^ 16))
      (ofLanes 2 (fun j => if on j then (x j).1 else laneVal 2 (r.rv vd.toNat) j),
       (List.range 8).foldl (fun w j => if on j then w ||| (x j).2 else w) 0#32))) ∧
    (t = 1#2 → yields (.iVpack e vd va vb pm t) [va, vb] 2 (fun r j =>
      laneResult 2 (rneInt (laneInt 1 (if j < 4 then r.rv va.toNat else r.rv vb.toNat) (j % 4)) (2 ^ 16)))) ∧
    (t ≠ 2#2 → yields (.iVswz e vd va sel pm t) [va] k (fun r j => (laneVal k (r.rv va.toNat) (sel.extractLsb' (2 * j) 2).toNat, 0#32))) ∧
    s.YieldsV e (.iVsum e vd va pm t) vd [] [va] (fun r =>
      (ofLanes k (fun j => if j = 0 then (laneSum k (r.rp pm.toNat) (r.rv va.toNat)).1 else 0#32),
       (laneSum k (r.rp pm.toNat) (r.rv va.toNat)).2)) ∧
    yields (.iVmovv e vd va pm t) [va] k (fun r j => (laneVal k (r.rv va.toNat) j, 0#32)) ∧
    (ln.toNat < laneCount k → s.Ready e [g.toNat] [va.toNat] → exec (.iVext e g va ln t) s =
      .next (s.onCores e (fun r => (r.wg g.toNat (BitVec.ofInt 32 (laneInt k (r.rv va.toNat) ln.toNat))).next))) ∧
    (ln.toNat < laneCount k → s.YieldsV e (.iVins e g vd ln t) vd [g] [] (fun r =>
      (ofLanes k (fun j => if j = ln.toNat then r.rg g.toNat else laneVal k (r.rv vd.toNat) j), 0#32))) ∧
    s.YieldsV e (.iVsplat e g vd t) vd [g] [] (fun r => (ofLanes k (fun _ => r.rg g.toNat), 0#32)) ∧
    s.YieldsV e (.iVzero e vd) vd [] [] (fun _ => (0#128, 0#32))

/-- The lanes of a vector are independent. A vector built from lanes reads back each lane, a lane whose governing mask bit is 0 keeps its
bits and sets no flag, and a predicate written by VCMP governs the lanes its conditions name. Rests on parts of R155 and R173. -/
def Obligations.VectorLanesIndependent : Prop :=
  ∀ (t i : Nat) (f : Nat → Word) (g : Nat → Word × Word) (c : Nat → Bool) (p : Byte) (old v : BitVec 128), i < laneCount t →
    (laneVal t (ofLanes t f) i).toNat = (f i).toNat % 2 ^ laneWidth t ∧
    ofLanes t (laneVal t v) = v ∧
    (governs t p i = false → laneVal t (maskedLanes t p old g).1 i = laneVal t old i) ∧
    (governs t p i = true → (laneVal t (maskedLanes t p old g).1 i).toNat = (g i).1.toNat % 2 ^ laneWidth t) ∧
    ((∀ j < laneCount t, governs t p j = false) → maskedLanes t p old g = (old, 0#32)) ∧
    governs t (lanePred t c) i = c i

/-- A load from DMEM by an engine that is no half of a pair completes where the core is ready, nothing older is under way and the words it
touches are sound: D takes the bytes at A + sext(IMM), the lowest address least significant (R3), LD.B and LD.H sign-extended and LD.BU
and LD.HU zero-extended; nothing else changes but the PC. Rests on parts of R111, R170. Where the spec is silent it holds the model's
choices of assumption log 7 (DESIGN CHOICE) and 11 (DESIGN CHOICE). -/
def Obligations.DmemLoadsComplete : Prop :=
  ∀ (s : State) (e : Fin 513) (d a : BitVec 5) (vd : BitVec 4) (imm : BitVec 16) (o : Nat), e.val ≠ 512 → s.inPair e = false →
    s.Quiet e → o < 0x8000 → (s.core e).rg a.toNat + imm.signExtend 32 = BitVec.ofNat 32 (0x10000 + o) →
    let byte (k : Nat) : Byte := tget (fun _ => 0#8) s.eng.dmem (32768 * e + o + k)
    let loads (i : Instr) (n : Nat) (x : Word) :=
      o % n = 0 → s.badWord e o n = false → s.Ready e [a.toNat, d.toNat] [] →
        exec i s = .next (s.onCores e (fun r => (r.wg d.toNat x).next))
    loads (.ldB e d a imm 0) 1 ((byte 0).signExtend 32) ∧
    loads (.ldBu e d a imm 0) 1 ((byte 0).zeroExtend 32) ∧
    loads (.ldH e d a imm 0) 2 ((byte 1 ++ byte 0).signExtend 32) ∧
    loads (.ldHu e d a imm 0) 2 ((byte 1 ++ byte 0).zeroExtend 32) ∧
    loads (.ldW e d a imm 0) 4 (byte 3 ++ byte 2 ++ byte 1 ++ byte 0) ∧
    (o % 16 = 0 → s.badWord e o 16 = false → s.Ready e [a.toNat] [vd.toNat] →
      exec (.vld e vd a imm 0) s = .next (s.onCores e (fun r => (r.wv vd.toNat (BitVec.ofNat 128 (leNat ((List.range 16).map byte)))).next)))

/-- A store to DMEM by an engine that is no half of a pair completes where the core is ready, nothing older is under way and the bytes lie
outside its parameter copies. Exactly the bytes at A + sext(IMM) change, to those of D from its least significant byte up (R3); no other
byte of DMEM, no byte of IMEM and SRAM, no register and nothing outside the engine changes but the PC, and of the words marked
uncorrectable at most those written are no longer so. Rests on parts of R117, R170. Where the spec is silent it holds the model's choices
of assumption log 11 (DESIGN CHOICE). -/
def Obligations.DmemStoresWriteTheirBytes : Prop :=
  ∀ (s : State) (e : Fin 513) (d a : BitVec 5) (vd : BitVec 4) (imm : BitVec 16) (o : Nat), s.Inv → e.val ≠ 512 → s.inPair e = false →
    s.Quiet e → o < 0x8000 → (s.core e).rg a.toNat + imm.signExtend 32 = BitVec.ofNat 32 (0x10000 + o) →
    let stores (i : Instr) (n : Nat) (data : Nat) :=
      o % n = 0 → s.inParams e o n = false →
        ∃ t, exec i s = .next t ∧
          t = ({ s with eng := { s.eng with dmem := t.eng.dmem, bad := t.eng.bad } } : State).onCores e Regs.next ∧
          (∀ w ∈ s.eng.bad, w + 4 ≤ 32768 * e + o ∨ 32768 * e + o + n ≤ w → w ∈ t.eng.bad) ∧
          (∀ w ∈ t.eng.bad, w ∈ s.eng.bad) ∧
          ∀ k, tget (fun _ => 0#8) t.eng.dmem k =
            if 32768 * e + o ≤ k ∧ k < 32768 * e + o + n then BitVec.ofNat 8 (data / 256 ^ (k - (32768 * e + o)))
            else tget (fun _ => 0#8) s.eng.dmem k
    let x := ((s.core e).rg d.toNat).toNat
    (s.Ready e [a.toNat, d.toNat] [] →
      stores (.stB e d a imm) 1 x ∧ stores (.stH e d a imm) 2 x ∧ stores (.stW e d a imm) 4 x) ∧
    (s.Ready e [a.toNat] [vd.toNat] → stores (.vst e vd a imm) 16 ((s.core e).rv vd.toNat).toNat)

/-- Where the core is ready and nothing older is under way, a transfer from Stacks to DMEM outside the engine's parameter copies enters
the transfer table, and D advances by the size; nothing else changes but the PC. R187: the Curator's atomics on its SRAM give D the word
at A and replace it by B, by the sum with B, or by B where it equals C (their operands are PRESUMED, log entry 10). Rests on parts of
R171. Where the spec is silent it holds the model's choices of assumption log 11 (DESIGN CHOICE) and 51 (DESIGN CHOICE). -/
def Obligations.TransfersAndAtomicsComplete : Prop :=
  ∀ (s : State) (e : Fin 513) (d a b c : BitVec 5) (imm : BitVec 16) (o src : Nat),
    let rg (x : BitVec 5) : Word := (s.core e).rg x.toNat
    let xfer (i : Instr) (n : Nat) :=
      e.val ≠ 512 → s.Quiet e → s.Ready e [d.toNat, a.toNat] [] → o % n = 0 → src % n = 0 →
        o < 0x8000 → rg d = BitVec.ofNat 32 (0x10000 + o) → s.inParams e o n = false →
        0x200000 ≤ src → src < 0x6000000 → rg a + imm.signExtend 32 = BitVec.ofNat 32 (0x10000000 + src) →
        exec i s = .next ((s.setPort e { s.port e with xf := [⟨0x10000000 + src, .stacks src, o, n, none, false, none, none⟩] }).onCores e
          (fun r => (r.wg d.toNat (r.rg d.toNat + BitVec.ofNat 32 n)).next))
    let word : Word := BitVec.ofNat 32 (leNat (s.sramBytes (rg a).toNat 4))
    let put (t : State) (x : Word) : State := t.sramPut (rg a).toNat (leBytes 4 x.toNat)
    let done (t : State) : State := t.onCores e (fun r => (r.wg d.toNat word).next)
    let ready := e.val = 512 ∧ (rg a).toNat % 4 = 0 ∧ (rg a).toNat < 0x200000
    xfer (.xldH e d a imm) 2 ∧ xfer (.xldW e d a imm) 4 ∧ xfer (.xldV e d a imm) 16 ∧
    (ready → s.Ready e [d.toNat, a.toNat, b.toNat, 0] [] →
      exec (.amoswap e d a b) s = .next (done (put s (rg b))) ∧
      exec (.amoadd e d a b) s = .next (done (put s (word + rg b)))) ∧
    (ready → s.Ready e [d.toNat, a.toNat, b.toNat, c.toNat] [] →
      exec (.amocas e d a b c) s = .next (done (if word = rg c then put s (rg b) else s)))

/-- The control-register instructions, the barriers, the waits and the frame end complete where the core is ready. CSRR gives D the
register (STIMEL also latching STIMEH), CSRW, CSRS and CSRC write the writable bits, those of FSTAT once nothing older is under way; a
fence with nothing to wait for only goes on; FEND at Level 2 enters the wait for compute-start with its PC kept and notes the time; SWAIT
of an idle sorter gives D its status; PHLD gives D the bin's result words once the update is complete; WFI goes on once an interrupt is
selected. Rests on parts of R131, R178 to R180 and R186. Where the spec is silent it holds the model's choices of assumption log 11
(DESIGN CHOICE). -/
def Obligations.SystemInstructionsComplete : Prop :=
  ∀ (s : State) (e : Fin 513) (d a : BitVec 5) (v : BitVec 4) (csr : BitVec 10) (bin : BitVec 5),
    let k := csr.toNat
    let b := e.val / 8
    (k ∈ [0, 3, 5, 0x10, 0x11, 0x12, 0x13, 0x18, 0x1A, 0x20, 0x22] → (k = 0 → s.Quiet e) →
      s.YieldsG e (.iCsrr e d csr) d [] (fun r => (r.rc k, 0#32))) ∧
    (s.Ready e [d.toNat] [] → k = 2 → exec (.iCsrr e d csr) s = .next (s.onCores e (fun r =>
      ((r.wc 3 (BitVec.ofNat 32 (s.now / 2 ^ 32))).wg d.toNat (BitVec.ofNat 32 s.now)).next))) ∧
    (k = 1 → s.YieldsG e (.iCsrr e d csr) d [] (fun _ => (BitVec.ofNat 32 (s.cycle e), 0#32))) ∧
    (e.val ≠ 512 → k = 4 → s.YieldsG e (.iCsrr e d csr) d [] (fun _ => (BitVec.ofNat 32 (s.logical e), 0#32))) ∧
    (s.inPair e = false → k = 6 → s.YieldsG e (.iCsrr e d csr) d [] (fun r => (r.rc 6 ||| BitVec.ofNat 32 (s.level e), 0#32))) ∧
    (k ∈ [0, 5, 0x10, 0x13, 0x18, 0x1A, 0x20, 0x22] → (k = 0 → s.Quiet e) →
      let mask : Word := if k = 0 then 0x7F#32 else if k = 5 then 3#32 else 0xFFFFFFFF#32
      s.YieldsR e (.iCsrw e a csr) [a] (fun r => (r.wc k (r.rg a.toNat &&& mask)).next) ∧
      s.YieldsR e (.iCsrs e a csr) [a] (fun r => (r.wc k ((r.rc k ||| r.rg a.toNat) &&& mask)).next) ∧
      s.YieldsR e (.iCsrc e a csr) [a] (fun r => (r.wc k ((r.rc k &&& ~~~r.rg a.toNat) &&& mask)).next)) ∧
    (s.Ready e [] [] → s.Quiet e → exec (.iFenceS e) s = .next ((s.unwaited e).onCores e Regs.next) ∧
      exec (.iFenceA e) s = .next ((s.unwaited e).onCores e Regs.next) ∧
      ((s.port e).open_ = [] → exec (.iFenceD e) s = .next ((s.unwaited e).onCores e Regs.next))) ∧
    (s.Inv → s.Ready e [] [] → s.Quiet e → (s.port e).open_ = [] → e.val ≠ 512 → s.level e = 2 → s.inPair e = false →
      (s.pair e).again = false → ∃ t, exec (.iFend e) s = .next t ∧ t.level e = 1 ∧ (t.port e).fend = some s.now ∧
        t.core e = s.core e ∧ ∀ c, c ≠ e.val → t.level c = s.level c ∧ t.core c = s.core c) ∧
    (e.val ≠ 512 → s.Ready e [d.toNat] [] → s.on (BAYR_SS.Busy b (s.sortEngine b (e % 8))) = false →
      s.sortEngine b (e % 8) < 8 → ∃ t, exec (.iSwait e d) s = .next t ∧
        t = ({ s.unwaited e with regs := t.regs } : State).onCores e
          (fun r => (r.wg d.toNat (s.rd (BAYR_SS b (s.sortEngine b (e % 8))))).next) ∧
        (s.Inv → t.on (BAYR_SS.Done b (s.sortEngine b (e % 8))) = false ∧ t.on (BAYR_SS.Error b (s.sortEngine b (e % 8))) = false)) ∧
    (e.val ≠ 512 → s.Ready e [] [v.toNat] → s.Quiet e → s.inPair e = false → b ∉ s.eng.phasorVotes →
      exec (.iPhld e v bin) s = .next ((s.unwaited e).onCores e (fun r => (r.wv v.toNat (s.rd (BAYR_PR_STAT b bin.toNat) ++
        s.rd (BAYR_PR_COUNT b bin.toNat) ++ s.rd (BAYR_PR_IM b bin.toNat) ++ s.rd (BAYR_PR_RE b bin.toNat))).next))) ∧
    (e.val = 512 → s.Ready e [] [] → s.curSelect.isSome = true → exec (.iWfi e) s = .next (s.onCores e Regs.next))

/-- Entering and leaving the handler levels, in an engine that is no half of a pair. TRAP and an undefined word (R158), with the memory
path drained and below exception level, save the return address, the code and the fault address in the exception registers, set PrevExc to
the level left, go to ExceptionBase + 32 × code at Level 5, and count the exception; XRET restores PC and level from the current level's
registers; an interrupt enters Level 4 at offset 0x200 or Level 3 at 0x220. Rests on parts of R134, R136, R178, R181, R183. -/
def Obligations.ExceptionsEnterAndReturn : Prop :=
  ∀ (s : State) (e : Fin 512) (e' : Fin 513) (imm : BitVec 10) (word : Word) (src : Nat) (fast : Bool),
    s.Inv → e'.val = e.val → s.inPair e = false →
    let r := s.core e
    let others (t : State) := ∀ c, c ≠ e.val → t.core c = s.core c ∧ t.level c = s.level c
    let enters (i : Instr) (code : Nat) (epc eaddr : Word) :=
      ∃ t, exec i s = .next t ∧ others t ∧ t.level e = 5 ∧
        t.core e = ((((r.setPrev 3 (s.level e)).wc 0x10 epc).wc 0x11 (BitVec.ofNat 32 code)).wc 0x12 eaddr).goto
          (s.handlerBase e + BitVec.ofNat 32 (32 * code)) ∧
        t.fld (ENG_E_FCAUSE.Code e) = code ∧ t.fld (ENG_E_FCAUSE.FrameLow e) = s.frm.last % 65536 ∧
        (t.rd (ENG_E_EXCCNT e)).toNat = min 0xFFFFFFFF ((s.rd (ENG_E_EXCCNT e)).toNat + 1) ∧
        (t.rd (ENG_BAY_EXC (e / 8))).toNat = min 0xFFFFFFFF ((s.rd (ENG_BAY_EXC (e / 8))).toNat + 1)
    (s.Ready e [] [] → (s.port e).drained = true → s.level e ≠ 5 →
      enters (.iTrap e' imm) 3 (r.pc + 4#32) (imm.zeroExtend 32) ∧
      (legalWord false word = false → enters (.executeIllegalWord e' word) 2 r.pc word)) ∧
    (s.Ready e [] [] → (s.port e).lq = [] → ∀ lvl ∈ [(5, 0x10, 3), (4, 0x18, 6), (3, 0x20, 9)], s.level e = lvl.1 →
      ∃ t, exec (.iXret e') s = .next t ∧ others t ∧ t.core e = r.goto (r.rc lvl.2.1) ∧ t.level e = r.prev lvl.2.2) ∧
    (s.bayAwake (e / 8) = true → s.bayRuns (e / 8) = true → (s.pair e).fault = none → s.pfail = false →
      (s.port e).drained = true → s.interruptFor e = some (src, fast) →
      ∃ t, exec (.interruptEntry e') s = .next t ∧ others t ∧
        (fast = true → t.level e = 4 ∧ t.core e = ((r.setPrev 6 (s.level e)).wc 0x18 r.pc).goto (s.handlerBase e + 0x200#32)) ∧
        (fast = false → t.level e = 3 ∧ t.core e = ((r.setPrev 9 (s.level e)).wc 0x20 r.pc).goto (s.handlerBase e + 0x220#32)) ∧
        t.on (if fast then BAYR_BIC_FSRC.Valid (e / 8) (e % 8) else BAYR_BIC_NSRC.Valid (e / 8) (e % 8)) = true)

/-- The memory path of a core that is no half of a pair. A Stacks bank's data goes to the register of the load at the queue's head; an
Accepted store leaves the buffer once Stacks holds it; a store that times out leaves it too, is noted among the lost in the order of issue
and counted in ENG_LOSTCNT; a remote load without an answer restores the core to before the load and raises DATA_ERROR on it; a transfer's
data goes to DMEM; a transfer without an answer is kept as failed. Rests on parts of R126, R128, R130, R170, R171. Where the spec is
silent it holds the model's choices of assumption log 5 (DESIGN CHOICE), 22 (DESIGN CHOICE) and 51 (DESIGN CHOICE). -/
def Obligations.MemoryPathEvents : Prop :=
  ∀ (s u : State) (e : Fin 513) (n : Fin 512) (l : Load) (x : Store) (f : Xfer) (o : Nat) (bs : List Byte) (r0 : Regs), s.Inv →
    s.inPair e = false → (s.pair e).again = false →
    ((s.port e).lq = [l] → l.place = .stacks o → l.got = .nothing → s.stkRead (stkRequester e) o l.size = (u, .data bs) →
      ∃ t, exec (.loadReturn e 0) s = .next t ∧ (t.port e).lq = [] ∧ t.core e = (s.core e).load l.dest l.size bs) ∧
    ((s.port e).sb = [x] → (s.port e).lq = [] → x.place = .stacks o →
      s.stkWrite (stkRequester e) o (x.data.map some) false = (u, .done) →
      ∃ t, exec (.storeAccepted e 0) s = .next t ∧ (t.port e).sb = [] ∧ t.stk = u.stk ∧ t.core e = s.core e) ∧
    ((s.port e).sb = [x] → (s.port e).lq = [] → x.place = .stacks o →
      ∃ t, exec (.storeTimeout e 0 false false) s = .next t ∧ (t.port e).sb = [] ∧
        ((s.port e).draining = false → (s.port e).cuts = [] → (t.port e).lost = (s.port e).lost.filter (fun y => decide (y.seq < x.seq)) ++
          [⟨x.addr, true, x.seq, none⟩] ++ (s.port e).lost.filter (fun y => decide (x.seq ≤ y.seq))) ∧ t.stk = s.stk ∧
        (t.rd ENG_LOSTCNT).toNat = min 0xFFFFFFFF ((s.rd ENG_LOSTCNT).toNat + 1)) ∧
    ((s.port e).lq = [l] → (s.port e).sb = [] → (∃ d nd c, l.place = .remote d nd c o) → l.tag.isSome = true → l.got = .nothing →
      l.before = [(e.val, r0)] → (s.pair e).fault = none → s.level e ≠ 5 → e.val ≠ 512 →
      ∃ t, exec (.remoteLoadTimeout e 0) s = .next t ∧ (t.port e).lq = [] ∧ t.level e = 5 ∧
        t.core e = ((((r0.setPrev 3 (s.level e)).wc 0x10 r0.pc).wc 0x11 7#32).wc 0x12 (BitVec.ofNat 32 l.addr)).goto
          (s.handlerBase e + 224#32)) ∧
    (n.val = e.val → (s.port e).xf = [f] → f.place = .stacks o → f.failed = false → f.data = none → s.stkRead (stkRequester e) o f.size = (u, .data bs) →
      bs ≠ [] → ∃ t, exec (.transferComplete n 0) s = .next t ∧ (t.port e).xf = [] ∧ t.eng.dmem = (s.dmPut e f.dst bs).eng.dmem) ∧
    (n.val = e.val → (s.port e).xf = [f] → f.failed = false → f.data = none →
      ∃ t, exec (.transferTimeout n 0) s = .next t ∧ (t.port e).xf = [{ f with failed := true }] ∧ t.eng.dmem = s.eng.dmem)

/-- REMOTE accesses. A read of Stacks that keeps R354 is answered OK with the bytes read, a write OK once performed; a READ_DATA goes to
the load that waits for it, a DONE frees the store that waits for it; a piece of a host request that goes unanswered is recorded as
failed. Rests on parts of R355 to R357, R398. Where the spec is silent it holds the model's choices of assumption log 22 (DESIGN CHOICE)
and 43 (DEDUCED). -/
def Obligations.RemoteAccessesComplete : Prop :=
  ∀ (s u : State) (r : RemoteMsg) (cls : BitVec 2) (q : RemoteReq) (e : Nat) (l : Load) (x : Store) (bs : List Byte) (tag : BitVec 16)
    (id o nd c : Nat) (d : Bool),
    let t := s.popInbox ftRemote
    let link := (s.fab.inbox.find? (fun d => d.flit.type == ftRemote)).bind (·.link)
    (t.fab.remoteWait.all (fun w => w.link != link) = true → remoteOffsetOk r = true → r.kind = 0#8 →
      (t.stkRead rqFabric r.offset.toNat r.size.toNat = (u, .data bs) → exec (.remoteRead r cls) s = .next (u.respond 8 r cls 0 bs)) ∧
      (t.stkRead rqFabric r.offset.toNat r.size.toNat = (u, .wait) → exec (.remoteRead r cls) s =
        .next { t with fab := { t.fab with remoteWait := t.fab.remoteWait ++ [⟨link, false, r, cls⟩] } })) ∧
    (t.fab.remoteWait.all (fun w => w.link != link) = true → remoteOffsetOk r = true → r.kind = 0#8 →
      t.stkWrite rqFabric r.offset.toNat ((padTo r.size.toNat r.data).map some) false = (u, .done) →
      exec (.remoteWrite r cls) s = .next (u.respond 9 r cls 0 [])) ∧
    (s.Inv → t.rem.out.find? (fun q => q.tag == r.tag.toNat) = some q → q.user = .load e → (s.port e).lq = [l] →
      l.got = .nothing → l.tag = some q.tag → l.place = .remote d nd c o → s.inPair e = false → r.status = 0#8 →
      ∃ v, exec (.remoteData r) s = .next v ∧ (v.port e).lq = [] ∧ v.core e = (s.core e).load l.dest l.size (r.data.take q.size)) ∧
    (s.Inv → t.rem.out.find? (fun q => q.tag == r.tag.toNat) = some q → q.user = .store e → (s.port e).sb = [x] → (s.port e).lq = [] →
      x.tag = some q.tag → r.status = 0#8 →
      ∃ v, exec (.remoteDone r) s = .next v ∧ (v.port e).sb = [] ∧ v.rem.out = s.rem.out.filter (fun p => p.tag != q.tag)) ∧
    (s.rem.out.find? (fun q => q.tag == tag.toNat) = some q → q.user = .window id true o →
      exec (.remotePieceTimeout tag) s = .next ((s.remoteForget q.tag).pieceGot id o 9 []))

/-- A compare mismatch of a pair that computes is counted and the pair waits for its rollback; the rollback, once no access and no sort is
outstanding and the pair check passes, restores DMEM from the journal and the checkpoint's registers, and the pair re-executes; an armed
injection of Kind 1 makes the result path of its engine faulty, one of Kind 0 inverts one register bit. Rests on parts of R221 to R227,
R244. Where the spec is silent it holds the model's choices of assumption log 22 (DESIGN CHOICE). -/
def Obligations.PairFaultsAndInjection : Prop :=
  ∀ (s : State) (e : Fin 512) (point : Fin 5) (ns : Word) (bank : Fin 3) (reg : Fin 32) (bit : Fin 128), s.Inv →
    let p := s.pair e
    let c := 8 * s.fld FLT_INJECT.Bay + 2 * s.fld FLT_INJECT.Pair + s.fld FLT_INJECT.Odd
    (s.inPair e = true → e.val % 2 = 0 → p.fault = none → p.overflow = false → p.again = false → 2 ≤ s.level e → s.level e ≤ 5 →
      ∃ t, exec (.compareMismatch e point) s = .next t ∧ (t.rd FLT_MISMATCH).toNat = min 0xFFFFFFFF ((s.rd FLT_MISMATCH).toNat + 1) ∧
        t = ({ s with regs := t.regs } : State).setPair e
          { p with fault := some (point.val, s.now), report := some (point.val, p.journal.length, (s.core e).pc.toNat, 0) }) ∧
    (p.fault.isSome = true → s.Quiet e → (s.port e).open_ = [] → s.inPair e = false ∨ e.val % 2 = 0 →
      e.val % 8 ∉ tget (fun _ => []) s.eng.sorts (e.val / 8) →
      ∃ t, exec (.rollback e none ns) s = .next t ∧ t.eng.dmem = (s.undo e p.journal).eng.dmem ∧
        (∀ a ∈ s.cores e, t.core a = (s.freshCore a (s.port e).frame).core a) ∧
        ns.toNat ≤ (t.rd FLT_ROLLBACK_MAX).toNat) ∧
    (s.paired (s.fld FLT_INJECT.Bay) = true → s.fld (ENG_BAY_STATUS.State (s.fld FLT_INJECT.Bay)) = 3 → s.fld FLT_INJECT.Kind < 2 →
      exec .fltInjectArm s = .next { (s.setF FLT_INJECT.Armed 1) with eng := { s.eng with inject := false } }) ∧
    (s.on FLT_INJECT.Armed = true → s.eng.inject = true → s.fld FLT_INJECT.Kind = 1 →
      ∃ t, exec (.faultInjection bank reg bit) s = .next t ∧ t.on FLT_INJECT.Armed = false ∧ c ∈ t.eng.hard ∧
        t.eng.inject = false ∧ t.eng.regs = s.eng.regs) ∧
    (s.on FLT_INJECT.Armed = true → s.eng.inject = true → s.fld FLT_INJECT.Kind = 0 → bank = 0 →
      ∃ t, exec (.faultInjection bank reg bit) s = .next t ∧ t.on FLT_INJECT.Armed = false ∧ t.eng.hard = s.eng.hard ∧
        t.core c = (s.core c).wg reg.val ((s.core c).rg reg.val ^^^ BitVec.twoPow 32 (bit.val % 32)))

/-- The accession log. The writer stores the oldest queued entry at Next in Stacks, then advances Next modulo 4096 and Seq, setting
Wrapped after the last slot; LOG_INFO, LOG_READ and FLT_INFO answer with the registers and the bytes they name; LOG_COPY is accepted and
its end, where no access of it waits, copies the entries and answers. Rests on parts of R239 to R243. Where the spec is silent it holds
the model's choices of assumption log 19 (DESIGN CHOICE) and 49 (DESIGN CHOICE). -/
def Obligations.AccessionLogCommands : Prop :=
  ∀ (s u : State) (h : SlipHdr) (l : LogEntry) (rest : List LogEntry) (index first count : BitVec 16) (half : Byte) (offset : Word)
    (bs : List Byte) (g : Background) (i n o : Nat),
    (s.Inv → s.curatorUp = true → s.log.queue = l :: rest →
      s.stkWrite rqCurator (0x100000 + 32 * (s.fld FLT_LOG_HEAD.Next)) ((l.bytes (s.fld FLT_LOG_HEAD.Seq)).map some) false = (u, .done) →
      ∃ t, exec .accessionWrite s = .next t ∧ t.log.queue = rest ∧ t.stk = u.stk ∧
        t.fld FLT_LOG_HEAD.Next = (s.fld FLT_LOG_HEAD.Next + 1) % 4096 ∧
        t.fld FLT_LOG_HEAD.Seq = (s.fld FLT_LOG_HEAD.Seq + 1) % 65536 ∧
        (s.fld FLT_LOG_HEAD.Next = 4095 → t.on FLT_LOG_HEAD.Wrapped = true)) ∧
    (s.Serves h 0x0A00 .none → exec (.logInfo h) s = .next (s.replied h 0x0A00 0
      (leBytes 4 (s.rd FLT_LOG_HEAD).toNat ++ leBytes 4 (s.rd FLT_LOG_LOST).toNat))) ∧
    (s.Serves h 0x0A01 .none → index.toNat < 4096 → half.toNat < 2 →
      s.stkRead rqCurator (0x100000 + 32 * index.toNat + 16 * half.toNat) 16 = (u, .data bs) →
      exec (.logRead h index half) s = .next (u.replied h 0x0A01 0 bs)) ∧
    (s.Serves h 0x0A02 .none → first.toNat < 4096 → 0 < count.toNat → count.toNat ≤ 4096 → offset.toNat % 32 = 0 →
      0x200000 ≤ offset.toNat → offset.toNat + 32 * count.toNat ≤ 0x6000000 →
      (∀ b ∈ banksOf offset.toNat (32 * count.toNat), s.bankState b = 0 ∨ s.bankState b = 1 ∨ s.bankState b = 5) →
      s.cmd.background.length < 8 →
      exec (.logCopy h first count offset) s = .next (s.started h 0x0A02 .none (.logCopy first.toNat count.toNat offset.toNat))) ∧
    (s.cmd.background.find? (fun g => g.opcode == 0x0A02#16) = some g → g.cmd = .logCopy i n o → s.copyWaits i n o = false →
      exec .logCopyDone s = .next ((State.copyLog n i o s).1.finishBackground g (State.copyLog n i o s).2 [])) ∧
    (s.Serves h 0x0A10 .none → exec (.fltInfo h) s = .next (s.replied h 0x0A10 0
      ([FLT_STATUS, FLT_MISMATCH, FLT_RECOVERED, FLT_HELDOUT, FLT_DEMOTED].flatMap (fun a => leBytes 4 (s.rd a).toNat))))

/-- The engine call slips of R504 complete where the Curator serves them and their conditions hold (R107, R116 to R118). ENG_BAY_CONFIG of
a bay that neither runs nor starts empties it when it changes a value; ENG_BAY_START and ENG_BAY_STOP mark the bay for the next boundary;
ENG_IMAGE_LOAD is accepted; ENG_PARAM_STAGE writes the staged copy in every core that runs the engine; ENG_INFO, ENG_PARAM_READ and
ENG_STATUS answer with what they name and change nothing else. Where the spec is silent it holds the model's choices of assumption log 39
(DESIGN CHOICE). -/
def Obligations.EngineCallSlips : Prop :=
  ∀ (s t u : State) (h : SlipHdr) (bay mode spareEn sparePair mask view : Byte) (engine offset : BitVec 16) (at_ : Word)
    (data : List Byte) (c : Nat) (img : Image),
    let b := bay.toNat
    let e := engine.toNat
    let o := offset.toNat
    let x := Header.of (s.stkBytes at_.toNat 64)
    let bays := List.range 64
    (s.Serves h 0x0300 .none → exec (.engInfo h) s = .next (s.replied h 0x0300 0
      ((List.range 5).flatMap (fun v => leBytes 1 (bays.countP (fun b => s.fld (ENG_BAY_STATUS.State b) == v))) ++
       leBytes 1 (bays.countP (fun b => s.fld (ENG_BAY_CFG.Mode b) == 1)) ++
       leBytes 2 (bays.countP (fun b => s.on (ENG_BAY_CFG.SpareEn b) && !s.on (ENG_BAY_STATUS.SpareActive b))) ++
       leBytes 2 ((bays.map (fun b => ones 4 (s.fld (ENG_BAY_STATUS.DemotedMask b)))).sum)))) ∧
    (s.Serves h 0x0301 (.bay b) → b < 64 → mode.toNat < 2 → spareEn.toNat ≤ mode.toNat → sparePair.toNat < 4 →
      s.fld (ENG_BAY_STATUS.State b) < 2 →
      ¬(mode.toNat = s.fld (ENG_BAY_CFG.Mode b) ∧ spareEn.toNat = s.fld (ENG_BAY_CFG.SpareEn b) ∧
        sparePair.toNat = s.fld (ENG_BAY_CFG.SparePair b)) →
      exec (.engBayConfig h bay mode spareEn sparePair) s = .next ((((((s.emptyBay b).setF (ENG_BAY_CFG.Mode b) mode.toNat).setF
        (ENG_BAY_CFG.SpareEn b) spareEn.toNat).setF (ENG_BAY_CFG.SparePair b) sparePair.toNat).markSpare b).replied h 0x0301 0 [])) ∧
    (s.Serves h 0x0303 (.bay b) → b < 64 → s.fld (ENG_BAY_STATUS.State b) = 1 →
      exec (.engBayStart h bay) s = .next ((s.setF (ENG_BAY_STATUS.State b) 2).replied h 0x0303 0 [])) ∧
    (s.Serves h 0x0304 (.bay b) → b < 64 → 2 ≤ s.fld (ENG_BAY_STATUS.State b) →
      exec (.engBayStop h bay) s = .next ((s.setF (ENG_BAY_STATUS.State b) 4).replied h 0x0304 0 [])) ∧
    (s.Serves h 0x0302 (.bay b) → b < 64 → mask ≠ 0#8 → s.badMask b mask.toNat = false → s.fld (ENG_BAY_STATUS.State b) < 2 →
      s.on FRM_STATUS.StagedFrozen = false → at_.toNat % 64 = 0 → 0x200000 ≤ at_.toNat → s.imageWaits b at_.toNat = false → s.imageHeader b at_.toNat = (u, x) →
      x.ok = true → at_.toNat + x.last ≤ 0x6000000 → u.imageGood b at_.toNat x = (t, true) →
      ¬(x.mode = 1 ∧ u.paired b = false ∨ x.mode = 2 ∧ u.paired b = true) → t.cmd.background.length < 8 → s.cmd = t.cmd →
      exec (.engImageLoad h bay mask at_) s = .next (t.started h 0x0302 (.bay b) (.imageLoad b mask.toNat at_.toNat))) ∧
    (s.Serves h 0x0305 .none → s.eng.copying = false → s.paramEngine e = some (c, some img) → s.fld (ENG_BAY_STATUS.State (e / 8)) ≠ 0 →
      s.on FRM_STATUS.StagedFrozen = false → o % 4 = 0 → data.length % 4 = 0 → 4 ≤ data.length → data.length ≤ 44 →
      o + data.length ≤ img.paramLength →
      exec (.engParamStage h engine offset data) s =
        .next ((s.each (s.cores c) (fun y u => u.dmPut y (u.paramAt y img true + o) data)).replied h 0x0305 0 [])) ∧
    (s.Serves h 0x0306 .none → s.paramEngine e = some (c, some img) → view.toNat < 2 → o < img.paramLength →
      exec (.engParamRead h engine offset view) s = .next (s.replied h 0x0306 0
        (padTo 16 (s.dmBytes c (s.paramAt c img (view == 1#8) + o) (min 16 (img.paramLength - o)))))) ∧
    (s.Serves h 0x0307 .none → e < 512 → (s.inPair e = false ∨ e % 2 = 0) →
      exec (.engStatus h engine) s = .next (s.replied h 0x0307 0
        ([ENG_E_STATUS e, ENG_E_PC e, ENG_E_FCAUSE e, ENG_E_FADDR e].flatMap (fun a => leBytes 4 (s.rd a).toNat))))

/-- The bays' register writes and events. A loaded image makes the bay LOADED with its Offset recorded; a phasor update ends the unit's
vote; a sort sets Busy, and its end writes the ranks to DMEM and sets Done; a single fault halts its engine for the frame; a repaired IMEM
is written anew from the image and ends its repair; a finished migration activates the spare pair. Rests on parts of R103, R106, R107,
R111, R114, R116, R145 to R149, R228. Where the spec is silent it holds the model's choices of assumption log 33 (DESIGN CHOICE) and 39
(DESIGN CHOICE). -/
def Obligations.BayEvents : Prop :=
  ∀ (s u : State) (b : Fin 64) (e : Fin 512) (i : Fin 8) (k : Fin 32) (w0 w1 v : Word) (g : Background) (mask o : Nat)
    (data : List (Option Byte)) (off : Fin 65536) (rest : List Nat) (bs : List Byte), s.Inv →
    let x := Header.of (s.stkBytes o 64)
    let bay := e.val / 8
    let n := s.sortEngine b i
    (s.phasorBusy b = true → s.phasorWaits b = false → s.eng.phasorVotes.Nodup →
      ∃ t, exec (.phasorUpdateDone b) s = .next t ∧ t.eng.regs = s.eng.regs ∧
        if s.dataInFlight b then b.val ∈ t.eng.phasorLate ∧ t.eng.phasorVotes = s.eng.phasorVotes else b.val ∉ t.eng.phasorVotes) ∧
    (s.fld (ENG_BAY_STATUS.State b) < 2 → ((ENG_BAY_CFG.SpareEn b).get v ≤ (ENG_BAY_CFG.Mode b).get v) →
      ∃ t, exec (.engBayCfgWrite b v) s = .next t ∧ t.fld (ENG_BAY_CFG.Mode b) = (ENG_BAY_CFG.Mode b).get v ∧
        t.fld (ENG_BAY_CFG.SpareEn b) = (ENG_BAY_CFG.SpareEn b).get v ∧ t.fld (ENG_BAY_CFG.SparePair b) = (ENG_BAY_CFG.SparePair b).get v ∧
        t.fld (ENG_BAY_CFG.NoSleep b) = (ENG_BAY_CFG.NoSleep b).get v) ∧
    (s.backgroundOf 0x0302 (.bay b) = some g → g.cmd = .imageLoad b mask o → x.setup = 0 → s.stkRead b o x.last = (u, .data bs) →
      exec (.imageLoadDone b) s = .next (((((u.each (u.loadTargets b mask) (fun c y => y.loadEngine o x c)).setF
        (ENG_BAY_STATUS.State b) 1).setF (ENG_BAY_IMAGE.Valid b) 1).setF (ENG_BAY_IMAGE.Offset b) (o / 64)).raise
        ENG_IRQ_STATUS.ImageLoaded |>.finishBackground g 0 (leBytes 4 x.crc))) ∧
    (s.fld (ENG_BAY_STATUS.State bay) ≠ 1 →
      exec (.engineWindowWrite e off data) s = .next (((if 2 ≤ s.fld (PWR_DOM.State (32 + bay)) then s.touchBay bay
        else s.voteDom (32 + bay) true).inc ENG_WINWR).raise ENG_IRQ_STATUS.WindowDiscard)) ∧
    (s.fld (ENG_BAY_STATUS.State bay) = 1 → s.paired bay = false → 2 ≤ s.fld (PWR_DOM.State (32 + bay)) → data = [some (0xA5#8)] →
      0x4000 ≤ off.val → off.val < 0xC000 →
      exec (.engineWindowWrite e off data) s = .next ((s.touchBay bay).dmPut e (off.val - 0x4000) [0xA5#8])) ∧
    (s.inPair e = false → s.bayRuns bay = true → s.level e ≠ 0 →
      ∃ t, exec (.singleFault e false) s = .next t ∧ t.level e = 0 ∧ t.fld (ENG_E_STATUS.HaltCause e) = 2 ∧
        t.on (ENG_BAY_STATUS.ImageRepair bay) = true ∧ t.on ENG_IRQ_STATUS.SingleFault = true) ∧
    (e.val ∈ s.eng.repairs → o = s.fld (ENG_BAY_IMAGE.Offset bay) * 64 → x.ok = true → s.stkRead bay o x.last = (u, .data bs) →
      s.imageCrc o x = BitVec.ofNat 32 x.crc → (s.port e).deferred = none → u.eng = s.eng →
      let left := s.eng.repairs.erase e.val
      exec (.imemRepairDone e) s = .next ((({ u with eng := { u.eng with repairs := left } }.setB (ENG_BAY_STATUS.ImageRepair bay)
        (left.any (fun c => decide (c / 8 = bay)))).raise ENG_IRQ_STATUS.ImageRepair).loadImem e o x)) ∧
    (s.on (BAYR_SS.Busy b n) = false → 0 < s.fld (BAYR_SD_CNT.Count b n) → s.fld (BAYR_SD_CNT.Count b n) ≤ 64 →
      s.fld (BAYR_SD_CNT.Format b n) < 3 →
      s.fld (BAYR_SD_KEY.KeyAddr b n) + s.fld (BAYR_SD_CNT.Count b n) * keyWidth (s.fld (BAYR_SD_CNT.Format b n)) ≤ 32768 →
      s.fld (BAYR_SD_RANK.RankAddr b n) + s.fld (BAYR_SD_CNT.Count b n) ≤ 32768 →
      ∃ t, exec (.sortStart b i) s = .next t ∧ t.on (BAYR_SS.Busy b n) = true ∧
        t.eng.sorts = tset (fun _ => []) s.eng.sorts b (s.sorting b ++ [n])) ∧
    (s.sorting b = i.val :: rest → s.paired b = false →
      ∃ t, exec (.sortDone b) s = .next t ∧ t.on (BAYR_SS.Done b i) = true ∧ t.on (BAYR_SS.Busy b i) = false ∧
        t.eng.dmem = (s.dmPut (8 * b.val + i.val) (s.fld (BAYR_SD_RANK.RankAddr b i)) ((List.range (s.fld (BAYR_SD_CNT.Count b i))).map
          (fun j => BitVec.ofNat 8 (rankOf (s.sortKeys (8 * b.val + i.val) b i) (s.on (BAYR_SD_CNT.Order b i)) j)))).eng.dmem) ∧
    (∃ t, exec (.phasorDescriptorWrite b k w0 w1) s = .next t ∧ (t.bin_ b k).restart = true ∧ t.eng.dmem = s.eng.dmem) ∧
    (∀ old spare, s.eng.moved.find? (fun m => m.1 / 8 == b.val) = some (old, spare) → s.on (ENG_BAY_STATUS.SpareActive b) = false →
      (Header.of (s.stkBytes (s.fld (ENG_BAY_IMAGE.Offset b) * 64) 64)).ok = true → s.eng.bad = [] → spare < 511 →
      s.imageWaits b (s.fld (ENG_BAY_IMAGE.Offset b) * 64) = false →
      s.imageGood b (s.fld (ENG_BAY_IMAGE.Offset b) * 64) (Header.of (s.stkBytes (s.fld (ENG_BAY_IMAGE.Offset b) * 64) 64)) = (u, true) →
      (u.port spare).deferred = none →
      ∃ t, exec (.migrationDone b) s = .next t ∧ t.on (ENG_BAY_STATUS.SpareActive b) = true ∧ t.on FLT_IRQ_STATUS.Migrated = true ∧
        t.eng.moved = u.eng.moved)

/-- Power domains, deep sleep, PFAIL_N and the AON registers. A bay without a vote dozes and may sleep, an idle domain loses power, the
inrush sequencer grants the first that waits; PFAIL_N starts its drain and its end starts sealing; standby and deep sleep are entered in
STOPPED only; a vote, a timer, the watchdog's settings, a backup or a retained word is written as its call slip names it. Rests on parts
of R122, R123, R206, R509, R515, R518 to R524, R526, R528, R529, R531, R535, R536, R546, R556. Where the spec is silent it holds the
model's choices of assumption log 36 (DESIGN CHOICE) and 56 (DEDUCED). -/
def Obligations.PowerAndSleepAct : Prop :=
  (∀ (s : State) (b : Fin 64) (d : Fin 96) (x : Nat × Bool), s.Inv →
    (s.domVotes (32 + b.val) = 0 → s.fld (ENG_BAY_STATUS.Power b) = 0 →
      ∃ t, exec (.bayDoze b) s = .next t ∧ t.fld (PWR_DOM.State (32 + b.val)) = 2 ∧ t.fld (ENG_BAY_STATUS.Power b) = 1 ∧
        t = { s with regs := t.regs }) ∧
    (s.domVotes (32 + b.val) = 0 → s.on PWR_STATUS.Standby = true ∨ 500 ≤ s.idleTicks (32 + b.val) ∧ s.on (ENG_BAY_CFG.NoSleep b) = false →
      s.fld (ENG_BAY_STATUS.Power b) < 2 →
      ∃ t, exec (.baySleep b) s = .next t ∧ t.fld (PWR_DOM.State (32 + b.val)) = 0 ∧ t.fld (ENG_BAY_STATUS.Power b) = 2 ∧
        t = { s with regs := t.regs, eng := { s.eng with regs := t.eng.regs } } ∧ (∀ c, c / 8 ≠ b.val → t.core c = s.core c) ∧
        ∀ c, c / 8 = b.val → (t.core c).pc = (s.core c).pc ∧ ∀ r, (t.core c).rg r = 0#32) ∧
    (s.on PWR_STATUS.Standby = false → s.on (ENG_BAY_CFG.NoSleep b) = true ∨ s.idleTicks (32 + b.val) < 500 →
      exec (.baySleep b) s = .next s) ∧
    (d.val < 32 → gateable d = true → s.domVotes d = 0 → s.fld PWR_IDLE.Ticks ≤ s.idleTicks d → 2 ≤ s.fld (PWR_DOM.State d) →
      ∃ t, exec (.domainIdleTimeout d) s = .next t ∧ t.fld (PWR_DOM.State d) = 0 ∧ t = { s with regs := t.regs }) ∧
    (0 < s.domVotes d → exec (.domainIdleTimeout d) s = .next s) ∧
    (s.pwr.inrush = [x] → x.2 = true → x.1 < 96 → x.1 ∉ s.pwr.granted →
      ∃ t, exec .inrushGrant s = .next t ∧ t.fld (PWR_DOM.State x.1) = 1 ∧ t.pwr.inrush = [] ∧ t.pwr.granted = s.pwr.granted ++ [x.1])) ∧
  (∀ (s : State) (h : SlipHdr) (b : Fin 96) (d : Fin 96) (dom on en mode i temp : Byte) (ticks v : Word) (off : BitVec 16)
    (data : List Byte) (source : Fin 6) (up flag : Bool), s.Inv →
    let slept (t : State) : Prop := t.rst.stage = .sealing ∨ t.rst.stage = .sealingLow ∨ t.rst.stage = .asleep
    let moved (t : State) : Prop := t.rst.stage = .draining ∧ t.on PWR_STATUS.Entering = true
    let free (t : State) : Prop := t.on PWR_STATUS.Standby = false ∧ t.on PWR_CTRL.Standby = false
    -- PFAIL_N and sealing
    (s.on PWR_STATUS.Pfail = false → s.rst.phase = .none → s.rst.stage ≠ .asleep → s.rst.pfail = false → ∃ t,
      exec (.pfail true) s = .next t ∧ t.on PWR_STATUS.Pfail = true ∧ t.rst.stage = .pfailDrain ∧ t.rst.pfail = true ∧
        t.on PWR_STATUS.Entering = true ∧ t.on PWR_IRQ_STATUS.Pfail = true ∧ (s.on EDG_HOLD.PfailHold = true → t.on EDG_HOLD.State = true)) ∧
    (s.rst.stage ≠ .asleep ∨ (s.fld PWR_WAKEEN.Enable).testBit 5 = false →
      exec (.pfail false) s = .next ((s.setF PWR_STATUS.Pfail 0).setF EDG_STATUS.Pfail 0)) ∧
    (s.rst.stage = .asleep → (s.fld PWR_WAKEEN.Enable).testBit 5 = true → ∃ t, exec (.pfail false) s = .next t ∧
      t.rst.stage = .awake ∧ t.fld PWR_WAKE.Source = 6) ∧
    (s.on PWR_STATUS.Pfail = false → s.rst.phase ≠ .none ∨ s.rst.stage = .asleep → ∃ t, exec (.pfail true) s = .next t ∧
      t.on PWR_STATUS.Pfail = true ∧ t.rst = s.rst ∧ t.on EDG_HOLD.State = s.on EDG_HOLD.State) ∧
    (s.rst.stage = .pfailDrain → (∀ p ∈ s.eng.ports, p.2.sb = []) → s.moversStopped = true → ∃ t, exec .pfailDrainDone s = .next t ∧ slept t ∧
      ∀ m, (t.mover m).job = .idle) ∧
    (s.rst.stage = .pfailDrain → ∃ t, exec .pfailDrainTimeout s = .next t ∧ slept t ∧ (∀ m, (t.mover m).job = .idle) ∧
      ∀ e, (t.port e).sb = []) ∧
    (s.rst.stage ≠ .pfailDrain → exec .pfailDrainDone s = .next s ∧ exec .pfailDrainTimeout s = .next s) ∧
    (s.bankState b ≠ 3 → exec (.sealComplete b) s = .next s) ∧
    (s.bankState b = 3 → s.rst.stage = .awake → s.rst.toSeal = [] → ∃ t, exec (.sealComplete b) s = .next t ∧ t.bankState b = 4 ∧
      t.rd64 (STK_SEAL_LO b) (STK_SEAL_HI b) = (s.sealOf b).toNat ∧ (s.stk.ecc = [] → t = { s with regs := t.regs, stk := { s.stk with grants := t.stk.grants } })) ∧
    -- standby and deep sleep
    (s.sched = 0 → ∃ t, exec (.standbyWrite true) s = .next t ∧ t.on PWR_STATUS.Standby = true) ∧
    (s.sched ≠ 0 → exec (.standbyWrite true) s = .next (s.setF PWR_STATUS.SleepRefused 1)) ∧
    (∃ t, exec (.standbyWrite false) s = .next t ∧ free t) ∧
    (s.sched = 0 → s.holdAsserted = true → s.rst.stage = .awake → ∃ t, exec .sleepWrite s = .next t ∧ moved t) ∧
    (s.sched ≠ 0 ∨ s.holdAsserted = false → exec .sleepWrite s = .next (s.setF PWR_STATUS.SleepRefused 1)) ∧
    (s.Serves h 0x0803 .none → s.sched = 0 → mode = 0#8 → ∃ t : State, exec (.pwrSleep h mode ticks) s = .next (t.replied h 0x0803 0 []) ∧
      t.on PWR_STATUS.Standby = true ∧ (ticks ≠ 0#32 → t.rd PWR_AOTIMER = ticks)) ∧
    (s.Serves h 0x0803 .none → s.sched = 0 → mode = 1#8 → s.holdAsserted = true → s.rst.stage = .awake → ∃ t : State,
      exec (.pwrSleep h mode ticks) s = .next (t.replied h 0x0803 0 []) ∧ moved t ∧ (ticks ≠ 0#32 → t.rd PWR_AOTIMER = ticks)) ∧
    (s.Serves h 0x0803 .none → s.sched ≠ 0 → mode.toNat ≤ 1 →
      exec (.pwrSleep h mode ticks) s = .next (s.replied h 0x0803 0x0204 [])) ∧
    (s.rst.stage = .draining → s.sleepReady = true → ∃ t, exec .sleepDrainDone s = .next t ∧ slept t) ∧
    (s.rst.stage ≠ .draining ∨ s.sleepReady = false → exec .sleepDrainDone s = .next s) ∧
    (s.rst.stage = .draining → ∃ t, exec .sleepEntryTimeout s = .next t ∧ t.rst.stage = .awake ∧ t.on PWR_STATUS.Entering = false ∧
      t.on PWR_IRQ_STATUS.SleepAborted = true) ∧
    (s.rst.stage ≠ .draining → exec .sleepEntryTimeout s = .next s) ∧
    (s.rst.stage = .asleep → (s.fld PWR_WAKEEN.Enable).testBit source = true → (source.val = 1 → s.rst.wakeLanes ≠ []) → ∃ t,
      exec (.deepSleepWake source) s = .next t ∧ t.rst.stage = .awake ∧ t.fld PWR_WAKE.Source = source.val + 1 ∧
        t.rst.woke = some (source.val + 1, s.rst.sleepTicks)) ∧
    (s.rst.stage ≠ .asleep ∨ (s.fld PWR_WAKEEN.Enable).testBit source = false → exec (.deepSleepWake source) s = .next s) ∧
    -- timers, votes and measurements
    (s.Serves h 0x0804 .none → exec (.aoTimerSet h ticks) s = .next ((s.wr PWR_AOTIMER ticks).replied h 0x0804 0 [])) ∧
    (s.rd PWR_AOTIMER ≠ 0#32 → ∃ t, exec .aoTimerExpiry s = .next t ∧ t.rd PWR_AOTIMER = 0#32 ∧ t.on PWR_IRQ_STATUS.AoTimer = true ∧
      (s.rst.standbyTimer = true → free t)) ∧
    (s.rd PWR_AOTIMER = 0#32 → exec .aoTimerExpiry s = .next s) ∧
    (s.Serves h 0x0800 .none → exec (.pwrInfo h) s = .next (s.replied h 0x0800 0
      (leBytes 12 (((List.range 96).filter (fun d => s.fld (PWR_DOM.State d) != 0)).map (fun d => 2 ^ d)).sum ++
        leBytes 1 (s.fld PWR_WAKE.Source) ++ leBytes 3 0 ++ leBytes 4 (s.rd PWR_WAKE_TICKS).toNat))) ∧
    (s.Serves h 0x0801 .none → dom.toNat ≤ 95 → exec (.pwrDomainRead h dom) s = .next (s.replied h 0x0801 0
      (leBytes 1 (s.domState dom.toNat) ++ leBytes 1 (min 255 (s.domVotes dom.toNat)) ++ leBytes 2 0 ++
        leBytes 4 (s.rd (PWR_DOMWAKE dom.toNat)).toNat))) ∧
    (s.Serves h 0x0802 .none → dom.toNat ≤ 95 → on.toNat ≤ 1 → ∃ t : State, exec (.pwrHold h dom on) s = .next (t.replied h 0x0802 0 []) ∧
      t.on (PWR_DOM.Hold dom.toNat) = (on == 1#8)) ∧
    (∃ t, exec (.pwrDomHoldWrite d flag) s = .next t ∧ t.on (PWR_DOM.Hold d) = flag ∧
      (flag = true → s.fld (PWR_DOM.State d) = 2 → t.fld (PWR_DOM.State d) = 3)) ∧
    (s.rst.optionsRead = true → s.rst.stage ≠ .asleep → s.rst.avsWait = 0 → s.fld PWR_AVS.Target ≤ 20 → exec (.avsStep up) s =
      .next { (s.setF PWR_AVS.Target (if up = true then (if s.fld PWR_AVS.Target = 20 then 20 else s.fld PWR_AVS.Target + 1)
        else s.fld PWR_AVS.Target - 1)) with rst := { s.rst with avsWait := 100 } }) ∧
    (s.rst.optionsRead = false ∨ s.rst.stage = .asleep ∨ s.rst.avsWait ≠ 0 → exec (.avsStep up) s = .next s) ∧
    (s.on PWR_STATUS.CoreGood = true → exec (.tempSample temp) s = .next ((s.setF MNT_TEMP.Temp temp.toNat).setF MNT_TEMP.Valid 1)) ∧
    (s.on PWR_STATUS.CoreGood = false → exec (.tempSample temp) s = .next ((s.setF MNT_TEMP.Temp 0x80).setF MNT_TEMP.Valid 0)) ∧
    -- the watchdog and the AON registers
    (s.Serves h 0x0805 .none → 100000 ≤ ticks.toNat → ticks.toNat ≤ 4000000000 → en.toNat ≤ 1 → ∃ t : State,
      exec (.wdtConfig h ticks en) s = .next (t.replied h 0x0805 0 []) ∧ t.rd RST_WDT_TO = ticks ∧ t.on RST_WDT_CFG.Enable = (en == 1#8) ∧
        (en = 1#8 → s.on RST_WDT_CFG.Enable = false → t.rd RST_WDT_COUNT = 0#32) ∧ t = { s with regs := t.regs }) ∧
    (s.Serves h 0x0806 .none → exec (.wdtKick h) s = .next ((s.wr RST_WDT_COUNT 0#32).replied h 0x0806 0 [])) ∧
    (exec (.wdtKickWrite v) s = .next (if v.toNat % 65536 = 0x5A5A then s.wr RST_WDT_COUNT 0#32 else s)) ∧
    (s.Serves h 0x0808 .none → exec (.rstCause h) s = .next (s.replied h 0x0808 0 (leBytes 4 (s.rd RST_CAUSE).toNat ++
      leBytes 4 (s.rd RST_CAUSE_ALL).toNat ++ leBytes 2 (s.fld RST_EPISODES.Count)))) ∧
    (s.Serves h 0x0809 .none → i.toNat ≤ 15 → exec (.backupRead h i) s =
      .next (s.replied h 0x0809 0 (leBytes 4 (s.rd (RST_BACKUP i.toNat)).toNat))) ∧
    (s.Serves h 0x080A .none → i.toNat ≤ 15 → exec (.backupWrite h i v) s =
      .next ((s.wr (RST_BACKUP i.toNat) v).replied h 0x080A 0 [])) ∧
    (s.Serves h 0x080B .none → off.toNat % 16 = 0 → off.toNat ≤ 8176 → exec (.retainedRead h off) s = .next (s.replied h 0x080B 0
      ((List.range 4).flatMap (fun k => leBytes 4 (s.rd (RST_RETAINED (off.toNat / 4 + k))).toNat)))) ∧
    (s.Serves h 0x080C .none → off.toNat % 16 = 0 → off.toNat ≤ 8176 → data.length = 16 → ∃ t : State,
      exec (.retainedWrite h off data) s = .next (t.replied h 0x080C 0 []) ∧ t = { s with regs := t.regs } ∧
        (List.range 4).flatMap (fun k => leBytes 4 (t.rd (RST_RETAINED (off.toNat / 4 + k))).toNat) = data ∧
        ∀ k < 2048, (k < off.toNat / 4 ∨ off.toNat / 4 + 4 ≤ k) → t.rd (RST_RETAINED k) = s.rd (RST_RETAINED k)) ∧
    (s.Serves h 0x080D .none → off.toNat % 16 = 0 → off.toNat ≤ 4080 → exec (.optRead h off) s =
      .next (s.replied h 0x080D 0 ((List.range 16).map (fun k =>
        BitVec.ofNat 8 ((s.otpWord ((off.toNat + k) / 4)).toNat / 2 ^ (8 * ((off.toNat + k) % 4))))))))

/-- The frame and edition call slips of R66, R68 and R504 complete where the Curator serves them and their checks pass (R32, R33, R51,
R52, R56, R64): FRAME_CONFIG sets the seven fields, FRAME_START arms the scheduler and ends standby, FRAME_STOP with HOLD_N asserted stops
at the next boundary, a node-only EDITION_COMMIT freezes the staged edition and arms its swap, a system-wide one sends PREPARE and is
accepted, and the others answer or act as they say. Where the spec is silent it holds the model's choices of assumption log 32 (DESIGN
CHOICE), 47 (DESIGN CHOICE) and 48 (DESIGN CHOICE). -/
def Obligations.FrameAndEditionCallSlips : Prop :=
  ∀ (s : State) (h : SlipHdr) (S F : Dword) (period gather compute stage prewake shguard E M : Word) (guard : Byte) (c : Commit),
    s.Inv →
    let G := s.fld FRM_GUARD.Guard
    let id := s.frm.lastCommitId + 1#32
    let inRun := s.sched = 2 ∧ s.on PWR_STATUS.Pfail = false ∧ s.rst.pfail = false ∧ s.on FRM_STATUS.CommitInFlight = false
    (s.Serves h 0x0100 .none → exec (.frameInfo h) s = .next (s.replied h 0x0100 0
      (leBytes 4 (s.fld FRM_STATUS.State + 4 * s.fld FRM_STATUS.HeldCause + 4096 * s.fld FRM_PERIOD.Period) ++
       leBytes 8 (s.now / s.fld FRM_PERIOD.Period) ++ leBytes 4 (s.rd FRM_EDITION).toNat ++ leBytes 4 (s.rd FRM_STAGED).toNat))) ∧
    (s.Serves h 0x0101 .none → s.sched = 0 → 2000 ≤ period.toNat → period.toNat ≤ 1000000 → 2 ≤ guard.toNat → guard.toNat ≤ 64 →
      gather.toNat < 2 ^ 20 → compute.toNat < 2 ^ 20 → stage.toNat < 2 ^ 20 → prewake.toNat < 2 ^ 20 → shguard.toNat < 2 ^ 20 →
      ∃ t : State, exec (.frameConfig h period gather compute stage prewake shguard guard) s = .next (t.replied h 0x0101 0 []) ∧
        t = { s with regs := t.regs } ∧ t.fld FRM_PERIOD.Period = period.toNat ∧ t.fld FRM_GATHER.Offset = gather.toNat ∧
        t.fld FRM_COMPUTE.Offset = compute.toNat ∧ t.fld FRM_STAGE.Offset = stage.toNat ∧ t.fld FRM_PREWAKE.Offset = prewake.toNat ∧
        t.fld FRM_SHGUARD.Offset = shguard.toNat ∧ t.fld FRM_GUARD.Guard = guard.toNat) ∧
    (s.Serves h 0x0102 .none → s.rst.stage ≠ .draining → s.sched = 0 → s.on FAB_STATUS.TimeLocked = true →
      (s.on FAB_STATUS.Timekeeper = true ∨ ∀ p, s.fab.parentPeriod = some p → p = s.fld FRM_PERIOD.Period) → s.scheduleOk = true →
      s.now / s.fld FRM_PERIOD.Period + 1 < S.toNat →
      ∃ t : State, exec (.frameStart h S) s = .next (t.replied h 0x0102 0 []) ∧ t.sched = 1 ∧ t.on PWR_STATUS.Standby = false ∧
        t.rd64 FRM_START_LO FRM_START_HI = S.toNat ∧
        t = { s with regs := t.regs, frm := { s.frm with startFrame := S.toNat, stopping := false } }) ∧
    (s.Serves h 0x0103 .none → 2 ≤ s.sched → s.on EDG_HOLD.State = true →
      exec (.frameStop h) s = .next (({ s with frm := { s.frm with stopping := true } } : State).replied h 0x0103 0 [])) ∧
    (s.Serves h 0x0110 .none → exec (.editionInfo h) s = .next (s.replied h 0x0110 0
      (leBytes 4 (s.rd FRM_EDITION).toNat ++ leBytes 4 (s.rd FRM_STAGED).toNat ++ leBytes 7 (s.rd64 FRM_TARGET_LO FRM_TARGET_HI) ++
       leBytes 1 (s.fld FRM_STATUS.StagedFrozen + 2 * s.fld FRM_COMMIT.System + 4 * s.fld FRM_COMMIT.IsCoordinator +
         8 * s.fld FRM_COMMIT.Phase) ++ leBytes 4 s.frm.targetId.toNat))) ∧
    (s.Serves h 0x0111 .none → inRun → s.roster.length ≤ 1 → s.now / s.fld FRM_PERIOD.Period + G < F.toNat → E = s.rd FRM_STAGED →
      ∃ t : State, exec (.editionCommit h false F E) s = .next (t.replied h 0x0111 0
          (leBytes 4 E.toNat ++ leBytes 8 F.toNat ++ leBytes 2 1 ++ leBytes 2 0 ++ leBytes 2 0xFFFF)) ∧
        t.on FRM_STATUS.SwapArmed = true ∧ t.on FRM_STATUS.StagedFrozen = true ∧ t.on FRM_STATUS.CommitInFlight = true ∧
        t.rd64 FRM_TARGET_LO FRM_TARGET_HI = F.toNat ∧ t.fld FRM_COMMIT.Phase = 2 ∧ t.fld FRM_COMMIT.Guard = G % 128 ∧
        t.frm.lastCommitId = id ∧ t = { s with regs := t.regs, frm := t.frm }) ∧
    (s.Serves h 0x0111 .none → inRun → E = s.rd FRM_STAGED → s.now / s.fld FRM_PERIOD.Period + 2 * G + 2 ≤ F.toNat →
      s.cmd.background.length < 8 →
      let parts := if s.on FAB_STATUS.Member then s.roster else [s.nodeId]
      let c : Commit := ⟨id, E, s.rd FAB_EPOCH, parts, [s.nodeId], [], [], false, some h⟩
      let t := s.openCommit c s.nodeId F.toNat G 1 true true
      exec (.editionCommit h true F E) s = .next ((({ t with frm := { t.frm with lastCommitId := id } } : State).sendParticipants c
        1).commitAcked.started h 0x0111 .none .commit)) ∧
    (s.Serves h 0x0112 .none → s.frm.commit = none → exec (.editionAbort h) s = .next (s.replied h 0x0112 0 [])) ∧
    (s.Serves h 0x0112 .none → s.frm.commit = some c → s.on FRM_COMMIT.IsCoordinator = true → c.goSent = false →
      exec (.editionAbort h) s = .next ((s.commitAbort c c.firstUnacked 0).replied h 0x0112 0 [])) ∧
    (s.Serves h 0x0113 .none → s.now / s.fld FRM_PERIOD.Period + 2 < F.toNat → s.sched = 2 →
      exec (.editionAdopt h M F) s = .next (({ s with frm := { s.frm with adopt := some (M, F) } } : State).replied h 0x0113 0 [])) ∧
    (s.Serves h 0x0114 .none → s.on FRM_STATUS.StagedFrozen = false →
      let t := (if s.on CAT_STATUS.CopyBusy then s else s.unstageAll).revertEdge.revertDma
      exec (.editionRevert h) s = .next (({ t with eng := { t.eng with copying := true } } : State).replied h 0x0114 0 []))

/-- The frame scheduler's register writes and events. A start arms the scheduler, a stop from ARMED stops it and one from RUN waits for
its boundary; the guard window opens at its instant; a pending step moves STIME; gather end, pre-vote and compute-start happen once in a
frame; a boundary ends the frame before it, then lets commits, swaps, adoptions and rejoining act in that order, then turns the bays and
begins the next frame, its log entries in ascending Event code (R241). Rests on parts of R25 to R49, R120. Where the spec is silent it
holds the model's choices of assumption log 32 (DESIGN CHOICE), 47 (DESIGN CHOICE) and 48 (DESIGN CHOICE). -/
def Obligations.FrameSchedulerEvents : Prop :=
  ∀ (s : State) (d : Int), s.Inv →
    let S := s.rd64 FRM_START_LO FRM_START_HI
    (s.rst.stage ≠ .draining → s.sched = 0 → s.on FAB_STATUS.TimeLocked = true →
      (s.on FAB_STATUS.Timekeeper = true ∨ ∀ p, s.fab.parentPeriod = some p → p = s.fld FRM_PERIOD.Period) → s.scheduleOk = true →
      s.now / s.fld FRM_PERIOD.Period + 1 < S →
      ∃ t, exec .frmCtrlStart s = .next t ∧ t.sched = 1 ∧ t.on PWR_STATUS.Standby = false ∧
        t = { s with regs := t.regs, frm := { s.frm with startFrame := S, stopping := false } }) ∧
    (2 ≤ s.sched → s.on EDG_HOLD.State = true →
      exec .frmCtrlStop s = .next { s with frm := { s.frm with stopping := true } }) ∧
    (s.sched = 1 → ∃ t, exec .frmCtrlStop s = .next t ∧ t.sched = 0 ∧ t.on FRM_STATUS.FirstFrameDone = false ∧
      t.on FRM_STATUS.InGuardWindow = false ∧ t = { s with regs := t.regs, frm := { s.frm with
        stopping := false, firstFrame := false, stopHeld := false, latches := if s.on FRM_STATUS.StagedFrozen then s.frm.latches else [] } }) ∧
    (∃ t, exec .frmCtrlClearSlackMin s = .next t ∧ t.rd FRM_SLACK_MIN = 0xFFFFFFFF#32 ∧ (∀ a ≠ FRM_SLACK_MIN, t.rd a = s.rd a) ∧
      t = { s with regs := t.regs }) ∧
    (1 ≤ s.sched → ∃ t, exec .guardWindowOpen s = .next t ∧ t.on FRM_STATUS.InGuardWindow = true ∧
      (s.nextBoundary * s.fld FRM_PERIOD.Period < 2 ^ 64 →
        s.nextBoundary * s.fld FRM_PERIOD.Period - s.fld FRM_SHGUARD.Offset ≤ t.now)) ∧
    (s.time.step = some d → s.sched = 0 ∨ s.sched = 3 →
      -- d in picoseconds; STIME keeps 16 bits of fraction
      let n := (65536 * (s.now : Int) + s.time.frac.toNat + 65536 * d / 1000).toNat
      ∃ t, exec .timeStep s = .next t ∧ t.time.step = none ∧ t.time.stime = BitVec.ofNat 64 (n / 65536) ∧
        t.time.frac = BitVec.ofNat 16 n) ∧
    (2 ≤ s.sched → s.frm.gathered = false →
      let u := (s.atLeast (s.frm.last * s.period + s.fld FRM_GATHER.Offset)).absentCheck
      ∃ t, exec .gatherEnd s = .next t ∧ t.frm.gathered = true ∧
        ∀ b < 64, u.bayState b = 3 → (∃ k < 32, u.on (BAYR_PH_W0.Enable b k) = true) → b ∈ t.eng.phasorVotes) ∧
    (2 ≤ s.sched → s.frm.voted = false → ∃ t, exec .preVote s = .next t ∧ t.frm.voted = true ∧
      ∀ b < 64, s.bayRuns b = true → b ∈ t.eng.frameVotes) ∧
    (2 ≤ s.sched → s.frm.computed = false → ∃ t, exec .computeStart s = .next t ∧ t.frm.computed = true ∧ t.frm.last = s.frm.last) ∧
    (s.frm.released = false → s.releaseWaits (s.frm.last - 1) = false →
      let r : State := { (s.atLeast (s.frm.last * s.period + 200)) with frm := { s.frm with released := true } }
      let t := r.readLate (r.frm.last - 1)
      let u := (t.releaseFrame (t.frm.last - 1)).chansOut (t.frm.last - 1)
      let v := if u.on EDG_STATUS.FuseMode && u.rd FRM_EDITION != 0#32 then u.setF EDG_STATUS.FuseMode 0 else u
      exec .release s = .next (State.ingressDrain v.cat.waiting.length (v.edgeRelease (s.frm.last * s.period + 200)))) ∧
    (s.sched = 1 → ∃ t, exec .boundary s = .next t ∧ t.frm.last = s.nextBoundary) ∧
    (2 ≤ s.sched → s.frm.jump ≤ s.frm.last + 1 → exec .boundary s = .next (s.inOneCycle (fun s =>
      let n := s.frm.last + 1
      let a := (s.atLeast (n * s.period)).frameEnds n
      let b := (a.wr CAT_INGRESS (BitVec.ofNat 32 a.cat.busy)).chansHold.edgeBoundary
      let c := if b.frm.firstFrame then ({ b with frm := { b.frm with firstFrame := false } } : State).setF FRM_STATUS.FirstFrameDone 1
        else b
      let d : State := { c with frm := { c.frm with last := n, lastAt := n * s.period, released := false, stopHeld := false, jump := 0 } }
      let f := ((((d.commitDeadlines n).swapDue n).adoptDue n).rejoinDue n).setF FRM_STATUS.InGuardWindow 0
      let g := (((if f.on FRM_STATUS.StagedFrozen then f else f.latchesEnter).baysTurn).allBaysEdge 10).curEdge 2
      if g.frm.stopping then g.enterStopped else g.frameBegins n)))

/-- The commit messages, each of a commit not seen before (R352). A participant answers a PREPARE it accepts with ACK and is PREPARED, a
GO stamped before boundary F − G arms its swap and records the margin and a later one is counted, an ABORT ends its part; the coordinator
records ACK, DONE and MISSED, and a NACK before GO aborts. Rests on parts of R53 to R61. Where the spec is silent it holds the model's
choices of assumption log 32 (DESIGN CHOICE), 47 (DESIGN CHOICE) and 48 (DESIGN CHOICE). -/
def Obligations.CommitMessagesAct : Prop :=
  ∀ (s : State) (m : CommitMsg) (c : Commit) (stamp : Dword),
    let own (x : Byte) : CommitMsg := { m with reason := x, sender := BitVec.ofNat 10 s.nodeId }
    -- the message is taken from the inbox and remembered
    let taken (type : Nat) : State :=
      let t := s.popInbox ftCommit
      { t with frm := { t.frm with seen := t.frm.seen ++ [(type, m.sender.toNat, m.commitId.toNat)] } }
    let fresh (type : Nat) := (type, m.sender.toNat, m.commitId.toNat) ∉ s.frm.seen
    let known := s.frm.commit = some c ∧ c.id = m.commitId ∧ s.fld FRM_COMMIT.Coordinator = m.coordinator.toNat
    let coordinates := known ∧ s.on FRM_COMMIT.IsCoordinator = true ∧ c.goSent = false
    let prepared := known ∧ s.on FRM_COMMIT.IsCoordinator = false ∧ s.fld FRM_COMMIT.Phase = 1
    let deadline := (s.target - s.commitGuard) * s.period
    (fresh 1 → s.sched = 2 → s.on PWR_STATUS.Pfail = false → s.rst.pfail = false → m.epoch = s.rd FAB_EPOCH → s.on FRM_STATUS.CommitInFlight = false →
      m.edition = s.rd FRM_STAGED → s.frame + 2 * m.guard.toNat < m.target.toNat →
      exec (.cmPrepare m) s = .next (((taken 1).openCommit ⟨m.commitId, m.edition, m.epoch, [], [], [], [], false, none⟩
        m.coordinator.toNat m.target.toNat m.guard.toNat 1 true false).sendCommit m.coordinator.toNat 2 (own 0#8))) ∧
    (fresh 1 → s.sched ≠ 2 →
      exec (.cmPrepare m) s = .next ((taken 1).sendCommit m.coordinator.toNat 3 (own 1#8))) ∧
    (fresh 2 → coordinates → exec (.cmAck m) s =
      .next ((((taken 2).setCommit (some { c with acks := addOnce c.acks m.sender.toNat })).commitCheck false).commitAcked)) ∧
    (fresh 3 → coordinates → exec (.cmNack m) s = .next ((taken 3).commitAbort c m.sender.toNat m.reason.toNat)) ∧
    (fresh 4 → prepared → stamp.toNat < deadline → exec (.cmGo m stamp) s =
      .next ((((taken 4).setF FRM_STATUS.SwapArmed 1).setF FRM_COMMIT.Phase 2).wr FRM_LASTGO
        (BitVec.ofNat 32 (min 0xFFFFFFFF (deadline - stamp.toNat))))) ∧
    (fresh 4 → prepared → deadline ≤ stamp.toNat → exec (.cmGo m stamp) s = .next ((taken 4).inc FRM_LATEGO)) ∧
    (fresh 4 → known → s.on FRM_COMMIT.IsCoordinator = false → s.fld FRM_COMMIT.Phase = 5 → deadline ≤ stamp.toNat →
      exec (.cmGo m stamp) s = .next ((taken 4).inc FRM_LATEGO)) ∧
    (fresh 4 → s.frm.commit = none → exec (.cmGo m stamp) s = .next ((s.popInbox ftCommit).inc FRM_STALEMSG)) ∧
    (fresh 5 → prepared → exec (.cmAbort m) s =
      .next ((((taken 5).setF FRM_COMMIT.Phase 4).setF FRM_STATUS.CommitInFlight 0).unfreeze.setCommit none)) ∧
    (fresh 6 → known → exec (.cmDone m) s =
      .next (((taken 6).setCommit (some { c with dones := addOnce c.dones m.sender.toNat })).commitFinal false)) ∧
    (fresh 7 → known → exec (.cmMissed m) s =
      .next (((taken 7).setCommit (some { c with missed := addOnce c.missed m.sender.toNat })).commitFinal false)) ∧
    ((1, m.sender.toNat, m.commitId.toNat) ∈ s.frm.seen → exec (.cmPrepare m) s = .next ((s.popInbox ftCommit).inc FAB_DUPMSG))

/-- The catalogue call slips complete where the Curator serves them and no copy-in is under way: each reports what R97 says, stages words
0 to 6 in the pool (or a disabled context for each ID of a range), drops a staged change, clears the status words, checks the staged
catalogue, or takes up to four events from the queue. Rests on parts of R71, R93, R97, R98, R505. Where the spec is silent it holds the
model's choices of assumption log 17 (DEDUCED) and 50 (DESIGN CHOICE). -/
def Obligations.CatalogueCallSlipsComplete : Prop :=
  ∀ (s u : State) (bs : List Byte) (h : SlipHdr) (id first count : BitVec 16) (n : Word) (q v : Byte) (w : List Word), s.Inv →
    s.on CAT_STATUS.CopyBusy = false →
    let frozen := s.on FRM_STATUS.StagedFrozen
    (s.Serves h 0x0200 .none → exec (.catInfo h) s = .next (s.replied h 0x0200 0
      (leBytes 4 s.enabledCount ++ leBytes 2 (s.fld CAT_POOL.Used) ++ leBytes 1 (s.fld CAT_STATUS.Live)))) ∧
    (s.Serves h 0x0201 .none → q.toNat ≤ 3 → v.toNat ≤ 1 →
      let t := s.notePortB 1
      let words := (List.range 4).flatMap (fun i => leBytes 4 (s.ctxViewWord id.toNat (4 * q.toNat + i) (v == 1#8)).toNat)
      -- words 0 to 6 of a staged change are read from its pool copy in Stacks
      (v = 0#8 ∨ s.pending7 id.toNat = false ∨ 2 ≤ q.toNat → exec (.catRead h id q v) s = .next (t.replied h 0x0201 0 words)) ∧
      (v = 1#8 → s.pending7 id.toNat = true → q.toNat < 2 → s.readWaits 71 (64 * s.poolIndex id.toNat + 16 * q.toNat) 16 = false →
        t.stkRead 71 (64 * s.poolIndex id.toNat + 16 * q.toNat) 16 = (u, .data bs) →
        exec (.catRead h id q v) s = .next (u.replied h 0x0201 0 words))) ∧
    (s.Serves h 0x0202 .none → cut (ctxOf w).w5 5 0 = 0 → frozen = false → (ctxOf w).range = false → (ctxOf w).invalid = false →
      (ctxOf w).badBuffer = false → (s.pending7 id.toNat = true ∨ s.pendingIds.length < 4096) →
      ∃ t : State, exec (.catStage h id w) s = .next (t.replied h 0x0202 0 []) ∧ t = (s.stageContext id.toNat w).countPool ∧
        t.pending7 id.toNat = true ∧ (s.pending7 id.toNat = true → t.poolIndex id.toNat = s.poolIndex id.toNat) ∧
        t.ctxStored id.toNat = s.ctxStored id.toNat ∧ ∀ j ≠ id.toNat, ∀ k < 16, t.catWord j k = s.catWord j k) ∧
    (s.Serves h 0x0203 .none → 0 < count.toNat → count.toNat ≤ 4096 → first.toNat + count.toNat ≤ 65536 → frozen = false →
      let ids := (List.range count.toNat).map (· + first.toNat)
      s.pendingIds.length + (ids.filter (fun i => !s.pending7 i)).length ≤ 4096 →
      exec (.catStageDisable h first count) s = .next (((s.each ids (fun i t => t.stageContext i [])).countPool).replied h 0x0203 0 [])) ∧
    (s.Serves h 0x0204 .none → frozen = false →
      ∃ t : State, exec (.catUnstage h id) s = .next (t.replied h 0x0204 0 []) ∧ t = (s.unstage id.toNat).countPool ∧
        t.pending7 id.toNat = false ∧ ∀ j ≠ id.toNat, ∀ k < 16, t.catWord j k = s.catWord j k) ∧
    (s.Serves h 0x0205 .none → 0 < n.toNat → first.toNat + n.toNat ≤ 65536 →
      ∃ t : State, exec (.catClearStatus h first n) s = .next (t.replied h 0x0205 0 []) ∧
        (∀ i, first.toNat ≤ i → i < first.toNat + n.toNat → ∀ k < 8, t.catWord i (8 + k) = 0#32) ∧
        ∀ i, (i < first.toNat ∨ first.toNat + n.toNat ≤ i) → ∀ k < 16, t.catWord i k = s.catWord i k) ∧
    (s.Serves h 0x0206 .none →
      let r := s.catCheck
      exec (.catCheck h) s = .next (s.replied h 0x0206 (if r.1.1 = 0 then 0 else 0x0112) (leBytes 2 r.1.1 ++ leBytes 2 r.1.2.1 ++
        leBytes 2 r.1.2.2 ++ leBytes 2 (min 0xFFFF r.2.1) ++ leBytes 4 r.2.2))) ∧
    (s.Serves h 0x0207 .none →
      let ev (e : CatEvent) : Nat := e.stream.toNat + e.cause.toNat * 2 ^ 16 + 2 ^ 31
      let mark (i : Nat) : Nat := if i = 0 ∧ s.cat.overflow = true then 2 ^ 30 else 0
      s.cat.events ≠ [] →
      exec (.catEventRead h) s = .next (({ s with cat := { s.cat with events := s.cat.events.drop 4, overflow := false } } : State).replied h
        0x0207 0 (padTo 20 (leBytes 4 (min 4 s.cat.events.length) ++
          ((s.cat.events.take 4).zipIdx).flatMap (fun e => leBytes 4 (ev e.1 + mark e.2))))))

/-- The catalogue's events. A sample flit that matches its head is converted and stored in its record, or waits while the release has not
been; a Modulator context takes its channel's newest outputs at point E; a Sum adds its inputs; a context is forwarded at SendAt, once in
a frame, after those of lower stream ID due with it; a pool copy is written back and the last one ends the copy-in; a read of CAT_EVENT
takes the oldest event; a window write is counted. Rests on parts of R73, R75 to R80, R85, R94, R96, R100. Where the spec is silent it
holds the model's choices of assumption log 39 (DESIGN CHOICE) and 50 (DESIGN CHOICE). -/
def Obligations.CatalogueEventsAct : Prop :=
  ∀ (s : State) (flit : Flit) (link : Option (Fin 48)) (stamp : Dword) (id : BitVec 16), s.Inv →
    (let u := s.popInbox ftSample
     let h := flit.stream.toNat
     let c := u.ctx h
     let l := link.map (·.val)
     u.running = true → u.cat.bad = [] → u.on CAT_STATUS.CopyBusy = false →
      (u.frm.released = true → u.headMatches c flit l = true → c.chain = false → u.frm.gathered = false →
        (c.source = 5 → (flit.payload.getD 2 0#8).getLsbD 0 = false) → u.taken h < c.expects u.frm.last →
        let v : State := { u with cat := { u.cat with grants := arbNote u.cat.grants (ingressPort l) } }
        let x := convertSample c.wire c.store (payloadBits flit.payload (cut c.w2 25 16) (fmtWidth c.wire))
        let t := ((v.storeSample h c (u.taken h) x.1 stamp.toNat (bytesAt flit.payload 4 8)).convError h x.2).setTaken h (u.taken h + 1)
        exec (.sample flit link stamp []) s = .next { t with cat := { t.cat with busy := t.cat.busy + 1 } }) ∧
      (u.frm.released = false → exec (.sample flit link stamp []) s =
        .next { u with cat := { u.cat with waiting := u.cat.waiting ++ [⟨ingressPort l, some (flit, l), [], stamp.toNat⟩] } })) ∧
    (s.running = true → s.frm.gathered = false →
      let t := s.atLeast (s.frm.last * s.period + (s.fld FRM_GATHER.Offset - 100))
      exec .modulatorCapture s = .next (t.each t.catIds (fun i x => x.captureContext i))) ∧
    (s.cat.bad = [] → s.on CAT_STATUS.CopyBusy = false → s.running = true →
      let c := s.ctx id.toNat
      let g := s.fld FRM_GATHER.Offset
      let due (x : Ctx) : Nat := if x.forwards then min (16 * x.phaseSendAt) g else g - 100
      let t := s.atLeast (s.frm.last * s.period + due c)
      -- a member of a bundle has its head's timing (R88)
      (c.source = 6 → s.taken id.toNat = 0 → s.sumWaits id.toNat = false →
        let t := s.atLeast (s.frm.last * s.period + due (s.timing id.toNat))
        let r := t.sumInputs (cut c.w2 30 26) (cut c.w2 25 16 + 1) (cut c.w2 15 0) 0 false
        ∃ u, exec (.sumEvaluation id) s = .next u ∧ u.taken id.toNat = 1 ∧
          u = (let w := ((r.1.storeSample id.toNat c 0 (BitVec.ofInt 32 r.2.1).toNat r.1.now 0).convError id.toNat r.2.2).setTaken id.toNat 1
               { w with cat := { w.cat with busy := w.cat.busy + 1, grants := arbNote w.cat.grants 14 } })) ∧
      (c.enabled = true → c.forwards = true → s.cat.sent.contains id.toNat = false →
        (∀ i ∈ t.dueAt (due c), i ≤ id.toNat → t.forwardWaits i = false) →
        exec (.sendAtForward id) s = .next (t.each ((t.dueAt (due c)).filter (fun i => decide (i ≤ id.toNat)))
          (fun i u => (u.meetBad i).forwardOne i))) ∧
      (s.cat.sent.contains id.toNat = true → exec (.sendAtForward id) s = .next s)) ∧
    (∀ i rest, s.on CAT_STATUS.CopyBusy = true → s.frm.released = true → s.pendingIds = i :: rest → i < 65536 →
      (∀ k < 8, s.wordEcc (8 * s.poolIndex i + k) = 0) → s.verdict 71 (64 * s.poolIndex i) 64 false = .perform →
      ∃ t, exec .copyIn s = .next t ∧ t.pending7 i = false ∧ t.ctxStored i = s.ctxPool (s.poolIndex i) ∧
        (∀ k < 8, t.catWord i (8 + k) = s.poolWord (s.poolIndex i) (8 + k)) ∧
        cut (t.catWord i 7) 31 16 = (s.rd FRM_EDITION).toNat % 65536 ∧ ∀ j ≠ i, ∀ k < 16, t.catWord j k = s.catWord j k) ∧
    (s.on CAT_STATUS.CopyBusy = true → s.pendingIds = [] →
      exec .copyInDone s = .next ((((s.setF CAT_STATUS.CopyBusy 0).setF CAT_POOL.Used 0).raise CAT_IRQ_STATUS.CopyDone).runHeld)) ∧
    (∀ e rest, s.cat.events = e :: rest →
      exec .catEventPop s = .next { s with cat := { s.cat with events := rest, overflow := false } }) ∧
    (exec .catWindowWrite s = .next (s.wr CAT_WINWR (BitVec.ofNat 32 (min 0xFFFFFFFF ((s.rd CAT_WINWR).toNat + 1)))))

/-- The Stacks call slips complete where the Curator serves them and their checks pass: counts and seals are reported, a bank is cleared,
scrubbed, powered or turned off, retain bits, access bits and spill regions are set; a refused spill write sets SpillRefused and changes
no region. Rests on parts of R194, R204, R214, R507. Where the spec is silent it holds the model's choices of assumption log 5 (DESIGN
CHOICE). -/
def Obligations.StacksCommandsComplete : Prop :=
  ∀ (s : State) (h : SlipHdr) (bank mode mover remote host : Byte) (mask : BitVec 96) (l : Fin 48) (base size : BitVec 16) (v : Word),
    s.Inv →
    let b := bank.toNat
    let free := (s.linkState l = 0 ∨ s.linkState l = 5) ∧ (0 < size.toNat → ∀ m < 48, m ≠ l.val → 0 < s.fld (STK_SPILL.Size m) →
      base.toNat + size.toNat ≤ s.fld (STK_SPILL.Base m) ∨ s.fld (STK_SPILL.Base m) + s.fld (STK_SPILL.Size m) ≤ base.toNat)
    (s.Serves h 0x0400 .none → exec (.stkInfo h) s = .next (s.replied h 0x0400 0
      ((List.range 7).map (fun x => BitVec.ofNat 8 (s.banksIn x)) ++ leBytes 1 ((List.range 96).filter s.retained).length ++
        leBytes 4 (s.rd STK_SCRUB_PASS).toNat ++ leBytes 4 (s.rd STK_CORR).toNat ++ leBytes 4 (s.rd STK_UNCOR).toNat))) ∧
    (s.Serves h 0x0401 (.bank b) → b < 96 → exec (.stkBankStatus h bank) s = .next (s.replied h 0x0401 0
      (leBytes 4 (s.rd (bankReg b)).toNat ++ leBytes 4 (s.rd (STK_SEAL_LO b)).toNat ++ leBytes 4 (s.rd (STK_SEAL_HI b)).toNat))) ∧
    (s.Serves h 0x0402 (.bank b) → b < 96 → s.cmd.background.length < 8 → 2 ≤ b → mode = 0#8 → (s.bankState b = 0 ∨ s.bankState b = 6) →
      exec (.stkBankScrub h bank mode) s = .next ((s.setF (bankStateF b) 1).started h 0x0402 (.bank b) (.bankScrub b 0))) ∧
    (s.Serves h 0x0402 (.bank b) → b < 96 → s.cmd.background.length < 8 → mode = 1#8 → s.bankState b = 0 →
      exec (.stkBankScrub h bank mode) s = .next (s.started h 0x0402 (.bank b) (.bankScrub b 1))) ∧
    (s.Serves h 0x0403 (.bank b) → 2 ≤ b → b < 96 →
      (s.bankState b = 0 → exec (.stkBankPower h bank 1#8) s = .next (s.replied h 0x0403 0 [])) ∧
      (s.bankState b = 2 → ∃ t : State, exec (.stkBankPower h bank 1#8) s = .next (t.replied h 0x0403 0 []) ∧ t.bankState b = 1 ∧
        b ∈ t.stk.powering) ∧
      (s.bankState b = 6 → exec (.stkBankPower h bank 1#8) s = .next ((s.setF (bankStateF b) 1).replied h 0x0403 0 [])) ∧
      (s.bankState b = 0 → ∃ t : State, exec (.stkBankPower h bank 0#8) s = .next (t.replied h 0x0403 0 []) ∧ t.bankState b = 2 ∧
        (∀ o, b * 0x100000 ≤ o → o < (b + 1) * 0x100000 → t.stkByte o = 0#8) ∧
        ∀ o, (o < b * 0x100000 ∨ (b + 1) * 0x100000 ≤ o) → t.stkByte o = s.stkByte o)) ∧
    (s.Serves h 0x0404 .none → ∃ t : State, exec (.stkRetainSet h mask) s = .next (t.replied h 0x0404 0 []) ∧
      (∀ i < 96, t.retained i = mask.getLsbD i) ∧ t = { s with regs := t.regs }) ∧
    (s.Serves h 0x0405 (.bank b) → 2 ≤ b → b < 96 → mover.toNat ≤ 1 → remote.toNat ≤ 1 → host.toNat ≤ 1 →
      ∃ t : State, exec (.stkAclSet h bank mover remote host) s = .next (t.replied h 0x0405 0 []) ∧
        (t.admits 66 b = (mover == 1#8)) ∧ (t.admits 67 b = (remote == 1#8)) ∧ (t.admits 68 b = (host == 1#8)) ∧
        t.bankState b = s.bankState b ∧ t = { s with regs := t.regs }) ∧
    (s.Serves h 0x0406 (.link l.val) → free → base.toNat ≤ 11263 → base.toNat + size.toNat ≤ 11264 → size.toNat ≤ 1791 →
      exec (.stkSpillSet h (BitVec.ofNat 8 l.val) base size) s = .next (((s.setF (STK_SPILL.Base l) base.toNat).setF (STK_SPILL.Size l)
        size.toNat).replied h 0x0406 0 [])) ∧
    (let x := (STK_SPILL.Base l).get v
     let y := (STK_SPILL.Size l).get v
     (s.spillCheck l x y = 0 → ∃ t, exec (.stkSpillWrite l v) s = .next t ∧ t.fld (STK_SPILL.Base l) = x ∧ t.fld (STK_SPILL.Size l) = y ∧
        t = { s with regs := t.regs }) ∧
     (s.spillCheck l x y ≠ 0 → exec (.stkSpillWrite l v) s = .next (s.setF STK_STATUS.SpillRefused 1)))

/-- The events of Stacks. An arbiter grants one access and performs it; a corrected word is written back; the scrubber reads a line of
every bank in ON; a powered bank starts its clear; a clear makes its bank ON with every byte 0; banks 0 and 1 are checked first, then the
others in ascending order, at most 8 at a time: a matching seal makes a checked bank ON, a wrong one UNSEALED, and sends banks 0 and 1 to
CLEARING. Rests on parts of R189, R196, R200 to R209, R214. Where the spec is silent it holds the model's choices of assumption log 5
(DESIGN CHOICE). -/
def Obligations.StacksEventsAct : Prop :=
  ∀ (s : State) (bank : Fin 96) (q q' : StkReq) (w : Fin 12582912), s.Inv →
    let b := bank.val
    -- nothing waits at a bank
    let noWait := s.accessesOut = 0 ∧ s.cmd.held = []
    let line (q : StkReq) : StkAccess := ⟨q.req.val, b * 0x100000 + q.offset.val, min q.len.val (64 - q.offset.val % 64),
      q.data.map (·.take (64 - q.offset.val % 64)), q.poison⟩
    (exec (.stacksAccess bank [q]) s = .next (s.access (line q))) ∧
    -- of two requesters, the one that the arbiter of R9 picks by the bank's grants; an access that waits is no grant
    (q.req ≠ q'.req → arbPick (s.bankGrants b) [q.req.val, q'.req.val] = some q'.req.val →
      exec (.stacksAccess bank [q, q']) s = .next (s.access (line q'))) ∧
    (s.verdict q.req.val (line q).offset (line q).len false = .perform → q.data = none →
      ∃ t, exec (.stacksAccess bank [q]) s = .next t ∧ t.bankGrants b = arbNote (s.bankGrants b) q.req.val) ∧
    (s.verdict q.req.val (line q).offset (line q).len false = .wait → q.data = none →
      exec (.stacksAccess bank [q]) s = .next { s with stk := { s.stk with waiting := s.stk.waiting ++ [line q] } }) ∧
    (w.val ∈ s.stk.writeback → ∃ t, exec (.eccWriteback w) s = .next t ∧ t.wordEcc w = 0 ∧ (∀ x ≠ w.val, t.wordEcc x = s.wordEcc x) ∧
      t.stk.mem = s.stk.mem) ∧
    -- a STACKS_ECC self-test that runs holds STK_INJECT
    (s.eccTested (fun _ => true) = false → exec .stkInjectArm s = .next (s.setF STK_INJECT.Armed 1)) ∧
    (s.eccTested (fun _ => true) = true → exec .stkInjectArm s = .next s) ∧
    (s.on STK_SCRUB.Enable = true → s.stk.ecc = [] → 2 ∈ s.onBanks → 2 ∉ s.stk.scrubbed → tget (fun _ => 0) s.stk.scrubLine 2 < 16383 →
      ∃ t, exec .scrubLine s = .next t ∧ (∀ i ∈ s.onBanks, tget (fun _ => 0) t.stk.scrubLine i =
        (tget (fun _ => 0) s.stk.scrubLine i + 1) % 16384) ∧ t.stk.mem = s.stk.mem ∧ t.regs = s.regs) ∧
    (exec (.bankPowered bank) s = .next { s with stk := { s.stk with powering := s.stk.powering.erase b } }) ∧
    (s.bankState b = 1 → b ∉ s.stk.powering → noWait →
      ∃ t, exec (.clearComplete bank) s = .next t ∧ t.bankState b = 0 ∧ t.on STK_IRQ_STATUS.ClearDone = true ∧
        (∀ o, b * 0x100000 ≤ o → o < (b + 1) * 0x100000 → t.stkByte o = 0#8) ∧
        (∀ x, b * 131072 ≤ x → x < (b + 1) * 131072 → t.wordEcc x = 0) ∧
        ∀ o, (o < b * 0x100000 ∨ (b + 1) * 0x100000 ≤ o) → t.stkByte o = s.stkByte o) ∧
    -- the one access that waits at the bank proceeds
    (∀ a, s.bankState b = 1 → b ∉ s.stk.powering → s.stk.waiting = [a] → s.accessesOut = 1 → s.cmd.held = [] → a.offset / 0x100000 = b →
      let u := ((s.zeroBank b).setF (bankStateF b) 0).raise STK_IRQ_STATUS.ClearDone
      u.verdict a.req a.offset a.len a.data.isSome ≠ .wait →
      exec (.clearComplete bank) s = .next (({ u with stk := { u.stk with waiting := [] } } : State).access a)) ∧
    (s.bankState b = 5 → s.checkTurn b = true → s.stk.ecc = [] → noWait → s.rd64 (STK_SEAL_LO b) (STK_SEAL_HI b) = (s.sealOf b).toNat →
      ∃ t, exec (.checkComplete bank) s = .next t ∧ t.bankState b = 0 ∧ t.stk = { s.stk with grants := t.stk.grants }) ∧
    (s.bankState b = 5 → s.checkTurn b = true → s.stk.ecc = [] → noWait → s.rd64 (STK_SEAL_LO b) (STK_SEAL_HI b) ≠ (s.sealOf b).toNat →
      ∃ t, exec (.checkComplete bank) s = .next t ∧ (2 ≤ b → t.bankState b = 6 ∧ t.on STK_IRQ_STATUS.Unsealed = true ∧
          t.stk = { s.stk with grants := t.stk.grants }) ∧
        (b < 2 → t.bankState b = 1 ∧ t.on (if b = 1 then STK_STATUS.LogLost else STK_STATUS.PoolLost) = true ∧ t.stk.mem = s.stk.mem)) ∧
    (s.bankState b = 5 → s.checkTurn b = false → exec (.checkComplete bank) s = .next s) ∧
    (∀ g, s.backgroundOf 0x0402 (.bank b) = some g →
      (g.cmd = .bankScrub b 0 → s.bankState b = 0 → exec (.bankScrubDone bank) s = .next (s.finishBackground g 0 [])) ∧
      (g.cmd = .bankScrub b 1 → s.stk.ecc = [] →
        exec (.bankScrubDone bank) s = .next (s.finishBackground g 0 (leBytes 4 0 ++ leBytes 4 0))))

/-- Bytes that a requester admitted to their banks writes, while the banks are ON and no injection is armed, are what a read of them then
returns, the words they cover hold valid check bits, and no other byte of Stacks changes; a poisoned write leaves every word it covers
poisoned. Rests on parts of R197, R199, R203. Where the spec is silent it holds the model's choices of assumption log 7 (DESIGN CHOICE).
-/
def Obligations.StacksWrittenBytesReadBack : Prop :=
  ∀ (s : State) (r r' o : Nat) (bytes : List Byte), s.Inv → bytes ≠ [] →
    s.verdict r o bytes.length true = .perform → s.verdict r' o bytes.length false = .perform → s.on STK_INJECT.Armed = false →
    let t := (s.stkWrite r o (bytes.map some) false).1
    let p := (s.stkWrite r o (bytes.map some) true).1
    (s.stkWrite r o (bytes.map some) false).2 = .done ∧
    (∀ a, (a < o ∨ o + bytes.length ≤ a) → t.stkByte a = s.stkByte a) ∧
    ((∀ w ∈ wordsOf o bytes.length, s.wordEcc w < 2) → (t.stkRead r' o bytes.length).2 = .data bytes) ∧
    (∀ w, (∀ i < 8, o ≤ 8 * w + i ∧ 8 * w + i < o + bytes.length) → t.wordEcc w = 0) ∧
    (∀ w ∈ wordsOf o bytes.length, p.wordEcc w = 3) ∧
    (p.stkRead r' o bytes.length).2 = .poison ∧
    ∀ w, w ∉ wordsOf o bytes.length → t.wordEcc w = s.wordEcc w ∧ p.wordEcc w = s.wordEcc w

/-- HOLD_N and the trip latches. An assertion pulls HOLD_N low and records its cause, a release lets go only under the conditions of R65
and R268, an interlock that becomes active latches, and a clear removes the latches whose cause has gone. Rests on parts of R65, R250,
R253, R256, R266 to R268, R508. Where the spec is silent it holds the model's choices of assumption log 18 (DEDUCED) and 21 (DESIGN
CHOICE). -/
def Obligations.HoldAndTripLatchesAct : Prop :=
  ∀ (s : State) (h : SlipHdr) (pins ilk : BitVec 8) (ns : Byte) (mods : Word), s.Inv →
    let gone (t : State) : Prop := (∀ k < 8, (t.rd EDG_TRIP_ILK).getLsbD k =
        ((s.rd EDG_TRIP_ILK).getLsbD k && (!ilk.getLsbD k || s.ilkCause k))) ∧
      ∀ c < 32, (t.rd EDG_TRIP_MOD).getLsbD c = ((s.rd EDG_TRIP_MOD).getLsbD c && (!mods.getLsbD c || s.on (EDG_MOD_STAT.OutOfRange c)))
    let low (t : State) (cause : Nat) : Prop := t.on EDG_HOLD.State = true ∧ t.on EDG_STATUS.HoldAsserted = true ∧
      (s.supplied 5 = true → t.holdPin.2 = false) ∧ t.fld EDG_HOLD.Cause = cause ∧ t.on EDG_IRQ_STATUS.HoldAsserted = true
    let free := s.sched = 2 ∧ s.rd FRM_EDITION ≠ 0#32 ∧ s.on FRM_STATUS.FirstFrameDone = true ∧ s.rd EDG_TRIP_ILK = 0#32 ∧
      s.rd EDG_TRIP_MOD = 0#32 ∧ s.on PWR_STATUS.Pfail = false ∧ s.rst.pfail = false ∧ s.frm.stopping = false
    let high (t : State) : Prop := t.on EDG_HOLD.State = false ∧ t.on EDG_STATUS.HoldAsserted = false ∧
      t.on EDG_IRQ_STATUS.HoldReleased = true ∧ t.edg.parked = 0xFFFFFF#24
    -- PinLevel reads the pin: low while the bridge asserts HOLD_N, else a level another device may pull
    (s.Serves h 0x0500 .none → exec (.edgInfo h) s = .next (s.holdWord.1.replied h 0x0500 0 (leBytes 4 (s.rd EDG_STATUS).toNat ++
      leBytes 4 s.holdWord.2.toNat ++ leBytes 4 (s.rd EDG_TRIP_ILK).toNat ++ leBytes 4 (s.rd EDG_TRIP_MOD).toNat))) ∧
    (s.Serves h 0x050B .none → ∃ t : State, exec (.edgHoldAssert h) s = .next (t.replied h 0x050B 0 []) ∧ low t 0) ∧
    (∃ t, exec .edgHoldAssertWrite s = .next t ∧ low t 1) ∧
    (s.Serves h 0x050A .none → free → s.on EDG_HOLD.State = true → ∃ t : State, exec (.edgHoldRelease h) s = .next (t.replied h 0x050A 0 []) ∧ high t) ∧
    (free → s.on EDG_HOLD.State = true → ∃ t, exec .edgHoldReleaseWrite s = .next t ∧ high t) ∧
    (free → s.on EDG_HOLD.State = false → s.rst.stage ≠ .draining → exec .edgHoldReleaseWrite s = .next s) ∧
    (¬ free → s.rst.stage ≠ .draining → exec .edgHoldReleaseWrite s = .next (s.setF EDG_HOLD.ReleaseRefused 1)) ∧
    (let stood (k : Nat) := min 255 ((if pins.getLsbD k = s.edg.ilkPins.getLsbD k then tget (fun _ => 0) s.edg.ilkFor k else 0) + ns.toNat)
     -- an input is active when its level, after polarity, has stood for longer than the filter
     let active (k : Nat) : Bool := s.edg.ilkLoaded && s.supplied 5 && (pins.getLsbD k != s.on (EDG_ILK.ActiveLow k)) &&
       decide (5 * s.fld (EDG_ILK.Filt k) < stood k)
     ∃ t, exec (.interlock ⟨pins, ns⟩) s = .next t ∧ t.edg.ilkPins = pins ∧
      (∀ k < 8, tget (fun _ => 0) t.edg.ilkFor k = stood k ∧ t.on ⟨EDG_STATUS, 8 + k, 8 + k⟩ = active k ∧
        (t.rd EDG_TRIP_ILK).getLsbD k = ((s.rd EDG_TRIP_ILK).getLsbD k || (active k && s.on (EDG_ILK.Enable k)))) ∧
      (∀ k < 8, active k = true → s.on (EDG_ILK.Enable k) = true → s.on (EDG_ILK.Hold k) = true →
        (s.rd EDG_TRIP_ILK).getLsbD k = false → t.on EDG_HOLD.State = true) ∧
      -- the path is asynchronous: the gates that a latching input names are off at once
      (∀ k < 8, ∀ q < 24, active k = true → s.on (EDG_ILK.Enable k) = true → (s.rd EDG_TRIP_ILK).getLsbD k = false →
        (s.fld (EDG_ILK.PairMask k)).testBit q = true → (t.pairOut q).h = false ∧ (t.pairOut q).l = false)) ∧
    (∃ t, exec (.tripLatchClear ilk mods) s = .next t ∧ gone t ∧ t.on EDG_HOLD.State = s.on EDG_HOLD.State) ∧
    (s.Serves h 0x0509 .none → ∃ t : State, gone t ∧ t.on EDG_HOLD.State = s.on EDG_HOLD.State ∧
      exec (.edgTripClear h ilk mods) s = .next (t.replied h 0x0509
        (if (t.rd EDG_TRIP_ILK &&& ilk.zeroExtend 32) != 0#32 || (t.rd EDG_TRIP_MOD &&& mods) != 0#32 then 0x0215 else 0)
        (leBytes 1 (t.rd EDG_TRIP_ILK).toNat ++ leBytes 3 0 ++ leBytes 4 (t.rd EDG_TRIP_MOD).toNat)))

/-- The edge configuration commands complete where the Curator serves them and the conditions of their rules hold: a clock, a channel, a
trip or an interlock takes its new registers, polarity and AUX direction are written in STOPPED, and a pair's or the AUX shadow set is
staged with Commit. Rests on parts of R48, R245 to R254, R258, R271, R508. Where the spec is silent it holds the model's choices of
assumption log 21 (DESIGN CHOICE) and 52 (DESIGN CHOICE). -/
def Obligations.EdgeConfigurationCompletes : Prop :=
  ∀ (s : State) (h : SlipHdr) (m : Fin 4) (c : Fin 32) (k : Fin 8) (q : Fin 24) (en period : Byte) (v trip thr mask sh0 sh1 : Word)
    (pol : BitVec 48), s.Inv →
    let b8 (n : Nat) : Byte := BitVec.ofNat 8 n
    let clockOk (p : Nat) := 40 ≤ p ∧ p ≤ 200 ∧ (p = s.fld (EDG_MCLK.Period m) ∨ s.clockSelected m = false)
    let clocked (t : State) (e : Bool) (p : Nat) : Prop := t.on (EDG_MCLK.Enable m) = e ∧ t.fld (EDG_MCLK.Period m) = p ∧
      t.edg.mclkUsed = (if e then s.edg.mclkUsed ||| BitVec.ofNat 4 (2 ^ m.val) else s.edg.mclkUsed)
    let modOk := cut v 5 4 ≤ 2 ∧ 16 ≤ cut v 16 6 ∧ cut v 16 6 ≤ 1024 ∧ s.on (EDG_MOD_CFG.Enable c) = false
    let modSet (t : State) : Prop := t.rd (EDG_MOD_CFG c) = v &&& 0x003FFFFF#32 ∧
      -- a channel that is enabled captures from the next edge of its clock on, with empty filters
      (v.getLsbD 0 = true → (t.chan c).slow = Sinc.empty ∧ (t.chan c).fast = Sinc.empty ∧ (t.chan c).ready = [] ∧
        (t.chan c).fastReady = [] ∧ (t.chan c).outs = [] ∧ t.on (EDG_MOD_STAT.Settled c) = false ∧
        (0 < t.modPeriod c → s.now ≤ t.edgeInstant c (t.chan c).next ∧ ∀ j < (t.chan c).next, t.edgeInstant c j < s.now))
    let tripOk := s.on EDG_HOLD.State = true ∧ 1 ≤ cut trip 9 6 ∧ s.tripTiming c trip thr = false
    let tripSet (t : State) : Prop := t.rd (EDG_MOD_TRIP c) = trip &&& 0x7FF#32 ∧ t.rd (EDG_MOD_THR c) = thr ∧
      t.rd (EDG_MOD_MASK c) = mask &&& 0xFFFFFF#32
    let ilkSet (t : State) : Prop := t.rd (EDG_ILK k) = v &&& 0xFFFFFF3F#32 ∧ t.edg.ilkLoaded = true
    (clockOk (cut v 15 8) → ∃ t, exec (.edgMclkWrite m v) s = .next t ∧ clocked t (v.getLsbD 0) (cut v 15 8)) ∧
    (s.Serves h 0x0501 .none → en.toNat ≤ 1 → clockOk period.toNat →
      ∃ t : State, exec (.edgMclkConfig h (b8 m.val) en period) s = .next (t.replied h 0x0501 0 []) ∧ clocked t (en == 1#8) period.toNat) ∧
    (modOk → ∃ t, exec (.edgModCfgWrite c v) s = .next t ∧ modSet t) ∧
    (s.Serves h 0x0502 .none → modOk → ∃ t : State, exec (.edgModConfig h (b8 c.val) v) s = .next (t.replied h 0x0502 0 []) ∧ modSet t) ∧
    (tripOk → thr = s.rd (EDG_MOD_THR c) → mask = s.rd (EDG_MOD_MASK c) → ∃ t, exec (.edgTripRegWrite c 0 trip) s = .next t ∧ tripSet t) ∧
    (tripOk → trip = s.rd (EDG_MOD_TRIP c) → mask = s.rd (EDG_MOD_MASK c) → ∃ t, exec (.edgTripRegWrite c 1 thr) s = .next t ∧ tripSet t) ∧
    (tripOk → trip = s.rd (EDG_MOD_TRIP c) → thr = s.rd (EDG_MOD_THR c) → ∃ t, exec (.edgTripRegWrite c 2 mask) s = .next t ∧ tripSet t) ∧
    (s.Serves h 0x0503 .none → tripOk →
      ∃ t : State, exec (.edgTripConfig h (b8 c.val) trip thr mask) s = .next (t.replied h 0x0503 0 []) ∧ tripSet t) ∧
    (s.sched = 0 → ∃ t, exec (.edgIlkWrite (k.castLE (by decide)) v) s = .next t ∧ ilkSet t) ∧
    (s.sched = 0 → exec (.edgIlkWrite 8 v) s = .next (s.wr EDG_POL_LO v)) ∧
    (s.sched = 0 → exec (.edgIlkWrite 9 v) s = .next (s.wr EDG_POL_HI (v &&& 0xFFFF#32))) ∧
    (s.Serves h 0x0504 .none → s.sched = 0 →
      ∃ t : State, exec (.edgIlkConfig h (b8 k.val) v) s = .next (t.replied h 0x0504 0 []) ∧ ilkSet t) ∧
    (s.Serves h 0x0505 .none → s.sched = 0 → exec (.edgPolSet h pol) s = .next
      (((s.wr EDG_POL_LO (pol.truncate 32)).wr EDG_POL_HI (BitVec.ofNat 32 (pol.toNat / 2 ^ 32))).replied h 0x0505 0 [])) ∧
    (s.Serves h 0x0508 .none → s.sched = 0 → exec (.edgAuxDirSet h v) s = .next ((s.wr EDG_AUX_DIR v).replied h 0x0508 0 [])) ∧
    (s.Serves h 0x0506 .none → s.on FRM_STATUS.StagedFrozen = false → s.on FRM_STATUS.InGuardWindow = false → pairInvalid trip thr = false →
      exec (.edgPairStage h (b8 q.val) trip thr) s = .next (((s.wr (EDG_PAIR_CFG q) ((trip ||| 0x80000000#32) &&& 0x8000001F#32)).wr
        (EDG_PAIR_TIME q) (thr &&& 0x0FFFFFFF#32)).replied h 0x0506 0 [])) ∧
    (s.Serves h 0x0507 .none → s.on FRM_STATUS.StagedFrozen = false → s.on FRM_STATUS.InGuardWindow = false →
      exec (.edgAuxStage h sh0 sh1) s = .next ((((s.wr EDG_AUX_SH0 sh0).wr EDG_AUX_SH1 sh1).wr EDG_AUX_SH2 1#32).replied h 0x0507 0 []))

/-- Sampling and outputs. A captured bit enters both filters of its channel; a completed output is kept with its stamp; a fast output
beyond its thresholds for Count outputs in a row latches the channel's trip; a write stages a dynamic value; a gate-pair step advances the
grid by one. Rests on parts of R246 to R250, R259, R262, R263. Where the spec is silent it holds the model's choices of assumption log 52
(DESIGN CHOICE). -/
def Obligations.EdgeSamplesTripsAndSteps : Prop :=
  ∀ (s : State) (c : Fin 32) (bit : Bool) (r : Fin 67) (i : Fin 112) (v : Word), s.Inv →
    let m := s.chan c
    (s.capturing c = true → ∃ t, exec (.mdatSample c bit) s = .next t ∧
      (t.chan c).slow = (m.slow.push (s.fld (EDG_MOD_CFG.Order c) + 3) (s.fld (EDG_MOD_CFG.Dec c)) m.next bit).1 ∧
      (t.chan c).fast = (m.fast.push 3 (s.fld (EDG_MOD_TRIP.TDec c) + 1) m.next bit).1 ∧ (t.chan c).next = m.next + 1 ∧
      (t.chan c).outs = m.outs ∧ (t.chan c).level = bit ∧
      (m.run = 63 → m.level = bit → t.on (EDG_MOD_STAT.Stuck c) = true ∧ t.fld (EDG_MOD_STAT.StuckLevel c) = bit.toNat) ∧
      (m.level ≠ bit → t.on (EDG_MOD_STAT.Stuck c) = false) ∧ ∀ d ≠ c.val, t.chan d = s.chan d) ∧
    (∀ y rest, m.ready = y :: rest → ∃ t, exec (.filterOutput c) s = .next t ∧ (t.chan c).ready = rest ∧
      (t.chan c).outs = (m.outs ++ [y]).drop (m.outs.length - 15) ∧ t.on (EDG_MOD_STAT.Settled c) = true) ∧
    (∀ y rest, m.fastReady = y :: rest →
      let out := (BitVec.ofNat 16 (s.fld (EDG_MOD_THR.Hi c))).toInt < y.toInt ∨ y.toInt < (BitVec.ofNat 16 (s.fld (EDG_MOD_THR.Lo c))).toInt
      ∃ t, exec (.fastOutput c) s = .next t ∧ (t.chan c).fastReady = rest ∧ t.fld (EDG_MOD_STAT.LastFast c) = y.toNat ∧
        (t.on (EDG_MOD_STAT.OutOfRange c) = true ↔ out) ∧
        ((s.rd EDG_TRIP_MOD).getLsbD c = false → ((t.rd EDG_TRIP_MOD).getLsbD c = true ↔
          s.on (EDG_MOD_TRIP.Enable c) = true ∧ out ∧ s.fld (EDG_MOD_TRIP.Count c) ≤ min 16 (m.beyond + 1))) ∧
        ((s.rd EDG_TRIP_MOD).getLsbD c = false → (t.rd EDG_TRIP_MOD).getLsbD c = true → s.on (EDG_MOD_TRIP.Hold c) = true →
          t.on EDG_HOLD.State = true ∧ t.fld EDG_HOLD.Cause = 3)) ∧
    (∃ t, exec (.dynWrite [(r, i, v)]) s = .next t ∧ t.rd (EDG_DYN i) = v ∧ i.val ∈ t.edg.staged ∧
      (∀ a ≠ EDG_DYN i, t.rd a = s.rd a) ∧ t.edg.vals = s.edg.vals) ∧
    (∃ t, exec .gatePairStep s = .next t ∧ t.edg.step = s.edg.step + 1 ∧ t.regs = s.regs ∧
      (s.on EDG_STATUS.FuseMode = true → t.edg.pairs = s.edg.pairs))

/-- At every step of the grid the two outputs of a pair are never on together, a latched pair is off, HOLD_N turns nothing on, each output
turns on only DeadTime steps after the other turned off and MinOff steps after it turned off itself, and turns off by the pair's logic
only MinOn steps after it turned on. Rests on parts of R263, R264. -/
def Obligations.GatePairsKeepTheirTimes : Prop :=
  ∀ (s t : State), s.Inv → s.on EDG_STATUS.FuseMode = false → exec .gatePairStep s = .next t → ∀ q < 24,
    let o := s.pairOut q
    let p := t.pairOut q
    let dead := s.fld (EDG_PAIR_ATIME.DeadTime q)
    let minOn := s.fld (EDG_PAIR_ATIME.MinOn q)
    let minOff := s.fld (EDG_PAIR_ATIME.MinOff q)
    let latched := s.latchedPairs.getLsbD q
    (¬ (o.h = true ∧ o.l = true) → ¬ (p.h = true ∧ p.l = true)) ∧
    (latched = true → p.h = false ∧ p.l = false) ∧
    (s.on EDG_HOLD.State = true → (p.h = true → o.h = true) ∧ (p.l = true → o.l = true)) ∧
    (o.h = false → p.h = true → minOff ≤ min 1023 (o.sinceH + 1) ∧ if o.l then dead = 0 else dead ≤ min 1023 (o.sinceL + 1)) ∧
    (o.l = false → p.l = true → minOff ≤ min 1023 (o.sinceL + 1) ∧ if o.h then dead = 0 else dead ≤ min 1023 (o.sinceH + 1)) ∧
    (o.h = true → p.h = false → latched = true ∨ minOn ≤ min 1023 (o.sinceH + 1)) ∧
    (o.l = true → p.l = false → latched = true ∨ minOn ≤ min 1023 (o.sinceL + 1)) ∧
    (p.h = o.h → p.sinceH = min 1023 (o.sinceH + 1)) ∧ (p.h ≠ o.h → p.sinceH = 0) ∧
    (p.l = o.l → p.sinceL = min 1023 (o.sinceL + 1)) ∧ (p.l ≠ o.l → p.sinceL = 0)

/-- The events of the serial lanes. A rate takes its default taps, a lane steps SEEK, LOCK, ALIGNED as its receiver finds signal, clock
and three equal blocks, and back on a loss or a timeout; patterns and loopback take an idle lane into PRBS or LOOPBACK; bit errors are
counted while the checker is in step, and a margin measurement starts and ends. Rests on parts of R279, R284 to R298. Where the spec is
silent it holds the model's choices of assumption log 37 (DESIGN CHOICE) and 53 (PRESUMED). -/
def Obligations.LaneEventsAct : Prop :=
  ∀ (s : State) (n : Fin 64) (p : Fin 12) (rate mode : BitVec 2) (pre : BitVec 4) (main : BitVec 6) (post : BitVec 5) (tx rx : BitVec 3)
    (time volt : BitVec 6) (eye : BitVec 2) (bitsLog : BitVec 5) (bits errors : Word) (blk : List Byte) (stream past : List Bool)
    (inverted skewed cdr : Bool), s.Inv →
    let m := n.val
    let idle := 16 ≤ m ∧ s.on (lnMarginStart m) = false ∧ s.laneBarred m = false
    let plain := s.fld (lnLoop m) = 0 ∧ s.fld (lnTxPat m) = 0 ∧ s.fld (lnRxPat m) = 0
    (rate.toNat < 3 → s.portDark p = true → ∃ t, exec (.rateWrite p rate) s = .next t ∧ t.fld (LNK_PHY.Rate p) = rate.toNat ∧
      t.on (LNK_PHY.PllLock p) = false ∧ ∀ k < 4, (t.fld (laneFld (16 + 4 * p.val + k) 0x08 3 0), t.fld (laneFld (16 + 4 * p.val + k) 0x08 10 5),
        t.fld (laneFld (16 + 4 * p.val + k) 0x08 15 11)) = defaultTaps rate.toNat) ∧
    (exec (.pllRelock p) s = .next (s.setF (LNK_PHY.PllLock p) 1)) ∧
    (16 ≤ m → pre.toNat + main.toNat + post.toNat ≤ 64 → 32 ≤ main.toNat → ∃ t, exec (.txeqWrite n pre main post) s = .next t ∧
      t.fld (laneFld m 0x08 3 0) = pre.toNat ∧ t.fld (laneFld m 0x08 10 5) = main.toNat ∧ t.fld (laneFld m 0x08 15 11) = post.toNat) ∧
    (16 ≤ m → 64 < pre.toNat + main.toNat + post.toNat ∨ main.toNat < 32 →
      exec (.txeqWrite n pre main post) s = .next (s.raise (lnFlag m 6))) ∧
    (s.supplied 3 = true → s.laneState m ≠ 0 ∨ m < 16 → exec (.signalDetect n) s = .next (s.setF (lnSigDet m) 1)) ∧
    (s.supplied 3 = true → s.laneState m = 0 → 16 ≤ m → s.on (lnWakeEn m) = true →
      exec (.signalDetect n) s = .next ((s.setF (lnSigDet m) 1).raise (lnFlag m 5))) ∧
    (s.on (lnSigDet m) = true → s.laneState m = 1 → idle → ∃ t, exec (.cdrLock n) s = .next t ∧ t.laneState m = 2 ∧ t.on (lnCdr m) = true) ∧
    (s.laneState m = 2 → idle → ∃ t, exec (.lockTimeout n) s = .next t ∧ t.laneState m = 1 ∧ t.on (lnCdr m) = false ∧
      t.fld (laneFld m 0x28 31 16) = min 0xFFFF (s.fld (laneFld m 0x28 31 16) + 1)) ∧
    (s.supplied 3 = true → s.rst.stage ≠ .asleep → 16 ≤ m → s.laneState m = 0 → s.on (lnWakeEn m) = true →
      exec (.signalDetectWake n) s = .next ((s.setF (lnSigDet m) 1).raise (lnFlag m 5))) ∧
    (s.supplied 3 = true → s.rst.stage = .asleep → m ∈ s.rst.wakeLanes → (s.fld PWR_WAKEEN.Enable).testBit 1 = true →
      ∃ t, exec (.signalDetectWake n) s = .next t ∧ t.rst.stage = .awake ∧ t.fld PWR_WAKE.Source = 2 ∧ t.on (lnFlag m 5) = true) ∧
    -- the next bit that the generator sends is inverted
    (s.on (lnTxPat m) = true → s.fld (lnLoop m) ≠ 2 → s.laneBusy m = false → ∃ t, exec (.txErrInject n) s = .next t ∧ (s.lane m).sent ∈ (t.lane m).flips ∧
      (∀ i, i ∈ (t.lane m).flips → i = (s.lane m).sent ∨ i ∈ (s.lane m).flips) ∧ t.regs = s.regs) ∧
    (s.on (lnRxPat m) = true → s.laneState m ≠ 0 → s.on (lnRxSync m) = false → prbsSynced (s.fld (lnRxPat m)) stream = true →
      ∃ t, exec (.prbsSync ⟨n, stream⟩) s = .next t ∧ t.on (lnRxSync m) = true ∧ t.rd (laneBase m + 0x14) = 0#32 ∧
      t.rd64 (laneBase m + 0x18) (laneBase m + 0x1C) = 0) ∧
    (s.on (lnRxSync m) = true → 64 < errors.toNat → ∃ t, exec (.prbsSyncLost n bits errors) s = .next t ∧ t.on (lnRxSync m) = false ∧
      t.on (lnFlag m 3) = true ∧ (t.rd (laneBase m + 0x14)).toNat = min 0xFFFFFFFF ((s.rd (laneBase m + 0x14)).toNat + errors.toNat) ∧
      t.rd64 (laneBase m + 0x18) (laneBase m + 0x1C) = min (2 ^ 48 - 1) (s.rd64 (laneBase m + 0x18) (laneBase m + 0x1C) + bits.toNat)) ∧
    (s.marginReady m = true → s.marginRange m time.toInt volt.toInt eye.toNat bitsLog.toNat = true →
      exec (.marginStart n time volt eye bitsLog) s = .next
        ((s.setMargin m time.toNat volt.toNat eye.toNat bitsLog.toNat).setF (lnMarginStart m) 1)) ∧
    (s.on (lnMarginStart m) = true → (s.lane m).step = none → s.backgroundOf 0x0685 (.lane m) = none →
      exec (.marginDone n errors) s = .next (((s.setF (lnMarginStart m) 0).wr (laneBase m + 0x24) errors).raise (lnFlag m 4))) ∧
    -- a step of the host's margining measures each eye in turn and adds their errors
    (∀ before, s.on (lnMarginStart m) = true → (s.lane m).step = some before →
      let sum := min (2 ^ 32 - 1) (before + errors.toNat)
      let eyeNow := s.fld (laneFld m 0x20 13 12)
      (s.lanePam4 m = true → eyeNow < 2 → exec (.marginDone n errors) s =
        .next ((s.setF (laneFld m 0x20 13 12) (eyeNow + 1)).setLane m { s.lane m with step := some sum })) ∧
      (s.lanePam4 m = false ∨ 2 ≤ eyeNow → exec (.marginDone n errors) s =
        .next ((s.marginEnd m (BitVec.ofNat 32 sum)).marginCount m sum))) ∧
    (s.on (lnEnable m) = false → s.laneState m = 0 → idle → plain → ∃ t, exec (.laneEnableWrite n true) s = .next t ∧
      t.on (lnEnable m) = true ∧ t.laneState m = 1) ∧
    (s.on (lnEnable m) = true → s.laneState m ≠ 4 → idle → ∃ t, exec (.laneEnableWrite n false) s = .next t ∧
      t.on (lnEnable m) = false ∧ t.laneState m = 0) ∧
    (mode.toNat = 1 ∨ mode.toNat = 2 → s.laneState m ≠ 4 → s.fld (lnLoop m) ≠ mode.toNat ∨ s.laneState m ≠ 6 → idle → ∃ t,
      exec (.loopbackWrite n mode) s = .next t ∧ t.fld (lnLoop m) = mode.toNat ∧ t.laneState m = 6) ∧
    (1 ≤ tx.toNat → tx.toNat ≤ 4 → rx.toNat ≤ 4 → s.laneState m ≠ 4 → idle → plain → ∃ t, exec (.prbsWrite n tx rx) s = .next t ∧
      t.fld (lnTxPat m) = tx.toNat ∧ t.fld (lnRxPat m) = rx.toNat ∧ t.laneState m = 5) ∧
    -- what one end scrambles the other descrambles, whatever bits came before
    (∀ past bits : List Bool, descramble past (scramble past bits) = bits) ∧
    (let r : RxBlock := ⟨past, blk, inverted, true, skewed⟩
     let b := trainBlockOf (descrambled r) inverted true skewed
     s.laneState m = 2 → idle → (s.lane m).taken = false → b.valid = true → s.on (lnRxForce m) = false →
      (s.lane m).inverted = inverted → 2 ≤ (s.lane m).good → ∃ t, exec (.trainingBlock n r) s = .next t ∧
        t.laneState m = 3 ∧ t.on (lnInverted m) = inverted ∧ t.fld (laneFld m 0x04 27 18) = b.sender.toNat) ∧
    (s.laneState m = 2 ∨ s.laneState m = 3 → idle → ∃ t, exec (.signalLoss n cdr) s = .next t ∧ t.laneState m = 1 ∧ t.on (lnFlag m 1) = true ∧
      t.on (lnCdr m) = false ∧ (cdr = false → t.on (lnSigDet m) = false) ∧
      t.fld (laneFld m 0x28 15 0) = min 0xFFFF (s.fld (laneFld m 0x28 15 0) + 1))

/-- The lane call slips complete where the Curator serves them and their checks pass: a lane's registers are reported, a rate is written
to a dark port, a lane is configured, a pattern is started, and a margin measurement is accepted. Rests on parts of R279, R291 to R295,
R299, R509. Where the spec is silent it holds the model's choices of assumption log 37 (DESIGN CHOICE) and 53 (PRESUMED). -/
def Obligations.LaneCommandsComplete : Prop :=
  ∀ (s : State) (h : SlipHdr) (n p rate time volt eye bitsLog : Byte) (ctrl txeq v : Word), s.Inv → n.toNat < 64 →
    let m := n.toNat
    (s.Serves h 0x0680 (.lane m) → exec (.laneInfo h n) s = .next (s.replied h 0x0680 0 (leBytes 4 (s.rd (laneBase m + 0x04)).toNat ++
      leBytes 4 (s.rd (laneBase m + 0x0C)).toNat ++ leBytes 4 (s.rd (laneBase m + 0x28)).toNat))) ∧
    (s.Serves h 0x0681 (.lane m) → 16 ≤ m → ctrl.toNat / 32 % 4 ≠ 3 → tapsOk (txeq.toNat % 16) (txeq.toNat / 32 % 64) (txeq.toNat / 2048 % 32) = true →
      ∃ t : State, exec (.laneConfig h n ctrl txeq) s = .next (t.replied h 0x0681 0 []) ∧
        t = (s.writeLaneCtrl m ctrl).setTaps m (txeq.toNat % 16) (txeq.toNat / 32 % 64) (txeq.toNat / 2048 % 32) ∧
        t.fld (laneFld m 0x08 3 0) = txeq.toNat % 16 ∧ t.fld (laneFld m 0x08 10 5) = txeq.toNat / 32 % 64 ∧
        t.fld (laneFld m 0x08 15 11) = txeq.toNat / 2048 % 32) ∧
    (s.Serves h 0x0682 .none → p.toNat < 12 → rate.toNat < 3 → s.portDark p.toNat = true →
      ∃ t : State, exec (.laneRate h p rate) s = .next (t.replied h 0x0682 0 []) ∧ t.fld (LNK_PHY.Rate p.toNat) = rate.toNat ∧
        t.on (LNK_PHY.PllLock p.toNat) = false ∧ t = { s with regs := t.regs }) ∧
    (s.Serves h 0x0683 (.lane m) → 16 ≤ m → v.toNat % 8 ≤ 4 → v.toNat / 16 % 8 ≤ 4 →
      exec (.lanePrbs h n v) s = .next ((s.writeLanePrbs m v).replied h 0x0683 0 [])) ∧
    (s.Serves h 0x0684 (.lane m) → exec (.lanePrbsRead h n) s = .next (s.replied h 0x0684 0 (leBytes 4 (s.rd (laneBase m + 0x14)).toNat ++
      leBytes 6 (s.rd64 (laneBase m + 0x18) (laneBase m + 0x1C)) ++ leBytes 1 (s.fld (lnRxSync m))))) ∧
    (s.Serves h 0x0685 (.lane m) → s.cmd.background.length < 8 → s.marginReady m = true →
      s.marginRange m time.toInt volt.toInt eye.toNat bitsLog.toNat = true → exec (.laneMargin h n time volt eye bitsLog) s = .next
        (((s.setMargin m time.toNat volt.toNat eye.toNat bitsLog.toNat).setF (lnMarginStart m) 1).started h 0x0685 (.lane m) (.laneMargin m)))

/-- Flits on a Maelid link. An ACTIVE link with nothing pending sends the first eligible flit under its sequence number, for a credit of
its class, and keeps it until it is acknowledged; a flit whose CRC matches the expected number is accepted and its trailer processed, and
one that passes no test is a failure; consumption frees a credit; the timers act as their rules say. Rests on parts of R309 to R324, R346.
Where the spec is silent it holds the model's choices of assumption log 14 (DESIGN CHOICE) and 38 (DESIGN CHOICE). -/
def Obligations.LinkFlitsAct : Prop :=
  ∀ (s : State) (l : Fin 48) (c : Fin 4) (bytes : List Byte) (f : Flit) (rest : List Flit) (stamp t1 t2 : Dword) (id : BitVec 16),
    s.Inv →
    let k := l.val
    let u := s.link k
    let n := s.fld (lkTxNext k)
    let b := padTo 128 bytes
    let e := s.fld (lkExpect k)
    let active := s.linkState k = 3
    let up := active ∨ s.linkState k = 2
    let calm := s.linkExists k = true ∧ active ∧ u.ctl = [] ∧ u.replay = none ∧ s.on (onLink LNK_STATUS.PartnerLeaf k) = false ∧
      (∀ i < 4, s.fld (lkAdv k i) ≠ 0) ∧ ∀ w ∈ s.fab.waiting, w.link ≠ k
    (calm → s.outQueue k 0 = f :: rest → s.classReady k 0 = true → u.buf.length + 1 < s.outLimit k →
      -- a TIME flit departs with its stamps of that instant, any other as it was queued
      let g := s.departing k f
      (f.type ≠ ftTime → g = f) ∧
      ∃ t w, exec (.flitTransmit l) s = .next t ∧ (t.link k).buf = u.buf ++ [g] ∧ t.fld (lkTxNext k) = (n + 1) % 4096 ∧
        t.fld (lkCredit k 0) = s.fld (lkCredit k 0) - 1 ∧ t.fld (onLink LNK_OUTST.Outstanding k) = (u.buf.length + 1) % 2048 ∧
        (t.link k).wire = u.wire ++ [.flit (s.fld (lkTx k)) (flitBytes (flitBody g) w (seqPrefix n))]) ∧
    (calm → (∀ i < 4, s.classReady k i = false) → exec (.flitTransmit l) s = .next (s.sendLocal k 0 [])) ∧
    (up → crcOk b (seqPrefix e) = true →
      exec (.flitReceived l bytes) s = .next ((s.flitAccepted k (flitOf b)).takeTrailer k (bytesAt b 120 4))) ∧
    (up → crcOk b localPrefix = false → (∀ j < 32, crcOk b (seqPrefix (e + 4096 - j)) = false) →
      exec (.flitReceived l bytes) s = .next (s.flitFailed k)) ∧
    (u.rx.find? (fun x => x.1.cls.toNat == c.val) = some (f, stamp) → f.dest.toNat = s.nodeId →
      s.fab.waiting.find? (fun w => w.req == k && w.cls == c.val) = none → exec (.flitConsumed l c) s = .next (((s.setLink k { u with rx := u.rx.erase (f, stamp) }).freeCredit k c).deliver f (some k) stamp)) ∧
    (∀ x w, u.rx.find? (fun x => x.1.cls.toNat == c.val) = some x → s.fab.waiting.find? (fun w => w.req == k && w.cls == c.val) = some w →
      exec (.flitConsumed l c) s = .next (s.admitWaiting w.link c)) ∧
    (up → s.on (lkNakWait k) = true → exec (.nakWaitTimeout l) s = .next (s.setLink k { u with nak := true })) ∧
    (active → u.buf ≠ [] → s.fld (lkReplays k) < 8 → ∃ t, exec (.replayTimeout l) s = .next t ∧ (t.link k).replay = some 0 ∧
      t.fld (lkReplays k) = s.fld (lkReplays k) + 1 ∧ t.on (onLink LNK_STATUS.ReplayActive k) = true ∧ (t.link k).buf = u.buf) ∧
    (active → u.buf ≠ [] → 8 ≤ s.fld (lkReplays k) → exec (.replayTimeout l) s = .next (s.linkDown k 2)) ∧
    (active → s.fld (lkCredit k c) = 0 → s.fld (lkAdv k c) ≠ 0 → s.outQueue k c ≠ [] →
      exec (.creditTimeout l c) s = .next (s.linkDown k 3)) ∧
    (active → exec (.timeProbe l id t1 t2) s =
      .next (s.setLink k { u with ctl := u.ctl ++ [.reply id.toNat t1.toNat t2.toNat] }))

/-- A Maelid link's life. Announcements start a hunt, a recognised switch block sets the receive lanes, retraining is requested, answered
and given up, the timers of bring-up take the link into INIT or DOWN, and the register writes enable, disable, split and mask it. Rests on
parts of R303, R309, R326 to R338. Where the spec is silent it holds the model's choices of assumption log 38 (DESIGN CHOICE). -/
def Obligations.LinkBringUpAndSwitching : Prop :=
  ∀ (s : State) (l : Fin 48) (p : Fin 12) (split : BitVec 2) (mask old : BitVec 4) (sq : BitVec 12) (m : CreditInit) (reason : Byte)
    (id : BitVec 16) (t1 t2 t3 t4 : Dword), s.Inv →
    let k := l.val
    let u := s.link k
    let st := s.linkState k
    (st = 2 → m.seen = false → m.leaf = true → ∃ t, exec (.creditInit l m) s = .next t ∧ t.linkState k = 2 ∧
      t.rd (onLink LNK_CRADV k) = m.credits ∧ (t.link k).seen = true ∧ t.on (onLink LNK_STATUS.PartnerLeaf k) = true ∧
      t.fld (onLink LNK_STATUS.PartnerId k) = m.sender.toNat) ∧
    (st = 2 → m.seen = true → u.resume = false → m.leaf = true → u.retrain = none → s.backgroundOf 0x0605 (.link k) = none →
      ∃ t, exec (.creditInit l m) s = .next t ∧ t.linkState k = 3 ∧ t.rd (onLink LNK_CREDIT k) = m.credits ∧ (t.link k).buf = [] ∧
        t.fld (lkTxNext k) = 0 ∧ t.fld (lkExpect k) = 0 ∧ t.on (lkFlag k 0) = true) ∧
    (st = 3 ∨ st = 2 → exec (.laneDrop l mask old sq reason) s = .next (s.setF (lkHunting k) 1)) ∧
    (st = 3 ∨ st = 2 → exec (.laneAdd l mask old sq reason) s = .next (s.setF (lkHunting k) 1)) ∧
    (st = 2 → s.on (lkHunting k) = true → mask.toNat &&& s.maskOf k (fun n => s.laneState n == 4) ≠ 0 →
      exec (.switchBlock l mask 0 reason sq) s = .next (s.partnerSwitch k mask.toNat reason.toNat sq.toNat)) ∧
    (st = 3 → u.mine = none → exec (.retrainRequest l reason) s = .next (s.setLink k { u with
      ctl := u.ctl ++ [.flit 4 (leBytes 1 2 ++ leBytes 1 reason.toNat), .retrain], retrain := some (reason.toNat, true) })) ∧
    (∀ r j, st = 3 → u.request = some (r, j) → exec (.retrainAnswer l reason) s = .next (s.enterRetrain k r false)) ∧
    (st = 1 ∨ st = 4 → s.linkExists k = true → s.readyMask k ≠ 0 → s.maskOf k (fun n => s.on (lnError n) && !(s.lane n).skewed) &&& s.usable k = 0 →
      ∃ t, exec (.upWaitTimeout l) s = .next t ∧ t.linkState k = 2 ∧ t.on (lkHunting k) = true ∧
        (t.link k).mine = some (s.readyMask k, 0, 0) ∧ (t.link k).resume = (st == 4)) ∧
    (st = 2 → exec (.initTimeout l) s = .next (s.linkDown k 7)) ∧
    (st = 3 → s.on (lkHunting k) = true → u.request = none → exec (.huntTimeout l) s = .next (s.setLink k { u with
      request := some (1, 1), ctl := u.ctl ++ [.flit 4 (leBytes 1 1 ++ leBytes 1 1)] })) ∧
    (∀ r j, u.request = some (r, j) → j < 3 → exec (.retrainRequestTimeout l) s = .next (s.setLink k { u with
      request := some (r, j + 1), ctl := u.ctl ++ [.flit 4 (leBytes 1 1 ++ leBytes 1 r)] })) ∧
    (∀ r j, u.request = some (r, j) → 3 ≤ j → exec (.retrainRequestTimeout l) s = .next (s.linkDown k 8)) ∧
    (st = 4 → exec (.retrainTimeout l) s = .next (s.linkDown k 8)) ∧
    (st = 5 → s.on (onLink LNK_CTRL.AutoRestart k) = true → exec (.holdoffExpiry l) s = .next (s.linkTrain k)) ∧
    (st = 3 → exec (.timeReply l id t1 t2 t3 t4) s = .next (s.timeReply k t1 t2 t3 t4)) ∧
    (split.toNat < 3 → s.portIdle p = true → ∃ t, exec (.lnkPortWrite p split) s = .next t ∧ t.fld (LNK_PORT.Split p) = split.toNat ∧
      t = { s with regs := t.regs }) ∧
    (s.linkExists k = true → st = 0 → ∃ t, exec (.linkEnableWrite l true) s = .next t ∧ t.on (onLink LNK_CTRL.Enable k) = true ∧
      (t.linkState k = 1 ∨ t.linkState k = 2)) ∧
    (s.linkExists k = true → st = 0 → exec (.linkEnableWrite l false) s = .next (s.setF (onLink LNK_CTRL.Enable k) 0)) ∧
    (st = 3 → u.request = none → exec (.linkRetrainWrite l) s = .next (s.setLink k { u with
      request := some (0, 1), ctl := u.ctl ++ [.flit 4 (leBytes 1 1 ++ leBytes 1 0)] })) ∧
    (s.linkExists k = true → st = 0 → exec (.allowMaskWrite l mask) s = .next (s.setF (onLink LNK_CTRL.AllowMask k) mask.toNat))

/-- The link call slips complete where the Curator serves them, the link exists and their checks pass: a link's registers and counters are
reported, a port of DISABLED links is split, a link is configured, enabled or masked, and a retrain of an ACTIVE link is accepted. Rests
on parts of R303, R318, R326, R336, R338, R341, R344. Where the spec is silent it holds the model's choices of assumption log 38 (DESIGN
CHOICE). -/
def Obligations.LinkCommandsComplete : Prop :=
  ∀ (s : State) (h : SlipHdr) (l p split auto mask : Byte) (crto errwin timers holdoff : Word), s.Inv → s.linkNamed l = true →
    let k := l.toNat
    let u := s.link k
    let w (a : Nat) : List Byte := leBytes 4 (s.rd a).toNat
    (s.Serves h 0x0600 (.link k) → exec (.linkInfo h l) s = .next (s.replied h 0x0600 0
      (w (onLink LNK_STATUS k) ++ w (onLink LNK_SEQ k) ++ w (onLink LNK_OUTST k) ++ w (onLink LNK_CREDIT k)))) ∧
    (s.Serves h 0x0601 .none → p.toNat < 12 → split.toNat < 3 → s.portIdle p.toNat = true →
      ∃ t : State, exec (.linkPortSplit h p split) s = .next (t.replied h 0x0601 0 []) ∧ t.fld (LNK_PORT.Split p.toNat) = split.toNat ∧
        t = { s with regs := t.regs }) ∧
    (s.Serves h 0x0602 (.link k) → linkTimerOk 0 crto = true → linkTimerOk 1 errwin = true → linkTimerOk 2 timers = true →
      linkTimerOk 3 holdoff = true → exec (.linkConfig h l crto errwin timers holdoff) s = .next
        (((((s.wr (onLink LNK_CRTO k) (crto &&& 0x3FFF#32)).wr (onLink LNK_ERRWIN k) errwin).wr (onLink LNK_TIMERS k) timers).wr
          (onLink LNK_HOLDOFF k) holdoff).replied h 0x0602 0 [])) ∧
    (s.Serves h 0x0603 (.link k) → auto.toNat ≤ 1 → s.linkState k = 0 →
      exec (.linkEnable h l 0#8 auto) s = .next (((s.setF (onLink LNK_CTRL.AutoRestart k) auto.toNat).setF (onLink LNK_CTRL.Enable k) 0).replied
        h 0x0603 0 [])) ∧
    (s.Serves h 0x0603 (.link k) → auto.toNat ≤ 1 → s.linkState k = 0 →
      ∃ t : State, exec (.linkEnable h l 1#8 auto) s = .next (t.replied h 0x0603 0 []) ∧ t.on (onLink LNK_CTRL.Enable k) = true ∧
        t.on (onLink LNK_CTRL.AutoRestart k) = (auto == 1#8) ∧ (t.linkState k = 1 ∨ t.linkState k = 2)) ∧
    (s.Serves h 0x0604 (.link k) → mask.toNat < 16 → s.linkState k = 3 → s.pendingSet k &&& mask.toNat ≠ 0 →
      exec (.linkWidth h l mask) s = .next ((s.writeAllow k mask.toNat).replied h 0x0604 0 [])) ∧
    (s.Serves h 0x0605 (.link k) → s.cmd.background.length < 8 → s.linkState k = 3 → u.request = none →
      exec (.linkRetrain h l) s = .next ((s.setLink k { u with
        request := some (0, 1), ctl := u.ctl ++ [.flit 4 (leBytes 1 1 ++ leBytes 1 0)] }).started h 0x0605 (.link k) (.linkRetrain k))) ∧
    (s.Serves h 0x0606 (.link k) → exec (.linkCounters h l 0#8) s = .next (s.replied h 0x0606 0 (w (onLink LNK_CRCERR k) ++
      w (onLink LNK_NAKDISC k) ++ w (onLink LNK_DUP k) ++ w (onLink LNK_REPLAYS k) ++ w (onLink LNK_BADTYPE k)))) ∧
    (s.Serves h 0x0606 (.link k) → exec (.linkCounters h l 1#8) s = .next (s.replied h 0x0606 0 (w (onLink LNK_DOWNS k) ++
      w (onLink LNK_SWITCHES k) ++ w (onLink LNK_STALLS k) ++ leBytes 4 (s.fld (onLink LNK_OUTST.Outstanding k)) ++
      leBytes 4 (s.fld (onLink LNK_OUTST.MaxOutstanding k)))))

/-- The 128 bytes of a sequenced flit carry the flit, its trailer and its CRC: a receiver that expects the sender's sequence number finds
the CRC right, reads back every field of the flit and the trailer word, and a receiver that expects another number of the 4,096 finds the
CRC wrong. Rests on parts of R304 to R308, R310. Where the spec is silent it holds the model's choices of assumption log 41 (DESIGN
CHOICE). -/
def Obligations.FlitBytesRoundTrip : Prop :=
  ∀ (f : Flit) (w : Word) (n : Nat), f.payload.length = 116 → n < 4096 →
    let b := flitBytes (flitBody f) w.toNat (seqPrefix n)
    b.length = 128 ∧ crcOk b (seqPrefix n) = true ∧ flitOf b = f ∧ bytesAt b 120 4 = w.toNat ∧
      ∀ m < 4096, m ≠ n → crcOk b (seqPrefix m) = false

/-- An acknowledgement frees exactly the flits sent up to the number it names, oldest first; one that names a flit that is not outstanding
frees none, and what is freed is never sent again. Rests on parts of R314. -/
def Obligations.AcknowledgementFreesUpToIt : Prop :=
  ∀ (s : State) (l w : Nat), l < 48 → s.Inv → s.linkState l = 3 → w < 2 ^ 32 → w.testBit 12 = false →
    s.fld (lkCredit l (w / 2 ^ 14 % 4)) + (w / 2 ^ 16 % 256 + 256 - tget (fun _ => 0) (s.link l).counts (w / 2 ^ 14 % 4)) % 256 ≤
      s.fld (lkAdv l (w / 2 ^ 14 % 4)) → (s.link l).buf.length ≤ 2047 →
    let t := s.takeTrailer l w
    let u := s.link l
    let ack := w % 4096
    t.linkState l = 3 ∧ t.fld (lkTxNext l) = s.fld (lkTxNext l) ∧
      (∀ i, i ≤ u.buf.length → (s.oldest l + i) % 4096 = (ack + 1) % 4096 →
        (t.link l).buf = u.buf.drop i ∧ (0 < i → t.fld (lkReplays l) = 0) ∧ ∀ j, u.replay = some j →
          (t.link l).replay = if u.buf.length - i ≤ j - i ∧ 0 < i then none else some (j - i)) ∧
      ((∀ i ≤ u.buf.length, (s.oldest l + i) % 4096 ≠ (ack + 1) % 4096) → (t.link l).buf = u.buf ∧ (t.link l).replay = u.replay)

/-- The fabric's identity, routes and call slips. A route entry takes the manager's word and loses Auto; the identity is writable in
STOPPED by a node that is no member; fencing enters HELD with cause ManagerFence; reports change nothing; a link that went down hands its
flits over to the switch. Rests on parts of R345, R350 to R354, R368, R373, R378, R381, R591. Where the spec is silent it holds the
model's choices of assumption log 15 (DEDUCED). -/
def Obligations.FabricConfigurationActs : Prop :=
  ∀ (s : State) (h : SlipHdr) (d : BitVec 10) (l : Fin 48) (v node ctrl beat timeCfg : Word) (first n : BitVec 16) (count quarter entry : Byte)
    (words : List Word) (mask : List Byte), s.Inv →
    let k := l.val
    let open_ := s.sched = 0 ∧ s.on FAB_STATUS.Member = false
    let w (a : Nat) : List Byte := leBytes 4 (s.rd a).toNat
    ((s.link k).failover = true → s.linkState k = 5 → (∀ x ∈ (s.link k).handed, ∀ o, x.2 = some o → s.readWaits rqSpill o 120 = false) → ∃ t, exec (.routeFailover l) s = .next t ∧ (t.link k).failover = false ∧
      (t.link k).handed = [] ∧ t.on FAB_IRQ_STATUS.Failover = true) ∧
    (exec (.fabRouteWrite d v) s =
      .next (s.wr (FAB_ROUTE d.toNat) ((s.rd (FAB_ROUTE d.toNat) &&& 0x003F0000#32) ||| (v &&& 0x3FFF#32))).parentUpdate) ∧
    (s.Serves h 0x0611 .none → 1 ≤ count.toNat → count.toNat ≤ 12 → first.toNat + count.toNat ≤ 1024 → words.length = count.toNat →
      (∀ x ∈ words, x.toNat / 4 % 64 < 48 ∧ x.toNat / 256 % 64 < 48) → exec (.fabRouteSet h first count words) s = .next
        ((s.each words.zipIdx (fun (x : Word × Nat) t => t.writeRoute (first.toNat + x.2) x.1)).replied h 0x0611 0 [])) ∧
    (s.Serves h 0x0612 .none → n.toNat < 1024 → exec (.fabRouteRead h n) s = .next (s.replied h 0x0612 0
      (w (FAB_ROUTE n.toNat) ++ leBytes 1 (if n.toNat = s.nodeId then 0xFF else ((s.routeLink n.toNat none).map (·.1)).getD 0xFF)))) ∧
    (open_ → exec (.fabIdentityWrite 0 v) s = .next (s.putReg FAB_NODE v)) ∧
    (¬ open_ → exec (.fabIdentityWrite 0 v) s = .next s) ∧
    (exec (.fabIdentityWrite 1 v) s = .next (s.writeByCode FAB_CTRL v (if s.identityOpen then 0xFFFFFFFF#32 else 0xFFFF#32)).formCheck) ∧
    (s.Serves h 0x0613 .none → beatOk beat = true → timeCfgOk timeCfg = true → open_ → exec (.fabConfig h node ctrl beat timeCfg) s = .next
      (((((s.putReg FAB_NODE node).putReg FAB_BEAT beat).putReg FAB_TIME_CFG timeCfg).writeFabCtrl ctrl).replied h 0x0613 0 [])) ∧
    (s.Serves h 0x0614 .none → quarter.toNat < 4 → s.on FAB_STATUS.Member = false →
      ∃ t : State, exec (.fabFormSet h quarter mask) s = .next (t.replied h 0x0614 0 []) ∧ ∀ i < 8,
        t.rd (FAB_FORM (8 * quarter.toNat + i)) = BitVec.ofNat 32 (bytesAt mask (4 * i) 4)) ∧
    (s.Serves h 0x0615 .none → entry.toNat < 64 →
      exec (.fabRwinSet h entry v) s = .next ((s.putReg (STG_RWIN entry.toNat) v).replied h 0x0615 0 [])) ∧
    (s.Serves h 0x0610 .none → exec (.fabInfo h) s = .next (s.replied h 0x0610 0
      (w FAB_STATUS ++ w FAB_EPOCH ++ w FAB_WEIGHT ++ w FAB_LEADER))) ∧
    (s.Serves h 0x0616 .none → n.toNat < 1024 → n.toNat ≠ s.nodeId → s.beaconOf n.toNat = none →
      exec (.fabMemberRead h n) s = .next (s.replied h 0x0616 0 (leBytes 8 0 ++ leBytes 4 0xFFFFFFFF))) ∧
    (∀ b, s.Serves h 0x0616 .none → n.toNat < 1024 → n.toNat ≠ s.nodeId → s.beaconOf n.toNat = some b →
      exec (.fabMemberRead h n) s = .next (s.replied h 0x0616 0 (leBytes 1 b.weight ++ [b.flags] ++ leBytes 2 b.cause ++
        leBytes 4 b.epoch.toNat ++ leBytes 4 (min 0xFFFFFFFE ((s.time.local_ - b.arrived) / 1000))))) ∧
    (s.Serves h 0x0617 .none → exec (.fabTimeInfo h) s = .next (s.replied h 0x0617 0 (w FAB_TIME_STAT ++ w FAB_RATE ++
      leBytes 2 (if s.on FAB_LEADER.TkValid then s.fld FAB_LEADER.TkId else 0xFFFF)))) ∧
    (s.Serves h 0x0618 .none → s.sched = 2 → ∃ t : State, exec (.fabFence h) s = .next (t.replied h 0x0618 0 []) ∧ t.frm.fence = true ∧
      t.sched = 3 ∧ t.fld FRM_STATUS.HeldCause = 4) ∧
    (s.Serves h 0x0618 .none → s.sched ≤ 1 → exec (.fabFence h) s = .next ((({ s with frm := { s.frm with fence := true } } : State).setF
      FRM_STATUS.HeldCause 4).replied h 0x0618 0 [])) ∧
    (s.Serves h 0x0619 .none → s.frm.fence = true → s.sched = 3 → ∃ t : State, exec (.fabUnfence h) s = .next (t.replied h 0x0619 0 []) ∧
      t.frm.fence = false ∧ t.sched = 3 ∧ t.fld FRM_STATUS.HeldCause = 6) ∧
    (s.Serves h 0x0619 .none → s.frm.fence = false → exec (.fabUnfence h) s = .next (s.replied h 0x0619 0x021D []))

/-- Membership and time. A beacon is kept and makes its sender reachable, one from the own node ID sets DupId; a node without beacons
lapses; a proposal, an agreement, a roster, a join and an admission act once each; a neighbour's hops are kept; the time ticks send their
probes and TIME flits, and a lost parent loses TimeLocked. Rests on parts of R345, R353, R359 to R363, R366 to R372. Where the spec is
silent it holds the model's choices of assumption log 13 (DEDUCED), 15 (DEDUCED), 42 (DESIGN CHOICE) and 54 (DEDUCED). -/
def Obligations.MembershipAndTimeAct : Prop :=
  ∀ (s : State) (m : MemberMsg) (l : Fin 48) (n : BitVec 10) (epoch period ed : Word) (part : Fin 2) (nodes : List (BitVec 10))
    (total : BitVec 16) (rejoin stime frame : Dword) (part11 : Fin 11) (entries : List Byte) (flags : Byte) (depth : BitVec 6),
    s.Inv →
    let u := s.popInbox ftMember
    let new (msg : Nat) (i : Nat) := (msg, n.toNat, epoch.toNat, i) ∉ s.fab.seen
    let seen (msg : Nat) (i : Nat) : State := { u with fab := { u.fab with seen := u.fab.seen ++ [(msg, n.toNat, epoch.toNat, i)] } }
    let ns := nodes.map (·.toNat)
    (m.sender.toNat = s.nodeId → ∃ t, exec (.beacon m (some l)) s = .next t ∧ t.on FAB_STATUS.DupId = true ∧
      t.on FAB_IRQ_STATUS.DupId = true ∧ t.fab.beacons = s.fab.beacons) ∧
    (m.sender.toNat ≠ s.nodeId → ∃ t b, exec (.beacon m (some l)) s = .next t ∧ t.beaconOf m.sender.toNat = some b ∧
      b.epoch = m.epoch ∧ b.flags = m.flags ∧ b.weight = m.weight.toNat ∧ b.priority = m.priority.toNat ∧ b.edition = m.edition ∧
      b.arrived = s.time.local_ ∧ t.reachable m.sender.toNat = true) ∧
    (n.toNat ≠ s.nodeId → s.reachable n.toNat = true → n.toNat ∈ s.roster → exec (.beaconMiss n) s =
      .next ({ s with fab := { s.fab with lapsed := s.fab.lapsed ++ [(n.toNat, 0)] } } : State).memberUpdate) ∧
    (∀ other, new 2 part → s.fab.halves = [(2, n.toNat, epoch.toNat, 1 - part.val, other)] →
      let t : State := { seen 2 part with fab := { (seen 2 part).fab with halves := [] } }
      t.agreesTo n.toNat epoch.toNat (other ++ ns) = true → exec (.propose n epoch part nodes total) s = .next
        (t.sendMember n.toNat (leBytes 1 3 ++ [0#8] ++ leBytes 2 s.nodeId ++ leBytes 4 (s.rd FAB_EPOCH).toNat))) ∧
    (∀ p, new 3 0 → s.fab.proposal = some p → p.epoch = epoch + 1#32 →
      exec (.agree n epoch) s = .next ({ seen 3 0 with fab := { (seen 3 0).fab with
        proposal := some { p with agrees := addOnce p.agrees n.toNat } } } : State).proposalDone) ∧
    (∀ other, new 4 part → s.fab.halves = [(4, n.toNat, epoch.toNat, 1 - part.val, other)] → (s.rd FAB_EPOCH).toNat < epoch.toNat →
      ∃ t, exec (.roster n epoch part nodes total) s = .next t ∧ t.rd FAB_EPOCH = epoch ∧
        t.on FAB_STATUS.Member = (other ++ ns).contains s.nodeId ∧ t.fld FAB_WEIGHT.Total = total.toNat % 2 ^ 14 ∧ t.fab.proposal = none) ∧
    -- a repeat of (Msg, Sender, Epoch, Part) is discarded and counted
    ((5, m.sender.toNat, m.epoch.toNat, 0) ∈ s.fab.seen → exec (.join m) s = .next (u.inc FAB_DUPMSG)) ∧
    ((5, m.sender.toNat, m.epoch.toNat, 0) ∉ s.fab.seen → s.on FAB_STATUS.Member = true → s.on FAB_STATUS.Leader = true →
      ∃ t, exec (.join m) s = .next t ∧ m.sender.toNat ∈ t.fab.joins ∧ t.regs = s.regs) ∧
    ((6, m.sender.toNat, epoch.toNat, 0) ∈ s.fab.seen → exec (.admitMsg m.sender epoch n ed rejoin) s = .next (u.inc FAB_DUPMSG)) ∧
    ((6, m.sender.toNat, epoch.toNat, 0) ∉ s.fab.seen → n.toNat = s.nodeId → s.sched = 3 → s.fld FRM_STATUS.HeldCause ≠ 4 →
      s.fld FRM_STATUS.HeldCause ≠ hcResyncFailed → s.frame + 1 < rejoin.toNat → ∃ t, exec (.admitMsg m.sender epoch n ed rejoin) s = .next t ∧
      t.frm.rejoin = some (ed, rejoin) ∧ t.on FAB_STATUS.Joining = false) ∧
    (∃ t, exec (.route n part11 entries l) s = .next t ∧ ∀ i, ∀ hi : i < entries.length, i < 96 → 96 * part11.val + i < 1024 →
      tget (fun _ => 63) (t.link l).adverts (96 * part11.val + i) = entries[i].toNat % 128) ∧
    (s.on FAB_STATUS.Member = true → let dests := s.roster.filter (fun x => x != s.nodeId)
      let keep (msg : Nat) : Bool := msg != 2 && msg != 3
      let t : State := { s with fab := { s.fab with lapsed := s.fab.lapsed.map (fun (x : Nat × Nat) => (x.1, x.2 + 1)) } }
      let t : State := { t with fab := { t.fab with seen := t.fab.seen.filter (fun x => keep x.1) } }
      let t : State := { t with fab := { t.fab with halves := t.fab.halves.filter (fun x => keep x.1) } }
      let r := ((t.each dests (fun x t => t.sendMember x (t.memberPayload 1))).autoRoute (List.range 1024)).advertise
      r.memberUpdate.keepTime.on FAB_STATUS.Member = true →
      exec .beat s = .next (r.memberUpdate.keepTime.formCheck.leaderBeat.joinBeat)) ∧
    (∃ t, exec .probeTick s = .next t ∧ t.regs = s.regs ∧ ∀ x < 48, (t.link x).ctl = (s.link x).ctl ++
      if s.linkLive x = true ∨ x ∈ s.activeLeaves then [.probe (s.link x).probeId.toNat] else []) ∧
    (s.activeLeaves = [] → exec .timeTick s = .next (s.each s.liveLinks (fun x t =>
      t.enqueueFlit 49 x (mkFlit ftTime 1 (s.fld (onLink LNK_STATUS.PartnerId x)) 0 (s.timePayload x))))) ∧
    (s.on FAB_STATUS.Member = true → ∃ t, exec (.timeFlit l stime period frame n flags depth epoch) s = .next t ∧
      (t.link l).time = some (stime.toNat, period.toNat, n.toNat, flags.toNat, depth.toNat, epoch.toNat)) ∧
    (s.on FAB_STATUS.Timekeeper = false → s.standalone = false → s.on FAB_STATUS.TimeLocked = true → ∃ t,
      exec .holdoverTimeout s = .next t ∧ t.on FAB_STATUS.TimeLocked = false ∧ t.on FRM_STATUS.TimeLocked = false ∧
        t.on FAB_IRQ_STATUS.TimeLockLost = true)

/-- The local slots. Insertion, removal and the button set their status; a slot powers on and is quiesced by command, by PowerCtl or at
the end of the attention window; a missing or lost PGOOD is a power fault; a finished quiesce turns the slot off. Rests on parts of R374
to R378. Where the spec is silent it holds the model's choices of assumption log 45 (DEDUCED). -/
def Obligations.LocalSlotsAct : Prop :=
  ∀ (s : State) (h : SlipHdr) (p : Fin 12) (ind : Byte), s.Inv →
    let k := p.val
    let b : Byte := BitVec.ofNat 8 k
    let en := s.on (FAB_SLOT_CTRL.SlotEn k) = true
    let ready := en ∧ s.on (FAB_SLOT_STAT.AttnWindow k) = false ∧ s.on (FAB_SLOT_STAT.Quiescing k) = false
    (en → s.on (FAB_SLOT_STAT.Present k) = false → ∃ t, exec (.slotInsertion p) s = .next t ∧ t.on (FAB_SLOT_STAT.Present k) = true ∧
      t.on (FAB_SLOT_STAT.PresenceChanged k) = true ∧ t.on FAB_IRQ_STATUS.SlotEvent = true ∧
      (s.on (FAB_SLOT_CTRL.AutoPower k) = true → s.on (FAB_SLOT_STAT.Quiescing k) = false → t.on (FAB_SLOT_STAT.PowerOn k) = true)) ∧
    (en → s.on (FAB_SLOT_STAT.Present k) = true → ∃ t, exec (.slotRemoval p) s = .next t ∧ t.on (FAB_SLOT_STAT.Present k) = false ∧
      t.on (FAB_SLOT_STAT.PowerOn k) = false ∧ t.on (FAB_SLOT_STAT.Quiescing k) = false ∧ t.on (FAB_SLOT_STAT.PresenceChanged k) = true) ∧
    (en → s.on (FAB_SLOT_CTRL.AttnMode k) = false → s.on (FAB_SLOT_STAT.Quiescing k) = false → ∃ t, exec (.buttonPress p) s = .next t ∧
      t.on (FAB_SLOT_STAT.AttnPressed k) = true ∧ t.on (FAB_SLOT_STAT.AttnWindow k) = !s.on (FAB_SLOT_STAT.AttnWindow k)) ∧
    (s.on (FAB_SLOT_STAT.AttnWindow k) = true → ∃ t, exec (.attentionWindowEnd p) s = .next t ∧ t.on (FAB_SLOT_STAT.AttnWindow k) = false ∧
      (s.on (FAB_SLOT_STAT.PowerOn k) = true → t.on (FAB_SLOT_STAT.Quiescing k) = true ∧ ∀ i < 4, (t.link (4 * k + i)).quiet = true) ∧
      (s.on (FAB_SLOT_STAT.PowerOn k) = false → s.on (FAB_SLOT_STAT.Quiescing k) = false →
        t.on (FAB_SLOT_STAT.PowerOn k) = s.on (FAB_SLOT_STAT.Present k))) ∧
    (en → exec (.pgoodAssert p) s = .next ((s.setF (FAB_SLOT_STAT.PowerGood k) 1).slotLanes k)) ∧
    (s.on (FAB_SLOT_STAT.PowerOn k) = true → s.on (FAB_SLOT_STAT.PowerGood k) = false → ∃ t, exec (.pgoodTimeout p) s = .next t ∧
      t.on (FAB_SLOT_STAT.PowerOn k) = false ∧ t.on (FAB_SLOT_STAT.PowerFault k) = true) ∧
    (en → s.on (FAB_SLOT_STAT.PowerGood k) = true → s.on (FAB_SLOT_STAT.PowerOn k) = true →
      exec (.pgoodLoss p) s = .next (((s.setF (FAB_SLOT_STAT.PowerGood k) 0).slotFault k).slotLanes k)) ∧
    (s.on (FAB_SLOT_STAT.Quiescing k) = true → (∀ i < 4, s.linkExists (4 * k + i) = true → s.linkState (4 * k + i) = 0) →
      ∃ t, exec (.quiesceDone p) s = .next t ∧ t.on (FAB_SLOT_STAT.Quiescing k) = false ∧ t.on (FAB_SLOT_STAT.PowerOn k) = false ∧
        t.on (FAB_SLOT_CTRL.PowerCtl k) = false ∧ t.fld (FAB_SLOT_CTRL.Ind k) = 0 ∧
        ∀ i < 4, s.linkExists (4 * k + i) = true → t.on (onLink LNK_CTRL.Enable (4 * k + i)) = false) ∧
    (ready → s.on (FAB_SLOT_STAT.PowerOn k) = false → ∃ t, exec (.powerCtlWrite p true) s = .next t ∧
      t.on (FAB_SLOT_STAT.PowerOn k) = true ∧ t.on (FAB_SLOT_CTRL.PowerCtl k) = true) ∧
    (ready → s.on (FAB_SLOT_STAT.PowerOn k) = true → ∃ t, exec (.powerCtlWrite p false) s = .next t ∧
      t.on (FAB_SLOT_STAT.Quiescing k) = true ∧ t.on (FAB_SLOT_CTRL.PowerCtl k) = false) ∧
    (s.Serves h 0x061A .none → ready → ind.toNat < 4 →
      (s.on (FAB_SLOT_STAT.PowerOn k) = true → ∃ t : State, exec (.fabSlot h b 0#8 ind) s = .next (t.replied h 0x061A 0 []) ∧
        t.on (FAB_SLOT_STAT.Quiescing k) = true) ∧
      (s.on (FAB_SLOT_STAT.Present k) = true → ∃ t : State, exec (.fabSlot h b 1#8 ind) s = .next (t.replied h 0x061A 0 []) ∧
        t.on (FAB_SLOT_STAT.PowerOn k) = true) ∧
      exec (.fabSlot h b 2#8 ind) s = .next ((s.setF (FAB_SLOT_CTRL.Ind k) ind.toNat).replied h 0x061A 0 []))

/-- The host port. Configuration reads are answered, with RRS until CfgReady; PowerState moves between D0 and D3hot only; the link trains,
idles and returns to L0, sending what waited; a window commit makes all staged copies current at once or, refused, changes none, and a
revert copies them back. Rests on parts of R382 to R384, R397 to R400, R405, R409, R410, R414, R419, R510. Where the spec is silent it
holds the model's choices of assumption log 26 (PRESUMED) and 54 (DEDUCED). -/
def Obligations.HostPortActs : Prop :=
  ∀ (s : State) (h : SlipHdr) (dw : Fin 1024) (v : BitVec 2) (rate : Fin 6) (width : Fin 5) (flit : Bool) (tag : BitVec 10)
    (set index view : Byte) (w0 w1 : Word), s.Inv →
    let up := s.on HPT_STATUS.LinkUp = true
    let ready := s.on HPT_STATUS.CfgReady = true ∧ s.on HPT_STATUS.FlrActive = false
    let calm := s.host.reads = [] ∧ s.rem.out = [] ∧ s.stk.waiting = [] ∧ s.pwr.accesses = []
    let numbered : State := { s with host := { s.host with nextRead := s.host.nextRead + 1 } }
    let current (t : State) : Prop := (∀ i < 64, t.rd (HPT_WIN_CFG i) = s.rd (STG_WIN_CFG i) ∧ t.rd (HPT_WIN_TGT i) = s.rd (STG_WIN_TGT i)) ∧
      t.rd HPT_WINCOUNT = s.rd HPT_WINCOUNT + 1#32 ∧ t.on HPT_IRQ_STATUS.WinCommitted = true
    let back (t : State) : Prop := (∀ i < 64, t.rd (STG_WIN_CFG i) = s.rd (HPT_WIN_CFG i) ∧ t.rd (STG_WIN_TGT i) = s.rd (HPT_WIN_TGT i)) ∧
      t = { s with regs := t.regs }
    (up → calm → ready → exec (.configRead dw) s =
      .next (numbered.sendTlp (.completion 0 (leBytes 4 (s.configWord (4 * dw.val)).toNat) false))) ∧
    (up → calm → ¬ ready → exec (.configRead dw) s = .next (numbered.sendTlp (.completion 2 [] false))) ∧
    (ready → v.toNat = 1 ∨ v.toNat = 2 → exec (.powerStateWrite v) s = .next s.hostFlow) ∧
    (ready → calm → v.toNat = 0 ∨ v.toNat = 3 → s.fld CFG_PMCSR.PowerState ≠ v.toNat → ∃ t, exec (.powerStateWrite v) s = .next t ∧
      t.fld CFG_PMCSR.PowerState = v.toNat ∧ t.on HPT_IRQ_STATUS.DState = true) ∧
    (s.on HPT_STATUS.Perst = false → ¬ up → ∃ t, exec (.hostLinkUp rate width flit) s = .next t ∧ t.on HPT_STATUS.LinkUp = true ∧
      t.fld HPT_STATUS.Rate = rate.val ∧ t.fld HPT_STATUS.Width = 2 ^ width.val ∧ t.on HPT_STATUS.FlitMode = (flit || rate.val == 5) ∧
      t.fld HPT_STATUS.LinkPower = 0 ∧ t.on HPT_IRQ_STATUS.LinkUp = true) ∧
    (up → s.on HPT_STATUS.CfgReady = false → 2 ≤ s.fld RST_STATUS.BootState → exec .cfgReady s = .next
      ((s.setF HPT_STATUS.CfgReady 1).logEvent 0x0706 0 (leBytes 2 (min 0xFFFF s.host.perstTicks)))) ∧
    (exec (.tagQuarantineEnd tag) s = .next { s with host := { s.host with quarantine := s.host.quarantine.erase tag.toNat } }) ∧
    (up → s.fld HPT_STATUS.LinkPower ≤ 1 → 2 ≤ s.fld CFG_LNKCTL.Aspm → s.host.waiting = [] → s.host.outstanding = [] →
      exec .l1Entry s = .next (s.setF HPT_STATUS.LinkPower (if s.l1Substate then 3 else 2))) ∧
    (up → s.fld HPT_STATUS.LinkPower = 0 → s.on HPT_STATUS.FlitMode = false → s.fld CFG_LNKCTL.Aspm % 2 = 1 → s.host.waiting = [] →
      exec .l0sEntry s = .next (s.setF HPT_STATUS.LinkPower 1)) ∧
    (up → ∃ t, exec .l0Reached s = .next t ∧ t.fld HPT_STATUS.LinkPower = 0 ∧ t.host.sent = s.host.sent ++ s.host.waiting ∧
      t.host.waiting = []) ∧
    (s.windowFault = none → ∃ t, exec .winctrlCommit s = .next t ∧ current t) ∧
    (∀ i st, s.windowFault = some (i, st) → ∃ t, exec .winctrlCommit s = .next t ∧ t.on HPT_WINCTRL.Refused = true ∧
      t.on HPT_IRQ_STATUS.WinRefused = true ∧ ∀ j < 64, t.rd (HPT_WIN_CFG j) = s.rd (HPT_WIN_CFG j) ∧
        t.rd (HPT_WIN_TGT j) = s.rd (HPT_WIN_TGT j)) ∧
    (∃ t, exec .winctrlRevert s = .next t ∧ back t) ∧
    (s.Serves h 0x0700 .none → exec (.hostInfo h) s = .next (s.replied h 0x0700 0
      (leBytes 4 s.hptStatus.toNat ++ leBytes 4 s.hptTags.toNat ++ leBytes 4 (s.rd HPT_WINCOUNT).toNat))) ∧
    (s.Serves h 0x0701 .none → set = 0#8 → index.toNat < 64 → exec (.winStage h set index w0 w1) s = .next
      (((s.putReg (STG_WIN_CFG index.toNat) w0).putReg (STG_WIN_TGT index.toNat) w1).replied h 0x0701 0 [])) ∧
    (s.Serves h 0x0702 .none → s.windowFault = none → ∃ t : State, exec (.winCommit h) s =
      .next (t.replied h 0x0702 0 (leBytes 4 (s.rd HPT_WINCOUNT + 1#32).toNat)) ∧ current t) ∧
    (∀ i st, s.Serves h 0x0702 .none → s.windowFault = some (i, st) → exec (.winCommit h) s =
      .next ((s.raise HPT_IRQ_STATUS.WinRefused).replied h 0x0702 st [BitVec.ofNat 8 i, 0#8])) ∧
    (s.Serves h 0x0703 .none → ∃ t : State, exec (.winRevert h) s = .next (t.replied h 0x0703 0 []) ∧ back t) ∧
    (s.Serves h 0x0704 .none → set = 0#8 → index.toNat < 64 → view = 0#8 → exec (.winRead h set index view) s = .next (s.replied h 0x0704 0
      (leBytes 4 (s.rd (HPT_WIN_CFG index.toNat)).toNat ++ leBytes 4 (s.rd (HPT_WIN_TGT index.toNat)).toNat))) ∧
    (s.Serves h 0x0704 .none → set = 2#8 → index.toNat < 64 → view = 1#8 → exec (.winRead h set index view) s = .next (s.replied h 0x0704 0
      (leBytes 4 (s.rd (STG_RWIN index.toNat)).toNat ++ leBytes 4 0))) ∧
    (s.Serves h 0x0705 .none → exec (.hostCounters h) s = .next (s.replied h 0x0705 0 (leBytes 4 (s.rd HPT_UNEXPCPL).toNat ++
      leBytes 4 (s.rd HPT_CPLTOCNT).toNat ++ leBytes 4 (s.rd HPT_URCNT).toNat ++ leBytes 4 (s.rd HPT_CACNT).toNat ++
      leBytes 4 (s.rd HPT_CORRCNT).toNat)))

/-- The host-port resets. PERST#, a hot reset, a link down and an FLR each forget the host's reads, return PowerState to D0 and BusMaster
and RingEn to 0, and count themselves; all but an FLR take the link down, and an FLR is in progress until FLR_COMPLETE. The scheduler,
HOLD_N, the catalogue and Stacks are untouched. Rests on parts of R12, R13, R411 to R413, R493, R517. Where the spec is silent it holds
the model's choices of assumption log 25 (DEDUCED). -/
def Obligations.HostPortResetsAct : Prop :=
  ∀ (s : State), s.Inv →
    let up := s.on HPT_STATUS.LinkUp = true
    let reset (t : State) (f : Fld) (flr : Bool) : Prop := t.host.reads = [] ∧ t.fld CFG_PMCSR.PowerState = 0 ∧
      t.on CFG_CMDSTS.BusMaster = false ∧ t.on CMD_CTRL.RingEn = false ∧ t.on HPT_STATUS.FlrActive = flr ∧
      t.on HPT_STATUS.LinkUp = (flr && s.on HPT_STATUS.LinkUp) ∧ t.fld f = min 255 (s.fld f + 1) ∧ t.sched = s.sched ∧
      t.on EDG_HOLD.State = s.on EDG_HOLD.State ∧ t.cat.mem = s.cat.mem ∧ t.stk.mem = s.stk.mem
    (s.host.outstanding = [] → s.on HPT_STATUS.Perst = false → ∃ t, exec .perst s = .next t ∧ reset t HPT_RESETS.Perst false ∧
      t.on HPT_STATUS.Perst = true) ∧
    (s.host.outstanding = [] → up → ∃ t, exec .hotReset s = .next t ∧ reset t HPT_RESETS.Hot false) ∧
    (s.host.outstanding = [] → up → ∃ t, exec .hostLinkDown s = .next t ∧ reset t HPT_RESETS.LinkDown false) ∧
    (s.host.outstanding = [] → up → s.on HPT_STATUS.CfgReady = true → s.on HPT_STATUS.FlrActive = false →
      ∃ t, exec .initiateFlr s = .next t ∧ reset t HPT_RESETS.Flr true) ∧
    (s.on HPT_STATUS.FlrActive = true → ∃ t, exec .flrComplete s = .next t ∧ t.on HPT_STATUS.FlrActive = false) ∧
    (s.on HPT_STATUS.Perst = true → ∃ t, exec .perstRelease s = .next t ∧ t.on HPT_STATUS.Perst = false ∧ t.host.perstTicks = 0) ∧
    (s.on PWR_CLK.RefHostOk = true → ¬ up → exec .refclkHostLoss s = .next ((s.setF PWR_CLK.RefHostOk 0).clockEvent 2)) ∧
    (s.on PWR_CLK.RefHostOk = false → exec .refclkHostBack s = .next ((s.setF PWR_CLK.RefHostOk 1).clockEvent 3))

/-- The host's requests and the completions of the bridge's own. A read of a local window returns its bytes, a write stores them, a
request that names nothing is an Unsupported Request; a configuration write is answered and takes effect; a completion ends its request,
one without a request is unexpected; a timeout quarantines the tag. Rests on parts of R394, R397, R401 to R407, R413, R414. Where the spec
is silent it holds the model's choices of assumption log 24 (DESIGN CHOICE) and 54 (DEDUCED). -/
def Obligations.HostRequestsAct : Prop :=
  ∀ (s : State) (addr : Dword) (len : Fin 4097) (header data : List Byte) (be : List Bool) (dw : Fin 1024) (v : Word) (be4 : BitVec 4)
    (tag : BitVec 10) (o : Nat) (q : Outstanding) (m : Nat), s.Inv → s.on HPT_STATUS.LinkUp = true → s.on HPT_STATUS.FlrActive = false →
    let calm := s.host.reads = [] ∧ s.rem.out = [] ∧ s.stk.waiting = [] ∧ s.pwr.accesses = []
    let numbered : State := { s with host := { s.host with nextRead := s.host.nextRead + 1 } }
    (calm → 0 < len.val → s.targetOf addr.toNat len.val = .stacks o → s.verdict 68 o len.val false = .perform →
      (∀ w ∈ wordsOf o len.val, s.wordEcc w = 0) → exec (.memoryRead addr len ⟨be, ⟨header, .sound⟩⟩) s =
        .next ((numbered.stkRead 68 o len.val).1.sendTlp (.completion 0 (s.stkBytes o len.val) false))) ∧
    (calm → s.targetOf addr.toNat len.val = .absent → exec (.memoryRead addr len ⟨be, ⟨header, .sound⟩⟩) s =
      .next ((numbered.unsupported false header).sendTlp (.completion 1 [] false))) ∧
    (s.targetOf addr.toNat data.length = .stacks o → s.verdict 68 o data.length true = .perform →
      exec (.memoryWrite addr data be false ⟨header, .sound⟩) s = .next (s.stkWrite 68 o (enabledBytes data be) false).1) ∧
    (∀ k, s.targetOf addr.toNat 4 = .reg k → k % 4 = 0 → s.accessDomain k = none → exec (.memoryWrite addr (leBytes 4 v.toNat) [] false
      ⟨header, .sound⟩) s = .next (s.writeNow k v 0xFFFFFFFF#32)) ∧
    (s.targetOf addr.toNat data.length = .absent → exec (.memoryWrite addr data be false ⟨header, .sound⟩) s = .next (s.unsupported true header)) ∧
    exec (.memoryWrite addr data be false ⟨header, .malformed⟩) s = .next (s.aerUncorrectable 18 false header) ∧
    (s.on CFG_AERCTL.EcrcCheckEn = true →
      exec (.memoryWrite addr data be false ⟨header, .ecrc⟩) s = .next (s.aerUncorrectable 19 false header)) ∧
    (calm → s.on HPT_STATUS.CfgReady = true → exec (.configWrite dw v be4) s = .next
      (((numbered.sendTlp (.completion 0 [] false)).configEffect (4 * dw.val) v (byteMask be4) (·.initiateFlr)).hostFlow)) ∧
    (calm → s.on HPT_STATUS.CfgReady = false → exec (.configWrite dw v be4) s =
      .next (numbered.sendTlp (.completion 2 [] false)).hostFlow) ∧
    (s.outstandingTag tag.toNat = none → exec (.completion tag .success false data ⟨header, .sound⟩) s = .next
      (((s.aerUncorrectable 16 true header).inc HPT_UNEXPCPL).raise HPT_IRQ_STATUS.Unexpected)) ∧
    (s.outstandingTag tag.toNat = some q → q.abandoned = false → q.requester = .mover m → data.length = q.len → 0 < q.len →
      exec (.completion tag .success false data ⟨header, .sound⟩) s = .next ((s.requestEnded q).moverGot m q.addr (some (data, false))).hostFlow) ∧
    (s.outstandingTag tag.toNat = some q → q.abandoned = false → q.requester = .mover m →
      exec (.completion tag .unsupported false data ⟨header, .sound⟩) s = .next
        ((((s.setF CFG_CMDSTS.ReceivedMasterAbort 1).requestEnded q).moverGot m q.addr none).hostFlow)) ∧
    (s.outstandingTag tag.toNat = some q → q.abandoned = true → exec (.completionTimeout tag) s =
      .next ((if s.cplTimeout = 0 then s else (s.requestEnded q).hostFlow))) ∧
    (s.outstandingTag tag.toNat = some q → q.abandoned = false → s.cplTimeout ≠ 0 → q.requester = .mover m →
      let t := (((s.aerUncorrectable 14 false []).inc HPT_CPLTOCNT).logEvent 0x0704 q.tag (leBytes 4 m ++ leBytes 8 q.addr)).raise
        HPT_IRQ_STATUS.CplTimeout
      let u : State := { t with host := { t.host with quarantine := t.host.quarantine ++ [q.tag] } }
      exec (.completionTimeout tag) s = .next (((u.requestEnded q).moverGot m q.addr none).hostFlow))

/-- Interrupts. A due message of a sendable vector is sent and clears its count and pending bit, one that may not be sent leaves the
vector pending; a moderation timer makes its vector due; the table's and the control register's writes take effect at once; a completion
register write ends the active source it names and is stray otherwise; a doorbell raises its sources. Rests on parts of R420 to R440.
Where the spec is silent it holds the model's choices of assumption log 9 (DEDUCED) and 54 (DEDUCED). -/
def Obligations.InterruptDeliveryActs : Prop :=
  ∀ (s : State) (v : Fin 2048) (thr : Byte) (timer : BitVec 16) (mask fmask fast : Bool) (b : Fin 64) (i who : Fin 8) (db src : Byte), s.Inv →
    let k := v.val
    let valid := if fast then BAYR_BIC_FSRC.Valid b i else BAYR_BIC_NSRC.Valid b i
    let stray := ((s.inc (BAYR_BIC_STRAY b)).inc IRQ_BAY_STRAY).raise IRQ_IRQ_STATUS.Stray
    let addr := 4 * s.fld (IRQ_MSIX_W0.AddrLow k) + s.fld (IRQ_MSIX_W1.AddrHigh k) * 2 ^ 32
    (s.irq.due = [k] → s.sendable k = true → s.canRequest = true → ∃ t, exec .msixMessageCommit s = .next t ∧ t.fld (vstatCount k) = 0 ∧
      t.on (vstatTimer k) = false ∧ t.on (pbaBit k) = false ∧ t.irq.due = [] ∧
      t.host = ((s.hostGrant 32).sendTlp (.memWrite addr (leBytes 4 (s.fld (IRQ_MSIX_W2.Data k))) none false)).host) ∧
    (s.irq.due = [k] → s.sendable k = true → s.canRequest = false → exec .msixMessageCommit s = .next s) ∧
    (s.irq.due = [k] → s.sendable k = false → ∃ t, exec .msixMessageCommit s = .next t ∧ (k ≠ 15 → t.fld (vstatCount k) = 0) ∧
      t.on (pbaBit k) = true ∧ t.on IRQ_IRQ_STATUS.Withheld = true) ∧
    (s.on CFG_MSIX.Enable = true → s.on (vstatTimer k) = true → s.on (IRQ_MOD.Timer k) = true → ∃ t,
      exec (.moderationTimerExpiry v) s = .next t ∧ k ∈ t.irq.due ∧ t.regs = s.regs) ∧
    (∃ t, exec (.irqModWrite v thr timer) s = .next t ∧ t.fld (IRQ_MOD.CountThr k) = thr.toNat ∧ t.fld (IRQ_MOD.Timer k) = timer.toNat ∧
      (s.on CFG_MSIX.Enable = true → 0 < s.fld (vstatCount k) → thr.toNat ≤ s.fld (vstatCount k) → k ∈ t.irq.due)) ∧
    (∃ t, exec (.vectorMaskWrite v mask) s = .next t ∧ t.on (IRQ_MSIX_W3.Mask k) = mask ∧ (mask = false → s.on (pbaBit k) = true →
      s.on CFG_MSIX.Enable = true → s.on CFG_MSIX.FunctionMask = false → s.fld CFG_PMCSR.PowerState = 0 → k ∈ t.irq.due)) ∧
    (∃ t, exec (.msixControlWrite false fmask) s = .next t ∧ t.on CFG_MSIX.Enable = false ∧ t.on CFG_MSIX.FunctionMask = fmask ∧
      t.irq.due = [] ∧ t.on (pbaBit k) = false ∧ t.fld (vstatCount k) = 0) ∧
    (∃ t, exec (.msixControlWrite true fmask) s = .next t ∧ t.on CFG_MSIX.Enable = true ∧ t.on CFG_MSIX.FunctionMask = fmask) ∧
    (s.paired b = false → src.toNat < 56 → s.on valid = true →
      s.fld (if fast then BAYR_BIC_FSRC.Source b i else BAYR_BIC_NSRC.Source b i) = src.toNat →
      ∃ t, exec (.compWrite (.bay b i i fast) src) s = .next t ∧ t.bayActive b src.toNat = false ∧ t.on valid = false) ∧
    (s.paired b = false → s.on valid = false → exec (.compWrite (.bay b who i fast) src) s = .next stray) ∧
    (s.paired b = false → who ≠ i → exec (.compWrite (.bay b who i fast) src) s = .next stray) ∧
    ((if fast then s.irq.curFsrc else s.irq.curNsrc) = some src.toNat → src.toNat < 96 → ∃ t,
      exec (.compWrite (.curator fast) src) s = .next t ∧ t.curActive src.toNat = false ∧
        (if fast then t.irq.curFsrc else t.irq.curNsrc) = none) ∧
    ((if fast then s.irq.curFsrc else s.irq.curNsrc) ≠ some src.toNat →
      exec (.compWrite (.curator fast) src) s = .next ((s.inc IRQ_CUR_STRAY).raise IRQ_IRQ_STATUS.Stray)) ∧
    (∃ t, exec (.doorbellWrite b db) s = .next t ∧ (∀ j < 8, db.getLsbD j = true → t.bayPending b (48 + j) = true) ∧
      t = { s with regs := t.regs })

/-- Descriptor rings and movers. A doorbell write moves Tail and makes an IDLE ring ACTIVE, RING_RESUME does so after HALTED; a fetched
descriptor with Own 1 joins its ring, one with Own 0 parks it, a failed fetch halts it; a descriptor is written back in two writes and
Head moves on; a round sets the deficits; a free mover takes pending work. Rests on parts of R444, R446 to R454, R457, R465. Where the
spec is silent it holds the model's choices of assumption log 16 (DEDUCED). -/
def Obligations.DescriptorRingsAct : Prop :=
  ∀ (s : State) (r : Fin 4096) (tail : BitVec 12) (m : Fin 31) (i : Nat) (b : List Byte) (d : Desc) (rest : List Desc), s.Inv →
    let k := r.val
    let x := s.ring k
    let offered := tail.toNat < x.size ∧ s.ringHead k ≠ tail.toNat ∧ s.resetting x.owner = false ∧
      (s.ringKind k = 1 ∨ s.ringKind k = 2 ∨ s.ringKind k = 5)
    let goes (t : State) : Prop := t.ringTail k = tail.toNat ∧ t.ringState k = 2 ∧ t.ringHead k = s.ringHead k ∧
      t.on (DMA_RING_STAT.Waiting k) = false ∧ (t.ring k).parked = false
    (offered → s.ringState k = 1 → ∃ t, exec (.ringDoorbell r tail) s = .next t ∧ goes t) ∧
    (s.ringState k = 3 → exec (.ringDoorbell r tail) s = .next (s.setF (DMA_RING_DB.Tail k) (tail.toNat % x.size))) ∧
    (offered → s.ringState k = 3 → ∃ t, exec (.ringResume r tail) s = .next t ∧ goes t ∧ (t.ring k).fetched = [] ∧
      t.on (DMA_RING_STAT.FetchError k) = false ∧ t.fld (DMA_RING_STAT.LastCode k) = 0) ∧
    (s.pfail = false → (s.mover m).job = .fetch k i → (s.mover m).ready = true →
      (s.mover m).data = some b → 2 ^ 31 ≤ bytesAt b 28 4 →
        exec (.descriptorFetch m) s = .next ((s.freeMover m).setRing k { x with fetched := x.fetched ++ [descOf (s.ringKind k) b] })) ∧
    (s.pfail = false → (s.mover m).job = .fetch k i → (s.mover m).ready = true → (s.mover m).data = some b → bytesAt b 28 4 < 2 ^ 31 → ∃ t,
      exec (.descriptorFetch m) s = .next t ∧ (t.mover m).job = .idle ∧ (t.ring k).parked = true ∧ (t.ring k).fetched = x.fetched ∧
        t.on (DMA_RING_STAT.Waiting k) = true ∧ (s.ringState k = 2 → x.fetched = [] → t.ringState k = 1)) ∧
    (s.pfail = false → (s.mover m).job = .fetch k i → (s.mover m).ready = true → (s.mover m).data = none → x.fetched = [] → ∃ t,
      exec (.descriptorFetch m) s = .next t ∧ (t.mover m).job = .idle ∧ t.ringState k = 3 ∧ (t.ring k).fetched = [] ∧
        t.on (DMA_RING_STAT.FetchError k) = true ∧ t.fld (DMA_RING_STAT.LastCode k) = 0 ∧ t.on DMA_IRQ_STATUS.RingHalted = true) ∧
    (s.pfail = false → s.weightNow x.owner ≠ 0 → (s.mover m).job = .writeback k → s.canRequest = true → x.fetched = d :: rest → s.ringKind k ≠ 5 → x.sizeLog ≤ 12 →
      s.fld HPT_STATUS.LinkPower = 0 → ∃ t, exec (.descriptorWriteback m) s = .next t ∧ (t.mover m).job = .idle ∧
        t.ringHead k = (s.ringHead k + 1) % x.size ∧ (∃ more, t.host.sent = s.host.sent ++
          [.memWrite (x.base + 32 * s.ringHead k + 20) (leBytes 4 d.code ++ leBytes 4 (d.bad.getD d.len)) (s.ringPasid k) false,
           .memWrite (x.base + 32 * s.ringHead k + 28) (leBytes 4 (d.ctl.toNat % 2 ^ 31)) (s.ringPasid k) false] ++ more) ∧
        (d.code = 0 → rest.head?.any (fun e => e.code == fetchLost) = false → (t.ring k).fetched = rest) ∧
        (d.code ≠ 0 → d.code < 16 → t.ringState k = 3 ∧ t.fld (DMA_RING_STAT.LastCode k) = d.code ∧ (t.ring k).fetched = [])) ∧
    (∀ off len, (s.mover m).job = .segment k i off len → x.fetched[s.descPlace k i]? = none →
      exec (.segmentDone m) s = .next (s.freeMover m)) ∧
    (∀ off len, (s.mover m).job = .segment k i off len → s.descPlace k i = 0 → x.fetched = d :: rest → s.ringKind k = 2 →
      s.pfail = false → s.weightNow x.owner ≠ 0 → s.canRequest = true → (∀ u ∈ lineUnits (len + 1) (d.stk + off) off len, s.verdict rqMover (d.stk + u.1) u.2 false = .perform) →
      ∃ t, exec (.segmentDone m) s = .next t ∧ (t.mover m).job = .idle ∧
        ∃ e, (t.ring k).fetched = e :: rest ∧ e.running = d.running - 1 ∧
          (s.on STK_INJECT.Armed = false → (∀ w, s.wordEcc w < 2) → e.code = d.code)) ∧
    (s.dma.resets = [] → ∃ t, exec .schedulingRound s = .next t ∧ t = { s with dma := t.dma } ∧ t.dma.rings = s.dma.rings ∧
      ∀ o ∈ s.ownersOf s.pendingRings, (o = manager ∨ o < 256 ∧ s.on (CRL_STATE.Exists o) = true) → ∀ e : Int, e ≠ 0 →
        0 < s.fld (shareCur o) →
        e = min (tget (fun _ => (0 : Int)) s.dma.deficit o + s.fld (shareCur o) * s.fld DMA_QUANTUM.Bytes)
          (4 * s.fld (shareCur o) * s.fld DMA_QUANTUM.Bytes) → tget (fun _ => (0 : Int)) t.dma.deficit o = e) ∧
    ((s.mover m).job ≠ .idle → exec (.moverFree m) s = .next s) ∧
    ((s.mover m).job = .idle → s.pfail = false → s.chansReady = [] → s.pendingRings = [k] → s.weightNow x.owner ≠ 0 →
      s.writebackReady k = true → s.moversOn (isWriteback k) = false → ∃ t, exec (.moverFree m) s = .next t ∧
        (t.mover m).job = .writeback k) ∧
    (∀ f : Delivered, s.fab.inbox.find? (fun d => d.flit.type == ftBulk) = some f → s.on FAB_CTRL.BulkEn = false →
      exec .bulk s = .next ((s.popInbox ftBulk).inc FAB_BULKDROP)) ∧
    (∀ f : Delivered, s.fab.inbox.find? (fun d => d.flit.type == ftBulk) = some f → s.on FAB_CTRL.BulkEn = true → s.pfail = false →
      s.fld FAB_CTRL.BulkRing = k → s.ringKind k = 5 → s.ringState k ≠ 3 → x.fetched = d :: rest → d.code = 0 →
      s.resetting x.owner = false → x.sizeLog ≤ 12 → s.dma.bulk = [] →
      ∃ t, exec .bulk s = .next t ∧ t.fab.inbox = (s.popInbox ftBulk).fab.inbox ∧
        (s.canRequest = true → t.ringHead k = (s.ringHead k + 1) % x.size ∧ (t.ring k).fetched = rest) ∧
        (s.canRequest = false → t = { s.popInbox ftBulk with dma := t.dma } ∧ t.dma.bulk.map (·.1) = [k]))

/-- Carrels, their pages and rings, and the channels' settings. CARREL_CREATE reserves the lowest free rings and vectors, masked, and sets
Exists and Ready; a reset masks its vectors, abandons its work and, at its end, returns its rings to IDLE with Head and Tail 0; a destroy
frees them; the configuration call slips write what they name. Rests on parts of R454, R458, R460, R463, R466 to R473. Where the spec is
silent it holds the model's choices of assumption log 16 (DEDUCED). -/
def Obligations.CarrelsActAndAnswer : Prop :=
  ∀ (s : State) (h : SlipHdr) (c owner slot r16 : BitVec 16) (cf : Fin 256) (rings vectors kind sizeLog j vec : Byte) (pasid cfg blk : Word)
    (share weight : BitVec 16) (base : Dword) (x : CarrelReset) (jf : Fin 64), s.Inv →
    let k := c.toNat
    let nv := if vectors = 0#8 then 8 else vectors.toNat
    let rest (t : State) (r : Nat) : Prop := t.ringHead r = 0 ∧ t.ringTail r = 0 ∧ t.ringKind r = s.ringKind r ∧
      t.ringState r = (if s.ringKind r = 0 then 0 else 1) ∧ (t.ring r).base = (s.ring r).base ∧ (t.ring r).fetched = []
    let stopped (t : State) (c : Nat) : Prop := t.on (CRL_STATE.Resetting c) = true ∧ t.on (CRL_STATE.Ready c) = false ∧
      (∀ v ∈ s.carrelVectors c, t.on (IRQ_MSIX_W3.Mask v) = true ∧ t.on (pbaBit v) = false ∧ (16 ≤ v → t.fld (vstatCount v) = 0)) ∧
      ∀ m r, (s.mover m).job.ring? = some r → r ∈ s.carrelRings c → (t.mover m).job = .idle
    (s.Serves h 0x0710 (.carrel k) → k < 256 → s.on (CRL_STATE.Exists k) = false → 1 ≤ rings.toNat → rings.toNat ≤ 64 → nv ≤ 64 →
      pasid.toNat < 2 ^ 20 → share.toNat < 1024 → (s.freeRings rings.toNat).length = rings.toNat → (s.freeVectors nv).length = nv →
      (∀ e < 256, s.on (CRL_STATE.Exists e) = true → s.fld (CRL_PASID.Pasid e) ≠ pasid.toNat) → s.on FRM_STATUS.StagedFrozen = false →
      ∃ t : State, exec (.carrelCreate h c rings vectors pasid share) s = .next (t.replied h 0x0710 0
          (leBytes 2 k ++ leBytes 1 rings.toNat ++ leBytes 1 nv)) ∧
        t.on (CRL_STATE.Exists k) = true ∧ t.on (CRL_STATE.Ready k) = true ∧ t.fld (CRL_PASID.Pasid k) = pasid.toNat ∧
        t.fld (CRL_SHARE_C.Current k) = share.toNat ∧ t.fld (CRL_SHARE_C.Staged k) = share.toNat ∧
        t.fld (CRL_STATE.Rings k) = rings.toNat ∧ t.fld (CRL_STATE.Vectors k) = nv ∧ t.on CRL_IRQ_STATUS.Created = true ∧
        (∀ r ∈ s.freeRings rings.toNat, (t.ring r).owner = k) ∧ t.carrelRings k = s.freeRings rings.toNat ∧
        t.carrelVectors k = s.freeVectors nv ∧ ∀ v ∈ s.freeVectors nv, t.on (IRQ_MSIX_W3.Mask v) = true) ∧
    (s.Serves h 0x0710 (.carrel k) → k < 256 → s.on (CRL_STATE.Exists k) = true → 1 ≤ rings.toNat → rings.toNat ≤ 64 → nv ≤ 64 →
      pasid.toNat < 2 ^ 20 → share.toNat < 1024 →
      exec (.carrelCreate h c rings vectors pasid share) s = .next (s.replied h 0x0710 0x021E [])) ∧
    (s.on (CRL_STATE.Exists cf) = true → s.on (CRL_STATE.Resetting cf) = false → ∃ t, exec (.pageReset cf) s = .next t ∧ stopped t cf ∧
      t.on CRL_IRQ_STATUS.PageReset = true) ∧
    ((s.on (CRL_STATE.Exists cf) = false ∨ s.on (CRL_STATE.Resetting cf) = true) → exec (.pageReset cf) s = .next s) ∧
    (s.Serves h 0x0712 (.carrel k) → s.carrelNamed k = none → s.cmd.background.length < 8 → ∃ t : State,
      exec (.carrelReset h c) s = .next (t.started h 0x0712 (.carrel k) (.carrelReset k)) ∧ stopped t k) ∧
    (s.Serves h 0x0711 (.carrel k) → s.carrelNamed k = none → s.cmd.background.length < 8 → s.on FRM_STATUS.StagedFrozen = false →
      ∃ t : State, exec (.carrelDestroy h c) s = .next (t.started h 0x0711 (.carrel k) (.carrelDestroy k)) ∧ stopped t k) ∧
    (s.Serves h 0x0711 (.carrel k) → s.carrelNamed k = none → s.on FRM_STATUS.StagedFrozen = true →
      exec (.carrelDestroy h c) s = .next (s.replied h 0x0711 0x0203 [])) ∧
    (s.dma.resets.find? (fun x => x.carrel == cf.val) = some x → x.destroy = false → ∃ t, exec (.carrelResetDone cf) s = .next t ∧
      t.on (CRL_STATE.Resetting cf) = false ∧ t.on (CRL_STATE.Ready cf) = true ∧ t.on (CRP_EVENT.ResetDone cf) = true ∧
      t.on CRL_IRQ_STATUS.ResetDone = true ∧ ∀ r ∈ s.carrelRings cf, rest t r) ∧
    (s.dma.resets.find? (fun x => x.carrel == cf.val) = some x → x.destroy = true → ∃ t, exec (.carrelResetDone cf) s = .next t ∧
      t.on (CRL_STATE.Exists cf) = false ∧ t.on CRL_IRQ_STATUS.Destroyed = true ∧
      (∀ r ∈ s.carrelRings cf, (t.ring r).owner = noOwner ∧ t.ringState r = 0) ∧
      ∀ v ∈ s.carrelVectors cf, t.on (IRQ_MSIX_W3.Mask v) = true ∧ t.rd (IRQ_MSIX_W2 v) = 0#32) ∧
    (s.Serves h 0x0713 (.carrel owner.toNat) → owner.toNat ≤ 256 → (owner.toNat < 256 → s.carrelNamed owner.toNat = none) → weight.toNat < 1024 →
      s.on FRM_STATUS.StagedFrozen = false → exec (.carrelShare h owner weight) s =
        .next ((s.setF (shareStaged owner.toNat) weight.toNat).replied h 0x0713 0 [])) ∧
    (s.Serves h 0x0714 (.carrel k) → k < 256 → s.on (CRL_STATE.Exists k) = true → exec (.carrelInfo h c) s = .next (s.replied h 0x0714 0
      (s.words [CRL_STATE k, CRL_PASID k, CRL_SHARE_C k, CRL_RES k]))) ∧
    (s.Serves h 0x0715 (.carrel 256) → owner = 256#16 → slot.toNat < 4096 →
      ((s.ring slot.toNat).owner = noOwner ∨ (s.ring slot.toNat).owner = manager) → s.ringState slot.toNat ≠ 2 →
      (kind.toNat ≤ 5 → 3 ≤ sizeLog.toNat → sizeLog.toNat ≤ 12 → base.toNat % min (32 * 2 ^ sizeLog.toNat) 4096 = 0 → ∃ t : State,
        exec (.ringConfig h owner slot kind sizeLog vec base) s = .next (t.replied h 0x0715 0 (leBytes 2 slot.toNat)) ∧
          t.ring slot.toNat = ⟨manager, sizeLog.toNat, base.toNat, vec.toNat, [], false⟩ ∧ t.ringKind slot.toNat = kind.toNat ∧
          t.ringState slot.toNat = (if kind = 0#8 then 0 else 1) ∧ t.ringHead slot.toNat = 0 ∧ t.ringTail slot.toNat = 0) ∧
      (5 < kind.toNat ∨ sizeLog.toNat < 3 ∨ 12 < sizeLog.toNat →
        exec (.ringConfig h owner slot kind sizeLog vec base) s = .next (s.replied h 0x0715 0x0117 []))) ∧
    (s.Serves h 0x0716 .none → r16.toNat < 4096 → (s.ring r16.toNat).owner = manager → s.ringState r16.toNat ≠ 2 → ∃ t : State,
      exec (.ringRelease h r16) s = .next (t.replied h 0x0716 0 []) ∧ t.ring r16.toNat = Ring.zero ∧ t.ringState r16.toNat = 0) ∧
    (s.Serves h 0x0717 .none → r16.toNat < 4096 → exec (.ringInfo h r16) s = .next (s.replied h 0x0717 0
      (leBytes 2 (if (s.ring r16.toNat).owner = noOwner then 0xFFFF else (s.ring r16.toNat).owner) ++ leBytes 1 (s.ringKind r16.toNat) ++
        leBytes 1 (s.ring r16.toNat).sizeLog ++ leBytes 1 (s.ring r16.toNat).vector ++ leBytes 3 0 ++ leBytes 8 (s.ring r16.toNat).base ++
        leBytes 4 (s.rd (DMA_RING_STAT r16.toNat)).toNat))) ∧
    (s.Serves h 0x0718 .none → j.toNat < 64 → s.on FRM_STATUS.StagedFrozen = false → s.on FRM_STATUS.InGuardWindow = false →
      exec (.chanStage h j cfg blk) s = .next (((s.wr (DMA_CH_CFG j.toNat) ((cfg &&& 0x3FFF#32) ||| 0x80000000#32)).wr
        (DMA_CH_BLK j.toNat) blk).replied h 0x0718 0 [])) ∧
    (s.Serves h 0x0719 .none → exec (.dmaInfo h) s = .next (s.replied h 0x0719 0 (leBytes 4 s.dmaStatus.toNat ++
      leBytes 4 (s.rd DMA_NOTOWNED).toNat ++ leBytes 4 (s.rd DMA_ABANDON).toNat ++ leBytes 4 (s.rd DMA_DESCERR).toNat))) ∧
    (s.running = true → s.on (DMA_CH_ACFG.Enable jf) = true → s.on (DMA_CH_ACFG.Dir jf) = false →
      (s.fld FRM_GATHER.Offset ≤ s.fld (DMA_CH_ABLK.At jf) → ∃ t, exec (.channelInbound jf) s = .next t ∧
        t.on (DMA_CH_STAT.LastSkipped jf) = true ∧ t.on DMA_IRQ_STATUS.ChanSkip = true ∧ t.dma = s.dma) ∧
      (s.fld (DMA_CH_ABLK.At jf) < s.fld FRM_GATHER.Offset → (∀ m < 31, (s.mover m).job ≠ .idle) → ∃ t,
        exec (.channelInbound jf) s = .next t ∧ t.chanDue jf = s.chanDue jf ++
          [⟨s.frm.last, s.fld (DMA_CH_ACFG.Ring jf), s.fld (DMA_CH_ABLK.Elems jf) + 1, []⟩] ∧ t.regs = s.regs)) ∧
    (s.running = false → exec (.channelInbound jf) s = .next s)

/-- The command channel. A path's call slips are queued, dropped while the path is disabled and refused when 64 are queued; the host path
fetches slips contiguous in the ring, at most eight at a time, and its held return slips are written as slots come free; a console frame
is queued with a correct Crc only; a relay entry ends with its final return slip or its timeout. Rests on parts of R481, R485, R489 to
R499, R503. Where the spec is silent it holds the model's choices of assumption log 12 (DEDUCED), 27 (DESIGN CHOICE) and 55 (DEDUCED). -/
def Obligations.CommandPathsAct : Prop :=
  ∀ (s : State) (v : BitVec 12) (o : Outstanding) (hd n tag : Nat) (data slip : List Byte) (sender : BitVec 10) (seq : BitVec 16)
    (e : Relay) (r : ReturnSlip) (rest : List ReturnSlip), s.Inv →
    let size := 2 ^ s.fld CMD_CQ_SIZE.SizeLog
    let tail := v.toNat % size
    let head := s.fld CMD_CQ_HEAD.Index
    let room := 64 - s.cmd.queue.length
    -- the places of slips whose fetch is outstanding are taken
    let free := s.cmd.queue.length + s.slipsComing < 64
    let isFetch (o : Outstanding) : Bool := match o.requester with
      | .slipFetch _ _ => true
      | _ => false
    let got := parseReturn slip
    let next := (s.fld CMD_RQ_TAIL.Index + 1) % s.replySlots
    (s.on CMD_CTRL.RingEn = false → exec (.cmdDoorbellWrite v) s = .next ((s.setF CMD_DOORBELL.Index tail).inc CMD_PATHDROP)) ∧
    (s.on CMD_CTRL.RingEn = true → s.cmd.fetchStopped = false → (∀ o ∈ s.host.outstanding, isFetch o = false) → s.canRequest = true →
      s.on PWR_STATUS.Entering = false → s.freeTag = some tag → s.bufferUsed + 512 ≤ 0x10000 → s.fld HPT_STATUS.LinkPower = 0 →
      head < tail → 0 < room → ∃ t, exec (.cmdDoorbellWrite v) s = .next t ∧ t.fld CMD_DOORBELL.Index = tail ∧
        t.host.sent = s.host.sent ++ [.memRead tag (s.rd64 CMD_CQ_BASE_LO CMD_CQ_BASE_HI + 64 * head)
          (64 * min (min (tail - head) room) (min (min 8 (s.mrrs / 64)) (64 - head % 64))) none]) ∧
    (s.host.outstanding.find? isFetch = some o → o.requester = .slipFetch hd n → o.abandoned = false → s.on CMD_CTRL.RingEn = true →
      s.cmd.queue.length + n ≤ 64 → s.fld CMD_CQ_SIZE.SizeLog ≤ 12 → ∃ t, exec (.slipFetched data) s = .next t ∧
        t.cmd.queue = s.cmd.queue ++ (cutSlips n data).map (fun b => ⟨b, .host⟩) ∧ t.fld CMD_CQ_HEAD.Index = (head + n) % size) ∧
    (s.host.outstanding.find? isFetch = some o → o.requester = .slipFetch hd n → o.abandoned = false → s.on CMD_CTRL.RingEn = false →
      exec (.slipFetched data) s =
        .next ({ s with host := { s.host with outstanding := s.host.outstanding.erase o } }.incBy CMD_PATHDROP n)) ∧
    exec (.ringEnWrite false) s = .next (s.setF CMD_CTRL.RingEn 0) ∧
    (s.cmd.hold = [] → ∃ t, exec (.ringEnWrite true) s = .next t ∧ t.on CMD_CTRL.RingEn = true ∧ t.fld CMD_CQ_HEAD.Index = 0 ∧
      t.fld CMD_DOORBELL.Index = 0 ∧ t.fld CMD_RQ_TAIL.Index = 0 ∧ t.fld CMD_RQ_HEAD.Index = 0 ∧ t.on CMD_STATUS.FetchError = false ∧
      t.cmd.queue = s.cmd.queue) ∧
    (s.cmd.hold = [] → ∃ t, exec (.cmdRqHeadWrite v) s = .next t ∧ t.fld CMD_RQ_HEAD.Index = v.toNat % s.replySlots ∧ t.cmd = s.cmd) ∧
    (s.cmd.hold = [r] → s.replyUsable = true → next ≠ v.toNat % s.replySlots → s.fld CMD_RQ_SIZE.SizeLog ≤ 12 → ∃ t,
      exec (.cmdRqHeadWrite v) s = .next t ∧ t.cmd.hold = [] ∧ t.fld CMD_RQ_TAIL.Index = next ∧ t.on CMD_IRQ_STATUS.Reply = true) ∧
    (s.cmd.hold = r :: rest → s.replyUsable = false → s.on HPT_STATUS.Perst = false → s.on HPT_STATUS.FlrActive = false → ∃ t,
      exec .holdTimeout s = .next t ∧ t.cmd.hold = rest ∧
      t.cmd.queue = s.cmd.queue) ∧
    (s.cmd.hold = [] → exec .holdTimeout s = .next s) ∧
    (s.on MNT_STATUS.ConsoleMode = true → s.consoleRuns = true → slip.length = 64 →
      (slipCrcOk slip = true → s.on CMD_CTRL.ConsoleEn = true → free → exec (.callFrame slip) s =
        .next { s with mnt := { s.mnt with frame := [] }, cmd := { s.cmd with queue := s.cmd.queue ++ [⟨slip, .console⟩] } }) ∧
      (slipCrcOk slip = false → ∃ t, exec (.callFrame slip) s = .next t ∧ t.cmd = s.cmd ∧ t.on CMD_IRQ_STATUS.FormatError = true ∧
        t.rd CMD_FMTERR = (s.inc CMD_FMTERR).rd CMD_FMTERR)) ∧
    exec .frameGapTimeout s = .next { s with mnt := { s.mnt with frame := [] } } ∧
    (slip.length = 64 →
      (s.on CMD_CTRL.FabricEn = true → s.fld RST_STATUS.BootState ≠ 3 → free → exec (.slipCall sender slip) s = .next { s.popInbox ftSlip with
          cmd := { s.cmd with queue := s.cmd.queue ++ [⟨slip, .fabric sender⟩] } }) ∧
      (s.on CMD_CTRL.FabricEn = true → s.fld RST_STATUS.BootState ≠ 3 → ¬ free → ∃ t, exec (.slipCall sender slip) s = .next t ∧ t.cmd.queue = s.cmd.queue ∧
        t.on CMD_IRQ_STATUS.QueueFull = true) ∧
      -- recovery takes none from the fabric (R543)
      (s.on CMD_CTRL.FabricEn = true → s.fld RST_STATUS.BootState = 3 → exec (.slipCall sender slip) s = .next (s.popInbox ftSlip)) ∧
      (s.on CMD_CTRL.FabricEn = false → exec (.slipCall sender slip) s = .next ((s.popInbox ftSlip).inc CMD_PATHDROP))) ∧
    (slip.length = 32 →
      (s.cmd.relays.find? (fun e => e.target == sender && e.seq == got.seq) = none →
        exec (.slipReturn sender slip) s = .next ((s.popInbox ftSlip).inc CMD_LATEREPLY)) ∧
      (s.cmd.relays.find? (fun e => e.target == sender && e.seq == got.seq) = some e → got.flags.getLsbD 0 = true →
        exec (.slipReturn sender slip) s = .next ({ s.popInbox ftSlip with
          cmd := { s.cmd with relays := s.cmd.relays.erase e } }.sendReturn e.path got)) ∧
      (s.cmd.relays.find? (fun e => e.target == sender && e.seq == got.seq) = some e → got.flags.getLsbD 0 = false → ∃ t,
        exec (.slipReturn sender slip) s = .next t ∧ t.cmd.relays.length = s.cmd.relays.length)) ∧
    (s.cmd.relays.find? (fun e => e.target == sender && e.seq == seq) = none → exec (.relayTimeout sender seq) s = .next s) ∧
    (s.cmd.relays.find? (fun e => e.target == sender && e.seq == seq) = some e → ∃ t, exec (.relayTimeout sender seq) s = .next t ∧
      t.cmd.relays = s.cmd.relays.erase e ∧ t.on CMD_IRQ_STATUS.RelayTimeout = true ∧
      t.rd CMD_RELAYTOCNT = (s.inc CMD_RELAYTOCNT).rd CMD_RELAYTOCNT)

/-- The Curator at work. It takes the slip at the head of the queue, answers it with the status of the first check it fails or runs its
opcode's command; a repeat runs nothing; the information call slips answer what they name; a mismatch is retried, and one whose retry
names a core fences that core. Rests on parts of R66, R117, R236, R237, R483, R486, R487, R503. Where the spec is silent it holds the
model's choices of assumption log 12 (DEDUCED), 27 (DESIGN CHOICE), 34 (DEDUCED) and 55 (DEDUCED). -/
def Obligations.CuratorRunsCallSlips : Prop :=
  ∀ (s : State) (h : SlipHdr) (bytes : List Byte) (ce fe : Bool) (relayTo holdTo : Word) (q : QueuedSlip) (rest : List QueuedSlip)
    (op seq : BitVec 16) (k : Fin 2) (e : Repeat), s.Inv →
    let t : State := { s with cmd := { s.cmd with queue := rest } }
    let code := bytesAt q.bytes 0 2
    let params := (q.bytes.drop 8).take 52
    let own := match h.path with
      | .host => true
      | .console => ce
      | .fabric _ => fe
    (s.takesSlip = false → exec .slipExecute s = .next s) ∧
    (s.cmd.queue = [] → exec .slipExecute s = .next s) ∧
    (s.takesSlip = true → s.cmd.queue = q :: rest → slipCrcOk q.bytes = false → q.path ≠ .console → exec .slipExecute s =
      .next (t.formatError.answer q.hdr (mkReturn (BitVec.ofNat 16 code) q.hdr.seq 0x0101 [])).fetchSlips) ∧
    (s.takesSlip = true → s.cmd.queue = q :: rest → slipCrcOk q.bytes = true → bytesAt q.bytes 4 2 = 0xFFFF → opRow code = none →
      exec .slipExecute s = .next (t.formatError.answer q.hdr (mkReturn (BitVec.ofNat 16 code) q.hdr.seq 0x0102 [])).fetchSlips) ∧
    (s.takesSlip = true → s.cmd.queue = q :: rest → slipCrcOk q.bytes = true → bytesAt q.bytes 4 2 = 0xFFFF →
      bytesAt q.bytes 6 1 / 2 = 0 → code = 0x0003 → bytesAt q.bytes 7 1 ≤ 20 →
      (params.drop (bytesAt q.bytes 7 1)).all (fun b => b == 0#8) = true → ∃ u,
        exec (.echo q.hdr (params.take (bytesAt q.bytes 7 1))) t = .next u ∧ exec .slipExecute s = .next u.fetchSlips) ∧
    (s.takesSlip = true → s.curatorUp = true → s.cmd.repeats.find? (fun e => e.seq == h.seq && e.crc == h.crc) = some e →
      exec (.echo h bytes) s = .next ((s.inc CMD_REPEAT).answer h (let r := e.final.getD (mkReturn e.opcode h.seq 1 [])
        { r with flags := r.flags ||| 2#8 }))) ∧
    (s.Serves h 0x0000 .none → exec (.devInfo h) s = .next (s.replied h 0x0000 0 (s.words [DEV_IDENT, DEV_SUBSYS] ++ leBytes 2 s.nodeId ++
      leBytes 1 (s.fld DEV_BAR4.Bar4Log) ++
      leBytes 1 (s.fld FAB_STATUS.Member + 2 * s.fld FLT_STATUS.CuratorSolo + 4 * s.fld HPT_STATUS.LinkUp) ++ s.words [RST_FWVER]))) ∧
    (s.Serves h 0x0001 .none → exec (.devSerial h) s = .next (s.replied h 0x0001 0 (s.words [DEV_SERIAL_LO, DEV_SERIAL_HI]))) ∧
    (s.Serves h 0x0002 .none → exec (.fwInfo h) s = .next (s.replied h 0x0002 0 (s.words [RST_FWVER] ++ leBytes 2 s.boot.build.toNat ++
      leBytes 1 (s.fld RST_STATUS.BootSlot) ++ leBytes 1 (s.boot.verified.toNat + 2 * s.fld RST_STATUS.DebugUnlocked) ++
      padTo 12 s.boot.digest))) ∧
    (s.Serves h 0x0003 .none → bytes.length ≤ 20 → exec (.echo h bytes) s = .next (s.replied h 0x0003 0 bytes)) ∧
    (s.Serves h 0x0004 .none → (s.rd CMD_EXEC).toNat < 0xFFFFFFFF → exec (.cmdInfo h) s = .next (s.replied h 0x0004 0
      (leBytes 2 s.cmd.queue.length ++ leBytes 2 h.seq.toNat ++ leBytes 4 ((s.rd CMD_EXEC).toNat + 1) ++ s.words [CMD_FMTERR] ++
        leBytes 1 s.cmd.background.length ++ leBytes 1 s.cmd.relays.length ++ leBytes 1 (s.rd CMD_CTRL).toNat))) ∧
    (s.Serves h 0x0005 .none → own = true → 10 ≤ relayTo.toNat → relayTo.toNat ≤ 1000000 → 1 ≤ holdTo.toNat → holdTo.toNat ≤ 65535 →
      ∃ u : State, exec (.cmdConfig h ce fe relayTo holdTo) s = .next (u.replied h 0x0005 0 []) ∧ u.on CMD_CTRL.ConsoleEn = ce ∧
        u.on CMD_CTRL.FabricEn = fe ∧ u.fld CMD_RELAYTO.Ticks = relayTo.toNat ∧ u.fld CMD_HOLDTO.Ms = holdTo.toNat ∧
        u.on CMD_CTRL.RingEn = s.on CMD_CTRL.RingEn ∧ u = { s with regs := u.regs }) ∧
    (s.Serves h 0x0005 .none → own = false →
      exec (.cmdConfig h ce fe relayTo holdTo) s = .next (s.replied h 0x0005 0x0111 [])) ∧
    (s.eng.copying = false → exec .paramCopyDone s = .next s) ∧
    (s.eng.copying = true → s.cmd.held = [] → ∃ u, exec .paramCopyDone s = .next u ∧ u.eng.copying = false ∧
      u.eng.regs = s.eng.regs ∧ u.eng.imem = s.eng.imem ∧ u.regs = s.regs ∧ u.cmd = s.cmd) ∧
    (∀ again, (s.curatorUp = false ∨ s.on FLT_STATUS.CuratorSolo = true) → exec (.curatorMismatch op seq again) s = .next s) ∧
    (s.curatorUp = true → s.on FLT_STATUS.CuratorSolo = false →
      (∃ u, exec (.curatorMismatch op seq none) s = .next u ∧ u.on FLT_IRQ_STATUS.CuratorRetry = true ∧
        u.rd FLT_CURRETRY = (s.inc FLT_CURRETRY).rd FLT_CURRETRY ∧ u.on FLT_STATUS.CuratorSolo = false) ∧
      (∃ u, exec (.curatorMismatch op seq (some (some k))) s = .next u ∧ u.on FLT_STATUS.CuratorSolo = true ∧
        u.fld FLT_STATUS.FencedCore = k.val ∧ u.on FLT_IRQ_STATUS.CuratorSolo = true) ∧
      ∃ u, exec (.curatorMismatch op seq (some none)) s = .next u ∧ u.rst.phase = .asserted ∧ srcLockup ∈ u.rst.asserted)

/-- The maintenance call slips and the self-tests. A monitor, a lamp or the console takes settings of its table and refuses others;
FUSE_PROGRAM blows no bit it was not asked to and clears none; a flash write stores the source's bytes; a self-test that may run is
accepted, and its end keeps its result and sets BistDone. Rests on parts of R510, R549, R558 to R565. Where the spec is silent it holds
the model's choices of assumption log 20 (DESIGN CHOICE), 29 (DESIGN CHOICE), 30 (DESIGN CHOICE) and 57 (DEDUCED). -/
def Obligations.MaintenanceCommandsComplete : Prop :=
  ∀ (s : State) (h : SlipHdr) (source div w failing : BitVec 16) (led pattern mode slot test : Byte) (baud bits key flash stk len options
    detail duration : Word) (unit : BitVec 16) (outcome : Fin 3) (g : Background) (u : State) (bs : List Byte) (o src n : Nat), s.Inv →
    let k := w.toNat
    let isWrite (g : Background) : Bool := match g.cmd with
      | .flashWrite _ _ _ => true
      | _ => false
    let run : Instr := .fuseProgram h w bits key
    (s.Serves h 0x0900 .none → exec (.mntInfo h) s = .next (s.replied h 0x0900 0 (leBytes 1 (s.fld MNT_STATUS.ConsoleMode) ++
      leBytes 3 0 ++ leBytes 4 (48000000 / (16 * s.fld MNT_CONSOLE.Div + s.fld MNT_CONSOLE.Frac)) ++ leBytes 2 0x5A ++
      leBytes 2 (s.fld MNT_AMON.Source) ++ leBytes 2 (s.fld MNT_FMON.Source) ++ leBytes 2 (s.fld MNT_FMON.Div) ++ leBytes 1 s.ledA ++
      leBytes 1 s.ledB))) ∧
    (s.Serves h 0x0903 .none → exec (.amonSelect h source) s = .next (if source.toNat ≤ 12 then
      (s.setF MNT_AMON.Source source.toNat).replied h 0x0903 0 [] else s.replied h 0x0903 0x0111 [])) ∧
    (s.Serves h 0x0904 .none → exec (.fmonSelect h source div) s = .next (if s.fmonOk source.toNat div.toNat = true then
      ((s.setF MNT_FMON.Source source.toNat).setF MNT_FMON.Div div.toNat).replied h 0x0904 0 [] else s.replied h 0x0904 0x0111 [])) ∧
    (s.Serves h 0x0905 .none → led.toNat ≤ 1 → (pattern.toNat ≤ 4 ∨ 0x11 ≤ pattern.toNat ∧ pattern.toNat ≤ 0x1F ∨ pattern = 0xFF#8) →
      exec (.ledSet h led pattern) s = .next ((s.setF (if led = 0#8 then MNT_LED.PatternA else MNT_LED.PatternB)
        pattern.toNat).replied h 0x0905 0 [])) ∧
    (s.Serves h 0x0906 .none → baudOk baud.toNat = true → mode.toNat ≤ 1 → ∃ t : State, exec (.consoleConfig h baud mode) s =
      .next (t.replied h 0x0906 0 []) ∧ 16 * t.fld MNT_CONSOLE.Div + t.fld MNT_CONSOLE.Frac = baudDivider baud.toNat ∧
        t.fld MNT_CONSOLE.ModeAfterReset = mode.toNat ∧ t.fld MNT_STATUS.ConsoleMode = s.fld MNT_STATUS.ConsoleMode) ∧
    (s.Serves h 0x0907 .none → k ≤ 0x41F → exec (.fuseRead h w) s = .next (s.replied h 0x0907 0 (leBytes 4 (s.otpWord k).toNat))) ∧
    (s.Serves h 0x0908 .none → key = 0xA55A5AA5#32 → fuseProgrammable k = true →
      (s.fuseLocked k = true → exec run s = .next (s.replied h 0x0908 0x0222 [])) ∧
      (s.otpWord k &&& bits ≠ 0#32 → exec run s = .next (s.replied h 0x0908 0x0222 [])) ∧
      (s.fuseLocked k = false → s.otpWord k &&& bits = 0#32 → s.supplied 6 = false →
        exec run s = .next (s.replied h 0x0908 0x0223 [])) ∧
      (s.fuseLocked k = false → s.otpWord k &&& bits = 0#32 → s.supplied 6 = true → ∃ (t : State) (new : Word),
        exec run s = .next (t.replied h 0x0908 0 (leBytes 4 new.toNat)) ∧ (new ≠ 0#32 → t.otpWord k = new) ∧
          (∀ i < 32, (s.otpWord k).getLsbD i = true → new.getLsbD i = true) ∧
          (∀ i < 32, new.getLsbD i = true → (s.otpWord k).getLsbD i = true ∨ bits.getLsbD i = true) ∧
          (∀ j, j ≠ k → t.otpWord j = s.otpWord j) ∧ t.boot.fuses = s.boot.fuses ∧ t.on MNT_IRQ_STATUS.FuseProgrammed = true)) ∧
    (s.Serves h 0x0908 .none → (key ≠ 0xA55A5AA5#32 ∨ fuseProgrammable k = false) →
      exec run s = .next (s.replied h 0x0908 0x0111 [])) ∧
    (s.Serves h 0x0909 .none → 0 < len.toNat → flash.toNat + len.toNat ≤ flashSize → 0x200000 ≤ stk.toNat →
      stk.toNat + len.toNat ≤ 0x6000000 → s.cmd.background.length < 8 →
      exec (.flashWrite h flash stk len) s = .next (s.started h 0x0909 .none (.flashWrite flash.toNat stk.toNat len.toNat))) ∧
    (s.cmd.background.find? isWrite = some g → g.cmd = .flashWrite o src n →
      (s.stkRead rqCurator src n = (u, .data bs) → ∃ t : State, exec (.flashWriteDone false) s = .next (t.finishBackground g 0 []) ∧
        (∀ i, i < bs.length → tget (fun _ => 0xFF#8) t.boot.flash (o + i) = bs.getD i 0#8) ∧
        ∀ a, (a < o ∨ o + bs.length ≤ a) → tget (fun _ => 0xFF#8) t.boot.flash a = tget (fun _ => 0xFF#8) s.boot.flash a) ∧
      (s.stkRead rqCurator src n = (u, .poison) → exec (.flashWriteDone false) s = .next (u.finishBackground g 0x0403 [])) ∧
      ∃ t : State, exec (.flashWriteDone true) s = .next (t.finishBackground g 0x0404 []) ∧ t.regs = s.regs ∧
        ∀ a, (a < o ∨ o + n ≤ a) → tget (fun _ => 0xFF#8) t.boot.flash a = tget (fun _ => 0xFF#8) s.boot.flash a) ∧
    (s.Serves h 0x090A .none → slot.toNat ≤ 1 → exec (.flashVerify h slot) s = .next (if s.slotReason slot.toNat = 0 then
      s.replied h 0x090A 0 (leBytes 4 1 ++ leBytes 4 (Config.slotVersion s.boot.flash slot.toNat).toNat) else if
      s.slotReason slot.toNat = 6 then s.replied h 0x090A 0x0404 [] else s.replied h 0x090A 0x0405 [])) ∧
    (s.Serves h 0x0901 (bistUnit test.toNat unit.toNat) → bistValid test.toNat unit.toNat options.toNat = true →
      (s.bistState test.toNat = true → s.bistBars test.toNat unit.toNat = 0 → s.cmd.background.length < 8 →
        exec (.bistRun h test unit options) s = .next (s.started h 0x0901 (bistUnit test.toNat unit.toNat)
          (.bist test.toNat unit.toNat options.toNat))) ∧
      (s.bistState test.toNat = false → exec (.bistRun h test unit options) s = .next (s.replied h 0x0901 0x0204 []))) ∧
    (s.Serves h 0x0901 (bistUnit test.toNat unit.toNat) → bistValid test.toNat unit.toNat options.toNat = false →
      exec (.bistRun h test unit options) s = .next (s.replied h 0x0901 0x0111 [])) ∧
    (s.bistsRunning.find? (fun x => x.2.1 == test.toNat && x.2.2 == unit.toNat) = some (g, test.toNat, unit.toNat) →
      (test = 3#8 ∨ test = 4#8 → s.accessesOut = 0) → ∃ t,
      exec (.bistComplete test unit outcome failing detail duration) s = .next t ∧ t.on MNT_IRQ_STATUS.BistDone = true ∧
        t.fld MNT_BIST.Test = test.toNat ∧ t.fld MNT_BIST.Outcome = outcome.val ∧ t.fld MNT_BIST.Unit = failing.toNat ∧
        tget (fun _ => none) t.mnt.runs test.toNat = some ⟨outcome.val, failing.toNat, detail, duration⟩ ∧
        (test = 1#8 → outcome.val = 1 → detail.toNat % 256 < 2 → t.on FLT_STATUS.CuratorSolo = true ∧
          t.fld FLT_STATUS.FencedCore = detail.toNat % 256)) ∧
    (s.bistsRunning.find? (fun x => x.2.1 == test.toNat && x.2.2 == unit.toNat) = none →
      exec (.bistComplete test unit outcome failing detail duration) s = .next s) ∧
    (s.Serves h 0x0902 .none → (1 ≤ test.toNat ∧ test.toNat ≤ 0x0A ∨ test = 0xF0#8) → exec (.bistResult h test) s = .next
      (s.replied h 0x0902 0 (((tget (fun _ => none) s.mnt.runs test.toNat).getD ⟨2, 0, 0#32, 0#32⟩).bytes)))

/-- The console, M2W and the TAP. A text command is queued as the call slips of its row, a typed line acts as the command it spells, a
break returns the console to text mode; an M2W read takes the bytes at its pointer and a write of 0x80 acts; a test instruction holds the
pins only while RESET_N is recognised low. Rests on parts of R495, R548 to R557, R566, R567. Where the spec is silent it holds the model's
choices of assumption log 28 (DESIGN CHOICE) and 31 (DESIGN CHOICE). -/
def Obligations.ConsoleM2wAndTapAct : Prop :=
  ∀ (s : State) (l pattern test ptr c : Byte) (source div seq op node w : BitVec 16) (rate : Word) (params bs data : List Byte)
    (n : Fin 257) (i j : Nat), s.Inv →
    let runs := s.textRuns = true ∧ s.on CMD_CTRL.ConsoleEn = true
    let room := 64 - (s.cmd.queue.length + s.slipsComing)
    let q := s.mnt.seq
    -- one call slip of a text command, queued
    let typed (x : Instr) (op : Nat) (ps : List Byte) (a : TextAns) : Prop := runs → 0 < room → exec x s = .next { s with
      mnt := { s.mnt with seq := q + 1#16, texts := s.mnt.texts.filter (fun x => x.1 != q.toNat) ++ [(q.toNat, a)] },
      cmd := { s.cmd with queue := s.cmd.queue ++ [⟨slipBytes op q.toNat 0xFFFF ps, .console⟩] } }
    let line (bs : List Byte) : State := { s with mnt := { s.mnt with line := some bs } }
    let works := s.m2wWorks = true
    let low := srcResetPin ∈ s.rst.asserted
    typed (.textLane l) 0x0680 [l] (.fields "LANE") ∧ typed (.textLink l) 0x0600 [l] (.fields "LINK") ∧
    typed (.textAmon source) 0x0903 (leBytes 2 source.toNat) .ok ∧
    typed (.textFmon source div) 0x0904 (leBytes 2 source.toNat ++ leBytes 2 div.toNat) .ok ∧
    typed (.textLed l pattern) 0x0905 [l, pattern] .ok ∧
    typed (.textBist test none none) 0x0901 ([test, 0#8] ++ leBytes 2 0xFFFF ++ leBytes 4 0) (.bist test.toNat 0xFFFF) ∧
    typed (.textBistQuery test) 0x0902 [test] (.bist test.toNat 0x10000) ∧
    typed (.textFuse w none) 0x0907 (leBytes 2 w.toNat) .word ∧
    typed (.textBaud rate none) 0x0906 (leBytes 4 rate.toNat ++ leBytes 1 (s.fld MNT_CONSOLE.ModeAfterReset)) .ok ∧
    (runs → 2 ≤ room → ∃ t, exec .textInfo s = .next t ∧ t.cmd.queue = s.cmd.queue ++
      [⟨slipBytes 0x0000 q.toNat 0xFFFF [], .console⟩, ⟨slipBytes 0x0002 (q + 1#16).toNat 0xFFFF [], .console⟩]) ∧
    (runs → 3 ≤ room → ∃ t, exec .textStatus s = .next t ∧ t.cmd.queue = s.cmd.queue ++
      [⟨slipBytes 0x0100 q.toNat 0xFFFF [], .console⟩, ⟨slipBytes 0x0500 (q + 1#16).toNat 0xFFFF [], .console⟩,
       ⟨slipBytes 0x0610 (q + 2#16).toNat 0xFFFF [], .console⟩]) ∧
    (runs → 1 ≤ l.toNat → l.toNat ≤ 64 → 2 * l.toNat < room → ∃ t, exec (.textLog (some l)) s = .next t ∧
      t.cmd.queue.length = s.cmd.queue.length + 1 + 2 * l.toNat) ∧
    (s.textRuns = true → s.on CMD_CTRL.ConsoleEn = false → ∀ x ∈ ([.textHelp, .textFramed, .textInfo, .textStatus,
      .textLane l, .textLog (some l)] : List Instr), exec x s = .next (s.inc CMD_PATHDROP)) ∧
    (runs → exec .textHelp s = .next s.textHelp ∧ s.textHelp.cmd = s.cmd ∧ s.textHelp.regs = s.regs) ∧
    (runs → ∃ t, exec .textFramed s = .next t ∧ t.on MNT_STATUS.ConsoleMode = true ∧
      t.mnt.tx = s.mnt.tx ++ ascii "OK FRAMED" ++ s.prompt ∧ t.cmd = s.cmd) ∧
    (runs → 0 < room → exec (.textSlip seq op (some node) params) s = .next { s with
      cmd := { s.cmd with queue := s.cmd.queue ++ [⟨slipBytes op.toNat seq.toNat node.toNat params, .console⟩] } }) ∧
    ((slipBytes op.toNat seq.toNat node.toNat params).length = 64 ∧
      slipCrcOk (slipBytes op.toNat seq.toNat node.toNat params) = true) ∧
    (s.textRuns = false → exec .textLine s = .next s ∧ exec .textInfo s = .next s ∧ exec .textFramed s = .next s) ∧
    (s.textRuns = true → exec .textLine (line (ascii "HELP")) = exec .textHelp (line []) ∧
      exec .textLine (line (ascii "INFO")) = exec .textInfo (line []) ∧
      exec .textLine (line (ascii "STATUS")) = exec .textStatus (line []) ∧
      exec .textLine (line (ascii "FRAMED")) = exec .textFramed (line [])) ∧
    (s.textRuns = true → exec .textLine (line []) = .next ((line []).consoleOut s.prompt)) ∧
    (s.textRuns = true → s.mnt.line = none → ∃ t, exec .textLine s = .next t ∧ t.mnt.line = some [] ∧
      t.rd MNT_LINEDROP = (s.inc MNT_LINEDROP).rd MNT_LINEDROP) ∧
    (s.textRuns = true → s.mnt.line = some bs → c ≠ 13#8 → c ≠ 10#8 → c ≠ 8#8 → c ≠ 0x7F#8 → c ≠ 0x15#8 →
      exec (.characterReceived c true) s = .next { s with
        mnt := { s.mnt with cr := false, tx := s.mnt.tx ++ [c], line := if bs.length < 160 then some (bs ++ [c]) else none } }) ∧
    (s.textRuns = true → s.mnt.line = some bs → exec (.characterReceived 8#8 true) s = .next { s with
      mnt := { s.mnt with cr := false, tx := s.mnt.tx ++ [8#8], line := some bs.dropLast } }) ∧
    (s.consoleRuns = true → ∃ t, exec (.characterReceived c false) s = .next t ∧ t.on MNT_IRQ_STATUS.UartError = true ∧
      t.rd MNT_UARTERR = (s.inc MNT_UARTERR).rd MNT_UARTERR ∧ t.mnt = s.mnt) ∧
    (∃ t, exec .uartBreak s = .next t ∧ t.on MNT_STATUS.ConsoleMode = false ∧ t.mnt.line = some [] ∧ t.mnt.frame = [] ∧
      t.on MNT_IRQ_STATUS.Break = true ∧ t.rd MNT_BREAKS = (s.inc MNT_BREAKS).rd MNT_BREAKS ∧ t.rd MNT_CONSOLE = s.rd MNT_CONSOLE) ∧
    (∃ t, exec .longBreak s = .next t ∧ t.on MNT_STATUS.ConsoleMode = false ∧ t.mnt.line = some [] ∧ t.mnt.frame = [] ∧
      t.on MNT_IRQ_STATUS.Break = true ∧ t.fld MNT_CONSOLE.Div = 26 ∧ t.fld MNT_CONSOLE.Frac = 1 ∧
      t.fld MNT_CONSOLE.ModeAfterReset = 0) ∧
    (works → ∃ t, exec (.m2wRead n) s = .next t ∧ t.mnt.m2wPtr = s.mnt.m2wPtr + BitVec.ofNat 8 n ∧
      t.mnt.m2wOut = (List.range n).map (fun i => let a := (s.mnt.m2wPtr.toNat + i) % 256
        -- bit 3 of byte 3 is the HOLD_N pin, low
        s.m2wByte a ||| if a = 3 ∧ s.holdPin.2 = false then 8#8 else 0#8)) ∧
    (s.m2wByte 0 = 0x60#8 ∧ s.m2wByte 1 = 0x72#8 ∧ s.m2wByte 2 = 0xB0#8 ∧ (i < 16 → j < 4 →
      (s.m2wByte (0x10 + 4 * i + j)).toNat = (s.rd (RST_BACKUP i)).toNat / 2 ^ (8 * j) % 256)) ∧
    (works → ∃ t, exec (.m2wWrite ptr data) s = .next t ∧ t.mnt.m2wPtr = ptr + BitVec.ofNat 8 data.length) ∧
    (works → s.on PWR_STATUS.CoreGood = true → s.rst.stage ≠ .asleep → ∃ t, exec (.m2wWrite 0x80#8 [2#8]) s = .next t ∧
      t.on EDG_HOLD.State = true ∧ t.on MNT_IRQ_STATUS.M2wCommand = true) ∧
    (works → s.on PWR_STATUS.CoreGood = true → ∃ t, exec .m2wHold s = .next t ∧ t.on EDG_HOLD.State = true ∧
      t.on MNT_IRQ_STATUS.M2wCommand = true) ∧
    (works → s.on PWR_STATUS.CoreGood = false → ∃ t, exec .m2wHold s = .next t ∧ t.rst.holdDue = true ∧
      t.on MNT_IRQ_STATUS.M2wCommand = true) ∧
    (works → s.rst.stage = .asleep → ∃ t, exec .m2wWake s = .next t ∧ t.rst.stage = .awake ∧ t.fld PWR_WAKE.Source = 1 ∧
      t.on MNT_IRQ_STATUS.M2wCommand = true) ∧
    (¬ works → exec (.m2wWrite ptr data) s = .next s ∧ exec (.m2wRead n) s = .next s) ∧
    (∀ p ∈ ([(.tapReset, 1#8), (.idcode, 1#8), (.samplePreload, 2#8), (.bypass, 0xFF#8)] : List (Instr × Byte)), s.tapWorks = true →
      ∃ t, exec p.1 s = .next t ∧ t = { s with mnt := { s.mnt with tap := p.2 } } ∧ t.jtagTest = false ∧ t.tapActs = p.2) ∧
    -- a test instruction acts, and holds the pins, while RESET_N is recognised low; else BYPASS acts in its place
    (∀ p ∈ ([(.extest, 0#8), (.clamp, 4#8), (.highz, 5#8), (.extestPulse, 8#8), (.extestTrain, 9#8)] : List (Instr × Byte)),
      s.tapWorks = true → ∃ t, exec p.1 s = .next t ∧ t = { s with mnt := { s.mnt with tap := p.2 } } ∧
        (t.jtagTest = true ↔ low) ∧ (low → t.tapActs = p.2) ∧ (¬ low → t.tapActs = 0xFF#8)) ∧
    (s.tapWorks = false → exec .extest s = .next s ∧ exec .idcode s = .next s)

/-- Resets and start-up. A source that asserts begins an episode in which the scheduler is in STOPPED with edition 0, HOLD_N is asserted
and the backup registers keep their values; Stacks keeps its bytes at Warm reach only; start-up goes through its phases in order to the
firmware's start. Rests on parts of R7, R17, R514, R516, R517, R532 to R537, R541 to R544. Where the spec is silent it holds the model's
choices of assumption log 20 (DESIGN CHOICE), 35 (DESIGN CHOICE) and 56 (DEDUCED). -/
def Obligations.ResetEpisodesAndStartUpAct : Prop :=
  ∀ (s : State) (h : SlipHdr) (reach : Byte) (key v : Word) (low : Bool) (c : Option (Fin 2)) (romOk : Bool) (src : Nat), s.Inv →
    let asserts (t : State) (src : Nat) : Prop := t.rst.phase = .asserted ∧ src ∈ t.rst.asserted ∧ t.fld RST_STATUS.BootState = 0 ∧
      t.sched = 0 ∧ t.rd FRM_EDITION = 0#32 ∧ t.on EDG_HOLD.State = true ∧ t.cmd = State.reset.cmd ∧ t.dma = State.reset.dma ∧
      t.boot.otp = s.boot.otp ∧ t.boot.flash = s.boot.flash ∧ ∀ i < 16, t.rd (RST_BACKUP i) = s.rd (RST_BACKUP i)
    let warm (t : State) (src : Nat) : Prop := asserts t src ∧ ∀ o, t.stkByte o = s.stkByte o
    let system (t : State) (src : Nat) : Prop := asserts t src ∧ ∀ o, t.stkByte o = 0#8
    let xtal := (tget (fun _ => 0#32) s.boot.fuses 0x406).getLsbD 0 = true
    let debug := (tget (fun _ => 0#32) s.boot.fuses 0x406).getLsbD 1 = true
    let cores := s.on PWR_STATUS.CoreGood = true ∧ s.on PWR_STATUS.SramGood = true
    -- a Cold start
    (∃ t, exec .powerOn s = .next t ∧ t.rst.phase = .fuses ∧ t.pending = s.pending ∧ t.boot.otp = s.boot.otp ∧
      t.boot.flash = s.boot.flash ∧ t.cmd = State.reset.cmd ∧ t.stk = State.reset.stk ∧
      (s.rst.low.Nodup → t.supplied 0 = true) ∧ srcPowerOn ∈ t.rst.seen ∧
      -- after a brown-out it joins the episode that the brown-out began
      (s.supplied 0 = false → exec (.brownOut .aon false) s = .next t ∧ ∀ x ∈ s.rst.seen, x ∈ t.rst.seen) ∧
      ∀ i < 16, t.rd (RST_BACKUP i) = 0#32) ∧
    (∃ t, exec (.brownOut .aon true) s = .next t ∧ t.rst.asserted = [srcBrownAon] ∧ t.rst.phase = .asserted ∧ t.supplied 0 = false ∧
      ∀ i < 16, t.rd (RST_BACKUP i) = 0#32) ∧
    (s.rst.stage ≠ .asleep → ∃ t, exec (.brownOut .core true) s = .next t ∧ system t srcBrownCore ∧ t.on PWR_STATUS.CoreGood = false ∧
      t.fld (PWR_DOM.State 2) = 0) ∧
    (∃ t, exec (.brownOut .sram true) s = .next t ∧ system t srcBrownCore ∧ t.on PWR_STATUS.SramGood = false) ∧
    exec (.brownOut .vpp low) s = .next (s.setSupply 6 low) ∧
    (∃ t, exec .coreGood s = .next t ∧ t.on PWR_STATUS.CoreGood = true ∧ t.on PWR_STATUS.SramGood = true ∧
      (s.rst.low.Nodup → t.supplied 1 = true ∧ t.supplied 2 = true) ∧ (s.rst.phase = .core → t.rst.phase = .pll) ∧
      (s.rst.holdDue = true → t.on EDG_HOLD.State = true ∧ t.fld EDG_HOLD.Cause = 0 ∧ t.rst.holdDue = false)) ∧
    -- the sources
    (srcResetPin ∉ s.rst.asserted → ∃ t, exec (.resetPin true) s = .next t ∧ system t srcResetPin) ∧
    (srcResetPin ∈ s.rst.asserted → exec (.resetPin true) s = .next s) ∧
    (∃ t, exec (.resetPin false) s = .next t ∧ t = s.sourceEnds srcResetPin ∧ (s.rst.asserted.Nodup → t.jtagTest = false)) ∧
    (s.on RST_WDT_CFG.Enable = true →
      ((s.rd RST_WDT_TO).toNat ≤ (s.rd RST_WDT_COUNT).toNat →
        ∃ t, exec .watchdogExpiry s = .next t ∧ warm t srcWatchdog ∧ t.rd RST_WDT_COUNT = 0#32) ∧
      ((s.rd RST_WDT_TO).toNat ≤ 2 * (s.rd RST_WDT_COUNT).toNat →
        ∃ t, exec .wdtHalf s = .next t ∧ t.on RST_IRQ_STATUS.WdtHalf = true)) ∧
    -- a kick in time stops the expiry
    ((s.rd RST_WDT_COUNT).toNat < (s.rd RST_WDT_TO).toNat → exec .watchdogExpiry s = .next s) ∧
    (s.on RST_WDT_CFG.Enable = false → exec .watchdogExpiry s = .next s ∧ exec .wdtHalf s = .next s) ∧
    (srcClockFail ∉ s.rst.asserted → ∃ t, exec .clockFail s = .next t ∧ warm t srcClockFail ∧ t.on PWR_CLK.RefSysOk = false) ∧
    exec .clockRecover s = .next ((s.setF PWR_CLK.RefSysOk 1).sourceEnds srcClockFail) ∧
    (s.tapWorks = true → debug → ∃ t, exec .debugReset s = .next t ∧ warm t srcDebug ∧ t.mnt.tap = 0x40#8) ∧
    (s.tapWorks = true → ¬ debug → exec .debugReset s = .next { s with mnt := { s.mnt with tap := 0xFF#8 } }) ∧
    (s.tapWorks = false → exec .debugReset s = .next s) ∧
    (v.toNat / 256 = 0xA55A5A → ∃ t, exec (.rstSwreqWrite v) s = .next t ∧
      (if v.toNat % 2 = 0 then warm t srcSoftWarm else system t srcSoftSystem)) ∧
    (v.toNat / 256 ≠ 0xA55A5A → exec (.rstSwreqWrite v) s = .next s) ∧
    (s.Serves h 0x0807 .none → s.cmd.background = [] → reach.toNat ≤ 1 → key = 0xA55A5AA5#32 → ∃ t,
      exec (.rstRequest h reach key) s = .next t ∧ asserts t (if reach = 0#8 then srcSoftWarm else srcSoftSystem)) ∧
    (s.Serves h 0x0807 .none → s.cmd.background = [] → (1 < reach.toNat ∨ key ≠ 0xA55A5AA5#32) →
      exec (.rstRequest h reach key) s = .next (s.replied h 0x0807 0x0111 [])) ∧
    -- the crystal
    (xtal → s.rst.xtalFallen = false → exec .xtalSwitch s = .next (s.setF PWR_CLK.AoSource 1)) ∧
    (¬ xtal → exec .xtalSwitch s = .next s ∧ exec .xtalStartTimeout s = .next s) ∧
    (xtal → s.on PWR_CLK.AoSource = false → ∃ t, exec .xtalStartTimeout s = .next t ∧ t.on PWR_CLK.XtalFailed = true ∧
      t.rst.xtalFallen = true) ∧
    (s.on PWR_CLK.AoSource = true → ∃ t, exec .xtalStop s = .next t ∧ t.on PWR_CLK.AoSource = false ∧ t.on PWR_CLK.XtalFailed = true ∧
      t.rst.xtalFallen = true ∧ t.on PWR_IRQ_STATUS.ClockEvent = true) ∧
    -- start-up
    (s.rst.phase = .asserted → (∀ x ∈ s.rst.asserted, x ∈ timedSources) → cores → exec .resetRelease s = .next { s with
      rst := { s.rst with asserted := [], phase := if s.rst.reach = 0 then .fuses else
        if s.rst.slept = true ∨ s.rst.reach = 1 then .pll else .options } }) ∧
    (s.rst.phase = .asserted → srcResetPin ∈ s.rst.asserted → exec .resetRelease s = .next s) ∧
    (s.rst.phase = .fuses → cores → ∃ t, exec .fuseSensingDone s = .next t ∧ t.rst.phase = .pll ∧
      (∀ w, 0x400 ≤ w → w < 0x420 → tget (fun _ => 0#32) t.boot.fuses w = s.otpWord w) ∧ t.rd DEV_SERIAL_LO = s.otpWord 0x418 ∧
      t.rd DEV_SERIAL_HI = s.otpWord 0x419 ∧ t.on RST_STATUS.DebugUnlocked = (s.otpWord 0x406).getLsbD 1) ∧
    (s.rst.phase = .pll → s.rst.reach ≤ 1 → ∃ t, exec .systemPllLock s = .next t ∧ t.rst.phase = .options ∧
      t.on PWR_CLK.PllLock = true ∧ (∀ b < 96, t.bankState b = 1) ∧ ∀ o < 0x6000000, t.stkByte o = 0#8) ∧
    (s.rst.phase = .options → s.rst.stage = .awake → s.on PWR_STATUS.Pfail = false → s.rst.seen = [src] → src ≤ 10 → ∃ t,
      exec (.optionLoadingDone c) s = .next t ∧ t.rst.phase = .none ∧ t.fld RST_STATUS.BootState = 1 ∧
        t.fld RST_CAUSE.Sources = 2 ^ src ∧ t.on RST_STATUS.OptInvalid = (!s.folioOk) ∧ t.rd RST_WDT_COUNT = 0#32 ∧
        (s.folioOk = true → t.rd DEV_SUBSYS = s.otpWord 2 ∧ t.nodeId = (s.otpWord 8).toNat % 1024) ∧
        (s.folioOk = false → t.rd DEV_SUBSYS = 0#32 ∧ t.nodeId = 0) ∧
        ∀ k, c = some k → t.on FLT_STATUS.CuratorSolo = true ∧ t.fld FLT_STATUS.FencedCore = k.val) ∧
    (s.fld RST_STATUS.BootState = 1 → s.rst.phase = .none → s.boot.booting = false →
      (s.boot.tried = 0 → s.slotReason s.bootSlot = 0 → ∃ t, exec .imageVerified s = .next t ∧ t.boot.booting = true ∧
        t.fld RST_STATUS.BootSlot = s.bootSlot) ∧
      (s.boot.tried = 0 → s.slotReason s.bootSlot ≠ 0 → ∃ t, exec .imageVerified s = .next t ∧ t.boot.tried = 1 ∧
        t.boot.reason = s.slotReason s.bootSlot ∧ t.on RST_IRQ_STATUS.BootFallback = true) ∧
      (s.boot.tried ≠ 0 → s.slotReason (1 - s.bootSlot) ≠ 0 → ∃ t, exec .imageVerified s = .next t ∧
        t.fld RST_STATUS.BootState = 3)) ∧
    (s.fld RST_STATUS.BootState = 1 → s.boot.booting = true → ∃ t, exec (.firmwareStart romOk) s = .next t ∧
      t.fld RST_STATUS.BootState = 2 ∧ t.rd RST_FWVER = Config.slotVersion s.boot.flash (s.fld RST_STATUS.BootSlot) ∧
      t.boot.booting = false ∧ t.host.romBad = !romOk) ∧
    (s.fld RST_STATUS.BootState ≠ 1 → exec (.firmwareStart romOk) s = .next s ∧ exec .imageVerified s = .next s)

/-- Register accesses. A write of a register with a command of its own acts as that command, an RW register keeps what is written and
reads it back, a W1C flag is cleared by a 1 alone, an offset that names nothing reads 0 and ignores writes; an access to a power-gated
domain places a vote and completes once the domain runs. Rests on parts of R5, R48, R392 to R394, R490, R521, R522, R532, R535. -/
def Obligations.RegisterAccessesAct : Prop :=
  ∀ (s : State) (v a : Word) (i : Fin 16) (j : Fin 64) (p : Fin 12) (d : Fin 96) (r : Fin 4096) (x : RegAccess), s.Inv →
    let at_ (k : Nat) : Word := BitVec.ofNat 32 k
    let backup := at_ (RST_BACKUP i)
    let dmaUp := 2 ≤ s.fld (PWR_DOM.State 8)
    exec (.registerWrite backup v) s = .next (s.wr (RST_BACKUP i) v) ∧
    (∃ t, exec (.registerRead backup) s = .next t ∧ t.readData = some (s.rd (RST_BACKUP i)) ∧ t.regs = s.regs ∧
      t = { s with readData := t.readData }) ∧
    exec (.registerWrite (at_ CMD_DOORBELL) v) s = exec (.cmdDoorbellWrite (v.truncate 12)) s ∧
    exec (.registerWrite (at_ CMD_RQ_HEAD) v) s = exec (.cmdRqHeadWrite (v.truncate 12)) s ∧
    exec (.registerWrite (at_ RST_SWREQ) v) s = exec (.rstSwreqWrite v) s ∧
    exec (.registerWrite (at_ RST_WDT_KICK) v) s = exec (.wdtKickWrite v) s ∧
    (dmaUp → v.getLsbD 31 = false → exec (.registerWrite (at_ (DMA_RING_DB r)) v) s = exec (.ringDoorbell r (v.truncate 12)) s) ∧
    (dmaUp → v.getLsbD 31 = true → exec (.registerWrite (at_ (DMA_RING_DB r)) v) s = exec (.ringResume r (v.truncate 12)) s) ∧
    (∃ t, exec (.registerWrite (at_ PWR_IRQ_STATUS) v) s = .next t ∧ ∀ k < 5, (t.rd PWR_IRQ_STATUS).getLsbD k =
      ((s.rd PWR_IRQ_STATUS).getLsbD k && !v.getLsbD k)) ∧
    (s.sched = 0 → 2000 ≤ v.toNat → v.toNat ≤ 1000000 → ∃ t, exec (.registerWrite (at_ FRM_PERIOD) v) s = .next t ∧
      t.period = v.toNat ∧ t = { s with regs := t.regs }) ∧
    (s.sched ≠ 0 → exec (.registerWrite (at_ FRM_PERIOD) v) s = .next s) ∧
    (0x110000 ≤ a.toNat → a.toNat < 0x400000 → exec (.registerWrite a v) s = .next s ∧
      exec (.registerRead a) s = .next { s with readData := some 0#32 }) ∧
    (¬ isShadow a.toNat = true → exec (.shadowRegisterWrite a v) s = .next s) ∧
    (dmaUp → exec (.shadowRegisterWrite (at_ (DMA_CH_BLK j)) v) s = .next (s.writeShadow (DMA_CH_BLK j) v)) ∧
    -- a power-gated domain
    (s.fld (PWR_DOM.State 8) < 2 → ∃ t, exec (.shadowRegisterWrite (at_ (DMA_CH_BLK j)) v) s = .next t ∧ t.rd (DMA_CH_BLK j) =
      s.rd (DMA_CH_BLK j) ∧ t.pwr.accesses = s.pwr.accesses ++ [⟨8, DMA_CH_BLK j, some v, 0xFFFFFFFF#32⟩] ∧
        (s.fld (PWR_DOM.State 8) = 0 → (∀ x ∈ s.pwr.inrush, x.1 ≠ 8) → (8, true) ∈ t.pwr.inrush)) ∧
    (s.fld (PWR_DOM.State (20 + p)) < 2 → ∃ t, exec (.registerRead (at_ (LNK_PORT p))) s = .next t ∧ t.readData = none ∧
      t.pwr.accesses = s.pwr.accesses ++ [⟨20 + p, LNK_PORT p, none, 0xFFFFFFFF#32⟩]) ∧
    (d.val ∉ s.pwr.granted → exec (.domainRunning d) s = .next s) ∧
    (d.val ∈ s.pwr.granted → s.pwr.accesses = [] → ∃ t, exec (.domainRunning d) s = .next t ∧
      (d.val < 32 → t.fld (PWR_DOM.State d) = 3)) ∧
    (d.val = 8 → d.val ∈ s.pwr.granted → s.pwr.accesses = [x] → x = ⟨8, DMA_QUANTUM, none, 0xFFFFFFFF#32⟩ → ∃ t,
      exec (.domainRunning d) s = .next t ∧ t.pwr.accesses = [] ∧ t.readData = some (s.rd DMA_QUANTUM))

/-- R26, whole: a read of FRM_STIME_LO returns bits 31:0 of STIME and latches bits 63:32 into FRM_STIME_HI, a read of FRM_STIME_HI returns
the latched value whatever STIME has become, and the same holds of FRM_FRAME_LO and FRM_FRAME_HI. -/
def Obligations.TimeReadsLatchTheirHighHalf : Prop :=
  ∀ (s : State), s.Inv →
    let latches (lo hi n : Nat) : Prop := ∃ t, exec (.registerRead (BitVec.ofNat 32 lo)) s = .next t ∧
      t.readData = some (BitVec.ofNat 32 (n % 2 ^ 32)) ∧ t.rd hi = BitVec.ofNat 32 (n / 2 ^ 32) ∧ t.time = s.time ∧ t.frm = s.frm ∧
      ∀ u : State, u.Inv → u.rd hi = t.rd hi → ∃ w, exec (.registerRead (BitVec.ofNat 32 hi)) u = .next w ∧
        w.readData = some (BitVec.ofNat 32 (n / 2 ^ 32))
    latches FRM_STIME_LO FRM_STIME_HI s.time.stime.toNat ∧ latches FRM_FRAME_LO FRM_FRAME_HI s.frame

/-- R164, whole: the edge cases of DIV, DIVU, REM and REMU. Where the core is ready, a division by zero gives 0xFFFFFFFF and a remainder
by zero gives A, each setting DivZero (bit 1 of FSTAT), and 0x80000000 divided by 0xFFFFFFFF gives 0x80000000 with remainder 0 and sets
nothing; each completes, with no exception. -/
def Obligations.DivisionEdgeCases : Prop :=
  ∀ (s : State) (e : Fin 513) (d a b : BitVec 5), s.Inv → s.Ready e [d.toNat, a.toNat, b.toNat] [] →
    let gives (f : Regs → Word) (flags : Word) : State := s.onCores e (fun r => ((r.wg d.toNat (f r)).flag flags).next)
    ((∀ c ∈ s.cores e, (s.core c).rg b.toNat = 0#32) →
      exec (.iDiv e d a b) s = .next (gives (fun _ => 0xFFFFFFFF#32) 2#32) ∧
      exec (.iDivu e d a b) s = .next (gives (fun _ => 0xFFFFFFFF#32) 2#32) ∧
      exec (.iRem e d a b) s = .next (gives (fun r => r.rg a.toNat) 2#32) ∧
      exec (.iRemu e d a b) s = .next (gives (fun r => r.rg a.toNat) 2#32)) ∧
    ((∀ c ∈ s.cores e, (s.core c).rg a.toNat = 0x80000000#32 ∧ (s.core c).rg b.toNat = 0xFFFFFFFF#32) →
      exec (.iDiv e d a b) s = .next (gives (fun _ => 0x80000000#32) 0#32) ∧
      exec (.iRem e d a b) s = .next (gives (fun _ => 0#32) 0#32))
end

