-- ==== Sys2Proof/Laws/Table.lean ====
section
/-! SUPPORT. Laws/Table.lean: what a write of a sparse table does to every read, and that writes, removals and ranges
cleared keep the canonical form. -/

namespace Sys2Proof.Machine

variable {α : Type}

@[simp] theorem tget_nil (d : Nat → α) (k : Nat) : tget d [] k = d k := rfl

theorem tget_tset_other [DecidableEq α] (d : Nat → α) (m : Tab α) (k i : Nat) (v : α) (hi : i ≠ k) :
    tget d (tset d m k v) i = tget d m i := by
  induction m with
  | nil => simp only [tset]; split <;> simp [tget, hi]
  | cons p r ih =>
    obtain ⟨j, w⟩ := p
    simp only [tset]
    split
    · rename_i e; subst e
      split <;> simp [tget, hi]
    · split
      · split <;> simp [tget, hi]
      · simp only [tget, ih]

/-- The head of a canonical table lies below every other key, and the rest is canonical. -/
theorem twf_cons [DecidableEq α] (d : Nat → α) (j : Nat) (w : α) (r : Tab α) :
    twf d ((j, w) :: r) = true ↔ w ≠ d j ∧ (∀ q ∈ r, j < q.1) ∧ twf d r = true := by
  induction r generalizing j w with
  | nil => simp [twf]
  | cons q r ih =>
    obtain ⟨i, x⟩ := q
    simp only [twf, Bool.and_eq_true, decide_eq_true_eq]
    constructor
    · rintro ⟨⟨h1, h2⟩, h3⟩
      refine ⟨h1, ?_, h3⟩
      intro q hq
      rcases List.mem_cons.mp hq with rfl | hq
      · exact h2
      · exact lt_trans h2 (((ih i x).mp h3).2.1 q hq)
    · rintro ⟨h1, h2, h3⟩
      exact ⟨⟨h1, h2 (i, x) (by simp)⟩, h3⟩

/-- Below every key of a table its reads are the unlisted value. -/
theorem tget_low (d : Nat → α) (l : Tab α) (k : Nat) (hl : ∀ q ∈ l, k < q.1) : tget d l k = d k := by
  induction l with
  | nil => rfl
  | cons q l ihl =>
    have := hl q (by simp)
    simp only [tget]
    rw [if_neg (by omega)]
    exact ihl (fun q hq => hl q (by simp [hq]))

theorem tget_tset_same [DecidableEq α] (d : Nat → α) (m : Tab α) (k : Nat) (v : α) (h : twf d m = true) :
    tget d (tset d m k v) k = v := by
  induction m with
  | nil => simp only [tset]; split <;> simp_all [tget]
  | cons p r ih =>
    obtain ⟨j, w⟩ := p
    rw [twf_cons] at h
    simp only [tset]
    split
    · rename_i e; subst e
      split
      · rename_i e; rw [tget_low d r k h.2.1]; exact e.symm
      · simp [tget]
    · split
      · split
        · rename_i hk hj e
          rw [tget_low d _ k ?_]; · exact e.symm
          intro q hq
          rcases List.mem_cons.mp hq with rfl | hq
          · exact hj
          · exact lt_trans hj (h.2.1 q hq)
        · simp [tget]
      · simp only [tget]
        rw [if_neg (by assumption)]
        exact ih h.2.2

theorem twf_filter [DecidableEq α] (d : Nat → α) (m : Tab α) (p : Nat × α → Bool) (h : twf d m = true) :
    twf d (m.filter p) = true := by
  induction m with
  | nil => rfl
  | cons q r ih =>
    obtain ⟨j, w⟩ := q
    rw [twf_cons] at h
    rw [List.filter_cons]
    split
    · rw [twf_cons]
      exact ⟨h.1, fun q hq => h.2.1 q (List.mem_filter.mp hq).1, ih h.2.2⟩
    · exact ih h.2.2

theorem twf_tclear [DecidableEq α] (d : Nat → α) (m : Tab α) (lo hi : Nat) (h : twf d m = true) :
    twf d (tclear m lo hi) = true := twf_filter d m _ h

theorem twf_tset [DecidableEq α] (d : Nat → α) (m : Tab α) (k : Nat) (v : α) (h : twf d m = true) :
    twf d (tset d m k v) = true ∧ ∀ q ∈ tset d m k v, q.1 = k ∨ ∃ x, (q.1, x) ∈ m := by
  induction m with
  | nil =>
    simp only [tset]
    split <;> simp_all [twf]
  | cons p r ih =>
    obtain ⟨j, w⟩ := p
    rw [twf_cons] at h
    simp only [tset]
    split
    · rename_i e; subst e
      split
      · exact ⟨h.2.2, fun q hq => Or.inr ⟨q.2, by simp [hq]⟩⟩
      · refine ⟨(twf_cons ..).mpr ⟨by assumption, h.2.1, h.2.2⟩, ?_⟩
        intro q hq
        rcases List.mem_cons.mp hq with rfl | hq
        · exact Or.inl rfl
        · exact Or.inr ⟨q.2, by simp [hq]⟩
    · split
      · split
        · exact ⟨(twf_cons ..).mpr h, fun q hq => Or.inr ⟨q.2, hq⟩⟩
        · refine ⟨(twf_cons ..).mpr ⟨by assumption, ?_, (twf_cons ..).mpr h⟩, ?_⟩
          · intro q hq
            rcases List.mem_cons.mp hq with rfl | hq
            · assumption
            · exact lt_trans (by assumption) (h.2.1 q hq)
          · intro q hq
            rcases List.mem_cons.mp hq with rfl | hq
            · exact Or.inl rfl
            · exact Or.inr ⟨q.2, hq⟩
      · have ih := ih h.2.2
        refine ⟨(twf_cons ..).mpr ⟨h.1, ?_, ih.1⟩, ?_⟩
        · intro q hq
          rcases ih.2 q hq with e | ⟨x, hx⟩
          · rw [e]; omega
          · exact h.2.1 (q.1, x) hx
        · intro q hq
          rcases List.mem_cons.mp hq with rfl | hq
          · exact Or.inr ⟨w, by simp⟩
          · rcases ih.2 q hq with e | ⟨x, hx⟩
            · exact Or.inl e
            · exact Or.inr ⟨x, by simp [hx]⟩

/-- A write keeps the canonical form. -/
theorem tset_wf [DecidableEq α] (d : Nat → α) (m : Tab α) (k : Nat) (v : α) (h : twf d m = true) :
    twf d (tset d m k v) = true := (twf_tset d m k v h).1

/-- Canonical tables that read alike are equal. -/
theorem twf_ext [DecidableEq α] (d : Nat → α) (m n : Tab α) (hm : twf d m = true) (hn : twf d n = true)
    (h : ∀ k, tget d m k = tget d n k) : m = n := by
  induction m generalizing n with
  | nil =>
    cases n with
    | nil => rfl
    | cons q n =>
      obtain ⟨j, w⟩ := q
      have := h j
      rw [twf_cons] at hn
      simp [tget] at this
      exact absurd this.symm hn.1
  | cons p m ih =>
    obtain ⟨j, w⟩ := p
    rw [twf_cons] at hm
    cases n with
    | nil =>
      have := h j
      simp [tget] at this
      exact absurd this hm.1
    | cons q n =>
      obtain ⟨i, x⟩ := q
      rw [twf_cons] at hn
      have hij : i = j := by
        rcases lt_trichotomy i j with hl | he | hg
        · have := h i
          simp only [tget, if_neg (by omega : ¬ i = j), if_true] at this
          rw [tget_low d m i (fun q hq => lt_trans hl (hm.2.1 q hq))] at this
          exact absurd this.symm hn.1
        · exact he
        · have := h j
          simp only [tget, if_neg (by omega : ¬ j = i), if_true] at this
          rw [tget_low d n j (fun q hq => lt_trans hg (hn.2.1 q hq))] at this
          exact absurd this hm.1
      subst hij
      have hw : w = x := by simpa [tget] using h i
      subst hw
      congr 1
      refine ih n hm.2.2 hn.2.2 (fun k => ?_)
      by_cases hk : k = i
      · subst hk; rw [tget_low d m k hm.2.1, tget_low d n k hn.2.1]
      · have := h k
        simpa only [tget, if_neg hk] using this

end Sys2Proof.Machine
end

