-- ==== Sys2Proof/Laws/Fields.lean ====
section
/-! SUPPORT. Laws/Fields.lean: what a register and a field read after a write. -/

namespace Sys2Proof.Machine

theorem State.rd_wr_same {s : State} (h : twf regReset s.regs = true) (a : Nat) (v : Word) : (s.wr a v).rd a = v :=
  tget_tset_same _ _ _ _ h

theorem State.rd_wr_other (s : State) {a b : Nat} (h : a ≠ b) (v : Word) : (s.wr b v).rd a = s.rd a :=
  tget_tset_other _ _ _ _ _ h

theorem State.wr_wf {s : State} (h : twf regReset s.regs = true) (a : Nat) (v : Word) : twf regReset (s.wr a v).regs = true :=
  tset_wf _ _ _ _ h

theorem State.setF_wf {s : State} (h : twf regReset s.regs = true) (f : Fld) (v : Nat) : twf regReset (s.setF f v).regs = true :=
  tset_wf _ _ _ _ h

/-- A mask covers the bits from `lo` to `hi`. -/
theorem spanMask_bit (hi lo i : Nat) (h : hi < 32) (hl : lo ≤ hi) :
    (spanMask hi lo).getLsbD i = (decide (lo ≤ i) && decide (i ≤ hi)) := by
  simp only [spanMask, BitVec.getLsbD_ofNat, Nat.testBit_shiftLeft, Nat.testBit_two_pow_sub_one]
  rcases Nat.lt_or_ge i lo with hi' | hi'
  · simp [Nat.not_le.mpr hi']
  · simp only [ge_iff_le, hi', decide_true, Bool.true_and]
    by_cases h2 : i ≤ hi
    · have : i - lo < hi + 1 - lo := by omega
      have : i < 32 := by omega
      simp [*]
    · have : ¬ i - lo < hi + 1 - lo := by omega
      simp [*]

/-- A bit of a field. -/
theorem Fld.get_bit (f : Fld) (w : Word) (i : Nat) :
    (f.get w).testBit i = (decide (i < f.hi + 1 - f.lo) && w.getLsbD (f.lo + i)) := by
  rw [Fld.get, Nat.testBit_mod_two_pow, Nat.testBit_div_two_pow, BitVec.getLsbD, Nat.add_comm i]

/-- A bit of a word with a field put. -/
theorem Fld.put_bit (f : Fld) (w : Word) (v i : Nat) (h : f.hi < 32) (hl : f.lo ≤ f.hi) (hi : i < 32) :
    (f.put w v).getLsbD i = if f.lo ≤ i ∧ i ≤ f.hi then v.testBit (i - f.lo) else w.getLsbD i := by
  simp only [Fld.put, BitVec.getLsbD_or, BitVec.getLsbD_and, BitVec.getLsbD_not, spanMask_bit _ _ _ h hl, BitVec.getLsbD_ofNat,
    Nat.testBit_shiftLeft, hi, decide_true, Bool.true_and]
  by_cases h1 : f.lo ≤ i <;> by_cases h2 : i ≤ f.hi <;> simp [h1, h2]

/-- A field that was put reads the value put, modulo its width. -/
theorem Fld.get_put (f : Fld) (w : Word) (v : Nat) (h : f.hi < 32) (hl : f.lo ≤ f.hi) :
    f.get (f.put w v) = v % 2 ^ (f.hi + 1 - f.lo) := by
  apply Nat.eq_of_testBit_eq
  intro i
  rw [Fld.get_bit, Nat.testBit_mod_two_pow]
  by_cases hi : i < f.hi + 1 - f.lo
  · rw [Fld.put_bit _ _ _ _ h hl (by omega), if_pos (by omega), Nat.add_sub_cancel_left]
  · simp [hi]

/-- A field apart from the one that was put keeps its value. -/
theorem Fld.get_put_apart (f g : Fld) (w : Word) (v : Nat) (h : g.hi < 32) (hl : g.lo ≤ g.hi) (hf : f.hi < 32)
    (ha : f.hi < g.lo ∨ g.hi < f.lo) : f.get (g.put w v) = f.get w := by
  apply Nat.eq_of_testBit_eq
  intro i
  rw [Fld.get_bit, Fld.get_bit]
  by_cases hi : i < f.hi + 1 - f.lo
  · rw [Fld.put_bit _ _ _ _ h hl (by omega), if_neg (by omega)]
  · simp [hi]

/-- A field reads what was written to it, modulo its width. -/
theorem State.fld_setF_same {s : State} (h : twf regReset s.regs = true) (f : Fld) (v : Nat) (h1 : f.hi < 32)
    (h2 : f.lo ≤ f.hi) : (s.setF f v).fld f = v % 2 ^ (f.hi + 1 - f.lo) := by
  rw [State.fld, State.setF, State.rd_wr_same h, Fld.get_put f _ _ h1 h2]

/-- A write of a field leaves the fields of other registers alone. -/
theorem State.fld_setF_other (s : State) {f g : Fld} (h : f.reg ≠ g.reg) (v : Nat) : (s.setF g v).fld f = s.fld f := by
  rw [State.fld, State.setF, State.rd_wr_other s h, State.fld]

/-- A write of a field leaves the register's other fields alone. -/
theorem State.fld_setF_apart {s : State} (hs : twf regReset s.regs = true) {f g : Fld} (v : Nat) (h : g.hi < 32) (hl : g.lo ≤ g.hi)
    (hf : f.hi < 32) (ha : f.hi < g.lo ∨ g.hi < f.lo) : (s.setF g v).fld f = s.fld f := by
  by_cases hr : f.reg = g.reg
  · rw [State.fld, State.setF, hr, State.rd_wr_same hs, Fld.get_put_apart f g _ _ h hl hf ha, State.fld, hr]
  · exact State.fld_setF_other s hr v

theorem State.fld_wr_other (s : State) {f : Fld} {a : Nat} (h : f.reg ≠ a) (v : Word) : (s.wr a v).fld f = s.fld f := by
  rw [State.fld, State.rd_wr_other s h, State.fld]

theorem State.rd_setF_other (s : State) {a : Nat} {g : Fld} (h : a ≠ g.reg) (v : Nat) : (s.setF g v).rd a = s.rd a :=
  State.rd_wr_other s h _

/-! ## What writing a register leaves alone -/

section
variable (s : State) (a n : Nat) (v : Word) (f : Fld)
@[simp] theorem State.wr_pending : (s.wr a v).pending = s.pending := rfl
@[simp] theorem State.setF_pending : (s.setF f n).pending = s.pending := rfl
@[simp] theorem State.wr_time : (s.wr a v).time = s.time := rfl
@[simp] theorem State.setF_time : (s.setF f n).time = s.time := rfl
@[simp] theorem State.wr_frm : (s.wr a v).frm = s.frm := rfl
@[simp] theorem State.setF_frm : (s.setF f n).frm = s.frm := rfl
@[simp] theorem State.wr_irq : (s.wr a v).irq = s.irq := rfl
@[simp] theorem State.setF_irq : (s.setF f n).irq = s.irq := rfl
@[simp] theorem State.wr_log : (s.wr a v).log = s.log := rfl
@[simp] theorem State.setF_log : (s.setF f n).log = s.log := rfl
@[simp] theorem State.wr_host : (s.wr a v).host = s.host := rfl
@[simp] theorem State.setF_host : (s.setF f n).host = s.host := rfl
@[simp] theorem State.wr_fab : (s.wr a v).fab = s.fab := rfl
@[simp] theorem State.setF_fab : (s.setF f n).fab = s.fab := rfl
@[simp] theorem State.wr_cmd : (s.wr a v).cmd = s.cmd := rfl
@[simp] theorem State.setF_cmd : (s.setF f n).cmd = s.cmd := rfl
@[simp] theorem State.wr_free : (s.wr a v).free = s.free := rfl
@[simp] theorem State.setF_free : (s.setF f n).free = s.free := rfl
@[simp] theorem State.wr_mnt : (s.wr a v).mnt = s.mnt := rfl
@[simp] theorem State.setF_mnt : (s.setF f n).mnt = s.mnt := rfl
@[simp] theorem State.wr_boot : (s.wr a v).boot = s.boot := rfl
@[simp] theorem State.setF_boot : (s.setF f n).boot = s.boot := rfl
@[simp] theorem State.wr_stk : (s.wr a v).stk = s.stk := rfl
@[simp] theorem State.setF_stk : (s.setF f n).stk = s.stk := rfl
@[simp] theorem State.wr_cat : (s.wr a v).cat = s.cat := rfl
@[simp] theorem State.setF_cat : (s.setF f n).cat = s.cat := rfl
@[simp] theorem State.wr_eng : (s.wr a v).eng = s.eng := rfl
@[simp] theorem State.setF_eng : (s.setF f n).eng = s.eng := rfl
@[simp] theorem State.wr_rem : (s.wr a v).rem = s.rem := rfl
@[simp] theorem State.setF_rem : (s.setF f n).rem = s.rem := rfl
@[simp] theorem State.wr_pwr : (s.wr a v).pwr = s.pwr := rfl
@[simp] theorem State.setF_pwr : (s.setF f n).pwr = s.pwr := rfl
@[simp] theorem State.wr_edg : (s.wr a v).edg = s.edg := rfl
@[simp] theorem State.setF_edg : (s.setF f n).edg = s.edg := rfl
@[simp] theorem State.wr_lanes : (s.wr a v).lanes = s.lanes := rfl
@[simp] theorem State.setF_lanes : (s.setF f n).lanes = s.lanes := rfl
@[simp] theorem State.wr_links : (s.wr a v).links = s.links := rfl
@[simp] theorem State.setF_links : (s.setF f n).links = s.links := rfl
@[simp] theorem State.wr_dma : (s.wr a v).dma = s.dma := rfl
@[simp] theorem State.setF_dma : (s.setF f n).dma = s.dma := rfl
@[simp] theorem State.wr_rst : (s.wr a v).rst = s.rst := rfl
@[simp] theorem State.setF_rst : (s.setF f n).rst = s.rst := rfl
@[simp] theorem State.wr_readData : (s.wr a v).readData = s.readData := rfl
@[simp] theorem State.setF_readData : (s.setF f n).readData = s.readData := rfl
@[simp] theorem State.wr_hiLatch : (s.wr a v).hiLatch = s.hiLatch := rfl
@[simp] theorem State.setF_hiLatch : (s.setF f n).hiLatch = s.hiLatch := rfl
end

end Sys2Proof.Machine
end

