-- ==== Sys2Proof/Laws/Inv/Base.lean ====
section
/-! SUPPORT. Laws/Inv/Base.lean: the rules by which a state-to-state operation is shown to keep the invariant. -/

namespace Sys2Proof.Machine

/-- The state meets the invariant and its queue is `qs`: what an operation on the block keeps. -/
structure State.Keeps (qs : List Instr) (s : State) : Prop where
  regs : twf regReset s.regs = true
  mem : Memory.wf s.stk.mem = true
  dmem : Memory.wf s.eng.dmem = true
  imem : twf (fun _ => 0#32) s.eng.imem = true
  sram : Memory.wf s.eng.sram = true
  flash : twf (fun _ => 0xFF#8) s.boot.flash = true
  cores : twf (fun _ => Regs.zero) s.eng.regs = true
  ports : twf (fun _ => Port.zero) s.eng.ports = true
  pairs : twf (fun _ => Pair.zero) s.eng.pairs = true
  lanes : twf (fun _ => LaneUnit.zero) s.lanes = true
  links : twf (fun _ => LinkUnit.zero) s.links = true
  chans : twf (fun _ => ModChan.init) s.edg.chans = true
  outs : twf (fun _ => PairOut.init) s.edg.pairs = true
  rings : twf (fun _ => Ring.zero) s.dma.rings = true
  movers : twf (fun _ => (⟨.idle, []⟩ : Mover)) s.dma.movers = true
  bins : twf (fun _ => Bin.zero) s.eng.bins = true
  log : s.log.queue.length ≤ 64
  events : s.cat.events.length ≤ 64
  queue : s.cmd.queue.length ≤ 64
  repeats : s.cmd.repeats.length ≤ 16
  pending : s.pending = qs

theorem State.Keeps.inv {qs : List Instr} {s : State} (h : s.Keeps qs) : s.Inv :=
  ⟨h.regs, h.mem, h.dmem, h.imem, h.sram, h.flash, h.cores, h.ports, h.pairs, h.lanes, h.links, h.chans, h.outs, h.rings, h.movers, h.bins, h.log, h.events, h.queue, h.repeats⟩

theorem State.Inv.keeps {s : State} (h : s.Inv) : s.Keeps s.pending :=
  ⟨h.regs, h.mem, h.dmem, h.imem, h.sram, h.flash, h.cores, h.ports, h.pairs, h.lanes, h.links, h.chans, h.outs, h.rings, h.movers, h.bins, h.log, h.events, h.queue, h.repeats, rfl⟩

variable {qs : List Instr}

theorem State.Keeps.upd {s : State} {_time _frm _irq _log _host _fab _cmd _free _mnt _boot _stk _cat _eng _rem _pwr _edg _lanes _links _dma _rst _readData _hiLatch} (h : s.Keeps qs) (hm : _stk.mem = s.stk.mem)
    (hd : _eng.dmem = s.eng.dmem) (hi : _eng.imem = s.eng.imem) (hs : _eng.sram = s.eng.sram) (hf : _boot.flash = s.boot.flash)
    (hc : _eng.regs = s.eng.regs) (ho : _eng.ports = s.eng.ports) (h1 : _eng.pairs = s.eng.pairs)
    (h2 : _lanes = s.lanes) (h3 : _links = s.links) (h4 : _edg.chans = s.edg.chans) (h5 : _edg.pairs = s.edg.pairs)
    (h6 : _dma.rings = s.dma.rings) (h7 : _dma.movers = s.dma.movers) (h8 : _eng.bins = s.eng.bins)
    (hl : _log.queue = s.log.queue) (he : _cat.events = s.cat.events) (hq : _cmd.queue = s.cmd.queue)
    (hp : _cmd.repeats = s.cmd.repeats) :
    (State.mk s.pending s.regs _time _frm _irq _log _host _fab _cmd _free _mnt _boot _stk _cat _eng _rem _pwr _edg _lanes _links _dma _rst _readData _hiLatch).Keeps qs :=
  ⟨h.regs, hm ▸ h.mem, hd ▸ h.dmem, hi ▸ h.imem, hs ▸ h.sram, hf ▸ h.flash, hc ▸ h.cores, ho ▸ h.ports, h1 ▸ h.pairs, h2 ▸ h.lanes, h3 ▸ h.links, h4 ▸ h.chans, h5 ▸ h.outs,
    h6 ▸ h.rings, h7 ▸ h.movers, h8 ▸ h.bins, hl ▸ h.log, he ▸ h.events, hq ▸ h.queue, hp ▸ h.repeats, h.pending⟩

theorem State.Keeps.ite {c : Prop} [Decidable c] {a b : State} (ha : a.Keeps qs) (hb : b.Keeps qs) : (if c then a else b).Keeps qs := by
  split <;> assumption

theorem State.Keeps.iteFst {α : Type} {c : Prop} [Decidable c] {a b : State × α} (ha : a.1.Keeps qs) (hb : b.1.Keeps qs) :
    (if c then a else b).1.Keeps qs := by
  split <;> assumption

theorem State.Keeps.fst {α : Type} {p : State × α} {t : State} {x : α} (e : p = (t, x)) (h : p.1.Keeps qs) : t.Keeps qs := by
  subst e; exact h

theorem State.Keeps.snd {α : Type} {p : α × State} {t : State} {x : α} (e : p = (x, t)) (h : p.2.Keeps qs) : t.Keeps qs := by
  subst e; exact h

/-- An optional state keeps the invariant where it is there. -/
def OptInv (qs : List Instr) (o : Option State) : Prop := ∀ u, o = some u → u.Keeps qs

theorem OptInv.none : OptInv qs none := fun _ h => nomatch h

theorem OptInv.some {s : State} (h : s.Keeps qs) : OptInv qs (some s) := fun _ e => by cases e; exact h

theorem OptInv.map {α : Type} {o : Option α} {f : α → State} (h : ∀ x, o = Option.some x → (f x).Keeps qs) : OptInv qs (o.map f) := by
  cases o with
  | none => exact OptInv.none
  | some x => exact OptInv.some (h x rfl)

theorem OptInv.bind {α : Type} {o : Option α} {f : α → Option State} (h : ∀ x, OptInv qs (f x)) : OptInv qs (o.bind f) := by
  cases o with
  | none => exact OptInv.none
  | some x => exact h x

theorem OptInv.ite {c : Prop} [Decidable c] {a b : Option State} (ha : OptInv qs a) (hb : OptInv qs b) :
    OptInv qs (if c then a else b) := by split <;> assumption

theorem OptInv.getD {o : Option State} {s : State} (h : OptInv qs o) (hs : s.Keeps qs) : (o.getD s).Keeps qs := by
  cases o with
  | none => exact hs
  | some u => exact h u rfl

theorem State.Keeps.opt {o : Option State} {t : State} (e : o = Option.some t) (h : OptInv qs o) : t.Keeps qs := h t e

theorem foldl_inv {α : Type} {f : State → α → State} {s : State} {l : List α}
    (hf : ∀ t x, t.Keeps qs → (f t x).Keeps qs) (hs : s.Keeps qs) : (l.foldl f s).Keeps qs := by
  induction l generalizing s with
  | nil => exact hs
  | cons x l ih => exact ih (hf _ _ hs)

theorem foldl_inv_fst {α β : Type} {f : State × β → α → State × β} {p : State × β} {l : List α}
    (hf : ∀ t x, t.1.Keeps qs → (f t x).1.Keeps qs) (hs : p.1.Keeps qs) : (l.foldl f p).1.Keeps qs := by
  induction l generalizing p with
  | nil => exact hs
  | cons x l ih => exact ih (hf _ _ hs)

theorem State.each_inv {α : Type} {s : State} {l : List α} {f : α → State → State}
    (hf : ∀ x t, t.Keeps qs → (f x t).Keeps qs) (hs : s.Keeps qs) : (s.each l f).Keeps qs :=
  foldl_inv (fun t x h => hf x t h) hs

theorem State.when_inv {s : State} {c : Bool} {f : State → State} (hf : s.Keeps qs → (f s).Keeps qs) (hs : s.Keeps qs) : (s.when c f).Keeps qs := by
  unfold State.when; split
  · exact hf hs
  · exact hs

theorem State.wr_inv {s : State} (h : s.Keeps qs) (a : Nat) (v : Word) : (s.wr a v).Keeps qs :=
  ⟨tset_wf _ _ _ _ h.regs, h.mem, h.dmem, h.imem, h.sram, h.flash, h.cores, h.ports, h.pairs, h.lanes, h.links, h.chans, h.outs, h.rings, h.movers, h.bins, h.log, h.events, h.queue, h.repeats, h.pending⟩

theorem State.Keeps.filterRegs {s : State} (h : s.Keeps qs) (p : Nat × Word → Bool) : ({ s with regs := s.regs.filter p } : State).Keeps qs :=
  ⟨twf_filter _ _ _ h.regs, h.mem, h.dmem, h.imem, h.sram, h.flash, h.cores, h.ports, h.pairs, h.lanes, h.links, h.chans, h.outs, h.rings, h.movers, h.bins, h.log, h.events, h.queue, h.repeats, h.pending⟩

theorem State.Keeps.updRegs {s : State} {r : Tab Word} (hr : twf regReset s.regs = true → twf regReset r = true) (h : s.Keeps qs) :
    ({ s with regs := r } : State).Keeps qs :=
  ⟨hr h.regs, h.mem, h.dmem, h.imem, h.sram, h.flash, h.cores, h.ports, h.pairs, h.lanes, h.links, h.chans, h.outs, h.rings, h.movers, h.bins, h.log, h.events, h.queue, h.repeats, h.pending⟩

theorem State.reset_inv : State.reset.Keeps [] := ⟨rfl, rfl, rfl, rfl, rfl, rfl, rfl, rfl, rfl, rfl, rfl, rfl, rfl, rfl, rfl, rfl, by decide, by decide, by decide, by decide, rfl⟩

theorem State.Keeps.next {s t : State} (h : s.Keeps qs) (e : (Host.Outcome.next s : Result) = .next t) : t.Keeps qs := by
  cases e; exact h

/-- Writing entries one after another keeps a table canonical. -/
theorem twf_foldl {α β : Type} [DecidableEq α] {d : Nat → α} {l : List β} {k : β → Nat} {v : β → α} {m : Tab α} (h : twf d m = true) :
    twf d (l.foldl (fun m b => tset d m (k b) (v b)) m) = true := by
  induction l generalizing m with
  | nil => exact h
  | cons b l ih => exact ih (tset_wf _ _ _ _ h)

end Sys2Proof.Machine
end

