-- ==== Sys2Proof/Laws/Inv/Ops.lean ====
section
/-! SUPPORT. Laws/Inv/Ops.lean: every operation of Machine/Ops.lean keeps the invariant. -/

set_option linter.unusedTactic false
set_option linter.unreachableTactic false

namespace Sys2Proof.Machine

variable {qs : List Instr}

theorem State.setF_inv {s : State} {f : Fld} {v : Nat} (h_s : s.Keeps qs) : (State.setF s f v).Keeps qs := by
  unfold State.setF
  repeat' first
    | with_reducible assumption
    | with_reducible apply State.wr_inv
    | with_reducible apply State.Keeps.ite
    | with_reducible apply State.Keeps.iteFst
    | (with_reducible apply State.each_inv; intros)
    | (with_reducible refine State.when_inv (fun _ => ?_) ?_)
    | with_reducible apply foldl_inv
    | intro _
    | split
    | with_reducible refine State.Keeps.fst (by assumption) ?_
    | with_reducible refine State.Keeps.snd (by assumption) ?_
    | with_reducible refine State.Keeps.opt (by assumption) ?_
    | with_reducible apply OptInv.none
    | with_reducible apply OptInv.some
    | with_reducible apply OptInv.map
    | with_reducible apply OptInv.bind
    | with_reducible apply OptInv.ite
    | with_reducible apply OptInv.getD
    | with_reducible apply State.reset_inv
    | with_reducible refine State.Keeps.upd ?_ rfl rfl rfl rfl rfl rfl rfl rfl rfl rfl rfl rfl rfl rfl rfl rfl rfl rfl rfl

theorem State.setB_inv {s : State} {f : Fld} {b : Bool} (h_s : s.Keeps qs) : (State.setB s f b).Keeps qs := by
  unfold State.setB
  repeat' first
    | with_reducible assumption
    | with_reducible apply State.setF_inv
    | with_reducible apply State.wr_inv
    | with_reducible apply State.Keeps.ite
    | with_reducible apply State.Keeps.iteFst
    | (with_reducible apply State.each_inv; intros)
    | (with_reducible refine State.when_inv (fun _ => ?_) ?_)
    | with_reducible apply foldl_inv
    | intro _
    | split
    | with_reducible refine State.Keeps.fst (by assumption) ?_
    | with_reducible refine State.Keeps.snd (by assumption) ?_
    | with_reducible refine State.Keeps.opt (by assumption) ?_
    | with_reducible apply OptInv.none
    | with_reducible apply OptInv.some
    | with_reducible apply OptInv.map
    | with_reducible apply OptInv.bind
    | with_reducible apply OptInv.ite
    | with_reducible apply OptInv.getD
    | with_reducible apply State.reset_inv
    | with_reducible refine State.Keeps.upd ?_ rfl rfl rfl rfl rfl rfl rfl rfl rfl rfl rfl rfl rfl rfl rfl rfl rfl rfl rfl

theorem State.inc_inv {s : State} {a : Nat} (h_s : s.Keeps qs) : (State.inc s a).Keeps qs := by
  unfold State.inc
  repeat' first
    | with_reducible assumption
    | with_reducible apply State.wr_inv
    | with_reducible apply State.Keeps.ite
    | with_reducible apply State.Keeps.iteFst
    | (with_reducible apply State.each_inv; intros)
    | (with_reducible refine State.when_inv (fun _ => ?_) ?_)
    | with_reducible apply foldl_inv
    | intro _
    | split
    | with_reducible refine State.Keeps.fst (by assumption) ?_
    | with_reducible refine State.Keeps.snd (by assumption) ?_
    | with_reducible refine State.Keeps.opt (by assumption) ?_
    | with_reducible apply OptInv.none
    | with_reducible apply OptInv.some
    | with_reducible apply OptInv.map
    | with_reducible apply OptInv.bind
    | with_reducible apply OptInv.ite
    | with_reducible apply OptInv.getD
    | with_reducible apply State.reset_inv
    | with_reducible refine State.Keeps.upd ?_ rfl rfl rfl rfl rfl rfl rfl rfl rfl rfl rfl rfl rfl rfl rfl rfl rfl rfl rfl

theorem State.incBy_inv {s : State} {a : Nat} {n : Nat} (h_s : s.Keeps qs) : (State.incBy s a n).Keeps qs := by
  unfold State.incBy
  repeat' first
    | with_reducible assumption
    | with_reducible apply State.wr_inv
    | with_reducible apply State.Keeps.ite
    | with_reducible apply State.Keeps.iteFst
    | (with_reducible apply State.each_inv; intros)
    | (with_reducible refine State.when_inv (fun _ => ?_) ?_)
    | with_reducible apply foldl_inv
    | intro _
    | split
    | with_reducible refine State.Keeps.fst (by assumption) ?_
    | with_reducible refine State.Keeps.snd (by assumption) ?_
    | with_reducible refine State.Keeps.opt (by assumption) ?_
    | with_reducible apply OptInv.none
    | with_reducible apply OptInv.some
    | with_reducible apply OptInv.map
    | with_reducible apply OptInv.bind
    | with_reducible apply OptInv.ite
    | with_reducible apply OptInv.getD
    | with_reducible apply State.reset_inv
    | with_reducible refine State.Keeps.upd ?_ rfl rfl rfl rfl rfl rfl rfl rfl rfl rfl rfl rfl rfl rfl rfl rfl rfl rfl rfl

theorem State.incF_inv {s : State} {f : Fld} (h_s : s.Keeps qs) : (State.incF s f).Keeps qs := by
  unfold State.incF
  repeat' first
    | with_reducible assumption
    | with_reducible apply State.setF_inv
    | with_reducible apply State.wr_inv
    | with_reducible apply State.Keeps.ite
    | with_reducible apply State.Keeps.iteFst
    | (with_reducible apply State.each_inv; intros)
    | (with_reducible refine State.when_inv (fun _ => ?_) ?_)
    | with_reducible apply foldl_inv
    | intro _
    | split
    | with_reducible refine State.Keeps.fst (by assumption) ?_
    | with_reducible refine State.Keeps.snd (by assumption) ?_
    | with_reducible refine State.Keeps.opt (by assumption) ?_
    | with_reducible apply OptInv.none
    | with_reducible apply OptInv.some
    | with_reducible apply OptInv.map
    | with_reducible apply OptInv.bind
    | with_reducible apply OptInv.ite
    | with_reducible apply OptInv.getD
    | with_reducible apply State.reset_inv
    | with_reducible refine State.Keeps.upd ?_ rfl rfl rfl rfl rfl rfl rfl rfl rfl rfl rfl rfl rfl rfl rfl rfl rfl rfl rfl

theorem State.maxR_inv {s : State} {a : Nat} {v : Nat} (h_s : s.Keeps qs) : (State.maxR s a v).Keeps qs := by
  unfold State.maxR
  repeat' first
    | with_reducible assumption
    | with_reducible apply State.wr_inv
    | with_reducible apply State.Keeps.ite
    | with_reducible apply State.Keeps.iteFst
    | (with_reducible apply State.each_inv; intros)
    | (with_reducible refine State.when_inv (fun _ => ?_) ?_)
    | with_reducible apply foldl_inv
    | intro _
    | split
    | with_reducible refine State.Keeps.fst (by assumption) ?_
    | with_reducible refine State.Keeps.snd (by assumption) ?_
    | with_reducible refine State.Keeps.opt (by assumption) ?_
    | with_reducible apply OptInv.none
    | with_reducible apply OptInv.some
    | with_reducible apply OptInv.map
    | with_reducible apply OptInv.bind
    | with_reducible apply OptInv.ite
    | with_reducible apply OptInv.getD
    | with_reducible apply State.reset_inv
    | with_reducible refine State.Keeps.upd ?_ rfl rfl rfl rfl rfl rfl rfl rfl rfl rfl rfl rfl rfl rfl rfl rfl rfl rfl rfl

theorem State.wr64_inv {s : State} {lo : Nat} {hi : Nat} {v : Nat} (h_s : s.Keeps qs) : (State.wr64 s lo hi v).Keeps qs := by
  unfold State.wr64
  repeat' first
    | with_reducible assumption
    | with_reducible apply State.wr_inv
    | with_reducible apply State.Keeps.ite
    | with_reducible apply State.Keeps.iteFst
    | (with_reducible apply State.each_inv; intros)
    | (with_reducible refine State.when_inv (fun _ => ?_) ?_)
    | with_reducible apply foldl_inv
    | intro _
    | split
    | with_reducible refine State.Keeps.fst (by assumption) ?_
    | with_reducible refine State.Keeps.snd (by assumption) ?_
    | with_reducible refine State.Keeps.opt (by assumption) ?_
    | with_reducible apply OptInv.none
    | with_reducible apply OptInv.some
    | with_reducible apply OptInv.map
    | with_reducible apply OptInv.bind
    | with_reducible apply OptInv.ite
    | with_reducible apply OptInv.getD
    | with_reducible apply State.reset_inv
    | with_reducible refine State.Keeps.upd ?_ rfl rfl rfl rfl rfl rfl rfl rfl rfl rfl rfl rfl rfl rfl rfl rfl rfl rfl rfl

theorem State.takeFree_inv {s : State} (h_s : s.Keeps qs) : (State.takeFree s).2.Keeps qs := by
  unfold State.takeFree
  repeat' first
    | with_reducible assumption
    | with_reducible apply State.wr_inv
    | with_reducible apply State.Keeps.ite
    | with_reducible apply State.Keeps.iteFst
    | (with_reducible apply State.each_inv; intros)
    | (with_reducible refine State.when_inv (fun _ => ?_) ?_)
    | with_reducible apply foldl_inv
    | intro _
    | split
    | with_reducible refine State.Keeps.fst (by assumption) ?_
    | with_reducible refine State.Keeps.snd (by assumption) ?_
    | with_reducible refine State.Keeps.opt (by assumption) ?_
    | with_reducible apply OptInv.none
    | with_reducible apply OptInv.some
    | with_reducible apply OptInv.map
    | with_reducible apply OptInv.bind
    | with_reducible apply OptInv.ite
    | with_reducible apply OptInv.getD
    | with_reducible apply State.reset_inv
    | with_reducible refine State.Keeps.upd ?_ rfl rfl rfl rfl rfl rfl rfl rfl rfl rfl rfl rfl rfl rfl rfl rfl rfl rfl rfl

theorem State.freeBytes_inv {s : State} {x0 : Nat} (h_s : s.Keeps qs) : (State.freeBytes s x0).1.Keeps qs := by
  induction x0 generalizing s with
  | zero =>
    unfold State.freeBytes
    repeat' first
      | with_reducible assumption
      | with_reducible apply ih
      | with_reducible apply State.takeFree_inv
      | with_reducible apply State.wr_inv
      | with_reducible apply State.Keeps.ite
      | with_reducible apply State.Keeps.iteFst
      | (with_reducible apply State.each_inv; intros)
      | (with_reducible refine State.when_inv (fun _ => ?_) ?_)
      | with_reducible apply foldl_inv
      | intro _
      | split
      | with_reducible refine State.Keeps.fst (by assumption) ?_
      | with_reducible refine State.Keeps.snd (by assumption) ?_
      | with_reducible refine State.Keeps.opt (by assumption) ?_
      | with_reducible apply OptInv.none
      | with_reducible apply OptInv.some
      | with_reducible apply OptInv.map
      | with_reducible apply OptInv.bind
      | with_reducible apply OptInv.ite
      | with_reducible apply OptInv.getD
      | with_reducible apply State.reset_inv
      | with_reducible refine State.Keeps.upd ?_ rfl rfl rfl rfl rfl rfl rfl rfl rfl rfl rfl rfl rfl rfl rfl rfl rfl rfl rfl
  | succ n ih =>
    unfold State.freeBytes
    repeat' first
      | with_reducible assumption
      | with_reducible apply ih
      | with_reducible apply State.takeFree_inv
      | with_reducible apply State.wr_inv
      | with_reducible apply State.Keeps.ite
      | with_reducible apply State.Keeps.iteFst
      | (with_reducible apply State.each_inv; intros)
      | (with_reducible refine State.when_inv (fun _ => ?_) ?_)
      | with_reducible apply foldl_inv
      | intro _
      | split
      | with_reducible refine State.Keeps.fst (by assumption) ?_
      | with_reducible refine State.Keeps.snd (by assumption) ?_
      | with_reducible refine State.Keeps.opt (by assumption) ?_
      | with_reducible apply OptInv.none
      | with_reducible apply OptInv.some
      | with_reducible apply OptInv.map
      | with_reducible apply OptInv.bind
      | with_reducible apply OptInv.ite
      | with_reducible apply OptInv.getD
      | with_reducible apply State.reset_inv
      | with_reducible refine State.Keeps.upd ?_ rfl rfl rfl rfl rfl rfl rfl rfl rfl rfl rfl rfl rfl rfl rfl rfl rfl rfl rfl

theorem State.atLeast_inv {s : State} {t : Nat} (h_s : s.Keeps qs) : (State.atLeast s t).Keeps qs := by
  unfold State.atLeast
  repeat' first
    | with_reducible assumption
    | with_reducible apply State.wr_inv
    | with_reducible apply State.Keeps.ite
    | with_reducible apply State.Keeps.iteFst
    | (with_reducible apply State.each_inv; intros)
    | (with_reducible refine State.when_inv (fun _ => ?_) ?_)
    | with_reducible apply foldl_inv
    | intro _
    | split
    | with_reducible refine State.Keeps.fst (by assumption) ?_
    | with_reducible refine State.Keeps.snd (by assumption) ?_
    | with_reducible refine State.Keeps.opt (by assumption) ?_
    | with_reducible apply OptInv.none
    | with_reducible apply OptInv.some
    | with_reducible apply OptInv.map
    | with_reducible apply OptInv.bind
    | with_reducible apply OptInv.ite
    | with_reducible apply OptInv.getD
    | with_reducible apply State.reset_inv
    | with_reducible refine State.Keeps.upd ?_ rfl rfl rfl rfl rfl rfl rfl rfl rfl rfl rfl rfl rfl rfl rfl rfl rfl rfl rfl

theorem State.sendTlp_inv {s : State} {t : Tlp} (h_s : s.Keeps qs) : (State.sendTlp s t).Keeps qs := by
  unfold State.sendTlp
  repeat' first
    | with_reducible assumption
    | with_reducible apply State.wr_inv
    | with_reducible apply State.Keeps.ite
    | with_reducible apply State.Keeps.iteFst
    | (with_reducible apply State.each_inv; intros)
    | (with_reducible refine State.when_inv (fun _ => ?_) ?_)
    | with_reducible apply foldl_inv
    | intro _
    | split
    | with_reducible refine State.Keeps.fst (by assumption) ?_
    | with_reducible refine State.Keeps.snd (by assumption) ?_
    | with_reducible refine State.Keeps.opt (by assumption) ?_
    | with_reducible apply OptInv.none
    | with_reducible apply OptInv.some
    | with_reducible apply OptInv.map
    | with_reducible apply OptInv.bind
    | with_reducible apply OptInv.ite
    | with_reducible apply OptInv.getD
    | with_reducible apply State.reset_inv
    | with_reducible refine State.Keeps.upd ?_ rfl rfl rfl rfl rfl rfl rfl rfl rfl rfl rfl rfl rfl rfl rfl rfl rfl rfl rfl

theorem State.hostGrant_inv {s : State} {r : Nat} (h_s : s.Keeps qs) : (State.hostGrant s r).Keeps qs := by
  unfold State.hostGrant
  repeat' first
    | with_reducible assumption
    | with_reducible apply State.wr_inv
    | with_reducible apply State.Keeps.ite
    | with_reducible apply State.Keeps.iteFst
    | (with_reducible apply State.each_inv; intros)
    | (with_reducible refine State.when_inv (fun _ => ?_) ?_)
    | with_reducible apply foldl_inv
    | intro _
    | split
    | with_reducible refine State.Keeps.fst (by assumption) ?_
    | with_reducible refine State.Keeps.snd (by assumption) ?_
    | with_reducible refine State.Keeps.opt (by assumption) ?_
    | with_reducible apply OptInv.none
    | with_reducible apply OptInv.some
    | with_reducible apply OptInv.map
    | with_reducible apply OptInv.bind
    | with_reducible apply OptInv.ite
    | with_reducible apply OptInv.getD
    | with_reducible apply State.reset_inv
    | with_reducible refine State.Keeps.upd ?_ rfl rfl rfl rfl rfl rfl rfl rfl rfl rfl rfl rfl rfl rfl rfl rfl rfl rfl rfl

theorem State.sendIfUp_inv {s : State} {t : Tlp} (h_s : s.Keeps qs) : (State.sendIfUp s t).Keeps qs := by
  unfold State.sendIfUp
  repeat' first
    | with_reducible assumption
    | with_reducible apply State.sendTlp_inv
    | with_reducible apply State.wr_inv
    | with_reducible apply State.Keeps.ite
    | with_reducible apply State.Keeps.iteFst
    | (with_reducible apply State.each_inv; intros)
    | (with_reducible refine State.when_inv (fun _ => ?_) ?_)
    | with_reducible apply foldl_inv
    | intro _
    | split
    | with_reducible refine State.Keeps.fst (by assumption) ?_
    | with_reducible refine State.Keeps.snd (by assumption) ?_
    | with_reducible refine State.Keeps.opt (by assumption) ?_
    | with_reducible apply OptInv.none
    | with_reducible apply OptInv.some
    | with_reducible apply OptInv.map
    | with_reducible apply OptInv.bind
    | with_reducible apply OptInv.ite
    | with_reducible apply OptInv.getD
    | with_reducible apply State.reset_inv
    | with_reducible refine State.Keeps.upd ?_ rfl rfl rfl rfl rfl rfl rfl rfl rfl rfl rfl rfl rfl rfl rfl rfl rfl rfl rfl

theorem State.intxUpdate_inv {s : State} (h_s : s.Keeps qs) : (State.intxUpdate s).Keeps qs := by
  unfold State.intxUpdate
  repeat' first
    | with_reducible assumption
    | with_reducible apply State.sendIfUp_inv
    | with_reducible apply State.wr_inv
    | with_reducible apply State.Keeps.ite
    | with_reducible apply State.Keeps.iteFst
    | (with_reducible apply State.each_inv; intros)
    | (with_reducible refine State.when_inv (fun _ => ?_) ?_)
    | with_reducible apply foldl_inv
    | intro _
    | split
    | with_reducible refine State.Keeps.fst (by assumption) ?_
    | with_reducible refine State.Keeps.snd (by assumption) ?_
    | with_reducible refine State.Keeps.opt (by assumption) ?_
    | with_reducible apply OptInv.none
    | with_reducible apply OptInv.some
    | with_reducible apply OptInv.map
    | with_reducible apply OptInv.bind
    | with_reducible apply OptInv.ite
    | with_reducible apply OptInv.getD
    | with_reducible apply State.reset_inv
    | with_reducible refine State.Keeps.upd ?_ rfl rfl rfl rfl rfl rfl rfl rfl rfl rfl rfl rfl rfl rfl rfl rfl rfl rfl rfl

theorem State.vectorDue_inv {s : State} {v : Nat} (h_s : s.Keeps qs) : (State.vectorDue s v).Keeps qs := by
  unfold State.vectorDue
  repeat' first
    | with_reducible assumption
    | with_reducible apply State.wr_inv
    | with_reducible apply State.Keeps.ite
    | with_reducible apply State.Keeps.iteFst
    | (with_reducible apply State.each_inv; intros)
    | (with_reducible refine State.when_inv (fun _ => ?_) ?_)
    | with_reducible apply foldl_inv
    | intro _
    | split
    | with_reducible refine State.Keeps.fst (by assumption) ?_
    | with_reducible refine State.Keeps.snd (by assumption) ?_
    | with_reducible refine State.Keeps.opt (by assumption) ?_
    | with_reducible apply OptInv.none
    | with_reducible apply OptInv.some
    | with_reducible apply OptInv.map
    | with_reducible apply OptInv.bind
    | with_reducible apply OptInv.ite
    | with_reducible apply OptInv.getD
    | with_reducible apply State.reset_inv
    | with_reducible refine State.Keeps.upd ?_ rfl rfl rfl rfl rfl rfl rfl rfl rfl rfl rfl rfl rfl rfl rfl rfl rfl rfl rfl

theorem State.vectorEvent_inv {s : State} {v : Nat} (h_s : s.Keeps qs) : (State.vectorEvent s v).Keeps qs := by
  unfold State.vectorEvent
  repeat' first
    | with_reducible assumption
    | with_reducible apply State.setF_inv
    | with_reducible apply State.vectorDue_inv
    | with_reducible apply State.wr_inv
    | with_reducible apply State.Keeps.ite
    | with_reducible apply State.Keeps.iteFst
    | (with_reducible apply State.each_inv; intros)
    | (with_reducible refine State.when_inv (fun _ => ?_) ?_)
    | with_reducible apply foldl_inv
    | intro _
    | split
    | with_reducible refine State.Keeps.fst (by assumption) ?_
    | with_reducible refine State.Keeps.snd (by assumption) ?_
    | with_reducible refine State.Keeps.opt (by assumption) ?_
    | with_reducible apply OptInv.none
    | with_reducible apply OptInv.some
    | with_reducible apply OptInv.map
    | with_reducible apply OptInv.bind
    | with_reducible apply OptInv.ite
    | with_reducible apply OptInv.getD
    | with_reducible apply State.reset_inv
    | with_reducible refine State.Keeps.upd ?_ rfl rfl rfl rfl rfl rfl rfl rfl rfl rfl rfl rfl rfl rfl rfl rfl rfl rfl rfl

theorem State.pmeSignal_inv {s : State} (h_s : s.Keeps qs) : (State.pmeSignal s).Keeps qs := by
  unfold State.pmeSignal
  repeat' first
    | with_reducible assumption
    | with_reducible apply State.setF_inv
    | with_reducible apply State.sendTlp_inv
    | with_reducible apply State.inc_inv
    | with_reducible apply State.vectorEvent_inv
    | with_reducible apply State.wr_inv
    | with_reducible apply State.Keeps.ite
    | with_reducible apply State.Keeps.iteFst
    | (with_reducible apply State.each_inv; intros)
    | (with_reducible refine State.when_inv (fun _ => ?_) ?_)
    | with_reducible apply foldl_inv
    | intro _
    | split
    | with_reducible refine State.Keeps.fst (by assumption) ?_
    | with_reducible refine State.Keeps.snd (by assumption) ?_
    | with_reducible refine State.Keeps.opt (by assumption) ?_
    | with_reducible apply OptInv.none
    | with_reducible apply OptInv.some
    | with_reducible apply OptInv.map
    | with_reducible apply OptInv.bind
    | with_reducible apply OptInv.ite
    | with_reducible apply OptInv.getD
    | with_reducible apply State.reset_inv
    | with_reducible refine State.Keeps.upd ?_ rfl rfl rfl rfl rfl rfl rfl rfl rfl rfl rfl rfl rfl rfl rfl rfl rfl rfl rfl

theorem State.raise_inv {s : State} {f : Fld} (h_s : s.Keeps qs) : (State.raise s f).Keeps qs := by
  unfold State.raise
  repeat' first
    | with_reducible assumption
    | with_reducible apply State.setF_inv
    | with_reducible apply State.vectorEvent_inv
    | with_reducible apply State.pmeSignal_inv
    | with_reducible apply State.intxUpdate_inv
    | with_reducible apply State.wr_inv
    | with_reducible apply State.Keeps.ite
    | with_reducible apply State.Keeps.iteFst
    | (with_reducible apply State.each_inv; intros)
    | (with_reducible refine State.when_inv (fun _ => ?_) ?_)
    | with_reducible apply foldl_inv
    | intro _
    | split
    | with_reducible refine State.Keeps.fst (by assumption) ?_
    | with_reducible refine State.Keeps.snd (by assumption) ?_
    | with_reducible refine State.Keeps.opt (by assumption) ?_
    | with_reducible apply OptInv.none
    | with_reducible apply OptInv.some
    | with_reducible apply OptInv.map
    | with_reducible apply OptInv.bind
    | with_reducible apply OptInv.ite
    | with_reducible apply OptInv.getD
    | with_reducible apply State.reset_inv
    | with_reducible refine State.Keeps.upd ?_ rfl rfl rfl rfl rfl rfl rfl rfl rfl rfl rfl rfl rfl rfl rfl rfl rfl rfl rfl

theorem State.bayEdge_inv {s : State} {b : Nat} {src : Nat} (h_s : s.Keeps qs) : (State.bayEdge s b src).Keeps qs := by
  unfold State.bayEdge
  repeat' first
    | with_reducible assumption
    | with_reducible apply State.setF_inv
    | with_reducible apply State.wr_inv
    | with_reducible apply State.Keeps.ite
    | with_reducible apply State.Keeps.iteFst
    | (with_reducible apply State.each_inv; intros)
    | (with_reducible refine State.when_inv (fun _ => ?_) ?_)
    | with_reducible apply foldl_inv
    | intro _
    | split
    | with_reducible refine State.Keeps.fst (by assumption) ?_
    | with_reducible refine State.Keeps.snd (by assumption) ?_
    | with_reducible refine State.Keeps.opt (by assumption) ?_
    | with_reducible apply OptInv.none
    | with_reducible apply OptInv.some
    | with_reducible apply OptInv.map
    | with_reducible apply OptInv.bind
    | with_reducible apply OptInv.ite
    | with_reducible apply OptInv.getD
    | with_reducible apply State.reset_inv
    | with_reducible refine State.Keeps.upd ?_ rfl rfl rfl rfl rfl rfl rfl rfl rfl rfl rfl rfl rfl rfl rfl rfl rfl rfl rfl

theorem State.allBaysEdge_inv {s : State} {src : Nat} (h_s : s.Keeps qs) : (State.allBaysEdge s src).Keeps qs := by
  unfold State.allBaysEdge
  repeat' first
    | with_reducible assumption
    | with_reducible apply State.bayEdge_inv
    | with_reducible apply State.wr_inv
    | with_reducible apply State.Keeps.ite
    | with_reducible apply State.Keeps.iteFst
    | (with_reducible apply State.each_inv; intros)
    | (with_reducible refine State.when_inv (fun _ => ?_) ?_)
    | with_reducible apply foldl_inv
    | intro _
    | split
    | with_reducible refine State.Keeps.fst (by assumption) ?_
    | with_reducible refine State.Keeps.snd (by assumption) ?_
    | with_reducible refine State.Keeps.opt (by assumption) ?_
    | with_reducible apply OptInv.none
    | with_reducible apply OptInv.some
    | with_reducible apply OptInv.map
    | with_reducible apply OptInv.bind
    | with_reducible apply OptInv.ite
    | with_reducible apply OptInv.getD
    | with_reducible apply State.reset_inv
    | with_reducible refine State.Keeps.upd ?_ rfl rfl rfl rfl rfl rfl rfl rfl rfl rfl rfl rfl rfl rfl rfl rfl rfl rfl rfl

theorem State.curEdge_inv {s : State} {src : Nat} (h_s : s.Keeps qs) : (State.curEdge s src).Keeps qs := by
  unfold State.curEdge
  repeat' first
    | with_reducible assumption
    | with_reducible apply State.setF_inv
    | with_reducible apply State.wr_inv
    | with_reducible apply State.Keeps.ite
    | with_reducible apply State.Keeps.iteFst
    | (with_reducible apply State.each_inv; intros)
    | (with_reducible refine State.when_inv (fun _ => ?_) ?_)
    | with_reducible apply foldl_inv
    | intro _
    | split
    | with_reducible refine State.Keeps.fst (by assumption) ?_
    | with_reducible refine State.Keeps.snd (by assumption) ?_
    | with_reducible refine State.Keeps.opt (by assumption) ?_
    | with_reducible apply OptInv.none
    | with_reducible apply OptInv.some
    | with_reducible apply OptInv.map
    | with_reducible apply OptInv.bind
    | with_reducible apply OptInv.ite
    | with_reducible apply OptInv.getD
    | with_reducible apply State.reset_inv
    | with_reducible refine State.Keeps.upd ?_ rfl rfl rfl rfl rfl rfl rfl rfl rfl rfl rfl rfl rfl rfl rfl rfl rfl rfl rfl

theorem State.requeue_inv {s : State} {e : LogEntry} (h : s.Keeps qs) : (s.requeue e).Keeps qs := by
  unfold State.requeue
  split
  · have hx : ((s.inc FLT_LOG_LOST).raise FLT_IRQ_STATUS.LogLost).Keeps qs := State.raise_inv (State.inc_inv h)
    exact ⟨hx.regs, hx.mem, hx.dmem, hx.imem, hx.sram, hx.flash, hx.cores, hx.ports, hx.pairs, hx.lanes, hx.links, hx.chans, hx.outs, hx.rings, hx.movers, hx.bins, h.log, hx.events, hx.queue, hx.repeats, hx.pending⟩
  · refine ⟨h.regs, h.mem, h.dmem, h.imem, h.sram, h.flash, h.cores, h.ports, h.pairs, h.lanes, h.links, h.chans, h.outs, h.rings, h.movers, h.bins, ?_, h.events, h.queue, h.repeats, h.pending⟩
    simp only [List.length_append, List.length_cons, List.length_nil]
    omega

theorem State.logEvent_inv {s : State} (h : s.Keeps qs) {event unit : Nat} {detail : List Byte} : (s.logEvent event unit detail).Keeps qs := by
  unfold State.logEvent
  split
  · exact h
  · split
    · exact ⟨h.regs, h.mem, h.dmem, h.imem, h.sram, h.flash, h.cores, h.ports, h.pairs, h.lanes, h.links, h.chans, h.outs, h.rings, h.movers, h.bins, h.log, h.events, h.queue, h.repeats, h.pending⟩
    · exact State.requeue_inv h

theorem State.inOneCycle_inv {s : State} {f : State → State} (h_s : s.Keeps qs) (hf_f : ∀ y0 : State, y0.Keeps qs → (f y0).Keeps qs) :
    (State.inOneCycle s f).Keeps qs := by
  unfold State.inOneCycle
  have h := hf_f { s with log := { s.log with gathered := some [] } } (State.Keeps.upd h_s rfl rfl rfl rfl rfl rfl rfl rfl rfl rfl rfl rfl rfl rfl rfl rfl rfl rfl rfl)
  dsimp only at h ⊢
  exact State.Keeps.ite (hf_f _ h_s) (State.each_inv (fun _ _ hx => State.requeue_inv hx) (State.Keeps.upd h rfl rfl rfl rfl rfl rfl rfl rfl rfl rfl rfl rfl rfl rfl rfl rfl rfl rfl rfl))

theorem State.setChan_inv {s : State} {c : Nat} {m : ModChan} (h : s.Keeps qs) : (State.setChan s c m).Keeps qs :=
  ⟨h.regs, h.mem, h.dmem, h.imem, h.sram, h.flash, h.cores, h.ports, h.pairs, h.lanes, h.links, tset_wf _ _ _ _ h.chans, h.outs, h.rings, h.movers, h.bins, h.log, h.events, h.queue, h.repeats, h.pending⟩

theorem State.edgeFromNow_inv {s : State} {c : Nat} (h_s : s.Keeps qs) : (State.edgeFromNow s c).Keeps qs := by
  unfold State.edgeFromNow
  repeat' first
    | with_reducible assumption
    | with_reducible apply State.setChan_inv
    | with_reducible apply State.wr_inv
    | with_reducible apply State.Keeps.ite
    | with_reducible apply State.Keeps.iteFst
    | (with_reducible apply State.each_inv; intros)
    | (with_reducible refine State.when_inv (fun _ => ?_) ?_)
    | with_reducible apply foldl_inv
    | intro _
    | split
    | with_reducible refine State.Keeps.fst (by assumption) ?_
    | with_reducible refine State.Keeps.snd (by assumption) ?_
    | with_reducible refine State.Keeps.opt (by assumption) ?_
    | with_reducible apply OptInv.none
    | with_reducible apply OptInv.some
    | with_reducible apply OptInv.map
    | with_reducible apply OptInv.bind
    | with_reducible apply OptInv.ite
    | with_reducible apply OptInv.getD
    | with_reducible apply State.reset_inv
    | with_reducible refine State.Keeps.upd ?_ rfl rfl rfl rfl rfl rfl rfl rfl rfl rfl rfl rfl rfl rfl rfl rfl rfl rfl rfl

theorem State.fenceCore_inv {s : State} {core : Nat} (h_s : s.Keeps qs) : (State.fenceCore s core).Keeps qs := by
  unfold State.fenceCore
  repeat' first
    | with_reducible assumption
    | with_reducible apply State.setF_inv
    | with_reducible apply State.raise_inv
    | with_reducible apply State.wr_inv
    | with_reducible apply State.Keeps.ite
    | with_reducible apply State.Keeps.iteFst
    | (with_reducible apply State.each_inv; intros)
    | (with_reducible refine State.when_inv (fun _ => ?_) ?_)
    | with_reducible apply foldl_inv
    | intro _
    | split
    | with_reducible refine State.Keeps.fst (by assumption) ?_
    | with_reducible refine State.Keeps.snd (by assumption) ?_
    | with_reducible refine State.Keeps.opt (by assumption) ?_
    | with_reducible apply OptInv.none
    | with_reducible apply OptInv.some
    | with_reducible apply OptInv.map
    | with_reducible apply OptInv.bind
    | with_reducible apply OptInv.ite
    | with_reducible apply OptInv.getD
    | with_reducible apply State.reset_inv
    | with_reducible refine State.Keeps.upd ?_ rfl rfl rfl rfl rfl rfl rfl rfl rfl rfl rfl rfl rfl rfl rfl rfl rfl rfl rfl

end Sys2Proof.Machine
end

