-- ==== Sys2Proof/Laws/Inv/Switch.lean ====
section
/-! SUPPORT. Laws/Inv/Switch.lean: every operation of Machine/Switch.lean keeps the invariant. -/

set_option linter.unusedTactic false
set_option linter.unreachableTactic false

namespace Sys2Proof.Machine

variable {qs : List Instr}

theorem State.enqueueFlit_inv {s : State} {r : Nat} {l : Nat} {f : Flit} (h_s : s.Keeps qs) : (State.enqueueFlit s r l f).Keeps qs := by
  unfold State.enqueueFlit
  repeat' first
    | with_reducible assumption
    | with_reducible apply State.wr_inv
    | with_reducible apply State.Keeps.ite
    | with_reducible apply State.Keeps.iteFst
    | (with_reducible apply State.each_inv; intros)
    | (with_reducible refine State.when_inv (fun _ => ?_) ?_)
    | with_reducible apply foldl_inv
    | intro _
    | split
    | with_reducible refine State.Keeps.fst (by assumption) ?_
    | with_reducible refine State.Keeps.snd (by assumption) ?_
    | with_reducible refine State.Keeps.opt (by assumption) ?_
    | with_reducible apply OptInv.none
    | with_reducible apply OptInv.some
    | with_reducible apply OptInv.map
    | with_reducible apply OptInv.bind
    | with_reducible apply OptInv.ite
    | with_reducible apply OptInv.getD
    | with_reducible apply State.reset_inv
    | with_reducible refine State.Keeps.upd ?_ rfl rfl rfl rfl rfl rfl rfl rfl rfl rfl rfl rfl rfl rfl rfl rfl rfl rfl rfl

theorem State.noRoute_inv {s : State} (h_s : s.Keeps qs) : (State.noRoute s).Keeps qs := by
  unfold State.noRoute
  repeat' first
    | with_reducible assumption
    | with_reducible apply State.inc_inv
    | with_reducible apply State.raise_inv
    | with_reducible apply State.wr_inv
    | with_reducible apply State.Keeps.ite
    | with_reducible apply State.Keeps.iteFst
    | (with_reducible apply State.each_inv; intros)
    | (with_reducible refine State.when_inv (fun _ => ?_) ?_)
    | with_reducible apply foldl_inv
    | intro _
    | split
    | with_reducible refine State.Keeps.fst (by assumption) ?_
    | with_reducible refine State.Keeps.snd (by assumption) ?_
    | with_reducible refine State.Keeps.opt (by assumption) ?_
    | with_reducible apply OptInv.none
    | with_reducible apply OptInv.some
    | with_reducible apply OptInv.map
    | with_reducible apply OptInv.bind
    | with_reducible apply OptInv.ite
    | with_reducible apply OptInv.getD
    | with_reducible apply State.reset_inv
    | with_reducible refine State.Keeps.upd ?_ rfl rfl rfl rfl rfl rfl rfl rfl rfl rfl rfl rfl rfl rfl rfl rfl rfl rfl rfl

theorem State.deliver_inv {s : State} {f : Flit} {link : Option Nat} {stamp : Dword} (h_s : s.Keeps qs) : (State.deliver s f link stamp).Keeps qs := by
  unfold State.deliver
  repeat' first
    | with_reducible assumption
    | with_reducible apply State.wr_inv
    | with_reducible apply State.Keeps.ite
    | with_reducible apply State.Keeps.iteFst
    | (with_reducible apply State.each_inv; intros)
    | (with_reducible refine State.when_inv (fun _ => ?_) ?_)
    | with_reducible apply foldl_inv
    | intro _
    | split
    | with_reducible refine State.Keeps.fst (by assumption) ?_
    | with_reducible refine State.Keeps.snd (by assumption) ?_
    | with_reducible refine State.Keeps.opt (by assumption) ?_
    | with_reducible apply OptInv.none
    | with_reducible apply OptInv.some
    | with_reducible apply OptInv.map
    | with_reducible apply OptInv.bind
    | with_reducible apply OptInv.ite
    | with_reducible apply OptInv.getD
    | with_reducible apply State.reset_inv
    | with_reducible refine State.Keeps.upd ?_ rfl rfl rfl rfl rfl rfl rfl rfl rfl rfl rfl rfl rfl rfl rfl rfl rfl rfl rfl

theorem State.switchFlit_inv {s : State} {r : Nat} {f : Flit} {arrival : Option Nat} {stamp : Dword} (h_s : s.Keeps qs) : (State.switchFlit s r f arrival stamp).1.Keeps qs := by
  unfold State.switchFlit
  repeat' first
    | with_reducible assumption
    | with_reducible apply State.deliver_inv
    | with_reducible apply State.noRoute_inv
    | with_reducible apply State.inc_inv
    | with_reducible apply State.enqueueFlit_inv
    | with_reducible apply State.wr_inv
    | with_reducible apply State.Keeps.ite
    | with_reducible apply State.Keeps.iteFst
    | (with_reducible apply State.each_inv; intros)
    | (with_reducible refine State.when_inv (fun _ => ?_) ?_)
    | with_reducible apply foldl_inv
    | intro _
    | split
    | with_reducible refine State.Keeps.fst (by assumption) ?_
    | with_reducible refine State.Keeps.snd (by assumption) ?_
    | with_reducible refine State.Keeps.opt (by assumption) ?_
    | with_reducible apply OptInv.none
    | with_reducible apply OptInv.some
    | with_reducible apply OptInv.map
    | with_reducible apply OptInv.bind
    | with_reducible apply OptInv.ite
    | with_reducible apply OptInv.getD
    | with_reducible apply State.reset_inv
    | with_reducible refine State.Keeps.upd ?_ rfl rfl rfl rfl rfl rfl rfl rfl rfl rfl rfl rfl rfl rfl rfl rfl rfl rfl rfl

theorem State.curatorFlit_inv {s : State} {t : BitVec 4} {dest : Nat} {payload : List Byte} (h_s : s.Keeps qs) : (State.curatorFlit s t dest payload).1.Keeps qs := by
  unfold State.curatorFlit
  repeat' first
    | with_reducible assumption
    | with_reducible apply State.switchFlit_inv
    | with_reducible apply State.wr_inv
    | with_reducible apply State.Keeps.ite
    | with_reducible apply State.Keeps.iteFst
    | (with_reducible apply State.each_inv; intros)
    | (with_reducible refine State.when_inv (fun _ => ?_) ?_)
    | with_reducible apply foldl_inv
    | intro _
    | split
    | with_reducible refine State.Keeps.fst (by assumption) ?_
    | with_reducible refine State.Keeps.snd (by assumption) ?_
    | with_reducible refine State.Keeps.opt (by assumption) ?_
    | with_reducible apply OptInv.none
    | with_reducible apply OptInv.some
    | with_reducible apply OptInv.map
    | with_reducible apply OptInv.bind
    | with_reducible apply OptInv.ite
    | with_reducible apply OptInv.getD
    | with_reducible apply State.reset_inv
    | with_reducible refine State.Keeps.upd ?_ rfl rfl rfl rfl rfl rfl rfl rfl rfl rfl rfl rfl rfl rfl rfl rfl rfl rfl rfl

theorem State.popInbox_inv {s : State} {t : BitVec 4} (h_s : s.Keeps qs) : (State.popInbox s t).Keeps qs := by
  unfold State.popInbox
  repeat' first
    | with_reducible assumption
    | with_reducible apply State.wr_inv
    | with_reducible apply State.Keeps.ite
    | with_reducible apply State.Keeps.iteFst
    | (with_reducible apply State.each_inv; intros)
    | (with_reducible refine State.when_inv (fun _ => ?_) ?_)
    | with_reducible apply foldl_inv
    | intro _
    | split
    | with_reducible refine State.Keeps.fst (by assumption) ?_
    | with_reducible refine State.Keeps.snd (by assumption) ?_
    | with_reducible refine State.Keeps.opt (by assumption) ?_
    | with_reducible apply OptInv.none
    | with_reducible apply OptInv.some
    | with_reducible apply OptInv.map
    | with_reducible apply OptInv.bind
    | with_reducible apply OptInv.ite
    | with_reducible apply OptInv.getD
    | with_reducible apply State.reset_inv
    | with_reducible refine State.Keeps.upd ?_ rfl rfl rfl rfl rfl rfl rfl rfl rfl rfl rfl rfl rfl rfl rfl rfl rfl rfl rfl

end Sys2Proof.Machine
end

