-- ==== Sys2Proof/Laws/Inv/Slip.lean ====
section
/-! SUPPORT. Laws/Inv/Slip.lean: every operation of Machine/Slip.lean keeps the invariant. -/

set_option linter.unusedTactic false
set_option linter.unreachableTactic false

namespace Sys2Proof.Machine

variable {qs : List Instr}

theorem State.consoleOut_inv {s : State} {bs : List Byte} (h_s : s.Keeps qs) : (State.consoleOut s bs).Keeps qs := by
  unfold State.consoleOut
  repeat' first
    | with_reducible assumption
    | with_reducible apply State.wr_inv
    | with_reducible apply State.Keeps.ite
    | with_reducible apply State.Keeps.iteFst
    | (with_reducible apply State.each_inv; intros)
    | (with_reducible refine State.when_inv (fun _ => ?_) ?_)
    | with_reducible apply foldl_inv
    | intro _
    | split
    | with_reducible refine State.Keeps.fst (by assumption) ?_
    | with_reducible refine State.Keeps.snd (by assumption) ?_
    | with_reducible refine State.Keeps.opt (by assumption) ?_
    | with_reducible apply OptInv.none
    | with_reducible apply OptInv.some
    | with_reducible apply OptInv.map
    | with_reducible apply OptInv.bind
    | with_reducible apply OptInv.ite
    | with_reducible apply OptInv.getD
    | with_reducible apply State.reset_inv
    | with_reducible refine State.Keeps.upd ?_ rfl rfl rfl rfl rfl rfl rfl rfl rfl rfl rfl rfl rfl rfl rfl rfl rfl rfl rfl

theorem State.consoleReturn_inv {s : State} {r : ReturnSlip} (h_s : s.Keeps qs) : (State.consoleReturn s r).Keeps qs := by
  unfold State.consoleReturn
  repeat' first
    | with_reducible assumption
    | with_reducible apply State.consoleOut_inv
    | with_reducible apply State.wr_inv
    | with_reducible apply State.Keeps.ite
    | with_reducible apply State.Keeps.iteFst
    | (with_reducible apply State.each_inv; intros)
    | (with_reducible refine State.when_inv (fun _ => ?_) ?_)
    | with_reducible apply foldl_inv
    | intro _
    | split
    | with_reducible refine State.Keeps.fst (by assumption) ?_
    | with_reducible refine State.Keeps.snd (by assumption) ?_
    | with_reducible refine State.Keeps.opt (by assumption) ?_
    | with_reducible apply OptInv.none
    | with_reducible apply OptInv.some
    | with_reducible apply OptInv.map
    | with_reducible apply OptInv.bind
    | with_reducible apply OptInv.ite
    | with_reducible apply OptInv.getD
    | with_reducible apply State.reset_inv
    | with_reducible refine State.Keeps.upd ?_ rfl rfl rfl rfl rfl rfl rfl rfl rfl rfl rfl rfl rfl rfl rfl rfl rfl rfl rfl

theorem State.replyWrite_inv {s : State} {r : ReturnSlip} (h_s : s.Keeps qs) : (State.replyWrite s r).Keeps qs := by
  unfold State.replyWrite
  repeat' first
    | with_reducible assumption
    | with_reducible apply State.hostGrant_inv
    | with_reducible apply State.sendTlp_inv
    | with_reducible apply State.setF_inv
    | with_reducible apply State.raise_inv
    | with_reducible apply State.intxUpdate_inv
    | with_reducible apply State.wr_inv
    | with_reducible apply State.Keeps.ite
    | with_reducible apply State.Keeps.iteFst
    | (with_reducible apply State.each_inv; intros)
    | (with_reducible refine State.when_inv (fun _ => ?_) ?_)
    | with_reducible apply foldl_inv
    | intro _
    | split
    | with_reducible refine State.Keeps.fst (by assumption) ?_
    | with_reducible refine State.Keeps.snd (by assumption) ?_
    | with_reducible refine State.Keeps.opt (by assumption) ?_
    | with_reducible apply OptInv.none
    | with_reducible apply OptInv.some
    | with_reducible apply OptInv.map
    | with_reducible apply OptInv.bind
    | with_reducible apply OptInv.ite
    | with_reducible apply OptInv.getD
    | with_reducible apply State.reset_inv
    | with_reducible refine State.Keeps.upd ?_ rfl rfl rfl rfl rfl rfl rfl rfl rfl rfl rfl rfl rfl rfl rfl rfl rfl rfl rfl

theorem State.replyHost_inv {s : State} {r : ReturnSlip} (h_s : s.Keeps qs) : (State.replyHost s r).Keeps qs := by
  unfold State.replyHost
  repeat' first
    | with_reducible assumption
    | with_reducible apply State.replyWrite_inv
    | with_reducible apply State.wr_inv
    | with_reducible apply State.Keeps.ite
    | with_reducible apply State.Keeps.iteFst
    | (with_reducible apply State.each_inv; intros)
    | (with_reducible refine State.when_inv (fun _ => ?_) ?_)
    | with_reducible apply foldl_inv
    | intro _
    | split
    | with_reducible refine State.Keeps.fst (by assumption) ?_
    | with_reducible refine State.Keeps.snd (by assumption) ?_
    | with_reducible refine State.Keeps.opt (by assumption) ?_
    | with_reducible apply OptInv.none
    | with_reducible apply OptInv.some
    | with_reducible apply OptInv.map
    | with_reducible apply OptInv.bind
    | with_reducible apply OptInv.ite
    | with_reducible apply OptInv.getD
    | with_reducible apply State.reset_inv
    | with_reducible refine State.Keeps.upd ?_ rfl rfl rfl rfl rfl rfl rfl rfl rfl rfl rfl rfl rfl rfl rfl rfl rfl rfl rfl

theorem State.replyFlush_inv {x0 : Nat} {x1 : State} (h_x1 : x1.Keeps qs) : (State.replyFlush x0 x1).Keeps qs := by
  induction x0 generalizing x1 with
  | zero =>
    unfold State.replyFlush
    repeat' first
      | with_reducible assumption
      | with_reducible apply ih
      | with_reducible apply State.replyWrite_inv
      | with_reducible apply State.wr_inv
      | with_reducible apply State.Keeps.ite
      | with_reducible apply State.Keeps.iteFst
      | (with_reducible apply State.each_inv; intros)
      | (with_reducible refine State.when_inv (fun _ => ?_) ?_)
      | with_reducible apply foldl_inv
      | intro _
      | split
      | with_reducible refine State.Keeps.fst (by assumption) ?_
      | with_reducible refine State.Keeps.snd (by assumption) ?_
      | with_reducible refine State.Keeps.opt (by assumption) ?_
      | with_reducible apply OptInv.none
      | with_reducible apply OptInv.some
      | with_reducible apply OptInv.map
      | with_reducible apply OptInv.bind
      | with_reducible apply OptInv.ite
      | with_reducible apply OptInv.getD
      | with_reducible apply State.reset_inv
      | with_reducible refine State.Keeps.upd ?_ rfl rfl rfl rfl rfl rfl rfl rfl rfl rfl rfl rfl rfl rfl rfl rfl rfl rfl rfl
  | succ n ih =>
    unfold State.replyFlush
    repeat' first
      | with_reducible assumption
      | with_reducible apply ih
      | with_reducible apply State.replyWrite_inv
      | with_reducible apply State.wr_inv
      | with_reducible apply State.Keeps.ite
      | with_reducible apply State.Keeps.iteFst
      | (with_reducible apply State.each_inv; intros)
      | (with_reducible refine State.when_inv (fun _ => ?_) ?_)
      | with_reducible apply foldl_inv
      | intro _
      | split
      | with_reducible refine State.Keeps.fst (by assumption) ?_
      | with_reducible refine State.Keeps.snd (by assumption) ?_
      | with_reducible refine State.Keeps.opt (by assumption) ?_
      | with_reducible apply OptInv.none
      | with_reducible apply OptInv.some
      | with_reducible apply OptInv.map
      | with_reducible apply OptInv.bind
      | with_reducible apply OptInv.ite
      | with_reducible apply OptInv.getD
      | with_reducible apply State.reset_inv
      | with_reducible refine State.Keeps.upd ?_ rfl rfl rfl rfl rfl rfl rfl rfl rfl rfl rfl rfl rfl rfl rfl rfl rfl rfl rfl

theorem State.sendReturn_inv {s : State} {path : SlipPath} {r : ReturnSlip} (h_s : s.Keeps qs) : (State.sendReturn s path r).Keeps qs := by
  unfold State.sendReturn
  repeat' first
    | with_reducible assumption
    | with_reducible apply State.replyHost_inv
    | with_reducible apply State.consoleReturn_inv
    | with_reducible apply State.curatorFlit_inv
    | with_reducible apply State.wr_inv
    | with_reducible apply State.Keeps.ite
    | with_reducible apply State.Keeps.iteFst
    | (with_reducible apply State.each_inv; intros)
    | (with_reducible refine State.when_inv (fun _ => ?_) ?_)
    | with_reducible apply foldl_inv
    | intro _
    | split
    | with_reducible refine State.Keeps.fst (by assumption) ?_
    | with_reducible refine State.Keeps.snd (by assumption) ?_
    | with_reducible refine State.Keeps.opt (by assumption) ?_
    | with_reducible apply OptInv.none
    | with_reducible apply OptInv.some
    | with_reducible apply OptInv.map
    | with_reducible apply OptInv.bind
    | with_reducible apply OptInv.ite
    | with_reducible apply OptInv.getD
    | with_reducible apply State.reset_inv
    | with_reducible refine State.Keeps.upd ?_ rfl rfl rfl rfl rfl rfl rfl rfl rfl rfl rfl rfl rfl rfl rfl rfl rfl rfl rfl

theorem State.answer_inv {s : State} {h : SlipHdr} {r : ReturnSlip} (h_s : s.Keeps qs) : (State.answer s h r).Keeps qs := by
  unfold State.answer
  repeat' first
    | with_reducible assumption
    | with_reducible apply State.sendReturn_inv
    | with_reducible apply State.wr_inv
    | with_reducible apply State.Keeps.ite
    | with_reducible apply State.Keeps.iteFst
    | (with_reducible apply State.each_inv; intros)
    | (with_reducible refine State.when_inv (fun _ => ?_) ?_)
    | with_reducible apply foldl_inv
    | intro _
    | split
    | with_reducible refine State.Keeps.fst (by assumption) ?_
    | with_reducible refine State.Keeps.snd (by assumption) ?_
    | with_reducible refine State.Keeps.opt (by assumption) ?_
    | with_reducible apply OptInv.none
    | with_reducible apply OptInv.some
    | with_reducible apply OptInv.map
    | with_reducible apply OptInv.bind
    | with_reducible apply OptInv.ite
    | with_reducible apply OptInv.getD
    | with_reducible apply State.reset_inv
    | with_reducible refine State.Keeps.upd ?_ rfl rfl rfl rfl rfl rfl rfl rfl rfl rfl rfl rfl rfl rfl rfl rfl rfl rfl rfl

theorem State.recordSlip_inv {s : State} {op : Nat} {h : SlipHdr} {final : Option ReturnSlip} (h_s : s.Keeps qs) : (s.recordSlip op h final).Keeps qs := by
  unfold State.recordSlip
  have hx := State.inc_inv (a := CMD_EXEC) h_s
  refine ⟨hx.regs, hx.mem, hx.dmem, hx.imem, hx.sram, hx.flash, hx.cores, hx.ports, hx.pairs, hx.lanes, hx.links, hx.chans, hx.outs, hx.rings, hx.movers, hx.bins, hx.log, hx.events, h_s.queue, ?_, hx.pending⟩
  have := h_s.repeats
  simp only [List.length_drop, List.length_append, List.length_cons, List.length_nil]
  omega

theorem State.runSlip_inv {s : State} {h : SlipHdr} {op : Nat} {unit : BusyUnit} {body : State → State × SlipAns} (h_s : s.Keeps qs)
    (hf : ∀ t (_ : t.Keeps qs), (body t).1.Keeps qs) : (s.runSlip h op unit body).Keeps qs := by
  have hb := hf s h_s
  unfold State.runSlip
  split
  · exact h_s
  · split
    · exact State.answer_inv h_s
    · dsimp only
      split
      · exact State.answer_inv (State.inc_inv h_s)
      · split
        · exact State.answer_inv h_s
        · split
          · rename_i e
            rw [e] at hb
            exact State.answer_inv (State.recordSlip_inv hb)
          · rename_i e
            rw [e] at hb
            split
            · exact State.answer_inv h_s
            · exact State.answer_inv (State.recordSlip_inv ⟨hb.regs, hb.mem, hb.dmem, hb.imem, hb.sram, hb.flash, hb.cores, hb.ports, hb.pairs, hb.lanes, hb.links, hb.chans, hb.outs, hb.rings, hb.movers, hb.bins, hb.log, hb.events, hb.queue, hb.repeats, hb.pending⟩)
          · exact ⟨h_s.regs, h_s.mem, h_s.dmem, h_s.imem, h_s.sram, h_s.flash, h_s.cores, h_s.ports, h_s.pairs, h_s.lanes, h_s.links, h_s.chans, h_s.outs, h_s.rings, h_s.movers, h_s.bins, h_s.log, h_s.events, h_s.queue, h_s.repeats, h_s.pending⟩

theorem State.finishBackground_inv {s : State} {b : Background} {status : Nat} {result : List Byte} (h : s.Keeps qs) :
    (s.finishBackground b status result).Keeps qs := by
  unfold State.finishBackground
  apply State.answer_inv
  refine ⟨h.regs, h.mem, h.dmem, h.imem, h.sram, h.flash, h.cores, h.ports, h.pairs, h.lanes, h.links, h.chans, h.outs, h.rings, h.movers, h.bins, h.log, h.events, h.queue, ?_, h.pending⟩
  simpa only [List.length_map] using h.repeats

end Sys2Proof.Machine
end

