-- ==== Sys2Proof/Laws/Inv/Frames.lean ====
section
/-! SUPPORT. Laws/Inv/Frames.lean: every operation of Machine/Frames.lean keeps the invariant. -/

set_option linter.unusedTactic false
set_option linter.unreachableTactic false

namespace Sys2Proof.Machine

variable {qs : List Instr}

theorem State.sendCommit_inv {s : State} {dest : Nat} {type : Nat} {m : CommitMsg} (h_s : s.Keeps qs) : (State.sendCommit s dest type m).Keeps qs := by
  unfold State.sendCommit
  repeat' first
    | with_reducible assumption
    | with_reducible apply State.curatorFlit_inv
    | with_reducible apply State.wr_inv
    | with_reducible apply State.Keeps.ite
    | with_reducible apply State.Keeps.iteFst
    | (with_reducible apply State.each_inv; intros)
    | (with_reducible refine State.when_inv (fun _ => ?_) ?_)
    | with_reducible apply foldl_inv
    | intro _
    | split
    | with_reducible refine State.Keeps.fst (by assumption) ?_
    | with_reducible refine State.Keeps.snd (by assumption) ?_
    | with_reducible refine State.Keeps.opt (by assumption) ?_
    | with_reducible apply OptInv.none
    | with_reducible apply OptInv.some
    | with_reducible apply OptInv.map
    | with_reducible apply OptInv.bind
    | with_reducible apply OptInv.ite
    | with_reducible apply OptInv.getD
    | with_reducible apply State.reset_inv
    | with_reducible refine State.Keeps.upd ?_ rfl rfl rfl rfl rfl rfl rfl rfl rfl rfl rfl rfl rfl rfl rfl rfl rfl rfl rfl

theorem State.sendParticipants_inv {s : State} {c : Commit} {type : Nat} (h_s : s.Keeps qs) : (State.sendParticipants s c type).Keeps qs := by
  unfold State.sendParticipants
  repeat' first
    | with_reducible assumption
    | with_reducible apply State.sendCommit_inv
    | with_reducible apply State.wr_inv
    | with_reducible apply State.Keeps.ite
    | with_reducible apply State.Keeps.iteFst
    | (with_reducible apply State.each_inv; intros)
    | (with_reducible refine State.when_inv (fun _ => ?_) ?_)
    | with_reducible apply foldl_inv
    | intro _
    | split
    | with_reducible refine State.Keeps.fst (by assumption) ?_
    | with_reducible refine State.Keeps.snd (by assumption) ?_
    | with_reducible refine State.Keeps.opt (by assumption) ?_
    | with_reducible apply OptInv.none
    | with_reducible apply OptInv.some
    | with_reducible apply OptInv.map
    | with_reducible apply OptInv.bind
    | with_reducible apply OptInv.ite
    | with_reducible apply OptInv.getD
    | with_reducible apply State.reset_inv
    | with_reducible refine State.Keeps.upd ?_ rfl rfl rfl rfl rfl rfl rfl rfl rfl rfl rfl rfl rfl rfl rfl rfl rfl rfl rfl

theorem State.latchesEnter_inv {s : State} (h_s : s.Keeps qs) : (State.latchesEnter s).Keeps qs := by
  unfold State.latchesEnter
  repeat' first
    | with_reducible assumption
    | with_reducible apply State.wr_inv
    | with_reducible apply State.Keeps.ite
    | with_reducible apply State.Keeps.iteFst
    | (with_reducible apply State.each_inv; intros)
    | (with_reducible refine State.when_inv (fun _ => ?_) ?_)
    | with_reducible apply foldl_inv
    | intro _
    | split
    | with_reducible refine State.Keeps.fst (by assumption) ?_
    | with_reducible refine State.Keeps.snd (by assumption) ?_
    | with_reducible refine State.Keeps.opt (by assumption) ?_
    | with_reducible apply OptInv.none
    | with_reducible apply OptInv.some
    | with_reducible apply OptInv.map
    | with_reducible apply OptInv.bind
    | with_reducible apply OptInv.ite
    | with_reducible apply OptInv.getD
    | with_reducible apply State.reset_inv
    | with_reducible refine State.Keeps.upd ?_ rfl rfl rfl rfl rfl rfl rfl rfl rfl rfl rfl rfl rfl rfl rfl rfl rfl rfl rfl

theorem State.unfreeze_inv {s : State} (h_s : s.Keeps qs) : (State.unfreeze s).Keeps qs := by
  unfold State.unfreeze
  repeat' first
    | with_reducible assumption
    | with_reducible apply State.setF_inv
    | with_reducible apply State.latchesEnter_inv
    | with_reducible apply State.wr_inv
    | with_reducible apply State.Keeps.ite
    | with_reducible apply State.Keeps.iteFst
    | (with_reducible apply State.each_inv; intros)
    | (with_reducible refine State.when_inv (fun _ => ?_) ?_)
    | with_reducible apply foldl_inv
    | intro _
    | split
    | with_reducible refine State.Keeps.fst (by assumption) ?_
    | with_reducible refine State.Keeps.snd (by assumption) ?_
    | with_reducible refine State.Keeps.opt (by assumption) ?_
    | with_reducible apply OptInv.none
    | with_reducible apply OptInv.some
    | with_reducible apply OptInv.map
    | with_reducible apply OptInv.bind
    | with_reducible apply OptInv.ite
    | with_reducible apply OptInv.getD
    | with_reducible apply State.reset_inv
    | with_reducible refine State.Keeps.upd ?_ rfl rfl rfl rfl rfl rfl rfl rfl rfl rfl rfl rfl rfl rfl rfl rfl rfl rfl rfl

theorem State.setCommit_inv {s : State} {c : Option Commit} (h_s : s.Keeps qs) : (State.setCommit s c).Keeps qs := by
  unfold State.setCommit
  repeat' first
    | with_reducible assumption
    | with_reducible apply State.wr_inv
    | with_reducible apply State.Keeps.ite
    | with_reducible apply State.Keeps.iteFst
    | (with_reducible apply State.each_inv; intros)
    | (with_reducible refine State.when_inv (fun _ => ?_) ?_)
    | with_reducible apply foldl_inv
    | intro _
    | split
    | with_reducible refine State.Keeps.fst (by assumption) ?_
    | with_reducible refine State.Keeps.snd (by assumption) ?_
    | with_reducible refine State.Keeps.opt (by assumption) ?_
    | with_reducible apply OptInv.none
    | with_reducible apply OptInv.some
    | with_reducible apply OptInv.map
    | with_reducible apply OptInv.bind
    | with_reducible apply OptInv.ite
    | with_reducible apply OptInv.getD
    | with_reducible apply State.reset_inv
    | with_reducible refine State.Keeps.upd ?_ rfl rfl rfl rfl rfl rfl rfl rfl rfl rfl rfl rfl rfl rfl rfl rfl rfl rfl rfl

theorem State.commitReturn_inv {s : State} {status : Nat} {result : List Byte} (h_s : s.Keeps qs) : (State.commitReturn s status result).Keeps qs := by
  unfold State.commitReturn
  repeat' first
    | with_reducible assumption
    | with_reducible apply State.finishBackground_inv
    | with_reducible apply State.setF_inv
    | with_reducible apply State.setCommit_inv
    | with_reducible apply State.raise_inv
    | with_reducible apply State.wr_inv
    | with_reducible apply State.Keeps.ite
    | with_reducible apply State.Keeps.iteFst
    | (with_reducible apply State.each_inv; intros)
    | (with_reducible refine State.when_inv (fun _ => ?_) ?_)
    | with_reducible apply foldl_inv
    | intro _
    | split
    | with_reducible refine State.Keeps.fst (by assumption) ?_
    | with_reducible refine State.Keeps.snd (by assumption) ?_
    | with_reducible refine State.Keeps.opt (by assumption) ?_
    | with_reducible apply OptInv.none
    | with_reducible apply OptInv.some
    | with_reducible apply OptInv.map
    | with_reducible apply OptInv.bind
    | with_reducible apply OptInv.ite
    | with_reducible apply OptInv.getD
    | with_reducible apply State.reset_inv
    | with_reducible refine State.Keeps.upd ?_ rfl rfl rfl rfl rfl rfl rfl rfl rfl rfl rfl rfl rfl rfl rfl rfl rfl rfl rfl

theorem State.commitFinal_inv {s : State} {force : Bool} (h_s : s.Keeps qs) : (State.commitFinal s force).Keeps qs := by
  unfold State.commitFinal
  repeat' first
    | with_reducible assumption
    | with_reducible apply State.commitReturn_inv
    | with_reducible apply State.wr_inv
    | with_reducible apply State.Keeps.ite
    | with_reducible apply State.Keeps.iteFst
    | (with_reducible apply State.each_inv; intros)
    | (with_reducible refine State.when_inv (fun _ => ?_) ?_)
    | with_reducible apply foldl_inv
    | intro _
    | split
    | with_reducible refine State.Keeps.fst (by assumption) ?_
    | with_reducible refine State.Keeps.snd (by assumption) ?_
    | with_reducible refine State.Keeps.opt (by assumption) ?_
    | with_reducible apply OptInv.none
    | with_reducible apply OptInv.some
    | with_reducible apply OptInv.map
    | with_reducible apply OptInv.bind
    | with_reducible apply OptInv.ite
    | with_reducible apply OptInv.getD
    | with_reducible apply State.reset_inv
    | with_reducible refine State.Keeps.upd ?_ rfl rfl rfl rfl rfl rfl rfl rfl rfl rfl rfl rfl rfl rfl rfl rfl rfl rfl rfl

theorem State.commitReport_inv {s : State} {type : Nat} (h_s : s.Keeps qs) : (State.commitReport s type).Keeps qs := by
  unfold State.commitReport
  repeat' first
    | with_reducible assumption
    | with_reducible apply State.setCommit_inv
    | with_reducible apply State.commitFinal_inv
    | with_reducible apply State.sendCommit_inv
    | with_reducible apply State.wr_inv
    | with_reducible apply State.Keeps.ite
    | with_reducible apply State.Keeps.iteFst
    | (with_reducible apply State.each_inv; intros)
    | (with_reducible refine State.when_inv (fun _ => ?_) ?_)
    | with_reducible apply foldl_inv
    | intro _
    | split
    | with_reducible refine State.Keeps.fst (by assumption) ?_
    | with_reducible refine State.Keeps.snd (by assumption) ?_
    | with_reducible refine State.Keeps.opt (by assumption) ?_
    | with_reducible apply OptInv.none
    | with_reducible apply OptInv.some
    | with_reducible apply OptInv.map
    | with_reducible apply OptInv.bind
    | with_reducible apply OptInv.ite
    | with_reducible apply OptInv.getD
    | with_reducible apply State.reset_inv
    | with_reducible refine State.Keeps.upd ?_ rfl rfl rfl rfl rfl rfl rfl rfl rfl rfl rfl rfl rfl rfl rfl rfl rfl rfl rfl

theorem State.cancelSwap_inv {s : State} (h_s : s.Keeps qs) : (State.cancelSwap s).Keeps qs := by
  unfold State.cancelSwap
  repeat' first
    | with_reducible assumption
    | with_reducible apply State.setF_inv
    | with_reducible apply State.setCommit_inv
    | with_reducible apply State.wr_inv
    | with_reducible apply State.Keeps.ite
    | with_reducible apply State.Keeps.iteFst
    | (with_reducible apply State.each_inv; intros)
    | (with_reducible refine State.when_inv (fun _ => ?_) ?_)
    | with_reducible apply foldl_inv
    | intro _
    | split
    | with_reducible refine State.Keeps.fst (by assumption) ?_
    | with_reducible refine State.Keeps.snd (by assumption) ?_
    | with_reducible refine State.Keeps.opt (by assumption) ?_
    | with_reducible apply OptInv.none
    | with_reducible apply OptInv.some
    | with_reducible apply OptInv.map
    | with_reducible apply OptInv.bind
    | with_reducible apply OptInv.ite
    | with_reducible apply OptInv.getD
    | with_reducible apply State.reset_inv
    | with_reducible refine State.Keeps.upd ?_ rfl rfl rfl rfl rfl rfl rfl rfl rfl rfl rfl rfl rfl rfl rfl rfl rfl rfl rfl

theorem State.recordHeld_inv {s : State} {cause : Nat} (h_s : s.Keeps qs) : (State.recordHeld s cause).Keeps qs := by
  unfold State.recordHeld
  repeat' first
    | with_reducible assumption
    | with_reducible apply State.setF_inv
    | with_reducible apply State.logEvent_inv
    | with_reducible apply State.raise_inv
    | with_reducible apply State.wr_inv
    | with_reducible apply State.Keeps.ite
    | with_reducible apply State.Keeps.iteFst
    | (with_reducible apply State.each_inv; intros)
    | (with_reducible refine State.when_inv (fun _ => ?_) ?_)
    | with_reducible apply foldl_inv
    | intro _
    | split
    | with_reducible refine State.Keeps.fst (by assumption) ?_
    | with_reducible refine State.Keeps.snd (by assumption) ?_
    | with_reducible refine State.Keeps.opt (by assumption) ?_
    | with_reducible apply OptInv.none
    | with_reducible apply OptInv.some
    | with_reducible apply OptInv.map
    | with_reducible apply OptInv.bind
    | with_reducible apply OptInv.ite
    | with_reducible apply OptInv.getD
    | with_reducible apply State.reset_inv
    | with_reducible refine State.Keeps.upd ?_ rfl rfl rfl rfl rfl rfl rfl rfl rfl rfl rfl rfl rfl rfl rfl rfl rfl rfl rfl

theorem State.enterHeld_inv {s : State} {cause : Nat} (h_s : s.Keeps qs) : (State.enterHeld s cause).Keeps qs := by
  unfold State.enterHeld
  repeat' first
    | with_reducible assumption
    | with_reducible apply State.setF_inv
    | with_reducible apply State.recordHeld_inv
    | with_reducible apply State.cancelSwap_inv
    | with_reducible apply State.wr_inv
    | with_reducible apply State.Keeps.ite
    | with_reducible apply State.Keeps.iteFst
    | (with_reducible apply State.each_inv; intros)
    | (with_reducible refine State.when_inv (fun _ => ?_) ?_)
    | with_reducible apply foldl_inv
    | intro _
    | split
    | with_reducible refine State.Keeps.fst (by assumption) ?_
    | with_reducible refine State.Keeps.snd (by assumption) ?_
    | with_reducible refine State.Keeps.opt (by assumption) ?_
    | with_reducible apply OptInv.none
    | with_reducible apply OptInv.some
    | with_reducible apply OptInv.map
    | with_reducible apply OptInv.bind
    | with_reducible apply OptInv.ite
    | with_reducible apply OptInv.getD
    | with_reducible apply State.reset_inv
    | with_reducible refine State.Keeps.upd ?_ rfl rfl rfl rfl rfl rfl rfl rfl rfl rfl rfl rfl rfl rfl rfl rfl rfl rfl rfl

theorem State.thaw_inv {s : State} (h_s : s.Keeps qs) : (State.thaw s).Keeps qs := by
  unfold State.thaw
  repeat' first
    | with_reducible assumption
    | with_reducible apply State.unfreeze_inv
    | with_reducible apply State.wr_inv
    | with_reducible apply State.Keeps.ite
    | with_reducible apply State.Keeps.iteFst
    | (with_reducible apply State.each_inv; intros)
    | (with_reducible refine State.when_inv (fun _ => ?_) ?_)
    | with_reducible apply foldl_inv
    | intro _
    | split
    | with_reducible refine State.Keeps.fst (by assumption) ?_
    | with_reducible refine State.Keeps.snd (by assumption) ?_
    | with_reducible refine State.Keeps.opt (by assumption) ?_
    | with_reducible apply OptInv.none
    | with_reducible apply OptInv.some
    | with_reducible apply OptInv.map
    | with_reducible apply OptInv.bind
    | with_reducible apply OptInv.ite
    | with_reducible apply OptInv.getD
    | with_reducible apply State.reset_inv
    | with_reducible refine State.Keeps.upd ?_ rfl rfl rfl rfl rfl rfl rfl rfl rfl rfl rfl rfl rfl rfl rfl rfl rfl rfl rfl

theorem State.leaveHeld_inv {s : State} (h_s : s.Keeps qs) : (State.leaveHeld s).Keeps qs := by
  unfold State.leaveHeld
  repeat' first
    | with_reducible assumption
    | with_reducible apply State.setF_inv
    | with_reducible apply State.thaw_inv
    | with_reducible apply State.logEvent_inv
    | with_reducible apply State.raise_inv
    | with_reducible apply State.wr_inv
    | with_reducible apply State.Keeps.ite
    | with_reducible apply State.Keeps.iteFst
    | (with_reducible apply State.each_inv; intros)
    | (with_reducible refine State.when_inv (fun _ => ?_) ?_)
    | with_reducible apply foldl_inv
    | intro _
    | split
    | with_reducible refine State.Keeps.fst (by assumption) ?_
    | with_reducible refine State.Keeps.snd (by assumption) ?_
    | with_reducible refine State.Keeps.opt (by assumption) ?_
    | with_reducible apply OptInv.none
    | with_reducible apply OptInv.some
    | with_reducible apply OptInv.map
    | with_reducible apply OptInv.bind
    | with_reducible apply OptInv.ite
    | with_reducible apply OptInv.getD
    | with_reducible apply State.reset_inv
    | with_reducible refine State.Keeps.upd ?_ rfl rfl rfl rfl rfl rfl rfl rfl rfl rfl rfl rfl rfl rfl rfl rfl rfl rfl rfl

theorem State.abandonSleep_inv {s : State} {reason : Nat} (h_s : s.Keeps qs) : (State.abandonSleep s reason).Keeps qs := by
  unfold State.abandonSleep
  repeat' first
    | with_reducible assumption
    | with_reducible apply State.setF_inv
    | with_reducible apply State.logEvent_inv
    | with_reducible apply State.raise_inv
    | with_reducible apply State.wr_inv
    | with_reducible apply State.Keeps.ite
    | with_reducible apply State.Keeps.iteFst
    | (with_reducible apply State.each_inv; intros)
    | (with_reducible refine State.when_inv (fun _ => ?_) ?_)
    | with_reducible apply foldl_inv
    | intro _
    | split
    | with_reducible refine State.Keeps.fst (by assumption) ?_
    | with_reducible refine State.Keeps.snd (by assumption) ?_
    | with_reducible refine State.Keeps.opt (by assumption) ?_
    | with_reducible apply OptInv.none
    | with_reducible apply OptInv.some
    | with_reducible apply OptInv.map
    | with_reducible apply OptInv.bind
    | with_reducible apply OptInv.ite
    | with_reducible apply OptInv.getD
    | with_reducible apply State.reset_inv
    | with_reducible refine State.Keeps.upd ?_ rfl rfl rfl rfl rfl rfl rfl rfl rfl rfl rfl rfl rfl rfl rfl rfl rfl rfl rfl

theorem State.startFrames_inv {s0 : State} {S : Nat} (h_s0 : s0.Keeps qs) : (State.startFrames s0 S).1.Keeps qs := by
  unfold State.startFrames
  have h := State.abandonSleep_inv (reason := 2) h_s0
  generalize s0.abandonSleep 2 = s at h ⊢
  dsimp only
  split
  · exact State.setF_inv h
  · have hx := State.setF_inv (f := FRM_STATUS.State) (v := armed) h
    exact State.setF_inv (State.setF_inv ⟨hx.regs, hx.mem, hx.dmem, hx.imem, hx.sram, hx.flash, hx.cores, hx.ports, hx.pairs, hx.lanes, hx.links, hx.chans, hx.outs, hx.rings, hx.movers, hx.bins, hx.log, hx.events, hx.queue, hx.repeats, hx.pending⟩)

theorem State.enterStopped_inv {s : State} (h_s : s.Keeps qs) : (State.enterStopped s).Keeps qs := by
  unfold State.enterStopped
  repeat' first
    | with_reducible assumption
    | with_reducible apply State.setF_inv
    | with_reducible apply State.latchesEnter_inv
    | with_reducible apply State.wr_inv
    | with_reducible apply State.Keeps.ite
    | with_reducible apply State.Keeps.iteFst
    | (with_reducible apply State.each_inv; intros)
    | (with_reducible refine State.when_inv (fun _ => ?_) ?_)
    | with_reducible apply foldl_inv
    | intro _
    | split
    | with_reducible refine State.Keeps.fst (by assumption) ?_
    | with_reducible refine State.Keeps.snd (by assumption) ?_
    | with_reducible refine State.Keeps.opt (by assumption) ?_
    | with_reducible apply OptInv.none
    | with_reducible apply OptInv.some
    | with_reducible apply OptInv.map
    | with_reducible apply OptInv.bind
    | with_reducible apply OptInv.ite
    | with_reducible apply OptInv.getD
    | with_reducible apply State.reset_inv
    | with_reducible refine State.Keeps.upd ?_ rfl rfl rfl rfl rfl rfl rfl rfl rfl rfl rfl rfl rfl rfl rfl rfl rfl rfl rfl

theorem State.stopFrames_inv {s : State} (h_s : s.Keeps qs) : (State.stopFrames s).1.Keeps qs := by
  unfold State.stopFrames
  repeat' first
    | with_reducible assumption
    | with_reducible apply State.enterStopped_inv
    | with_reducible apply State.setF_inv
    | with_reducible apply State.wr_inv
    | with_reducible apply State.Keeps.ite
    | with_reducible apply State.Keeps.iteFst
    | (with_reducible apply State.each_inv; intros)
    | (with_reducible refine State.when_inv (fun _ => ?_) ?_)
    | with_reducible apply foldl_inv
    | intro _
    | split
    | with_reducible refine State.Keeps.fst (by assumption) ?_
    | with_reducible refine State.Keeps.snd (by assumption) ?_
    | with_reducible refine State.Keeps.opt (by assumption) ?_
    | with_reducible apply OptInv.none
    | with_reducible apply OptInv.some
    | with_reducible apply OptInv.map
    | with_reducible apply OptInv.bind
    | with_reducible apply OptInv.ite
    | with_reducible apply OptInv.getD
    | with_reducible apply State.reset_inv
    | with_reducible refine State.Keeps.upd ?_ rfl rfl rfl rfl rfl rfl rfl rfl rfl rfl rfl rfl rfl rfl rfl rfl rfl rfl rfl

theorem State.writeFrmCtrl_inv {s : State} {v : Word} (h_s : s.Keeps qs) : (State.writeFrmCtrl s v).Keeps qs := by
  unfold State.writeFrmCtrl
  repeat' first
    | with_reducible assumption
    | with_reducible apply State.setF_inv
    | with_reducible apply State.startFrames_inv
    | with_reducible apply State.stopFrames_inv
    | with_reducible apply State.wr_inv
    | with_reducible apply State.Keeps.ite
    | with_reducible apply State.Keeps.iteFst
    | (with_reducible apply State.each_inv; intros)
    | (with_reducible refine State.when_inv (fun _ => ?_) ?_)
    | with_reducible apply foldl_inv
    | intro _
    | split
    | with_reducible refine State.Keeps.fst (by assumption) ?_
    | with_reducible refine State.Keeps.snd (by assumption) ?_
    | with_reducible refine State.Keeps.opt (by assumption) ?_
    | with_reducible apply OptInv.none
    | with_reducible apply OptInv.some
    | with_reducible apply OptInv.map
    | with_reducible apply OptInv.bind
    | with_reducible apply OptInv.ite
    | with_reducible apply OptInv.getD
    | with_reducible apply State.reset_inv
    | with_reducible refine State.Keeps.upd ?_ rfl rfl rfl rfl rfl rfl rfl rfl rfl rfl rfl rfl rfl rfl rfl rfl rfl rfl rfl

theorem State.openCommit_inv {s : State} {c : Commit} {coordinator : Nat} {F : Nat} {guard : Nat} {phase : Nat} {system : Bool} {isCoord : Bool} (h_s : s.Keeps qs) : (State.openCommit s c coordinator F guard phase system isCoord).Keeps qs := by
  unfold State.openCommit
  repeat' first
    | with_reducible assumption
    | with_reducible apply State.setF_inv
    | with_reducible apply State.wr64_inv
    | with_reducible apply State.setB_inv
    | with_reducible apply State.wr_inv
    | with_reducible apply State.Keeps.ite
    | with_reducible apply State.Keeps.iteFst
    | (with_reducible apply State.each_inv; intros)
    | (with_reducible refine State.when_inv (fun _ => ?_) ?_)
    | with_reducible apply foldl_inv
    | intro _
    | split
    | with_reducible refine State.Keeps.fst (by assumption) ?_
    | with_reducible refine State.Keeps.snd (by assumption) ?_
    | with_reducible refine State.Keeps.opt (by assumption) ?_
    | with_reducible apply OptInv.none
    | with_reducible apply OptInv.some
    | with_reducible apply OptInv.map
    | with_reducible apply OptInv.bind
    | with_reducible apply OptInv.ite
    | with_reducible apply OptInv.getD
    | with_reducible apply State.reset_inv
    | with_reducible refine State.Keeps.upd ?_ rfl rfl rfl rfl rfl rfl rfl rfl rfl rfl rfl rfl rfl rfl rfl rfl rfl rfl rfl

theorem State.armSwap_inv {s : State} (h_s : s.Keeps qs) : (State.armSwap s).Keeps qs := by
  unfold State.armSwap
  repeat' first
    | with_reducible assumption
    | with_reducible apply State.setF_inv
    | with_reducible apply State.wr_inv
    | with_reducible apply State.Keeps.ite
    | with_reducible apply State.Keeps.iteFst
    | (with_reducible apply State.each_inv; intros)
    | (with_reducible refine State.when_inv (fun _ => ?_) ?_)
    | with_reducible apply foldl_inv
    | intro _
    | split
    | with_reducible refine State.Keeps.fst (by assumption) ?_
    | with_reducible refine State.Keeps.snd (by assumption) ?_
    | with_reducible refine State.Keeps.opt (by assumption) ?_
    | with_reducible apply OptInv.none
    | with_reducible apply OptInv.some
    | with_reducible apply OptInv.map
    | with_reducible apply OptInv.bind
    | with_reducible apply OptInv.ite
    | with_reducible apply OptInv.getD
    | with_reducible apply State.reset_inv
    | with_reducible refine State.Keeps.upd ?_ rfl rfl rfl rfl rfl rfl rfl rfl rfl rfl rfl rfl rfl rfl rfl rfl rfl rfl rfl

theorem State.takeGo_inv {s : State} {stamp : Nat} (h_s : s.Keeps qs) : (State.takeGo s stamp).Keeps qs := by
  unfold State.takeGo
  repeat' first
    | with_reducible assumption
    | with_reducible apply State.armSwap_inv
    | with_reducible apply State.inc_inv
    | with_reducible apply State.wr_inv
    | with_reducible apply State.Keeps.ite
    | with_reducible apply State.Keeps.iteFst
    | (with_reducible apply State.each_inv; intros)
    | (with_reducible refine State.when_inv (fun _ => ?_) ?_)
    | with_reducible apply foldl_inv
    | intro _
    | split
    | with_reducible refine State.Keeps.fst (by assumption) ?_
    | with_reducible refine State.Keeps.snd (by assumption) ?_
    | with_reducible refine State.Keeps.opt (by assumption) ?_
    | with_reducible apply OptInv.none
    | with_reducible apply OptInv.some
    | with_reducible apply OptInv.map
    | with_reducible apply OptInv.bind
    | with_reducible apply OptInv.ite
    | with_reducible apply OptInv.getD
    | with_reducible apply State.reset_inv
    | with_reducible refine State.Keeps.upd ?_ rfl rfl rfl rfl rfl rfl rfl rfl rfl rfl rfl rfl rfl rfl rfl rfl rfl rfl rfl

theorem State.sendGo_inv {s : State} {c : Commit} (h_s : s.Keeps qs) : (State.sendGo s c).Keeps qs := by
  unfold State.sendGo
  repeat' first
    | with_reducible assumption
    | with_reducible apply State.setCommit_inv
    | with_reducible apply State.sendParticipants_inv
    | with_reducible apply State.takeGo_inv
    | with_reducible apply State.wr_inv
    | with_reducible apply State.Keeps.ite
    | with_reducible apply State.Keeps.iteFst
    | (with_reducible apply State.each_inv; intros)
    | (with_reducible refine State.when_inv (fun _ => ?_) ?_)
    | with_reducible apply foldl_inv
    | intro _
    | split
    | with_reducible refine State.Keeps.fst (by assumption) ?_
    | with_reducible refine State.Keeps.snd (by assumption) ?_
    | with_reducible refine State.Keeps.opt (by assumption) ?_
    | with_reducible apply OptInv.none
    | with_reducible apply OptInv.some
    | with_reducible apply OptInv.map
    | with_reducible apply OptInv.bind
    | with_reducible apply OptInv.ite
    | with_reducible apply OptInv.getD
    | with_reducible apply State.reset_inv
    | with_reducible refine State.Keeps.upd ?_ rfl rfl rfl rfl rfl rfl rfl rfl rfl rfl rfl rfl rfl rfl rfl rfl rfl rfl rfl

theorem State.commitAbort_inv {s : State} {c : Commit} {node : Nat} {reason : Nat} (h_s : s.Keeps qs) : (State.commitAbort s c node reason).Keeps qs := by
  unfold State.commitAbort
  repeat' first
    | with_reducible assumption
    | with_reducible apply State.sendParticipants_inv
    | with_reducible apply State.setF_inv
    | with_reducible apply State.commitReturn_inv
    | with_reducible apply State.unfreeze_inv
    | with_reducible apply State.wr_inv
    | with_reducible apply State.Keeps.ite
    | with_reducible apply State.Keeps.iteFst
    | (with_reducible apply State.each_inv; intros)
    | (with_reducible refine State.when_inv (fun _ => ?_) ?_)
    | with_reducible apply foldl_inv
    | intro _
    | split
    | with_reducible refine State.Keeps.fst (by assumption) ?_
    | with_reducible refine State.Keeps.snd (by assumption) ?_
    | with_reducible refine State.Keeps.opt (by assumption) ?_
    | with_reducible apply OptInv.none
    | with_reducible apply OptInv.some
    | with_reducible apply OptInv.map
    | with_reducible apply OptInv.bind
    | with_reducible apply OptInv.ite
    | with_reducible apply OptInv.getD
    | with_reducible apply State.reset_inv
    | with_reducible refine State.Keeps.upd ?_ rfl rfl rfl rfl rfl rfl rfl rfl rfl rfl rfl rfl rfl rfl rfl rfl rfl rfl rfl

theorem State.commitCheck_inv {s : State} {deadline : Bool} (h_s : s.Keeps qs) : (State.commitCheck s deadline).Keeps qs := by
  unfold State.commitCheck
  repeat' first
    | with_reducible assumption
    | with_reducible apply State.commitAbort_inv
    | with_reducible apply State.wr_inv
    | with_reducible apply State.Keeps.ite
    | with_reducible apply State.Keeps.iteFst
    | (with_reducible apply State.each_inv; intros)
    | (with_reducible refine State.when_inv (fun _ => ?_) ?_)
    | with_reducible apply foldl_inv
    | intro _
    | split
    | with_reducible refine State.Keeps.fst (by assumption) ?_
    | with_reducible refine State.Keeps.snd (by assumption) ?_
    | with_reducible refine State.Keeps.opt (by assumption) ?_
    | with_reducible apply OptInv.none
    | with_reducible apply OptInv.some
    | with_reducible apply OptInv.map
    | with_reducible apply OptInv.bind
    | with_reducible apply OptInv.ite
    | with_reducible apply OptInv.getD
    | with_reducible apply State.reset_inv
    | with_reducible refine State.Keeps.upd ?_ rfl rfl rfl rfl rfl rfl rfl rfl rfl rfl rfl rfl rfl rfl rfl rfl rfl rfl rfl

theorem State.commitAcked_inv {s : State} (h_s : s.Keeps qs) : (State.commitAcked s).Keeps qs := by
  unfold State.commitAcked
  repeat' first
    | with_reducible assumption
    | with_reducible apply State.sendGo_inv
    | with_reducible apply State.wr_inv
    | with_reducible apply State.Keeps.ite
    | with_reducible apply State.Keeps.iteFst
    | (with_reducible apply State.each_inv; intros)
    | (with_reducible refine State.when_inv (fun _ => ?_) ?_)
    | with_reducible apply foldl_inv
    | intro _
    | split
    | with_reducible refine State.Keeps.fst (by assumption) ?_
    | with_reducible refine State.Keeps.snd (by assumption) ?_
    | with_reducible refine State.Keeps.opt (by assumption) ?_
    | with_reducible apply OptInv.none
    | with_reducible apply OptInv.some
    | with_reducible apply OptInv.map
    | with_reducible apply OptInv.bind
    | with_reducible apply OptInv.ite
    | with_reducible apply OptInv.getD
    | with_reducible apply State.reset_inv
    | with_reducible refine State.Keeps.upd ?_ rfl rfl rfl rfl rfl rfl rfl rfl rfl rfl rfl rfl rfl rfl rfl rfl rfl rfl rfl

theorem State.takeCommit_inv {s : State} {type : Nat} {m : CommitMsg} {f : State → State} (h_s : s.Keeps qs) (hf_f : ∀ (y0 : State) (_ : y0.Keeps qs), (f y0).Keeps qs) : (State.takeCommit s type m f).Keeps qs := by
  unfold State.takeCommit
  repeat' first
    | with_reducible assumption
    | with_reducible apply hf_f
    | with_reducible apply State.popInbox_inv
    | with_reducible apply State.inc_inv
    | with_reducible apply State.wr_inv
    | with_reducible apply State.Keeps.ite
    | with_reducible apply State.Keeps.iteFst
    | (with_reducible apply State.each_inv; intros)
    | (with_reducible refine State.when_inv (fun _ => ?_) ?_)
    | with_reducible apply foldl_inv
    | intro _
    | split
    | with_reducible refine State.Keeps.fst (by assumption) ?_
    | with_reducible refine State.Keeps.snd (by assumption) ?_
    | with_reducible refine State.Keeps.opt (by assumption) ?_
    | with_reducible apply OptInv.none
    | with_reducible apply OptInv.some
    | with_reducible apply OptInv.map
    | with_reducible apply OptInv.bind
    | with_reducible apply OptInv.ite
    | with_reducible apply OptInv.getD
    | with_reducible apply State.reset_inv
    | with_reducible refine State.Keeps.upd ?_ rfl rfl rfl rfl rfl rfl rfl rfl rfl rfl rfl rfl rfl rfl rfl rfl rfl rfl rfl

theorem State.withCommit_inv {s : State} {type : Nat} {m : CommitMsg} {f : Commit → State → State} (h_s : s.Keeps qs) (hf_f : ∀ (y0 : Commit) (y1 : State) (_ : y1.Keeps qs), (f y0 y1).Keeps qs) : (State.withCommit s type m f).Keeps qs := by
  unfold State.withCommit
  repeat' first
    | with_reducible assumption
    | with_reducible apply hf_f
    | with_reducible apply State.popInbox_inv
    | with_reducible apply State.inc_inv
    | with_reducible apply State.takeCommit_inv
    | with_reducible apply State.wr_inv
    | with_reducible apply State.Keeps.ite
    | with_reducible apply State.Keeps.iteFst
    | (with_reducible apply State.each_inv; intros)
    | (with_reducible refine State.when_inv (fun _ => ?_) ?_)
    | with_reducible apply foldl_inv
    | intro _
    | split
    | with_reducible refine State.Keeps.fst (by assumption) ?_
    | with_reducible refine State.Keeps.snd (by assumption) ?_
    | with_reducible refine State.Keeps.opt (by assumption) ?_
    | with_reducible apply OptInv.none
    | with_reducible apply OptInv.some
    | with_reducible apply OptInv.map
    | with_reducible apply OptInv.bind
    | with_reducible apply OptInv.ite
    | with_reducible apply OptInv.getD
    | with_reducible apply State.reset_inv
    | with_reducible refine State.Keeps.upd ?_ rfl rfl rfl rfl rfl rfl rfl rfl rfl rfl rfl rfl rfl rfl rfl rfl rfl rfl rfl

theorem State.goMissed_inv {s : State} (h_s : s.Keeps qs) : (State.goMissed s).Keeps qs := by
  unfold State.goMissed
  repeat' first
    | with_reducible assumption
    | with_reducible apply State.setF_inv
    | with_reducible apply State.commitReport_inv
    | with_reducible apply State.logEvent_inv
    | with_reducible apply State.inc_inv
    | with_reducible apply State.raise_inv
    | with_reducible apply State.enterHeld_inv
    | with_reducible apply State.wr_inv
    | with_reducible apply State.Keeps.ite
    | with_reducible apply State.Keeps.iteFst
    | (with_reducible apply State.each_inv; intros)
    | (with_reducible refine State.when_inv (fun _ => ?_) ?_)
    | with_reducible apply foldl_inv
    | intro _
    | split
    | with_reducible refine State.Keeps.fst (by assumption) ?_
    | with_reducible refine State.Keeps.snd (by assumption) ?_
    | with_reducible refine State.Keeps.opt (by assumption) ?_
    | with_reducible apply OptInv.none
    | with_reducible apply OptInv.some
    | with_reducible apply OptInv.map
    | with_reducible apply OptInv.bind
    | with_reducible apply OptInv.ite
    | with_reducible apply OptInv.getD
    | with_reducible apply State.reset_inv
    | with_reducible refine State.Keeps.upd ?_ rfl rfl rfl rfl rfl rfl rfl rfl rfl rfl rfl rfl rfl rfl rfl rfl rfl rfl rfl

theorem State.stepStime_inv {s : State} {d : Int} (h_s : s.Keeps qs) : (State.stepStime s d).Keeps qs := by
  unfold State.stepStime
  repeat' first
    | with_reducible assumption
    | with_reducible apply State.gathered_inv
    | with_reducible apply State.wr_inv
    | with_reducible apply State.Keeps.ite
    | with_reducible apply State.Keeps.iteFst
    | (with_reducible apply State.each_inv; intros)
    | (with_reducible refine State.when_inv (fun _ => ?_) ?_)
    | with_reducible apply foldl_inv
    | intro _
    | split
    | with_reducible refine State.Keeps.fst (by assumption) ?_
    | with_reducible refine State.Keeps.snd (by assumption) ?_
    | with_reducible refine State.Keeps.opt (by assumption) ?_
    | with_reducible apply OptInv.none
    | with_reducible apply OptInv.some
    | with_reducible apply OptInv.map
    | with_reducible apply OptInv.bind
    | with_reducible apply OptInv.ite
    | with_reducible apply OptInv.getD
    | with_reducible apply State.reset_inv
    | with_reducible refine State.Keeps.upd ?_ rfl rfl rfl rfl rfl rfl rfl rfl rfl rfl rfl rfl rfl rfl rfl rfl rfl rfl rfl

theorem State.stepTime_inv {s : State} {d : Int} (h_s : s.Keeps qs) : (State.stepTime s d).Keeps qs := by
  unfold State.stepTime
  repeat' first
    | with_reducible assumption
    | with_reducible apply State.stepStime_inv
    | with_reducible apply State.edgeFromNow_inv
    | with_reducible apply State.wr_inv
    | with_reducible apply State.Keeps.ite
    | with_reducible apply State.Keeps.iteFst
    | (with_reducible apply State.each_inv; intros)
    | (with_reducible refine State.when_inv (fun _ => ?_) ?_)
    | with_reducible apply foldl_inv
    | intro _
    | split
    | with_reducible refine State.Keeps.fst (by assumption) ?_
    | with_reducible refine State.Keeps.snd (by assumption) ?_
    | with_reducible refine State.Keeps.opt (by assumption) ?_
    | with_reducible apply OptInv.none
    | with_reducible apply OptInv.some
    | with_reducible apply OptInv.map
    | with_reducible apply OptInv.bind
    | with_reducible apply OptInv.ite
    | with_reducible apply OptInv.getD
    | with_reducible apply State.reset_inv
    | with_reducible refine State.Keeps.upd ?_ rfl rfl rfl rfl rfl rfl rfl rfl rfl rfl rfl rfl rfl rfl rfl rfl rfl rfl rfl

theorem State.writeShadow_inv {s : State} {a : Nat} {v : Word} (h_s : s.Keeps qs) : (State.writeShadow s a v).Keeps qs := by
  unfold State.writeShadow
  repeat' first
    | with_reducible assumption
    | with_reducible apply State.wr_inv
    | with_reducible apply State.Keeps.ite
    | with_reducible apply State.Keeps.iteFst
    | (with_reducible apply State.each_inv; intros)
    | (with_reducible refine State.when_inv (fun _ => ?_) ?_)
    | with_reducible apply foldl_inv
    | intro _
    | split
    | with_reducible refine State.Keeps.fst (by assumption) ?_
    | with_reducible refine State.Keeps.snd (by assumption) ?_
    | with_reducible refine State.Keeps.opt (by assumption) ?_
    | with_reducible apply OptInv.none
    | with_reducible apply OptInv.some
    | with_reducible apply OptInv.map
    | with_reducible apply OptInv.bind
    | with_reducible apply OptInv.ite
    | with_reducible apply OptInv.getD
    | with_reducible apply State.reset_inv
    | with_reducible refine State.Keeps.upd ?_ rfl rfl rfl rfl rfl rfl rfl rfl rfl rfl rfl rfl rfl rfl rfl rfl rfl rfl rfl

end Sys2Proof.Machine
end

