-- ==== Sys2Proof/Laws/Inv/Irq.lean ====
section
/-! SUPPORT. Laws/Inv/Irq.lean: every operation of Machine/Irq.lean keeps the invariant. -/

set_option linter.unusedTactic false
set_option linter.unreachableTactic false

namespace Sys2Proof.Machine

variable {qs : List Instr}

theorem State.vectorClear_inv {s : State} {v : Nat} (h_s : s.Keeps qs) : (State.vectorClear s v).Keeps qs := by
  unfold State.vectorClear
  repeat' first
    | with_reducible assumption
    | with_reducible apply State.setF_inv
    | with_reducible apply State.wr_inv
    | with_reducible apply State.Keeps.ite
    | with_reducible apply State.Keeps.iteFst
    | (with_reducible apply State.each_inv; intros)
    | (with_reducible refine State.when_inv (fun _ => ?_) ?_)
    | with_reducible apply foldl_inv
    | intro _
    | split
    | with_reducible refine State.Keeps.fst (by assumption) ?_
    | with_reducible refine State.Keeps.snd (by assumption) ?_
    | with_reducible refine State.Keeps.opt (by assumption) ?_
    | with_reducible apply OptInv.none
    | with_reducible apply OptInv.some
    | with_reducible apply OptInv.map
    | with_reducible apply OptInv.bind
    | with_reducible apply OptInv.ite
    | with_reducible apply OptInv.getD
    | with_reducible apply State.reset_inv
    | with_reducible refine State.Keeps.upd ?_ rfl rfl rfl rfl rfl rfl rfl rfl rfl rfl rfl rfl rfl rfl rfl rfl rfl rfl rfl

theorem State.vectorCommit_inv {s : State} {v : Nat} (h_s : s.Keeps qs) : (State.vectorCommit s v).Keeps qs := by
  unfold State.vectorCommit
  repeat' first
    | with_reducible assumption
    | with_reducible apply State.vectorClear_inv
    | with_reducible apply State.setF_inv
    | with_reducible apply State.hostGrant_inv
    | with_reducible apply State.sendTlp_inv
    | with_reducible apply State.inc_inv
    | with_reducible apply State.raise_inv
    | with_reducible apply State.pmeSignal_inv
    | with_reducible apply State.wr_inv
    | with_reducible apply State.Keeps.ite
    | with_reducible apply State.Keeps.iteFst
    | (with_reducible apply State.each_inv; intros)
    | (with_reducible refine State.when_inv (fun _ => ?_) ?_)
    | with_reducible apply foldl_inv
    | intro _
    | split
    | with_reducible refine State.Keeps.fst (by assumption) ?_
    | with_reducible refine State.Keeps.snd (by assumption) ?_
    | with_reducible refine State.Keeps.opt (by assumption) ?_
    | with_reducible apply OptInv.none
    | with_reducible apply OptInv.some
    | with_reducible apply OptInv.map
    | with_reducible apply OptInv.bind
    | with_reducible apply OptInv.ite
    | with_reducible apply OptInv.getD
    | with_reducible apply State.reset_inv
    | with_reducible refine State.Keeps.upd ?_ rfl rfl rfl rfl rfl rfl rfl rfl rfl rfl rfl rfl rfl rfl rfl rfl rfl rfl rfl

theorem State.writeIrqMod_inv {s : State} {v : Nat} {thr : Nat} {timer : Nat} (h_s : s.Keeps qs) : (State.writeIrqMod s v thr timer).Keeps qs := by
  unfold State.writeIrqMod
  repeat' first
    | with_reducible assumption
    | with_reducible apply State.setF_inv
    | with_reducible apply State.vectorDue_inv
    | with_reducible apply State.wr_inv
    | with_reducible apply State.Keeps.ite
    | with_reducible apply State.Keeps.iteFst
    | (with_reducible apply State.each_inv; intros)
    | (with_reducible refine State.when_inv (fun _ => ?_) ?_)
    | with_reducible apply foldl_inv
    | intro _
    | split
    | with_reducible refine State.Keeps.fst (by assumption) ?_
    | with_reducible refine State.Keeps.snd (by assumption) ?_
    | with_reducible refine State.Keeps.opt (by assumption) ?_
    | with_reducible apply OptInv.none
    | with_reducible apply OptInv.some
    | with_reducible apply OptInv.map
    | with_reducible apply OptInv.bind
    | with_reducible apply OptInv.ite
    | with_reducible apply OptInv.getD
    | with_reducible apply State.reset_inv
    | with_reducible refine State.Keeps.upd ?_ rfl rfl rfl rfl rfl rfl rfl rfl rfl rfl rfl rfl rfl rfl rfl rfl rfl rfl rfl

theorem State.releasePending_inv {s : State} (h_s : s.Keeps qs) : (State.releasePending s).Keeps qs := by
  unfold State.releasePending
  repeat' first
    | with_reducible assumption
    | with_reducible apply State.vectorDue_inv
    | with_reducible apply State.wr_inv
    | with_reducible apply State.Keeps.ite
    | with_reducible apply State.Keeps.iteFst
    | (with_reducible apply State.each_inv; intros)
    | (with_reducible refine State.when_inv (fun _ => ?_) ?_)
    | with_reducible apply foldl_inv
    | intro _
    | split
    | with_reducible refine State.Keeps.fst (by assumption) ?_
    | with_reducible refine State.Keeps.snd (by assumption) ?_
    | with_reducible refine State.Keeps.opt (by assumption) ?_
    | with_reducible apply OptInv.none
    | with_reducible apply OptInv.some
    | with_reducible apply OptInv.map
    | with_reducible apply OptInv.bind
    | with_reducible apply OptInv.ite
    | with_reducible apply OptInv.getD
    | with_reducible apply State.reset_inv
    | with_reducible refine State.Keeps.upd ?_ rfl rfl rfl rfl rfl rfl rfl rfl rfl rfl rfl rfl rfl rfl rfl rfl rfl rfl rfl

theorem State.writeVectorMask_inv {s : State} {v : Nat} {mask : Bool} (h_s : s.Keeps qs) : (State.writeVectorMask s v mask).Keeps qs := by
  unfold State.writeVectorMask
  repeat' first
    | with_reducible assumption
    | with_reducible apply State.setB_inv
    | with_reducible apply State.vectorDue_inv
    | with_reducible apply State.wr_inv
    | with_reducible apply State.Keeps.ite
    | with_reducible apply State.Keeps.iteFst
    | (with_reducible apply State.each_inv; intros)
    | (with_reducible refine State.when_inv (fun _ => ?_) ?_)
    | with_reducible apply foldl_inv
    | intro _
    | split
    | with_reducible refine State.Keeps.fst (by assumption) ?_
    | with_reducible refine State.Keeps.snd (by assumption) ?_
    | with_reducible refine State.Keeps.opt (by assumption) ?_
    | with_reducible apply OptInv.none
    | with_reducible apply OptInv.some
    | with_reducible apply OptInv.map
    | with_reducible apply OptInv.bind
    | with_reducible apply OptInv.ite
    | with_reducible apply OptInv.getD
    | with_reducible apply State.reset_inv
    | with_reducible refine State.Keeps.upd ?_ rfl rfl rfl rfl rfl rfl rfl rfl rfl rfl rfl rfl rfl rfl rfl rfl rfl rfl rfl

theorem State.vectorsIdle_inv {s : State} (h : s.Keeps qs) : (s.vectorsIdle).Keeps qs := by
  have ht := State.each_inv (s := s) (l := s.regs.filter (fun p => IRQ_VSTAT_MGR 0 ≤ p.1 && p.1 < IRQ_VSTAT_MGR 2048))
    (f := fun p t => (t.setF ⟨p.1, 23, 16⟩ 0).setF ⟨p.1, 24, 24⟩ 0) (fun _ _ h => State.setF_inv (State.setF_inv h)) h
  unfold State.vectorsIdle
  exact ⟨twf_tclear _ _ _ _ ht.regs, ht.mem, ht.dmem, ht.imem, ht.sram, ht.flash, ht.cores, ht.ports, ht.pairs, ht.lanes, ht.links, ht.chans, ht.outs, ht.rings, ht.movers, ht.bins, ht.log, ht.events, ht.queue, ht.repeats, ht.pending⟩

theorem State.writeMsixControl_inv {s : State} {enable : Bool} {fmask : Bool} (h_s : s.Keeps qs) : (State.writeMsixControl s enable fmask).Keeps qs := by
  unfold State.writeMsixControl
  repeat' first
    | with_reducible assumption
    | with_reducible apply State.setB_inv
    | with_reducible apply State.releasePending_inv
    | with_reducible apply State.vectorsIdle_inv
    | with_reducible apply State.intxUpdate_inv
    | with_reducible apply State.wr_inv
    | with_reducible apply State.Keeps.ite
    | with_reducible apply State.Keeps.iteFst
    | (with_reducible apply State.each_inv; intros)
    | (with_reducible refine State.when_inv (fun _ => ?_) ?_)
    | with_reducible apply foldl_inv
    | intro _
    | split
    | with_reducible refine State.Keeps.fst (by assumption) ?_
    | with_reducible refine State.Keeps.snd (by assumption) ?_
    | with_reducible refine State.Keeps.opt (by assumption) ?_
    | with_reducible apply OptInv.none
    | with_reducible apply OptInv.some
    | with_reducible apply OptInv.map
    | with_reducible apply OptInv.bind
    | with_reducible apply OptInv.ite
    | with_reducible apply OptInv.getD
    | with_reducible apply State.reset_inv
    | with_reducible refine State.Keeps.upd ?_ rfl rfl rfl rfl rfl rfl rfl rfl rfl rfl rfl rfl rfl rfl rfl rfl rfl rfl rfl

theorem State.vectorReset_inv {s : State} {v : Nat} (h_s : s.Keeps qs) : (State.vectorReset s v).Keeps qs := by
  unfold State.vectorReset
  repeat' first
    | with_reducible assumption
    | with_reducible apply State.vectorClear_inv
    | with_reducible apply State.setF_inv
    | with_reducible apply State.wr_inv
    | with_reducible apply State.Keeps.ite
    | with_reducible apply State.Keeps.iteFst
    | (with_reducible apply State.each_inv; intros)
    | (with_reducible refine State.when_inv (fun _ => ?_) ?_)
    | with_reducible apply foldl_inv
    | intro _
    | split
    | with_reducible refine State.Keeps.fst (by assumption) ?_
    | with_reducible refine State.Keeps.snd (by assumption) ?_
    | with_reducible refine State.Keeps.opt (by assumption) ?_
    | with_reducible apply OptInv.none
    | with_reducible apply OptInv.some
    | with_reducible apply OptInv.map
    | with_reducible apply OptInv.bind
    | with_reducible apply OptInv.ite
    | with_reducible apply OptInv.getD
    | with_reducible apply State.reset_inv
    | with_reducible refine State.Keeps.upd ?_ rfl rfl rfl rfl rfl rfl rfl rfl rfl rfl rfl rfl rfl rfl rfl rfl rfl rfl rfl

theorem State.irqHostReset_inv {s : State} (h : s.Keeps qs) : (s.irqHostReset).Keeps qs := by
  have ht := State.vectorsIdle_inv h
  unfold State.irqHostReset
  exact ⟨twf_tclear _ _ _ _ (twf_tclear _ _ _ _ ht.regs), ht.mem, ht.dmem, ht.imem, ht.sram, ht.flash, ht.cores, ht.ports, ht.pairs, ht.lanes, ht.links, ht.chans, ht.outs, ht.rings, ht.movers, ht.bins, ht.log, ht.events, ht.queue, ht.repeats, ht.pending⟩

theorem State.writeIrqEnable_inv {s : State} {a : Nat} {v : Word} (h_s : s.Keeps qs) : (State.writeIrqEnable s a v).Keeps qs := by
  unfold State.writeIrqEnable
  repeat' first
    | with_reducible assumption
    | with_reducible apply State.intxUpdate_inv
    | with_reducible apply State.vectorEvent_inv
    | with_reducible apply State.pmeSignal_inv
    | with_reducible apply State.wr_inv
    | with_reducible apply State.Keeps.ite
    | with_reducible apply State.Keeps.iteFst
    | (with_reducible apply State.each_inv; intros)
    | (with_reducible refine State.when_inv (fun _ => ?_) ?_)
    | with_reducible apply foldl_inv
    | intro _
    | split
    | with_reducible refine State.Keeps.fst (by assumption) ?_
    | with_reducible refine State.Keeps.snd (by assumption) ?_
    | with_reducible refine State.Keeps.opt (by assumption) ?_
    | with_reducible apply OptInv.none
    | with_reducible apply OptInv.some
    | with_reducible apply OptInv.map
    | with_reducible apply OptInv.bind
    | with_reducible apply OptInv.ite
    | with_reducible apply OptInv.getD
    | with_reducible apply State.reset_inv
    | with_reducible refine State.Keeps.upd ?_ rfl rfl rfl rfl rfl rfl rfl rfl rfl rfl rfl rfl rfl rfl rfl rfl rfl rfl rfl

theorem State.bayTake_inv {s : State} {b : Nat} {i : Nat} {src : Nat} {fast : Bool} (h_s : s.Keeps qs) : (State.bayTake s b i src fast).Keeps qs := by
  unfold State.bayTake
  repeat' first
    | with_reducible assumption
    | with_reducible apply State.setF_inv
    | with_reducible apply State.wr_inv
    | with_reducible apply State.Keeps.ite
    | with_reducible apply State.Keeps.iteFst
    | (with_reducible apply State.each_inv; intros)
    | (with_reducible refine State.when_inv (fun _ => ?_) ?_)
    | with_reducible apply foldl_inv
    | intro _
    | split
    | with_reducible refine State.Keeps.fst (by assumption) ?_
    | with_reducible refine State.Keeps.snd (by assumption) ?_
    | with_reducible refine State.Keeps.opt (by assumption) ?_
    | with_reducible apply OptInv.none
    | with_reducible apply OptInv.some
    | with_reducible apply OptInv.map
    | with_reducible apply OptInv.bind
    | with_reducible apply OptInv.ite
    | with_reducible apply OptInv.getD
    | with_reducible apply State.reset_inv
    | with_reducible refine State.Keeps.upd ?_ rfl rfl rfl rfl rfl rfl rfl rfl rfl rfl rfl rfl rfl rfl rfl rfl rfl rfl rfl

theorem State.bayComp_inv {s : State} {who : Nat} {b : Nat} {i : Nat} {fast : Bool} {src : Nat} (h_s : s.Keeps qs) : (State.bayComp s who b i fast src).Keeps qs := by
  unfold State.bayComp
  repeat' first
    | with_reducible assumption
    | with_reducible apply State.setF_inv
    | with_reducible apply State.inc_inv
    | with_reducible apply State.raise_inv
    | with_reducible apply State.wr_inv
    | with_reducible apply State.Keeps.ite
    | with_reducible apply State.Keeps.iteFst
    | (with_reducible apply State.each_inv; intros)
    | (with_reducible refine State.when_inv (fun _ => ?_) ?_)
    | with_reducible apply foldl_inv
    | intro _
    | split
    | with_reducible refine State.Keeps.fst (by assumption) ?_
    | with_reducible refine State.Keeps.snd (by assumption) ?_
    | with_reducible refine State.Keeps.opt (by assumption) ?_
    | with_reducible apply OptInv.none
    | with_reducible apply OptInv.some
    | with_reducible apply OptInv.map
    | with_reducible apply OptInv.bind
    | with_reducible apply OptInv.ite
    | with_reducible apply OptInv.getD
    | with_reducible apply State.reset_inv
    | with_reducible refine State.Keeps.upd ?_ rfl rfl rfl rfl rfl rfl rfl rfl rfl rfl rfl rfl rfl rfl rfl rfl rfl rfl rfl

theorem State.ringDoorbell_inv {s : State} {b : Nat} {mask : Byte} (h_s : s.Keeps qs) : (State.ringDoorbell s b mask).Keeps qs := by
  unfold State.ringDoorbell
  repeat' first
    | with_reducible assumption
    | with_reducible apply State.bayEdge_inv
    | with_reducible apply State.wr_inv
    | with_reducible apply State.Keeps.ite
    | with_reducible apply State.Keeps.iteFst
    | (with_reducible apply State.each_inv; intros)
    | (with_reducible refine State.when_inv (fun _ => ?_) ?_)
    | with_reducible apply foldl_inv
    | intro _
    | split
    | with_reducible refine State.Keeps.fst (by assumption) ?_
    | with_reducible refine State.Keeps.snd (by assumption) ?_
    | with_reducible refine State.Keeps.opt (by assumption) ?_
    | with_reducible apply OptInv.none
    | with_reducible apply OptInv.some
    | with_reducible apply OptInv.map
    | with_reducible apply OptInv.bind
    | with_reducible apply OptInv.ite
    | with_reducible apply OptInv.getD
    | with_reducible apply State.reset_inv
    | with_reducible refine State.Keeps.upd ?_ rfl rfl rfl rfl rfl rfl rfl rfl rfl rfl rfl rfl rfl rfl rfl rfl rfl rfl rfl

theorem State.curTake_inv {s : State} {src : Nat} {fast : Bool} (h_s : s.Keeps qs) : (State.curTake s src fast).Keeps qs := by
  unfold State.curTake
  repeat' first
    | with_reducible assumption
    | with_reducible apply State.setF_inv
    | with_reducible apply State.wr_inv
    | with_reducible apply State.Keeps.ite
    | with_reducible apply State.Keeps.iteFst
    | (with_reducible apply State.each_inv; intros)
    | (with_reducible refine State.when_inv (fun _ => ?_) ?_)
    | with_reducible apply foldl_inv
    | intro _
    | split
    | with_reducible refine State.Keeps.fst (by assumption) ?_
    | with_reducible refine State.Keeps.snd (by assumption) ?_
    | with_reducible refine State.Keeps.opt (by assumption) ?_
    | with_reducible apply OptInv.none
    | with_reducible apply OptInv.some
    | with_reducible apply OptInv.map
    | with_reducible apply OptInv.bind
    | with_reducible apply OptInv.ite
    | with_reducible apply OptInv.getD
    | with_reducible apply State.reset_inv
    | with_reducible refine State.Keeps.upd ?_ rfl rfl rfl rfl rfl rfl rfl rfl rfl rfl rfl rfl rfl rfl rfl rfl rfl rfl rfl

theorem State.curComp_inv {s : State} {fast : Bool} {src : Nat} (h_s : s.Keeps qs) : (State.curComp s fast src).Keeps qs := by
  unfold State.curComp
  repeat' first
    | with_reducible assumption
    | with_reducible apply State.setF_inv
    | with_reducible apply State.inc_inv
    | with_reducible apply State.raise_inv
    | with_reducible apply State.wr_inv
    | with_reducible apply State.Keeps.ite
    | with_reducible apply State.Keeps.iteFst
    | (with_reducible apply State.each_inv; intros)
    | (with_reducible refine State.when_inv (fun _ => ?_) ?_)
    | with_reducible apply foldl_inv
    | intro _
    | split
    | with_reducible refine State.Keeps.fst (by assumption) ?_
    | with_reducible refine State.Keeps.snd (by assumption) ?_
    | with_reducible refine State.Keeps.opt (by assumption) ?_
    | with_reducible apply OptInv.none
    | with_reducible apply OptInv.some
    | with_reducible apply OptInv.map
    | with_reducible apply OptInv.bind
    | with_reducible apply OptInv.ite
    | with_reducible apply OptInv.getD
    | with_reducible apply State.reset_inv
    | with_reducible refine State.Keeps.upd ?_ rfl rfl rfl rfl rfl rfl rfl rfl rfl rfl rfl rfl rfl rfl rfl rfl rfl rfl rfl

end Sys2Proof.Machine
end

