-- ==== Sys2Proof/Laws/Inv/Cmd.lean ====
section
/-! SUPPORT. Laws/Inv/Cmd.lean: every operation of Machine/Cmd.lean keeps the invariant. -/

set_option linter.unusedTactic false
set_option linter.unreachableTactic false

namespace Sys2Proof.Machine

variable {qs : List Instr}

theorem State.queueSlip_inv {s : State} {p : SlipPath} {bs : List Byte} (h : s.Keeps qs) : (s.queueSlip p bs).Keeps qs := by
  unfold State.queueSlip
  split
  · exact State.inc_inv h
  by_cases hr : s.recoveryBars p = true
  · rw [if_pos hr]
    exact h
  · rw [if_neg hr]
    by_cases hq : s.queueFull p = true
    · rw [if_pos hq]
      exact State.sendReturn_inv (State.raise_inv h)
    · rw [if_neg hq]
      refine ⟨h.regs, h.mem, h.dmem, h.imem, h.sram, h.flash, h.cores, h.ports, h.pairs, h.lanes, h.links, h.chans, h.outs, h.rings, h.movers, h.bins, h.log, h.events, ?_, h.repeats, h.pending⟩
      unfold State.queueFull at hq
      simp only [decide_eq_true_eq] at hq
      simp only [List.length_append, List.length_cons, List.length_nil]
      omega

theorem State.fetchSlips_inv {s : State} (h_s : s.Keeps qs) : (State.fetchSlips s).Keeps qs := by
  unfold State.fetchSlips
  repeat' first
    | with_reducible assumption
    | with_reducible apply State.issueRead_inv
    | with_reducible apply State.wr_inv
    | with_reducible apply State.Keeps.ite
    | with_reducible apply State.Keeps.iteFst
    | (with_reducible apply State.each_inv; intros)
    | (with_reducible refine State.when_inv (fun _ => ?_) ?_)
    | with_reducible apply foldl_inv
    | intro _
    | split
    | with_reducible refine State.Keeps.fst (by assumption) ?_
    | with_reducible refine State.Keeps.snd (by assumption) ?_
    | with_reducible refine State.Keeps.opt (by assumption) ?_
    | with_reducible apply OptInv.none
    | with_reducible apply OptInv.some
    | with_reducible apply OptInv.map
    | with_reducible apply OptInv.bind
    | with_reducible apply OptInv.ite
    | with_reducible apply OptInv.getD
    | with_reducible apply State.reset_inv
    | with_reducible refine State.Keeps.upd ?_ rfl rfl rfl rfl rfl rfl rfl rfl rfl rfl rfl rfl rfl rfl rfl rfl rfl rfl rfl

theorem State.cmdDoorbell_inv {s : State} {v : Nat} (h_s : s.Keeps qs) : (State.cmdDoorbell s v).Keeps qs := by
  unfold State.cmdDoorbell
  repeat' first
    | with_reducible assumption
    | with_reducible apply State.setF_inv
    | with_reducible apply State.fetchSlips_inv
    | with_reducible apply State.inc_inv
    | with_reducible apply State.wr_inv
    | with_reducible apply State.Keeps.ite
    | with_reducible apply State.Keeps.iteFst
    | (with_reducible apply State.each_inv; intros)
    | (with_reducible refine State.when_inv (fun _ => ?_) ?_)
    | with_reducible apply foldl_inv
    | intro _
    | split
    | with_reducible refine State.Keeps.fst (by assumption) ?_
    | with_reducible refine State.Keeps.snd (by assumption) ?_
    | with_reducible refine State.Keeps.opt (by assumption) ?_
    | with_reducible apply OptInv.none
    | with_reducible apply OptInv.some
    | with_reducible apply OptInv.map
    | with_reducible apply OptInv.bind
    | with_reducible apply OptInv.ite
    | with_reducible apply OptInv.getD
    | with_reducible apply State.reset_inv
    | with_reducible refine State.Keeps.upd ?_ rfl rfl rfl rfl rfl rfl rfl rfl rfl rfl rfl rfl rfl rfl rfl rfl rfl rfl rfl

theorem State.slipsFetched_inv {s : State} {o : Outstanding} {n : Nat} {data : List Byte} (h_s : s.Keeps qs) : (State.slipsFetched s o n data).Keeps qs := by
  unfold State.slipsFetched
  repeat' first
    | with_reducible assumption
    | with_reducible apply State.incBy_inv
    | with_reducible apply State.queueSlip_inv
    | with_reducible apply State.setF_inv
    | with_reducible apply State.fetchSlips_inv
    | with_reducible apply State.wr_inv
    | with_reducible apply State.Keeps.ite
    | with_reducible apply State.Keeps.iteFst
    | (with_reducible apply State.each_inv; intros)
    | (with_reducible refine State.when_inv (fun _ => ?_) ?_)
    | with_reducible apply foldl_inv
    | intro _
    | split
    | with_reducible refine State.Keeps.fst (by assumption) ?_
    | with_reducible refine State.Keeps.snd (by assumption) ?_
    | with_reducible refine State.Keeps.opt (by assumption) ?_
    | with_reducible apply OptInv.none
    | with_reducible apply OptInv.some
    | with_reducible apply OptInv.map
    | with_reducible apply OptInv.bind
    | with_reducible apply OptInv.ite
    | with_reducible apply OptInv.getD
    | with_reducible apply State.reset_inv
    | with_reducible refine State.Keeps.upd ?_ rfl rfl rfl rfl rfl rfl rfl rfl rfl rfl rfl rfl rfl rfl rfl rfl rfl rfl rfl

theorem State.fetchFailed_inv {s : State} {o : Outstanding} {code : Nat} (h_s : s.Keeps qs) : (State.fetchFailed s o code).Keeps qs := by
  unfold State.fetchFailed
  repeat' first
    | with_reducible assumption
    | with_reducible apply State.setF_inv
    | with_reducible apply State.raise_inv
    | with_reducible apply State.logEvent_inv
    | with_reducible apply State.wr_inv
    | with_reducible apply State.Keeps.ite
    | with_reducible apply State.Keeps.iteFst
    | (with_reducible apply State.each_inv; intros)
    | (with_reducible refine State.when_inv (fun _ => ?_) ?_)
    | with_reducible apply foldl_inv
    | intro _
    | split
    | with_reducible refine State.Keeps.fst (by assumption) ?_
    | with_reducible refine State.Keeps.snd (by assumption) ?_
    | with_reducible refine State.Keeps.opt (by assumption) ?_
    | with_reducible apply OptInv.none
    | with_reducible apply OptInv.some
    | with_reducible apply OptInv.map
    | with_reducible apply OptInv.bind
    | with_reducible apply OptInv.ite
    | with_reducible apply OptInv.getD
    | with_reducible apply State.reset_inv
    | with_reducible refine State.Keeps.upd ?_ rfl rfl rfl rfl rfl rfl rfl rfl rfl rfl rfl rfl rfl rfl rfl rfl rfl rfl rfl

theorem State.writeRingEn_inv {s : State} {en : Bool} (h_s : s.Keeps qs) : (State.writeRingEn s en).Keeps qs := by
  unfold State.writeRingEn
  repeat' first
    | with_reducible assumption
    | with_reducible apply State.setF_inv
    | with_reducible apply State.replyFlush_inv
    | with_reducible apply State.intxUpdate_inv
    | with_reducible apply State.wr_inv
    | with_reducible apply State.Keeps.ite
    | with_reducible apply State.Keeps.iteFst
    | (with_reducible apply State.each_inv; intros)
    | (with_reducible refine State.when_inv (fun _ => ?_) ?_)
    | with_reducible apply foldl_inv
    | intro _
    | split
    | with_reducible refine State.Keeps.fst (by assumption) ?_
    | with_reducible refine State.Keeps.snd (by assumption) ?_
    | with_reducible refine State.Keeps.opt (by assumption) ?_
    | with_reducible apply OptInv.none
    | with_reducible apply OptInv.some
    | with_reducible apply OptInv.map
    | with_reducible apply OptInv.bind
    | with_reducible apply OptInv.ite
    | with_reducible apply OptInv.getD
    | with_reducible apply State.reset_inv
    | with_reducible refine State.Keeps.upd ?_ rfl rfl rfl rfl rfl rfl rfl rfl rfl rfl rfl rfl rfl rfl rfl rfl rfl rfl rfl

theorem State.formatError_inv {s : State} (h_s : s.Keeps qs) : (State.formatError s).Keeps qs := by
  unfold State.formatError
  repeat' first
    | with_reducible assumption
    | with_reducible apply State.inc_inv
    | with_reducible apply State.raise_inv
    | with_reducible apply State.wr_inv
    | with_reducible apply State.Keeps.ite
    | with_reducible apply State.Keeps.iteFst
    | (with_reducible apply State.each_inv; intros)
    | (with_reducible refine State.when_inv (fun _ => ?_) ?_)
    | with_reducible apply foldl_inv
    | intro _
    | split
    | with_reducible refine State.Keeps.fst (by assumption) ?_
    | with_reducible refine State.Keeps.snd (by assumption) ?_
    | with_reducible refine State.Keeps.opt (by assumption) ?_
    | with_reducible apply OptInv.none
    | with_reducible apply OptInv.some
    | with_reducible apply OptInv.map
    | with_reducible apply OptInv.bind
    | with_reducible apply OptInv.ite
    | with_reducible apply OptInv.getD
    | with_reducible apply State.reset_inv
    | with_reducible refine State.Keeps.upd ?_ rfl rfl rfl rfl rfl rfl rfl rfl rfl rfl rfl rfl rfl rfl rfl rfl rfl rfl rfl

theorem State.scanFrame_inv {x0 : Nat} {x1 : State} (h_x1 : x1.Keeps qs) : (State.scanFrame x0 x1).Keeps qs := by
  induction x0 generalizing x1 with
  | zero =>
    unfold State.scanFrame
    repeat' first
      | with_reducible assumption
      | with_reducible apply ih
      | with_reducible apply State.queueSlip_inv
      | with_reducible apply State.formatError_inv
      | with_reducible apply State.wr_inv
      | with_reducible apply State.Keeps.ite
      | with_reducible apply State.Keeps.iteFst
      | (with_reducible apply State.each_inv; intros)
      | (with_reducible refine State.when_inv (fun _ => ?_) ?_)
      | with_reducible apply foldl_inv
      | intro _
      | split
      | with_reducible refine State.Keeps.fst (by assumption) ?_
      | with_reducible refine State.Keeps.snd (by assumption) ?_
      | with_reducible refine State.Keeps.opt (by assumption) ?_
      | with_reducible apply OptInv.none
      | with_reducible apply OptInv.some
      | with_reducible apply OptInv.map
      | with_reducible apply OptInv.bind
      | with_reducible apply OptInv.ite
      | with_reducible apply OptInv.getD
      | with_reducible apply State.reset_inv
      | with_reducible refine State.Keeps.upd ?_ rfl rfl rfl rfl rfl rfl rfl rfl rfl rfl rfl rfl rfl rfl rfl rfl rfl rfl rfl
  | succ n ih =>
    unfold State.scanFrame
    repeat' first
      | with_reducible assumption
      | with_reducible apply ih
      | with_reducible apply State.queueSlip_inv
      | with_reducible apply State.formatError_inv
      | with_reducible apply State.wr_inv
      | with_reducible apply State.Keeps.ite
      | with_reducible apply State.Keeps.iteFst
      | (with_reducible apply State.each_inv; intros)
      | (with_reducible refine State.when_inv (fun _ => ?_) ?_)
      | with_reducible apply foldl_inv
      | intro _
      | split
      | with_reducible refine State.Keeps.fst (by assumption) ?_
      | with_reducible refine State.Keeps.snd (by assumption) ?_
      | with_reducible refine State.Keeps.opt (by assumption) ?_
      | with_reducible apply OptInv.none
      | with_reducible apply OptInv.some
      | with_reducible apply OptInv.map
      | with_reducible apply OptInv.bind
      | with_reducible apply OptInv.ite
      | with_reducible apply OptInv.getD
      | with_reducible apply State.reset_inv
      | with_reducible refine State.Keeps.upd ?_ rfl rfl rfl rfl rfl rfl rfl rfl rfl rfl rfl rfl rfl rfl rfl rfl rfl rfl rfl

end Sys2Proof.Machine
end

