-- ==== Sys2Proof/Laws/Inv/MemIsa.lean ====
section
/-! SUPPORT. Laws/Inv/MemIsa.lean: every operation of Machine/MemIsa.lean keeps the invariant. -/

set_option linter.unusedTactic false
set_option linter.unreachableTactic false

namespace Sys2Proof.Machine

variable {qs : List Instr}

theorem State.deviceRead_inv {s : State} {n : Nat} {o : Nat} {f : State → Nat → Word → State × Word} (h_s : s.Keeps qs)
    (hf : ∀ t a m (_ : t.Keeps qs), (f t a m).1.Keeps qs) : (State.deviceRead s n o f).1.Keeps qs := by
  unfold State.deviceRead
  split
  · exact hf _ _ _ h_s
  · exact foldl_inv_fst (fun t x h => hf _ _ _ h) h_s

theorem State.deviceWrite_inv {s : State} {o : Nat} {data : List Byte} {f : State → Nat → Word → Word → State} (h_s : s.Keeps qs) (hf_f : ∀ (y0 : State) (_ : y0.Keeps qs) (y1 : Nat) (y2 : Word) (y3 : Word), (f y0 y1 y2 y3).Keeps qs) : (State.deviceWrite s o data f).Keeps qs := by
  unfold State.deviceWrite
  repeat' first
    | with_reducible assumption
    | with_reducible apply hf_f
    | with_reducible apply State.wr_inv
    | with_reducible apply State.Keeps.ite
    | with_reducible apply State.Keeps.iteFst
    | (with_reducible apply State.each_inv; intros)
    | (with_reducible refine State.when_inv (fun _ => ?_) ?_)
    | with_reducible apply foldl_inv
    | intro _
    | split
    | with_reducible refine State.Keeps.fst (by assumption) ?_
    | with_reducible refine State.Keeps.snd (by assumption) ?_
    | with_reducible refine State.Keeps.opt (by assumption) ?_
    | with_reducible apply OptInv.none
    | with_reducible apply OptInv.some
    | with_reducible apply OptInv.map
    | with_reducible apply OptInv.bind
    | with_reducible apply OptInv.ite
    | with_reducible apply OptInv.getD
    | with_reducible apply State.reset_inv
    | with_reducible refine State.Keeps.upd ?_ rfl rfl rfl rfl rfl rfl rfl rfl rfl rfl rfl rfl rfl rfl rfl rfl rfl rfl rfl

theorem State.edgRead_inv {s : State} {o : Nat} {n : Nat} (h_s : s.Keeps qs) : (State.edgRead s o n).1.Keeps qs :=
  State.deviceRead_inv h_s (fun _ _ _ h => State.readReg_inv h)

theorem State.edgWrite_inv {s : State} {who : Nat} {o : Nat} {data : List Byte} (h_s : s.Keeps qs) : (State.edgWrite s who o data).Keeps qs := by
  unfold State.edgWrite
  repeat' first
    | with_reducible assumption
    | with_reducible apply State.deviceWrite_inv
    | with_reducible apply State.writeReg_inv
    | with_reducible apply State.wr_inv
    | with_reducible apply State.Keeps.ite
    | with_reducible apply State.Keeps.iteFst
    | (with_reducible apply State.each_inv; intros)
    | (with_reducible refine State.when_inv (fun _ => ?_) ?_)
    | with_reducible apply foldl_inv
    | intro _
    | split
    | with_reducible refine State.Keeps.fst (by assumption) ?_
    | with_reducible refine State.Keeps.snd (by assumption) ?_
    | with_reducible refine State.Keeps.opt (by assumption) ?_
    | with_reducible apply OptInv.none
    | with_reducible apply OptInv.some
    | with_reducible apply OptInv.map
    | with_reducible apply OptInv.bind
    | with_reducible apply OptInv.ite
    | with_reducible apply OptInv.getD
    | with_reducible apply State.reset_inv
    | with_reducible refine State.Keeps.upd ?_ rfl rfl rfl rfl rfl rfl rfl rfl rfl rfl rfl rfl rfl rfl rfl rfl rfl rfl rfl

theorem State.sramPut_inv {s : State} {o : Nat} {data : List Byte} (h : s.Keeps qs) : (s.sramPut o data).Keeps qs :=
  ⟨h.regs, h.mem, h.dmem, h.imem, twf_foldl h.sram, h.flash, h.cores, h.ports, h.pairs, h.lanes, h.links, h.chans, h.outs, h.rings, h.movers, h.bins, h.log, h.events, h.queue, h.repeats, h.pending⟩

theorem State.metEntry_inv {s : State} {e : Nat} {j : JEntry} (h_s : s.Keeps qs) : (State.metEntry s e j).Keeps qs := by
  unfold State.metEntry
  repeat' first
    | with_reducible assumption
    | with_reducible apply State.setPair_inv
    | with_reducible apply State.wr_inv
    | with_reducible apply State.Keeps.ite
    | with_reducible apply State.Keeps.iteFst
    | (with_reducible apply State.each_inv; intros)
    | (with_reducible refine State.when_inv (fun _ => ?_) ?_)
    | with_reducible apply foldl_inv
    | intro _
    | split
    | with_reducible refine State.Keeps.fst (by assumption) ?_
    | with_reducible refine State.Keeps.snd (by assumption) ?_
    | with_reducible refine State.Keeps.opt (by assumption) ?_
    | with_reducible apply OptInv.none
    | with_reducible apply OptInv.some
    | with_reducible apply OptInv.map
    | with_reducible apply OptInv.bind
    | with_reducible apply OptInv.ite
    | with_reducible apply OptInv.getD
    | with_reducible apply State.reset_inv
    | with_reducible refine State.Keeps.upd ?_ rfl rfl rfl rfl rfl rfl rfl rfl rfl rfl rfl rfl rfl rfl rfl rfl rfl rfl rfl

theorem State.diverge_inv {s : State} {e : Nat} (h_s : s.Keeps qs) : (State.diverge s e).Keeps qs := by
  unfold State.diverge
  repeat' first
    | with_reducible assumption
    | with_reducible apply State.reportPair_inv
    | with_reducible apply State.stopPair_inv
    | with_reducible apply State.wr_inv
    | with_reducible apply State.Keeps.ite
    | with_reducible apply State.Keeps.iteFst
    | (with_reducible apply State.each_inv; intros)
    | (with_reducible refine State.when_inv (fun _ => ?_) ?_)
    | with_reducible apply foldl_inv
    | intro _
    | split
    | with_reducible refine State.Keeps.fst (by assumption) ?_
    | with_reducible refine State.Keeps.snd (by assumption) ?_
    | with_reducible refine State.Keeps.opt (by assumption) ?_
    | with_reducible apply OptInv.none
    | with_reducible apply OptInv.some
    | with_reducible apply OptInv.map
    | with_reducible apply OptInv.bind
    | with_reducible apply OptInv.ite
    | with_reducible apply OptInv.getD
    | with_reducible apply State.reset_inv
    | with_reducible refine State.Keeps.upd ?_ rfl rfl rfl rfl rfl rfl rfl rfl rfl rfl rfl rfl rfl rfl rfl rfl rfl rfl rfl

theorem State.loaded_inv {s : State} {e : Nat} {d : LoadDest} {n : Nat} {data : Nat → List Byte} (h_s : s.Keeps qs) : (State.loaded s e d n data).Keeps qs := by
  unfold State.loaded
  repeat' first
    | with_reducible assumption
    | with_reducible apply State.setCore_inv
    | with_reducible apply State.wr_inv
    | with_reducible apply State.Keeps.ite
    | with_reducible apply State.Keeps.iteFst
    | (with_reducible apply State.each_inv; intros)
    | (with_reducible refine State.when_inv (fun _ => ?_) ?_)
    | with_reducible apply foldl_inv
    | intro _
    | split
    | with_reducible refine State.Keeps.fst (by assumption) ?_
    | with_reducible refine State.Keeps.snd (by assumption) ?_
    | with_reducible refine State.Keeps.opt (by assumption) ?_
    | with_reducible apply OptInv.none
    | with_reducible apply OptInv.some
    | with_reducible apply OptInv.map
    | with_reducible apply OptInv.bind
    | with_reducible apply OptInv.ite
    | with_reducible apply OptInv.getD
    | with_reducible apply State.reset_inv
    | with_reducible refine State.Keeps.upd ?_ rfl rfl rfl rfl rfl rfl rfl rfl rfl rfl rfl rfl rfl rfl rfl rfl rfl rfl rfl

theorem State.queueLoad_inv {s : State} {e : Nat} {addr : Nat} {p : Place} {n : Nat} {d : LoadDest} {tag : Option Nat} {entry : Option Nat} {g : Got} (h_s : s.Keeps qs) : (State.queueLoad s e addr p n d tag entry g).Keeps qs := by
  unfold State.queueLoad
  repeat' first
    | with_reducible assumption
    | with_reducible apply State.setPort_inv
    | with_reducible apply State.retire_inv
    | with_reducible apply State.drain_inv
    | with_reducible apply State.wr_inv
    | with_reducible apply State.Keeps.ite
    | with_reducible apply State.Keeps.iteFst
    | (with_reducible apply State.each_inv; intros)
    | (with_reducible refine State.when_inv (fun _ => ?_) ?_)
    | with_reducible apply foldl_inv
    | intro _
    | split
    | with_reducible refine State.Keeps.fst (by assumption) ?_
    | with_reducible refine State.Keeps.snd (by assumption) ?_
    | with_reducible refine State.Keeps.opt (by assumption) ?_
    | with_reducible apply OptInv.none
    | with_reducible apply OptInv.some
    | with_reducible apply OptInv.map
    | with_reducible apply OptInv.bind
    | with_reducible apply OptInv.ite
    | with_reducible apply OptInv.getD
    | with_reducible apply State.reset_inv
    | with_reducible refine State.Keeps.upd ?_ rfl rfl rfl rfl rfl rfl rfl rfl rfl rfl rfl rfl rfl rfl rfl rfl rfl rfl rfl

theorem State.loadDmem_inv {s : State} {e : Nat} {o : Nat} {n : Nat} {d : LoadDest} {addrOf : Regs → Word} {ecc0 : Nat} (h_s : s.Keeps qs) : (State.loadDmem s e o n d addrOf ecc0).Keeps qs := by
  unfold State.loadDmem
  repeat' first
    | with_reducible assumption
    | with_reducible apply State.overXfers_inv
    | with_reducible apply State.inc_inv
    | with_reducible apply State.takeFree_inv
    | with_reducible apply State.mismatch_inv
    | with_reducible apply State.fault_inv
    | with_reducible apply State.loaded_inv
    | with_reducible apply State.wr_inv
    | with_reducible apply State.Keeps.ite
    | with_reducible apply State.Keeps.iteFst
    | (with_reducible apply State.each_inv; intros)
    | (with_reducible refine State.when_inv (fun _ => ?_) ?_)
    | with_reducible apply foldl_inv
    | intro _
    | split
    | with_reducible refine State.Keeps.fst (by assumption) ?_
    | with_reducible refine State.Keeps.snd (by assumption) ?_
    | with_reducible refine State.Keeps.opt (by assumption) ?_
    | with_reducible apply OptInv.none
    | with_reducible apply OptInv.some
    | with_reducible apply OptInv.map
    | with_reducible apply OptInv.bind
    | with_reducible apply OptInv.ite
    | with_reducible apply OptInv.getD
    | with_reducible apply State.reset_inv
    | with_reducible refine State.Keeps.upd ?_ rfl rfl rfl rfl rfl rfl rfl rfl rfl rfl rfl rfl rfl rfl rfl rfl rfl rfl rfl

theorem State.loadOuter_inv {s : State} {e : Nat} {addr : Nat} {p : Place} {n : Nat} {d : LoadDest} (h_s : s.Keeps qs) :
    (State.loadOuter s e addr p n d).Keeps qs := by
  unfold State.loadOuter
  dsimp only
  split
  · split
    · exact h_s
    · exact State.loaded_inv (State.deviceRead_inv h_s (fun _ _ _ h => State.bayRead_inv h))
  · exact State.Keeps.ite h_s (State.queueLoad_inv h_s)
  · exact State.loaded_inv h_s
  · exact h_s
  · split
    · exact State.diverge_inv h_s
    · exact State.Keeps.ite h_s (State.queueLoad_inv (State.metEntry_inv h_s))
    · split
      · exact State.loaded_inv (State.record1_inv (State.edgRead_inv h_s))
      · exact State.Keeps.ite h_s (State.queueLoad_inv (State.remoteIssue_inv (State.record1_inv h_s)))
      · refine State.Keeps.ite h_s (State.Keeps.ite (State.queueLoad_inv (State.record1_inv h_s)) ?_)
        split
        · exact State.queueLoad_inv (State.record1_inv (State.apertureWait_inv h_s))
        · rename_i t e
          exact State.queueLoad_inv (State.record1_inv (OptInv.ite (State.issueRead_inv h_s) OptInv.none t e))
      · exact h_s

theorem State.memLoad_inv {s : State} {e : Nat} {n : Nat} {a : BitVec 5} {imm : BitVec 16} {d : LoadDest} {ecc : Nat} (h_s : s.Keeps qs) : (State.memLoad s e n a imm d ecc).Keeps qs := by
  unfold State.memLoad
  repeat' first
    | with_reducible assumption
    | with_reducible apply State.issue_inv
    | with_reducible apply State.fault_inv
    | with_reducible apply State.waitThen_inv
    | with_reducible apply State.compared_inv
    | with_reducible apply State.loadOuter_inv
    | with_reducible apply State.loadDmem_inv
    | with_reducible apply State.loaded_inv
    | with_reducible apply State.wr_inv
    | with_reducible apply State.Keeps.ite
    | with_reducible apply State.Keeps.iteFst
    | (with_reducible apply State.each_inv; intros)
    | (with_reducible refine State.when_inv (fun _ => ?_) ?_)
    | with_reducible apply foldl_inv
    | intro _
    | split
    | with_reducible refine State.Keeps.fst (by assumption) ?_
    | with_reducible refine State.Keeps.snd (by assumption) ?_
    | with_reducible refine State.Keeps.opt (by assumption) ?_
    | with_reducible apply OptInv.none
    | with_reducible apply OptInv.some
    | with_reducible apply OptInv.map
    | with_reducible apply OptInv.bind
    | with_reducible apply OptInv.ite
    | with_reducible apply OptInv.getD
    | with_reducible apply State.reset_inv
    | with_reducible refine State.Keeps.upd ?_ rfl rfl rfl rfl rfl rfl rfl rfl rfl rfl rfl rfl rfl rfl rfl rfl rfl rfl rfl

theorem State.bufferStore_inv {s : State} {e : Nat} {addr : Nat} {p : Place} {data : List Byte} {tag : Option Nat} (h_s : s.Keeps qs) : (State.bufferStore s e addr p data tag).Keeps qs := by
  unfold State.bufferStore
  repeat' first
    | with_reducible assumption
    | with_reducible apply State.setPort_inv
    | with_reducible apply State.wr_inv
    | with_reducible apply State.Keeps.ite
    | with_reducible apply State.Keeps.iteFst
    | (with_reducible apply State.each_inv; intros)
    | (with_reducible refine State.when_inv (fun _ => ?_) ?_)
    | with_reducible apply foldl_inv
    | intro _
    | split
    | with_reducible refine State.Keeps.fst (by assumption) ?_
    | with_reducible refine State.Keeps.snd (by assumption) ?_
    | with_reducible refine State.Keeps.opt (by assumption) ?_
    | with_reducible apply OptInv.none
    | with_reducible apply OptInv.some
    | with_reducible apply OptInv.map
    | with_reducible apply OptInv.bind
    | with_reducible apply OptInv.ite
    | with_reducible apply OptInv.getD
    | with_reducible apply State.reset_inv
    | with_reducible refine State.Keeps.upd ?_ rfl rfl rfl rfl rfl rfl rfl rfl rfl rfl rfl rfl rfl rfl rfl rfl rfl rfl rfl

theorem State.storeOuter_inv {s : State} {e : Nat} {addr : Nat} {p : Place} {data : List Byte} (h_s : s.Keeps qs) : (State.storeOuter s e addr p data).Keeps qs := by
  unfold State.storeOuter
  repeat' first
    | with_reducible assumption
    | with_reducible apply State.deviceWrite_inv
    | with_reducible apply State.bayWrite_inv
    | with_reducible apply State.retire_inv
    | with_reducible apply State.diverge_inv
    | with_reducible apply State.metEntry_inv
    | with_reducible apply State.bufferStore_inv
    | with_reducible apply State.record1_inv
    | with_reducible apply State.sramPut_inv
    | with_reducible apply State.edgWrite_inv
    | with_reducible apply State.remoteIssue_inv
    | with_reducible apply State.remoteForget_inv
    | with_reducible apply State.popStore_inv
    | with_reducible apply State.declareLost_inv
    | with_reducible apply State.wr_inv
    | with_reducible apply State.Keeps.ite
    | with_reducible apply State.Keeps.iteFst
    | (with_reducible apply State.each_inv; intros)
    | (with_reducible refine State.when_inv (fun _ => ?_) ?_)
    | with_reducible apply foldl_inv
    | intro _
    | split
    | with_reducible refine State.Keeps.fst (by assumption) ?_
    | with_reducible refine State.Keeps.snd (by assumption) ?_
    | with_reducible refine State.Keeps.opt (by assumption) ?_
    | with_reducible apply OptInv.none
    | with_reducible apply OptInv.some
    | with_reducible apply OptInv.map
    | with_reducible apply OptInv.bind
    | with_reducible apply OptInv.ite
    | with_reducible apply OptInv.getD
    | with_reducible apply State.reset_inv
    | with_reducible refine State.Keeps.upd ?_ rfl rfl rfl rfl rfl rfl rfl rfl rfl rfl rfl rfl rfl rfl rfl rfl rfl rfl rfl

theorem State.memStore_inv {s : State} {e : Nat} {n : Nat} {gs : List Nat} {vs : List Nat} {a : BitVec 5} {imm : BitVec 16} {data : Regs → List Byte} (h_s : s.Keeps qs) : (State.memStore s e n gs vs a imm data).Keeps qs := by
  unfold State.memStore
  repeat' first
    | with_reducible assumption
    | with_reducible apply State.issue_inv
    | with_reducible apply State.fault_inv
    | with_reducible apply State.waitThen_inv
    | with_reducible apply State.compared_inv
    | with_reducible apply State.storeOuter_inv
    | with_reducible apply State.overXfers_inv
    | with_reducible apply State.dmStore_inv
    | with_reducible apply State.retire_inv
    | with_reducible apply State.wr_inv
    | with_reducible apply State.Keeps.ite
    | with_reducible apply State.Keeps.iteFst
    | (with_reducible apply State.each_inv; intros)
    | (with_reducible refine State.when_inv (fun _ => ?_) ?_)
    | with_reducible apply foldl_inv
    | intro _
    | split
    | with_reducible refine State.Keeps.fst (by assumption) ?_
    | with_reducible refine State.Keeps.snd (by assumption) ?_
    | with_reducible refine State.Keeps.opt (by assumption) ?_
    | with_reducible apply OptInv.none
    | with_reducible apply OptInv.some
    | with_reducible apply OptInv.map
    | with_reducible apply OptInv.bind
    | with_reducible apply OptInv.ite
    | with_reducible apply OptInv.getD
    | with_reducible apply State.reset_inv
    | with_reducible refine State.Keeps.upd ?_ rfl rfl rfl rfl rfl rfl rfl rfl rfl rfl rfl rfl rfl rfl rfl rfl rfl rfl rfl

theorem State.queueXfer_inv {s : State} {e : Nat} {d : BitVec 5} {x : Xfer} (h_s : s.Keeps qs) : (State.queueXfer s e d x).Keeps qs := by
  unfold State.queueXfer
  repeat' first
    | with_reducible assumption
    | with_reducible apply State.setPort_inv
    | with_reducible apply State.setCore_inv
    | with_reducible apply State.wr_inv
    | with_reducible apply State.Keeps.ite
    | with_reducible apply State.Keeps.iteFst
    | (with_reducible apply State.each_inv; intros)
    | (with_reducible refine State.when_inv (fun _ => ?_) ?_)
    | with_reducible apply foldl_inv
    | intro _
    | split
    | with_reducible refine State.Keeps.fst (by assumption) ?_
    | with_reducible refine State.Keeps.snd (by assumption) ?_
    | with_reducible refine State.Keeps.opt (by assumption) ?_
    | with_reducible apply OptInv.none
    | with_reducible apply OptInv.some
    | with_reducible apply OptInv.map
    | with_reducible apply OptInv.bind
    | with_reducible apply OptInv.ite
    | with_reducible apply OptInv.getD
    | with_reducible apply State.reset_inv
    | with_reducible refine State.Keeps.upd ?_ rfl rfl rfl rfl rfl rfl rfl rfl rfl rfl rfl rfl rfl rfl rfl rfl rfl rfl rfl

theorem State.memXfer_inv {s : State} {e : Nat} {n : Nat} {maj : Nat} {d : BitVec 5} {a : BitVec 5} {imm : BitVec 16} (h_s : s.Keeps qs) : (State.memXfer s e n maj d a imm).Keeps qs := by
  unfold State.memXfer
  repeat' first
    | with_reducible assumption
    | with_reducible apply State.engineOnly_inv
    | with_reducible apply State.issue_inv
    | with_reducible apply State.fault_inv
    | with_reducible apply State.diverge_inv
    | with_reducible apply State.metEntry_inv
    | with_reducible apply State.queueXfer_inv
    | with_reducible apply State.xferGot_inv
    | with_reducible apply State.record1_inv
    | with_reducible apply State.remoteIssue_inv
    | with_reducible apply State.remoteForget_inv
    | with_reducible apply State.wr_inv
    | with_reducible apply State.Keeps.ite
    | with_reducible apply State.Keeps.iteFst
    | (with_reducible apply State.each_inv; intros)
    | (with_reducible refine State.when_inv (fun _ => ?_) ?_)
    | with_reducible apply foldl_inv
    | intro _
    | split
    | with_reducible refine State.Keeps.fst (by assumption) ?_
    | with_reducible refine State.Keeps.snd (by assumption) ?_
    | with_reducible refine State.Keeps.opt (by assumption) ?_
    | with_reducible apply OptInv.none
    | with_reducible apply OptInv.some
    | with_reducible apply OptInv.map
    | with_reducible apply OptInv.bind
    | with_reducible apply OptInv.ite
    | with_reducible apply OptInv.getD
    | with_reducible apply State.reset_inv
    | with_reducible refine State.Keeps.upd ?_ rfl rfl rfl rfl rfl rfl rfl rfl rfl rfl rfl rfl rfl rfl rfl rfl rfl rfl rfl

theorem State.atomic_inv {s : State} {e : Nat} {fcode : Nat} {d : BitVec 5} {a : BitVec 5} {b : BitVec 5} {c : BitVec 5} {f : Regs → Word → Option Word} (h_s : s.Keeps qs) : (State.atomic s e fcode d a b c f).Keeps qs := by
  unfold State.atomic
  repeat' first
    | with_reducible assumption
    | with_reducible apply State.illegal_inv
    | with_reducible apply State.issue_inv
    | with_reducible apply State.setCore_inv
    | with_reducible apply State.fault_inv
    | with_reducible apply State.sramPut_inv
    | with_reducible apply State.stkRead_inv
    | with_reducible apply State.stkPut_inv
    | with_reducible apply State.wr_inv
    | with_reducible apply State.Keeps.ite
    | with_reducible apply State.Keeps.iteFst
    | (with_reducible apply State.each_inv; intros)
    | (with_reducible refine State.when_inv (fun _ => ?_) ?_)
    | with_reducible apply foldl_inv
    | intro _
    | split
    | with_reducible refine State.Keeps.fst (by assumption) ?_
    | with_reducible refine State.Keeps.snd (by assumption) ?_
    | with_reducible refine State.Keeps.opt (by assumption) ?_
    | with_reducible apply OptInv.none
    | with_reducible apply OptInv.some
    | with_reducible apply OptInv.map
    | with_reducible apply OptInv.bind
    | with_reducible apply OptInv.ite
    | with_reducible apply OptInv.getD
    | with_reducible apply State.reset_inv
    | with_reducible refine State.Keeps.upd ?_ rfl rfl rfl rfl rfl rfl rfl rfl rfl rfl rfl rfl rfl rfl rfl rfl rfl rfl rfl

end Sys2Proof.Machine
end

