-- ==== Sys2Proof/Laws/Inv/Inbound.lean ====
section
/-! SUPPORT. Laws/Inv/Inbound.lean: every operation of Machine/Inbound.lean keeps the invariant. -/

set_option linter.unusedTactic false
set_option linter.unreachableTactic false

namespace Sys2Proof.Machine

variable {qs : List Instr}

theorem State.readAborted_inv {s : State} {r : InRead} (h_s : s.Keeps qs) : (State.readAborted s r).1.Keeps qs := by
  unfold State.readAborted
  repeat' first
    | with_reducible assumption
    | with_reducible apply State.completerAbort_inv
    | with_reducible apply State.answered_inv
    | with_reducible apply State.wr_inv
    | with_reducible apply State.Keeps.ite
    | with_reducible apply State.Keeps.iteFst
    | (with_reducible apply State.each_inv; intros)
    | (with_reducible refine State.when_inv (fun _ => ?_) ?_)
    | with_reducible apply foldl_inv
    | intro _
    | split
    | with_reducible refine State.Keeps.fst (by assumption) ?_
    | with_reducible refine State.Keeps.snd (by assumption) ?_
    | with_reducible refine State.Keeps.opt (by assumption) ?_
    | with_reducible apply OptInv.none
    | with_reducible apply OptInv.some
    | with_reducible apply OptInv.map
    | with_reducible apply OptInv.bind
    | with_reducible apply OptInv.ite
    | with_reducible apply OptInv.getD
    | with_reducible apply State.reset_inv
    | with_reducible refine State.Keeps.upd ?_ rfl rfl rfl rfl rfl rfl rfl rfl rfl rfl rfl rfl rfl rfl rfl rfl rfl rfl rfl

theorem State.readRegs_inv {s : State} {k i : Nat} {be : List Bool} {x0 : Nat} (h_s : s.Keeps qs) : (State.readRegs s k i be x0).1.Keeps qs := by
  induction x0 generalizing s i with
  | zero => exact h_s
  | succ n ih =>
    unfold State.readRegs
    refine ih ?_
    split
    · exact State.takeFree_inv h_s
    · exact State.readNow_inv h_s

theorem State.issuePiecesIn_inv {s : State} {id : Nat} {node : Nat} {cls : Nat} {base : Nat} {x0 : List (Nat × Nat)} (h_s : s.Keeps qs) : (State.issuePiecesIn s id node cls base x0).1.Keeps qs := by
  induction x0 generalizing s with
  | nil =>
    unfold State.issuePiecesIn
    repeat' first
      | with_reducible assumption
      | with_reducible apply ih
      | with_reducible apply State.remoteIssue_inv
      | with_reducible apply State.remoteForget_inv
      | with_reducible apply State.wr_inv
      | with_reducible apply State.Keeps.ite
      | with_reducible apply State.Keeps.iteFst
      | (with_reducible apply State.each_inv; intros)
      | (with_reducible refine State.when_inv (fun _ => ?_) ?_)
      | with_reducible apply foldl_inv
      | intro _
      | split
      | with_reducible refine State.Keeps.fst (by assumption) ?_
      | with_reducible refine State.Keeps.snd (by assumption) ?_
      | with_reducible refine State.Keeps.opt (by assumption) ?_
      | with_reducible apply OptInv.none
      | with_reducible apply OptInv.some
      | with_reducible apply OptInv.map
      | with_reducible apply OptInv.bind
      | with_reducible apply OptInv.ite
      | with_reducible apply OptInv.getD
      | with_reducible apply State.reset_inv
      | with_reducible refine State.Keeps.upd ?_ rfl rfl rfl rfl rfl rfl rfl rfl rfl rfl rfl rfl rfl rfl rfl rfl rfl rfl rfl
  | cons a r ih =>
    unfold State.issuePiecesIn
    repeat' first
      | with_reducible assumption
      | with_reducible apply ih
      | with_reducible apply State.remoteIssue_inv
      | with_reducible apply State.remoteForget_inv
      | with_reducible apply State.wr_inv
      | with_reducible apply State.Keeps.ite
      | with_reducible apply State.Keeps.iteFst
      | (with_reducible apply State.each_inv; intros)
      | (with_reducible refine State.when_inv (fun _ => ?_) ?_)
      | with_reducible apply foldl_inv
      | intro _
      | split
      | with_reducible refine State.Keeps.fst (by assumption) ?_
      | with_reducible refine State.Keeps.snd (by assumption) ?_
      | with_reducible refine State.Keeps.opt (by assumption) ?_
      | with_reducible apply OptInv.none
      | with_reducible apply OptInv.some
      | with_reducible apply OptInv.map
      | with_reducible apply OptInv.bind
      | with_reducible apply OptInv.ite
      | with_reducible apply OptInv.getD
      | with_reducible apply State.reset_inv
      | with_reducible refine State.Keeps.upd ?_ rfl rfl rfl rfl rfl rfl rfl rfl rfl rfl rfl rfl rfl rfl rfl rfl rfl rfl rfl

theorem State.readIssue_inv {s : State} {r : InRead} (h_s : s.Keeps qs) : (State.readIssue s r).1.Keeps qs := by
  unfold State.readIssue
  split
  · exact h_s
  · dsimp only
    generalize r.target = tgt
    split
    · exact State.unsupported_inv h_s
    · exact State.voteDom_inv h_s
    · split
      · exact State.takeFree_inv h_s
      · split
        · split
          · exact State.readRegs_inv h_s
          · exact State.readAborted_inv h_s
        · split
          · exact State.readAborted_inv h_s
          · have ht {o : Nat} {l : List Nat} : (if o < 0x2000000 then s.each l (fun id t => t.catWindowRead id)
                else (s.readNow o 0#32).1).Keeps qs :=
              State.Keeps.ite (State.each_inv (fun _ _ h => State.catWindowRead_inv h) h_s) (State.readNow_inv h_s)
            exact State.Keeps.iteFst ht ht
        · rename_i o _ _
          have hr := State.stkRead_inv (r := rqHost) (o := o) (n := r.len) h_s
          split <;> rename_i e <;> rw [e] at hr
          · exact hr
          · exact hr
          · exact State.readAborted_inv hr
          · exact hr
        · exact State.issuePiecesIn_inv h_s
        all_goals exact h_s

theorem State.setRead_inv {s : State} {r : InRead} (h_s : s.Keeps qs) : (State.setRead s r).Keeps qs := by
  unfold State.setRead
  repeat' first
    | with_reducible assumption
    | with_reducible apply State.wr_inv
    | with_reducible apply State.Keeps.ite
    | with_reducible apply State.Keeps.iteFst
    | (with_reducible apply State.each_inv; intros)
    | (with_reducible refine State.when_inv (fun _ => ?_) ?_)
    | with_reducible apply foldl_inv
    | intro _
    | split
    | with_reducible refine State.Keeps.fst (by assumption) ?_
    | with_reducible refine State.Keeps.snd (by assumption) ?_
    | with_reducible refine State.Keeps.opt (by assumption) ?_
    | with_reducible apply OptInv.none
    | with_reducible apply OptInv.some
    | with_reducible apply OptInv.map
    | with_reducible apply OptInv.bind
    | with_reducible apply OptInv.ite
    | with_reducible apply OptInv.getD
    | with_reducible apply State.reset_inv
    | with_reducible refine State.Keeps.upd ?_ rfl rfl rfl rfl rfl rfl rfl rfl rfl rfl rfl rfl rfl rfl rfl rfl rfl rfl rfl

theorem State.gathered_inv {s : State} {r : InRead} (h_s : s.Keeps qs) : (State.gathered s r).1.Keeps qs := by
  unfold State.gathered
  dsimp only
  repeat' split
  all_goals first | exact h_s | exact State.completerAbort_inv h_s

theorem State.issueReads_inv {x0 : Nat} {x1 : State} (h_x1 : x1.Keeps qs) : (State.issueReads x0 x1).Keeps qs := by
  induction x0 generalizing x1 with
  | zero => exact h_x1
  | succ n ih =>
    unfold State.issueReads
    split
    · exact h_x1
    · rename_i r _
      have hr := State.readIssue_inv (r := r) h_x1
      split <;> rename_i e <;> rw [e] at hr
      · exact hr
      · exact ih (State.setRead_inv (State.gathered_inv hr))

theorem State.completeReads_inv {x0 : Nat} {x1 : State} (h_x1 : x1.Keeps qs) : (State.completeReads x0 x1).Keeps qs := by
  induction x0 generalizing x1 with
  | zero =>
    unfold State.completeReads
    repeat' first
      | with_reducible assumption
      | with_reducible apply ih
      | with_reducible apply State.sendTlp_inv
      | with_reducible apply State.wr_inv
      | with_reducible apply State.Keeps.ite
      | with_reducible apply State.Keeps.iteFst
      | (with_reducible apply State.each_inv; intros)
      | (with_reducible refine State.when_inv (fun _ => ?_) ?_)
      | with_reducible apply foldl_inv
      | intro _
      | split
      | with_reducible refine State.Keeps.fst (by assumption) ?_
      | with_reducible refine State.Keeps.snd (by assumption) ?_
      | with_reducible refine State.Keeps.opt (by assumption) ?_
      | with_reducible apply OptInv.none
      | with_reducible apply OptInv.some
      | with_reducible apply OptInv.map
      | with_reducible apply OptInv.bind
      | with_reducible apply OptInv.ite
      | with_reducible apply OptInv.getD
      | with_reducible apply State.reset_inv
      | with_reducible refine State.Keeps.upd ?_ rfl rfl rfl rfl rfl rfl rfl rfl rfl rfl rfl rfl rfl rfl rfl rfl rfl rfl rfl
  | succ n ih =>
    unfold State.completeReads
    repeat' first
      | with_reducible assumption
      | with_reducible apply ih
      | with_reducible apply State.sendTlp_inv
      | with_reducible apply State.wr_inv
      | with_reducible apply State.Keeps.ite
      | with_reducible apply State.Keeps.iteFst
      | (with_reducible apply State.each_inv; intros)
      | (with_reducible refine State.when_inv (fun _ => ?_) ?_)
      | with_reducible apply foldl_inv
      | intro _
      | split
      | with_reducible refine State.Keeps.fst (by assumption) ?_
      | with_reducible refine State.Keeps.snd (by assumption) ?_
      | with_reducible refine State.Keeps.opt (by assumption) ?_
      | with_reducible apply OptInv.none
      | with_reducible apply OptInv.some
      | with_reducible apply OptInv.map
      | with_reducible apply OptInv.bind
      | with_reducible apply OptInv.ite
      | with_reducible apply OptInv.getD
      | with_reducible apply State.reset_inv
      | with_reducible refine State.Keeps.upd ?_ rfl rfl rfl rfl rfl rfl rfl rfl rfl rfl rfl rfl rfl rfl rfl rfl rfl rfl rfl

theorem State.serveReads_inv {s : State} (h_s : s.Keeps qs) : (State.serveReads s).Keeps qs := by
  unfold State.serveReads
  repeat' first
    | with_reducible assumption
    | with_reducible apply State.issueReads_inv
    | with_reducible apply State.completeReads_inv
    | with_reducible apply State.wr_inv
    | with_reducible apply State.Keeps.ite
    | with_reducible apply State.Keeps.iteFst
    | (with_reducible apply State.each_inv; intros)
    | (with_reducible refine State.when_inv (fun _ => ?_) ?_)
    | with_reducible apply foldl_inv
    | intro _
    | split
    | with_reducible refine State.Keeps.fst (by assumption) ?_
    | with_reducible refine State.Keeps.snd (by assumption) ?_
    | with_reducible refine State.Keeps.opt (by assumption) ?_
    | with_reducible apply OptInv.none
    | with_reducible apply OptInv.some
    | with_reducible apply OptInv.map
    | with_reducible apply OptInv.bind
    | with_reducible apply OptInv.ite
    | with_reducible apply OptInv.getD
    | with_reducible apply State.reset_inv
    | with_reducible refine State.Keeps.upd ?_ rfl rfl rfl rfl rfl rfl rfl rfl rfl rfl rfl rfl rfl rfl rfl rfl rfl rfl rfl

theorem State.pieceGot_inv {s : State} {id : Nat} {at_ : Nat} {status : Nat} {data : List Byte} (h_s : s.Keeps qs) : (State.pieceGot s id at_ status data).Keeps qs := by
  unfold State.pieceGot
  repeat' first
    | with_reducible assumption
    | with_reducible apply State.gathered_inv
    | with_reducible apply State.setRead_inv
    | with_reducible apply State.serveReads_inv
    | with_reducible apply State.wr_inv
    | with_reducible apply State.Keeps.ite
    | with_reducible apply State.Keeps.iteFst
    | (with_reducible apply State.each_inv; intros)
    | (with_reducible refine State.when_inv (fun _ => ?_) ?_)
    | with_reducible apply foldl_inv
    | intro _
    | split
    | with_reducible refine State.Keeps.fst (by assumption) ?_
    | with_reducible refine State.Keeps.snd (by assumption) ?_
    | with_reducible refine State.Keeps.opt (by assumption) ?_
    | with_reducible apply OptInv.none
    | with_reducible apply OptInv.some
    | with_reducible apply OptInv.map
    | with_reducible apply OptInv.bind
    | with_reducible apply OptInv.ite
    | with_reducible apply OptInv.getD
    | with_reducible apply State.reset_inv
    | with_reducible refine State.Keeps.upd ?_ rfl rfl rfl rfl rfl rfl rfl rfl rfl rfl rfl rfl rfl rfl rfl rfl rfl rfl rfl

end Sys2Proof.Machine
end

