-- ==== Sys2Proof/Laws/Inv/Remote.lean ====
section
/-! SUPPORT. Laws/Inv/Remote.lean: every operation of Machine/Remote.lean keeps the invariant. -/

set_option linter.unusedTactic false
set_option linter.unreachableTactic false

namespace Sys2Proof.Machine

variable {qs : List Instr}

theorem State.respond_inv {s : State} {op : Nat} {r : RemoteMsg} {cls : BitVec 2} {status : Nat} {data : List Byte} (h_s : s.Keeps qs) : (State.respond s op r cls status data).Keeps qs := by
  unfold State.respond
  repeat' first
    | with_reducible assumption
    | with_reducible apply State.inc_inv
    | with_reducible apply State.switchFlit_inv
    | with_reducible apply State.wr_inv
    | with_reducible apply State.Keeps.ite
    | with_reducible apply State.Keeps.iteFst
    | (with_reducible apply State.each_inv; intros)
    | (with_reducible refine State.when_inv (fun _ => ?_) ?_)
    | with_reducible apply foldl_inv
    | intro _
    | split
    | with_reducible refine State.Keeps.fst (by assumption) ?_
    | with_reducible refine State.Keeps.snd (by assumption) ?_
    | with_reducible refine State.Keeps.opt (by assumption) ?_
    | with_reducible apply OptInv.none
    | with_reducible apply OptInv.some
    | with_reducible apply OptInv.map
    | with_reducible apply OptInv.bind
    | with_reducible apply OptInv.ite
    | with_reducible apply OptInv.getD
    | with_reducible apply State.reset_inv
    | with_reducible refine State.Keeps.upd ?_ rfl rfl rfl rfl rfl rfl rfl rfl rfl rfl rfl rfl rfl rfl rfl rfl rfl rfl rfl

theorem State.remoteRead_inv {t : State} {r : RemoteMsg} {cls : BitVec 2} (h_t : t.Keeps qs) : OptInv qs (State.remoteRead t r cls) := by
  unfold State.remoteRead
  extract_lets o n
  refine OptInv.ite (OptInv.some (State.respond_inv h_t)) (OptInv.ite (OptInv.ite (OptInv.some (State.respond_inv h_t))
    (OptInv.some (State.respond_inv (State.edgRead_inv h_t)))) ?_)
  have hr : (t.stkRead rqFabric o n).1.Keeps qs := State.stkRead_inv h_t
  split
  · exact OptInv.none
  all_goals exact OptInv.some (State.respond_inv (State.Keeps.fst (by assumption) hr))

theorem State.remoteWrite_inv {t : State} {r : RemoteMsg} {cls : BitVec 2} (h_t : t.Keeps qs) : OptInv qs (State.remoteWrite t r cls) := by
  unfold State.remoteWrite
  extract_lets o data
  refine OptInv.ite (OptInv.some (State.respond_inv h_t)) (OptInv.ite (OptInv.ite (OptInv.some (State.respond_inv h_t))
    (OptInv.some (State.respond_inv (State.edgWrite_inv h_t)))) ?_)
  have hr : (t.stkWrite rqFabric o (data.map some) false).1.Keeps qs := State.stkWrite_inv h_t
  split
  · exact OptInv.none
  all_goals exact OptInv.some (State.respond_inv (State.Keeps.fst (by assumption) hr))

theorem State.remoteTry_inv {s : State} {w : RemoteWait} (h_s : s.Keeps qs) : OptInv qs (State.remoteTry s w) := by
  unfold State.remoteTry
  exact OptInv.ite (State.remoteWrite_inv h_s) (State.remoteRead_inv h_s)

theorem State.takeRemote_inv {s : State} {write : Bool} {r : RemoteMsg} {cls : BitVec 2} (h_s : s.Keeps qs) : (State.takeRemote s write r cls).Keeps qs := by
  unfold State.takeRemote
  repeat' first
    | with_reducible assumption
    | with_reducible apply State.popInbox_inv
    | with_reducible apply State.remoteTry_inv
    | with_reducible apply State.wr_inv
    | with_reducible apply State.Keeps.ite
    | with_reducible apply State.Keeps.iteFst
    | (with_reducible apply State.each_inv; intros)
    | (with_reducible refine State.when_inv (fun _ => ?_) ?_)
    | with_reducible apply foldl_inv
    | intro _
    | split
    | with_reducible refine State.Keeps.fst (by assumption) ?_
    | with_reducible refine State.Keeps.snd (by assumption) ?_
    | with_reducible refine State.Keeps.opt (by assumption) ?_
    | with_reducible apply OptInv.none
    | with_reducible apply OptInv.some
    | with_reducible apply OptInv.map
    | with_reducible apply OptInv.bind
    | with_reducible apply OptInv.ite
    | with_reducible apply OptInv.getD
    | with_reducible apply State.reset_inv
    | with_reducible refine State.Keeps.upd ?_ rfl rfl rfl rfl rfl rfl rfl rfl rfl rfl rfl rfl rfl rfl rfl rfl rfl rfl rfl

theorem State.answered_inv {s : State} {u : RemoteUser} {tag : Nat} {status : Nat} {data : List Byte} (h_s : s.Keeps qs) : (State.answered s u tag status data).Keeps qs := by
  unfold State.answered
  repeat' first
    | with_reducible assumption
    | with_reducible apply State.loadGot_inv
    | with_reducible apply State.inc_inv
    | with_reducible apply State.xferGot_inv
    | with_reducible apply State.popStore_inv
    | with_reducible apply State.drain_inv
    | with_reducible apply State.declareLost_inv
    | with_reducible apply State.pieceGot_inv
    | with_reducible apply State.serveReads_inv
    | with_reducible apply State.wr_inv
    | with_reducible apply State.Keeps.ite
    | with_reducible apply State.Keeps.iteFst
    | (with_reducible apply State.each_inv; intros)
    | (with_reducible refine State.when_inv (fun _ => ?_) ?_)
    | with_reducible apply foldl_inv
    | intro _
    | split
    | with_reducible refine State.Keeps.fst (by assumption) ?_
    | with_reducible refine State.Keeps.snd (by assumption) ?_
    | with_reducible refine State.Keeps.opt (by assumption) ?_
    | with_reducible apply OptInv.none
    | with_reducible apply OptInv.some
    | with_reducible apply OptInv.map
    | with_reducible apply OptInv.bind
    | with_reducible apply OptInv.ite
    | with_reducible apply OptInv.getD
    | with_reducible apply State.reset_inv
    | with_reducible refine State.Keeps.upd ?_ rfl rfl rfl rfl rfl rfl rfl rfl rfl rfl rfl rfl rfl rfl rfl rfl rfl rfl rfl

theorem State.takeResponse_inv {s : State} {r : RemoteMsg} {data : List Byte} (h_s : s.Keeps qs) : (State.takeResponse s r data).Keeps qs := by
  unfold State.takeResponse
  repeat' first
    | with_reducible assumption
    | with_reducible apply State.popInbox_inv
    | with_reducible apply State.inc_inv
    | with_reducible apply State.remoteForget_inv
    | with_reducible apply State.answered_inv
    | with_reducible apply State.wr_inv
    | with_reducible apply State.Keeps.ite
    | with_reducible apply State.Keeps.iteFst
    | (with_reducible apply State.each_inv; intros)
    | (with_reducible refine State.when_inv (fun _ => ?_) ?_)
    | with_reducible apply foldl_inv
    | intro _
    | split
    | with_reducible refine State.Keeps.fst (by assumption) ?_
    | with_reducible refine State.Keeps.snd (by assumption) ?_
    | with_reducible refine State.Keeps.opt (by assumption) ?_
    | with_reducible apply OptInv.none
    | with_reducible apply OptInv.some
    | with_reducible apply OptInv.map
    | with_reducible apply OptInv.bind
    | with_reducible apply OptInv.ite
    | with_reducible apply OptInv.getD
    | with_reducible apply State.reset_inv
    | with_reducible refine State.Keeps.upd ?_ rfl rfl rfl rfl rfl rfl rfl rfl rfl rfl rfl rfl rfl rfl rfl rfl rfl rfl rfl

end Sys2Proof.Machine
end

