-- ==== Sys2Proof/Laws/Inv/Banks.lean ====
section
/-! SUPPORT. Laws/Inv/Banks.lean: every operation of Machine/Banks.lean keeps the invariant. -/

set_option linter.unusedTactic false
set_option linter.unreachableTactic false

namespace Sys2Proof.Machine

variable {qs : List Instr}

theorem State.remoteServed_inv {s : State} {w : RemoteWait} (h_s : s.Keeps qs) : (State.remoteServed s w).Keeps qs := by
  unfold State.remoteServed
  have h := State.remoteTry_inv (w := w) h_s
  split
  · exact h_s
  · exact State.Keeps.upd (h _ (by assumption)) rfl rfl rfl rfl rfl rfl rfl rfl rfl rfl rfl rfl rfl rfl rfl rfl rfl rfl rfl

theorem State.serveWaiter_inv {s : State} {w : Waiter} (h_s : s.Keeps qs) : (State.serveWaiter s w).Keeps qs := by
  cases w with
  | listed a => exact State.access_inv (State.Keeps.upd h_s rfl rfl rfl rfl rfl rfl rfl rfl rfl rfl rfl rfl rfl rfl rfl rfl rfl rfl rfl)
  | load e i => exact State.loadReturned_inv h_s
  | store e i o d => exact State.storeWritten_inv h_s
  | xfer e j => exact State.xferReturned_inv h_s
  | remote w => exact State.remoteServed_inv h_s
  | mover m => exact State.segmentDone_inv (State.moverGrant_inv h_s)

theorem State.drainWaiting_inv {x0 : Nat} {x1 : Nat} {x2 : State} (h_x2 : x2.Keeps qs) : (State.drainWaiting x0 x1 x2).Keeps qs := by
  induction x0 generalizing x2 with
  | zero => exact h_x2
  | succ n ih =>
    unfold State.drainWaiting
    split
    · exact h_x2
    · exact ih (State.serveWaiter_inv h_x2)

theorem State.drainRemotes_inv {x0 : Nat} {x1 : State} (h_x1 : x1.Keeps qs) : (State.drainRemotes x0 x1).Keeps qs := by
  induction x0 generalizing x1 with
  | zero => exact h_x1
  | succ n ih =>
    unfold State.drainRemotes
    split
    · exact h_x1
    · exact ih (State.remoteServed_inv h_x1)

theorem State.releaseBank_inv {s : State} {b : Nat} (h_s : s.Keeps qs) : (State.releaseBank s b).Keeps qs := by
  unfold State.releaseBank
  repeat' first
    | with_reducible assumption
    | with_reducible apply State.drainWaiting_inv
    | with_reducible apply State.drainRemotes_inv
    | with_reducible apply State.wr_inv
    | with_reducible apply State.Keeps.ite
    | with_reducible apply State.Keeps.iteFst
    | (with_reducible apply State.each_inv; intros)
    | (with_reducible refine State.when_inv (fun _ => ?_) ?_)
    | with_reducible apply foldl_inv
    | intro _
    | split
    | with_reducible refine State.Keeps.fst (by assumption) ?_
    | with_reducible refine State.Keeps.snd (by assumption) ?_
    | with_reducible refine State.Keeps.opt (by assumption) ?_
    | with_reducible apply OptInv.none
    | with_reducible apply OptInv.some
    | with_reducible apply OptInv.map
    | with_reducible apply OptInv.bind
    | with_reducible apply OptInv.ite
    | with_reducible apply OptInv.getD
    | with_reducible apply State.reset_inv
    | with_reducible refine State.Keeps.upd ?_ rfl rfl rfl rfl rfl rfl rfl rfl rfl rfl rfl rfl rfl rfl rfl rfl rfl rfl rfl

end Sys2Proof.Machine
end

