-- ==== Sys2Proof/Laws/Inv/HostReset.lean ====
section
/-! SUPPORT. Laws/Inv/HostReset.lean: every operation of Machine/HostReset.lean keeps the invariant. -/

set_option linter.unusedTactic false
set_option linter.unreachableTactic false

namespace Sys2Proof.Machine

variable {qs : List Instr}

theorem State.errorResponse_inv {s : State} {o : Outstanding} (h_s : s.Keeps qs) : (State.errorResponse s o).Keeps qs := by
  unfold State.errorResponse
  repeat' first
    | with_reducible assumption
    | with_reducible apply State.moverGot_inv
    | with_reducible apply State.loadGot_inv
    | with_reducible apply State.inc_inv
    | with_reducible apply State.setPort_inv
    | with_reducible apply State.declareLost_inv
    | with_reducible apply State.wr_inv
    | with_reducible apply State.Keeps.ite
    | with_reducible apply State.Keeps.iteFst
    | (with_reducible apply State.each_inv; intros)
    | (with_reducible refine State.when_inv (fun _ => ?_) ?_)
    | with_reducible apply foldl_inv
    | intro _
    | split
    | with_reducible refine State.Keeps.fst (by assumption) ?_
    | with_reducible refine State.Keeps.snd (by assumption) ?_
    | with_reducible refine State.Keeps.opt (by assumption) ?_
    | with_reducible apply OptInv.none
    | with_reducible apply OptInv.some
    | with_reducible apply OptInv.map
    | with_reducible apply OptInv.bind
    | with_reducible apply OptInv.ite
    | with_reducible apply OptInv.getD
    | with_reducible apply State.reset_inv
    | with_reducible refine State.Keeps.upd ?_ rfl rfl rfl rfl rfl rfl rfl rfl rfl rfl rfl rfl rfl rfl rfl rfl rfl rfl rfl

theorem State.forgetRequests_inv {s : State} {kind : Nat} (h_s : s.Keeps qs) : (State.forgetRequests s kind).Keeps qs := by
  unfold State.forgetRequests
  repeat' first
    | with_reducible assumption
    | with_reducible apply State.wr_inv
    | with_reducible apply State.Keeps.ite
    | with_reducible apply State.Keeps.iteFst
    | (with_reducible apply State.each_inv; intros)
    | (with_reducible refine State.when_inv (fun _ => ?_) ?_)
    | with_reducible apply foldl_inv
    | intro _
    | split
    | with_reducible refine State.Keeps.fst (by assumption) ?_
    | with_reducible refine State.Keeps.snd (by assumption) ?_
    | with_reducible refine State.Keeps.opt (by assumption) ?_
    | with_reducible apply OptInv.none
    | with_reducible apply OptInv.some
    | with_reducible apply OptInv.map
    | with_reducible apply OptInv.bind
    | with_reducible apply OptInv.ite
    | with_reducible apply OptInv.getD
    | with_reducible apply State.reset_inv
    | with_reducible refine State.Keeps.upd ?_ rfl rfl rfl rfl rfl rfl rfl rfl rfl rfl rfl rfl rfl rfl rfl rfl rfl rfl rfl

theorem State.hostStoresLost_inv {s : State} (h_s : s.Keeps qs) : (State.hostStoresLost s).Keeps qs := by
  unfold State.hostStoresLost
  refine State.each_inv (fun e t h => ?_) h_s
  extract_lets held u
  exact State.Keeps.ite h (State.drain_inv (State.each_inv (fun _ _ hx => State.declareLost_inv hx) (State.setPort_inv h)))

theorem State.hostLanesReset_inv {s : State} (h_s : s.Keeps qs) : (State.hostLanesReset s).Keeps qs := by
  unfold State.hostLanesReset
  repeat' first
    | with_reducible assumption
    | with_reducible apply State.marginEnd_inv
    | with_reducible apply State.setLane_inv
    | with_reducible apply State.wr_inv
    | with_reducible apply State.Keeps.ite
    | with_reducible apply State.Keeps.iteFst
    | (with_reducible apply State.each_inv; intros)
    | (with_reducible refine State.when_inv (fun _ => ?_) ?_)
    | with_reducible apply foldl_inv
    | intro _
    | split
    | with_reducible refine State.Keeps.fst (by assumption) ?_
    | with_reducible refine State.Keeps.snd (by assumption) ?_
    | with_reducible refine State.Keeps.opt (by assumption) ?_
    | with_reducible apply OptInv.none
    | with_reducible apply OptInv.some
    | with_reducible apply OptInv.map
    | with_reducible apply OptInv.bind
    | with_reducible apply OptInv.ite
    | with_reducible apply OptInv.getD
    | with_reducible apply State.reset_inv
    | with_reducible refine State.Keeps.upd ?_ rfl rfl rfl rfl rfl rfl rfl rfl rfl rfl rfl rfl rfl rfl rfl rfl rfl rfl rfl

theorem State.hostPortDown_inv {s : State} {kind : Nat} (h_s : s.Keeps qs) : (State.hostPortDown s kind).Keeps qs := by
  unfold State.hostPortDown
  repeat' first
    | with_reducible assumption
    | with_reducible apply State.setF_inv
    | with_reducible apply State.wr_inv
    | with_reducible apply State.Keeps.ite
    | with_reducible apply State.Keeps.iteFst
    | (with_reducible apply State.each_inv; intros)
    | (with_reducible refine State.when_inv (fun _ => ?_) ?_)
    | with_reducible apply foldl_inv
    | intro _
    | split
    | with_reducible refine State.Keeps.fst (by assumption) ?_
    | with_reducible refine State.Keeps.snd (by assumption) ?_
    | with_reducible refine State.Keeps.opt (by assumption) ?_
    | with_reducible apply OptInv.none
    | with_reducible apply OptInv.some
    | with_reducible apply OptInv.map
    | with_reducible apply OptInv.bind
    | with_reducible apply OptInv.ite
    | with_reducible apply OptInv.getD
    | with_reducible apply State.reset_inv
    | with_reducible refine State.Keeps.upd ?_ rfl rfl rfl rfl rfl rfl rfl rfl rfl rfl rfl rfl rfl rfl rfl rfl rfl rfl rfl

theorem State.hostReset_inv {s : State} {kind : Nat} (h_s : s.Keeps qs) : (State.hostReset s kind).Keeps qs := by
  unfold State.hostReset
  extract_lets open_ wasUp engines s1 s2 s3 s4 s5 s6 s7
  have h1 : s1.Keeps qs := State.dmaHostReset_inv (State.hostPortDown_inv (State.forgetRequests_inv h_s))
  have h2 : s2.Keeps qs := State.Keeps.ite h1 (State.hostLanesDown_inv h1)
  have h3 : s3.Keeps qs := State.irqHostReset_inv (State.when_inv (fun h => State.hostLanesReset_inv h) h2)
  have h4 : s4.Keeps qs := State.Keeps.filterRegs h3 _
  have h5 : s5.Keeps qs := State.hostStoresLost_inv (State.apertureFail_inv (State.each_inv (fun _ _ h => State.errorResponse_inv h) h4))
  have h6 : s6.Keeps qs := by
    clear_value s5
    show State.Keeps qs (match kind with | 0 => _ | 1 => _ | 2 => _ | _ => _)
    split <;> exact State.incF_inv h5
  have h7 : s7.Keeps qs := State.raise_inv (State.logEvent_inv h6)
  exact State.Keeps.ite (State.raise_inv (State.logEvent_inv h7)) h7

theorem State.initiateFlr_inv {s : State} (h_s : s.Keeps qs) : (State.initiateFlr s).Keeps qs := by
  unfold State.initiateFlr
  repeat' first
    | with_reducible assumption
    | with_reducible apply State.hostReset_inv
    | with_reducible apply State.wr_inv
    | with_reducible apply State.Keeps.ite
    | with_reducible apply State.Keeps.iteFst
    | (with_reducible apply State.each_inv; intros)
    | (with_reducible refine State.when_inv (fun _ => ?_) ?_)
    | with_reducible apply foldl_inv
    | intro _
    | split
    | with_reducible refine State.Keeps.fst (by assumption) ?_
    | with_reducible refine State.Keeps.snd (by assumption) ?_
    | with_reducible refine State.Keeps.opt (by assumption) ?_
    | with_reducible apply OptInv.none
    | with_reducible apply OptInv.some
    | with_reducible apply OptInv.map
    | with_reducible apply OptInv.bind
    | with_reducible apply OptInv.ite
    | with_reducible apply OptInv.getD
    | with_reducible apply State.reset_inv
    | with_reducible refine State.Keeps.upd ?_ rfl rfl rfl rfl rfl rfl rfl rfl rfl rfl rfl rfl rfl rfl rfl rfl rfl rfl rfl

end Sys2Proof.Machine
end

