-- ==== Sys2Proof/Laws/Inv/Bus.lean ====
section
/-! SUPPORT. Laws/Inv/Bus.lean: every operation of Machine/Bus.lean keeps the invariant. -/

set_option linter.unusedTactic false
set_option linter.unreachableTactic false

namespace Sys2Proof.Machine

variable {qs : List Instr}

theorem State.requestTurns_inv {x0 : Nat} {x1 : State} (h_x1 : x1.Keeps qs) : (State.requestTurns x0 x1).Keeps qs := by
  induction x0 generalizing x1 with
  | zero => exact h_x1
  | succ n ih =>
    unfold State.requestTurns
    have h : OptInv qs ((arbPick x1.host.grants x1.hostAsking).bind (fun r => if r = 31 then x1.apertureNext else x1.issueNext r)) :=
      OptInv.bind (fun _ => OptInv.ite (State.apertureNext_inv h_x1) (State.issueNext_inv h_x1))
    split
    · exact h_x1
    · rename_i t e
      exact ih (h t e)

theorem State.configWritten_inv {s : State} {r : InRead} {dw : Nat} {data : Word} {be : BitVec 4} (h_s : s.Keeps qs) : (State.configWritten s r dw data be).Keeps qs := by
  unfold State.configWritten
  repeat' first
    | with_reducible assumption
    | with_reducible apply State.setRead_inv
    | with_reducible apply State.answered_inv
    | with_reducible apply State.completeReads_inv
    | with_reducible apply State.configEffect_inv
    | with_reducible apply State.initiateFlr_inv
    | with_reducible apply State.wr_inv
    | with_reducible apply State.Keeps.ite
    | with_reducible apply State.Keeps.iteFst
    | (with_reducible apply State.each_inv; intros)
    | (with_reducible refine State.when_inv (fun _ => ?_) ?_)
    | with_reducible apply foldl_inv
    | intro _
    | split
    | with_reducible refine State.Keeps.fst (by assumption) ?_
    | with_reducible refine State.Keeps.snd (by assumption) ?_
    | with_reducible refine State.Keeps.opt (by assumption) ?_
    | with_reducible apply OptInv.none
    | with_reducible apply OptInv.some
    | with_reducible apply OptInv.map
    | with_reducible apply OptInv.bind
    | with_reducible apply OptInv.ite
    | with_reducible apply OptInv.getD
    | with_reducible apply State.reset_inv
    | with_reducible refine State.Keeps.upd ?_ rfl rfl rfl rfl rfl rfl rfl rfl rfl rfl rfl rfl rfl rfl rfl rfl rfl rfl rfl

theorem State.configTurns_inv {x0 : Nat} {x1 : State} (h_x1 : x1.Keeps qs) : (State.configTurns x0 x1).Keeps qs := by
  induction x0 generalizing x1 with
  | zero =>
    unfold State.configTurns
    repeat' first
      | with_reducible assumption
      | with_reducible apply ih
      | with_reducible apply State.configWritten_inv
      | with_reducible apply State.serveReads_inv
      | with_reducible apply State.wr_inv
      | with_reducible apply State.Keeps.ite
      | with_reducible apply State.Keeps.iteFst
      | (with_reducible apply State.each_inv; intros)
      | (with_reducible refine State.when_inv (fun _ => ?_) ?_)
      | with_reducible apply foldl_inv
      | intro _
      | split
      | with_reducible refine State.Keeps.fst (by assumption) ?_
      | with_reducible refine State.Keeps.snd (by assumption) ?_
      | with_reducible refine State.Keeps.opt (by assumption) ?_
      | with_reducible apply OptInv.none
      | with_reducible apply OptInv.some
      | with_reducible apply OptInv.map
      | with_reducible apply OptInv.bind
      | with_reducible apply OptInv.ite
      | with_reducible apply OptInv.getD
      | with_reducible apply State.reset_inv
      | with_reducible refine State.Keeps.upd ?_ rfl rfl rfl rfl rfl rfl rfl rfl rfl rfl rfl rfl rfl rfl rfl rfl rfl rfl rfl
  | succ n ih =>
    unfold State.configTurns
    repeat' first
      | with_reducible assumption
      | with_reducible apply ih
      | with_reducible apply State.configWritten_inv
      | with_reducible apply State.serveReads_inv
      | with_reducible apply State.wr_inv
      | with_reducible apply State.Keeps.ite
      | with_reducible apply State.Keeps.iteFst
      | (with_reducible apply State.each_inv; intros)
      | (with_reducible refine State.when_inv (fun _ => ?_) ?_)
      | with_reducible apply foldl_inv
      | intro _
      | split
      | with_reducible refine State.Keeps.fst (by assumption) ?_
      | with_reducible refine State.Keeps.snd (by assumption) ?_
      | with_reducible refine State.Keeps.opt (by assumption) ?_
      | with_reducible apply OptInv.none
      | with_reducible apply OptInv.some
      | with_reducible apply OptInv.map
      | with_reducible apply OptInv.bind
      | with_reducible apply OptInv.ite
      | with_reducible apply OptInv.getD
      | with_reducible apply State.reset_inv
      | with_reducible refine State.Keeps.upd ?_ rfl rfl rfl rfl rfl rfl rfl rfl rfl rfl rfl rfl rfl rfl rfl rfl rfl rfl rfl

theorem State.serveHost_inv {s : State} (h_s : s.Keeps qs) : (State.serveHost s).Keeps qs := by
  unfold State.serveHost
  repeat' first
    | with_reducible assumption
    | with_reducible apply State.serveReads_inv
    | with_reducible apply State.configTurns_inv
    | with_reducible apply State.wr_inv
    | with_reducible apply State.Keeps.ite
    | with_reducible apply State.Keeps.iteFst
    | (with_reducible apply State.each_inv; intros)
    | (with_reducible refine State.when_inv (fun _ => ?_) ?_)
    | with_reducible apply foldl_inv
    | intro _
    | split
    | with_reducible refine State.Keeps.fst (by assumption) ?_
    | with_reducible refine State.Keeps.snd (by assumption) ?_
    | with_reducible refine State.Keeps.opt (by assumption) ?_
    | with_reducible apply OptInv.none
    | with_reducible apply OptInv.some
    | with_reducible apply OptInv.map
    | with_reducible apply OptInv.bind
    | with_reducible apply OptInv.ite
    | with_reducible apply OptInv.getD
    | with_reducible apply State.reset_inv
    | with_reducible refine State.Keeps.upd ?_ rfl rfl rfl rfl rfl rfl rfl rfl rfl rfl rfl rfl rfl rfl rfl rfl rfl rfl rfl

theorem State.hostFlow_inv {s : State} (h_s : s.Keeps qs) : (State.hostFlow s).Keeps qs := by
  unfold State.hostFlow
  repeat' first
    | with_reducible assumption
    | with_reducible apply State.serveHost_inv
    | with_reducible apply State.bulkFlush_inv
    | with_reducible apply State.chansHeld_inv
    | with_reducible apply State.apertureFail_inv
    | with_reducible apply State.fetchSlips_inv
    | with_reducible apply State.requestTurns_inv
    | with_reducible apply State.replyFlush_inv
    | with_reducible apply State.ltrUpdate_inv
    | with_reducible apply State.wr_inv
    | with_reducible apply State.Keeps.ite
    | with_reducible apply State.Keeps.iteFst
    | (with_reducible apply State.each_inv; intros)
    | (with_reducible refine State.when_inv (fun _ => ?_) ?_)
    | with_reducible apply foldl_inv
    | intro _
    | split
    | with_reducible refine State.Keeps.fst (by assumption) ?_
    | with_reducible refine State.Keeps.snd (by assumption) ?_
    | with_reducible refine State.Keeps.opt (by assumption) ?_
    | with_reducible apply OptInv.none
    | with_reducible apply OptInv.some
    | with_reducible apply OptInv.map
    | with_reducible apply OptInv.bind
    | with_reducible apply OptInv.ite
    | with_reducible apply OptInv.getD
    | with_reducible apply State.reset_inv
    | with_reducible refine State.Keeps.upd ?_ rfl rfl rfl rfl rfl rfl rfl rfl rfl rfl rfl rfl rfl rfl rfl rfl rfl rfl rfl

theorem State.takeRead_inv {s : State} {target : Target} {len : Nat} {be : List Bool} {header : List Byte} {done : Option (Nat × List Byte × Bool)} (h_s : s.Keeps qs) : (State.takeRead s target len be header done).Keeps qs := by
  unfold State.takeRead
  repeat' first
    | with_reducible assumption
    | with_reducible apply State.wr_inv
    | with_reducible apply State.Keeps.ite
    | with_reducible apply State.Keeps.iteFst
    | (with_reducible apply State.each_inv; intros)
    | (with_reducible refine State.when_inv (fun _ => ?_) ?_)
    | with_reducible apply foldl_inv
    | intro _
    | split
    | with_reducible refine State.Keeps.fst (by assumption) ?_
    | with_reducible refine State.Keeps.snd (by assumption) ?_
    | with_reducible refine State.Keeps.opt (by assumption) ?_
    | with_reducible apply OptInv.none
    | with_reducible apply OptInv.some
    | with_reducible apply OptInv.map
    | with_reducible apply OptInv.bind
    | with_reducible apply OptInv.ite
    | with_reducible apply OptInv.getD
    | with_reducible apply State.reset_inv
    | with_reducible refine State.Keeps.upd ?_ rfl rfl rfl rfl rfl rfl rfl rfl rfl rfl rfl rfl rfl rfl rfl rfl rfl rfl rfl

theorem State.writeStacks_inv {s : State} {o : Nat} {bs : List (Option Byte)} {poison : Bool} {header : List Byte} (h_s : s.Keeps qs) : (State.writeStacks s o bs poison header).Keeps qs := by
  unfold State.writeStacks
  repeat' first
    | with_reducible assumption
    | with_reducible apply State.poisonedTlp_inv
    | with_reducible apply State.stkWrite_inv
    | with_reducible apply State.fileWrite_inv
    | with_reducible apply State.completerAbort_inv
    | with_reducible apply State.wr_inv
    | with_reducible apply State.Keeps.ite
    | with_reducible apply State.Keeps.iteFst
    | (with_reducible apply State.each_inv; intros)
    | (with_reducible refine State.when_inv (fun _ => ?_) ?_)
    | with_reducible apply foldl_inv
    | intro _
    | split
    | with_reducible refine State.Keeps.fst (by assumption) ?_
    | with_reducible refine State.Keeps.snd (by assumption) ?_
    | with_reducible refine State.Keeps.opt (by assumption) ?_
    | with_reducible apply OptInv.none
    | with_reducible apply OptInv.some
    | with_reducible apply OptInv.map
    | with_reducible apply OptInv.bind
    | with_reducible apply OptInv.ite
    | with_reducible apply OptInv.getD
    | with_reducible apply State.reset_inv
    | with_reducible refine State.Keeps.upd ?_ rfl rfl rfl rfl rfl rfl rfl rfl rfl rfl rfl rfl rfl rfl rfl rfl rfl rfl rfl

theorem State.writeRemote_inv {s : State} {node : Nat} {cls : Nat} {o : Nat} {bs : List (Option Byte)} (h_s : s.Keeps qs) : (State.writeRemote s node cls o bs).Keeps qs := by
  unfold State.writeRemote
  repeat' first
    | with_reducible assumption
    | with_reducible apply State.remoteIssue_inv
    | with_reducible apply State.remoteForget_inv
    | with_reducible apply State.wr_inv
    | with_reducible apply State.Keeps.ite
    | with_reducible apply State.Keeps.iteFst
    | (with_reducible apply State.each_inv; intros)
    | (with_reducible refine State.when_inv (fun _ => ?_) ?_)
    | with_reducible apply foldl_inv
    | intro _
    | split
    | with_reducible refine State.Keeps.fst (by assumption) ?_
    | with_reducible refine State.Keeps.snd (by assumption) ?_
    | with_reducible refine State.Keeps.opt (by assumption) ?_
    | with_reducible apply OptInv.none
    | with_reducible apply OptInv.some
    | with_reducible apply OptInv.map
    | with_reducible apply OptInv.bind
    | with_reducible apply OptInv.ite
    | with_reducible apply OptInv.getD
    | with_reducible apply State.reset_inv
    | with_reducible refine State.Keeps.upd ?_ rfl rfl rfl rfl rfl rfl rfl rfl rfl rfl rfl rfl rfl rfl rfl rfl rfl rfl rfl

theorem State.writeTarget_inv {s : State} {target : Target} {data : List Byte} {be : List Bool} {poison : Bool} {header : List Byte} (h_s : s.Keeps qs) : (State.writeTarget s target data be poison header).Keeps qs := by
  unfold State.writeTarget
  repeat' first
    | with_reducible assumption
    | with_reducible apply State.poisonedTlp_inv
    | with_reducible apply State.unsupported_inv
    | with_reducible apply State.writeStacks_inv
    | with_reducible apply State.writeRemote_inv
    | with_reducible apply State.completerAbort_inv
    | with_reducible apply State.writeAt_inv
    | with_reducible apply State.inc_inv
    | with_reducible apply State.windowStore_inv
    | with_reducible apply State.wr_inv
    | with_reducible apply State.Keeps.ite
    | with_reducible apply State.Keeps.iteFst
    | (with_reducible apply State.each_inv; intros)
    | (with_reducible refine State.when_inv (fun _ => ?_) ?_)
    | with_reducible apply foldl_inv
    | intro _
    | split
    | with_reducible refine State.Keeps.fst (by assumption) ?_
    | with_reducible refine State.Keeps.snd (by assumption) ?_
    | with_reducible refine State.Keeps.opt (by assumption) ?_
    | with_reducible apply OptInv.none
    | with_reducible apply OptInv.some
    | with_reducible apply OptInv.map
    | with_reducible apply OptInv.bind
    | with_reducible apply OptInv.ite
    | with_reducible apply OptInv.getD
    | with_reducible apply State.reset_inv
    | with_reducible refine State.Keeps.upd ?_ rfl rfl rfl rfl rfl rfl rfl rfl rfl rfl rfl rfl rfl rfl rfl rfl rfl rfl rfl

theorem State.requestEnded_inv {s : State} {o : Outstanding} (h_s : s.Keeps qs) : (State.requestEnded s o).Keeps qs := by
  unfold State.requestEnded
  repeat' first
    | with_reducible assumption
    | with_reducible apply State.wr_inv
    | with_reducible apply State.Keeps.ite
    | with_reducible apply State.Keeps.iteFst
    | (with_reducible apply State.each_inv; intros)
    | (with_reducible refine State.when_inv (fun _ => ?_) ?_)
    | with_reducible apply foldl_inv
    | intro _
    | split
    | with_reducible refine State.Keeps.fst (by assumption) ?_
    | with_reducible refine State.Keeps.snd (by assumption) ?_
    | with_reducible refine State.Keeps.opt (by assumption) ?_
    | with_reducible apply OptInv.none
    | with_reducible apply OptInv.some
    | with_reducible apply OptInv.map
    | with_reducible apply OptInv.bind
    | with_reducible apply OptInv.ite
    | with_reducible apply OptInv.getD
    | with_reducible apply State.reset_inv
    | with_reducible refine State.Keeps.upd ?_ rfl rfl rfl rfl rfl rfl rfl rfl rfl rfl rfl rfl rfl rfl rfl rfl rfl rfl rfl

theorem State.requestFailed_inv {s : State} {o : Outstanding} {code : Nat} (h_s : s.Keeps qs) : (State.requestFailed s o code).Keeps qs := by
  unfold State.requestFailed
  repeat' first
    | with_reducible assumption
    | with_reducible apply State.fetchFailed_inv
    | with_reducible apply State.requestEnded_inv
    | with_reducible apply State.errorResponse_inv
    | with_reducible apply State.wr_inv
    | with_reducible apply State.Keeps.ite
    | with_reducible apply State.Keeps.iteFst
    | (with_reducible apply State.each_inv; intros)
    | (with_reducible refine State.when_inv (fun _ => ?_) ?_)
    | with_reducible apply foldl_inv
    | intro _
    | split
    | with_reducible refine State.Keeps.fst (by assumption) ?_
    | with_reducible refine State.Keeps.snd (by assumption) ?_
    | with_reducible refine State.Keeps.opt (by assumption) ?_
    | with_reducible apply OptInv.none
    | with_reducible apply OptInv.some
    | with_reducible apply OptInv.map
    | with_reducible apply OptInv.bind
    | with_reducible apply OptInv.ite
    | with_reducible apply OptInv.getD
    | with_reducible apply State.reset_inv
    | with_reducible refine State.Keeps.upd ?_ rfl rfl rfl rfl rfl rfl rfl rfl rfl rfl rfl rfl rfl rfl rfl rfl rfl rfl rfl

theorem State.requestDone_inv {s : State} {o : Outstanding} {data : List Byte} {poison : Bool} (h_s : s.Keeps qs) : (State.requestDone s o data poison).Keeps qs := by
  unfold State.requestDone
  repeat' first
    | with_reducible assumption
    | with_reducible apply State.requestEnded_inv
    | with_reducible apply State.fetchFailed_inv
    | with_reducible apply State.slipsFetched_inv
    | with_reducible apply State.moverGot_inv
    | with_reducible apply State.loadGot_inv
    | with_reducible apply State.inc_inv
    | with_reducible apply State.setPort_inv
    | with_reducible apply State.drain_inv
    | with_reducible apply State.wr_inv
    | with_reducible apply State.Keeps.ite
    | with_reducible apply State.Keeps.iteFst
    | (with_reducible apply State.each_inv; intros)
    | (with_reducible refine State.when_inv (fun _ => ?_) ?_)
    | with_reducible apply foldl_inv
    | intro _
    | split
    | with_reducible refine State.Keeps.fst (by assumption) ?_
    | with_reducible refine State.Keeps.snd (by assumption) ?_
    | with_reducible refine State.Keeps.opt (by assumption) ?_
    | with_reducible apply OptInv.none
    | with_reducible apply OptInv.some
    | with_reducible apply OptInv.map
    | with_reducible apply OptInv.bind
    | with_reducible apply OptInv.ite
    | with_reducible apply OptInv.getD
    | with_reducible apply State.reset_inv
    | with_reducible refine State.Keeps.upd ?_ rfl rfl rfl rfl rfl rfl rfl rfl rfl rfl rfl rfl rfl rfl rfl rfl rfl rfl rfl

theorem State.completed_inv {s : State} {tag : Nat} {status : CplStatus} {poison : Bool} {data : List Byte} {header : List Byte} (h_s : s.Keeps qs) : (State.completed s tag status poison data header).Keeps qs := by
  unfold State.completed
  repeat' first
    | with_reducible assumption
    | with_reducible apply State.aerUncorrectable_inv
    | with_reducible apply State.inc_inv
    | with_reducible apply State.raise_inv
    | with_reducible apply State.requestEnded_inv
    | with_reducible apply State.hostFlow_inv
    | with_reducible apply State.unsupported_inv
    | with_reducible apply State.setF_inv
    | with_reducible apply State.requestFailed_inv
    | with_reducible apply State.poisonedTlp_inv
    | with_reducible apply State.masterParity_inv
    | with_reducible apply State.requestDone_inv
    | with_reducible apply State.wr_inv
    | with_reducible apply State.Keeps.ite
    | with_reducible apply State.Keeps.iteFst
    | (with_reducible apply State.each_inv; intros)
    | (with_reducible refine State.when_inv (fun _ => ?_) ?_)
    | with_reducible apply foldl_inv
    | intro _
    | split
    | with_reducible refine State.Keeps.fst (by assumption) ?_
    | with_reducible refine State.Keeps.snd (by assumption) ?_
    | with_reducible refine State.Keeps.opt (by assumption) ?_
    | with_reducible apply OptInv.none
    | with_reducible apply OptInv.some
    | with_reducible apply OptInv.map
    | with_reducible apply OptInv.bind
    | with_reducible apply OptInv.ite
    | with_reducible apply OptInv.getD
    | with_reducible apply State.reset_inv
    | with_reducible refine State.Keeps.upd ?_ rfl rfl rfl rfl rfl rfl rfl rfl rfl rfl rfl rfl rfl rfl rfl rfl rfl rfl rfl

theorem State.completionLost_inv {s : State} {tag : Nat} (h_s : s.Keeps qs) : (State.completionLost s tag).Keeps qs := by
  unfold State.completionLost
  repeat' first
    | with_reducible assumption
    | with_reducible apply State.requestEnded_inv
    | with_reducible apply State.hostFlow_inv
    | with_reducible apply State.requestFailed_inv
    | with_reducible apply State.wr_inv
    | with_reducible apply State.Keeps.ite
    | with_reducible apply State.Keeps.iteFst
    | (with_reducible apply State.each_inv; intros)
    | (with_reducible refine State.when_inv (fun _ => ?_) ?_)
    | with_reducible apply foldl_inv
    | intro _
    | split
    | with_reducible refine State.Keeps.fst (by assumption) ?_
    | with_reducible refine State.Keeps.snd (by assumption) ?_
    | with_reducible refine State.Keeps.opt (by assumption) ?_
    | with_reducible apply OptInv.none
    | with_reducible apply OptInv.some
    | with_reducible apply OptInv.map
    | with_reducible apply OptInv.bind
    | with_reducible apply OptInv.ite
    | with_reducible apply OptInv.getD
    | with_reducible apply State.reset_inv
    | with_reducible refine State.Keeps.upd ?_ rfl rfl rfl rfl rfl rfl rfl rfl rfl rfl rfl rfl rfl rfl rfl rfl rfl rfl rfl

end Sys2Proof.Machine
end

