-- ==== Sys2Proof/Laws/Inv/SelfTest.lean ====
section
/-! SUPPORT. Laws/Inv/SelfTest.lean: every operation of Machine/SelfTest.lean keeps the invariant. -/

set_option linter.unusedTactic false
set_option linter.unreachableTactic false

namespace Sys2Proof.Machine

variable {qs : List Instr}

theorem State.bistOver_inv {s : State} {g : Background} {test : Nat} {unit : Nat} {r : BistRun} (h_s : s.Keeps qs) : (State.bistOver s g test unit r).Keeps qs := by
  unfold State.bistOver
  repeat' first
    | with_reducible assumption
    | with_reducible apply State.bistEnd_inv
    | with_reducible apply State.releaseBank_inv
    | with_reducible apply State.wr_inv
    | with_reducible apply State.Keeps.ite
    | with_reducible apply State.Keeps.iteFst
    | (with_reducible apply State.each_inv; intros)
    | (with_reducible refine State.when_inv (fun _ => ?_) ?_)
    | with_reducible apply foldl_inv
    | intro _
    | split
    | with_reducible refine State.Keeps.fst (by assumption) ?_
    | with_reducible refine State.Keeps.snd (by assumption) ?_
    | with_reducible refine State.Keeps.opt (by assumption) ?_
    | with_reducible apply OptInv.none
    | with_reducible apply OptInv.some
    | with_reducible apply OptInv.map
    | with_reducible apply OptInv.bind
    | with_reducible apply OptInv.ite
    | with_reducible apply OptInv.getD
    | with_reducible apply State.reset_inv
    | with_reducible refine State.Keeps.upd ?_ rfl rfl rfl rfl rfl rfl rfl rfl rfl rfl rfl rfl rfl rfl rfl rfl rfl rfl rfl

end Sys2Proof.Machine
end

