-- ==== Sys2Proof/Laws/Inv/Vector.lean ====
section
/-! SUPPORT. Laws/Inv/Vector.lean: every operation of Machine/Vector.lean keeps the invariant. -/

set_option linter.unusedTactic false
set_option linter.unreachableTactic false

namespace Sys2Proof.Machine

variable {qs : List Instr}

theorem State.vop_inv {s : State} {e : Fin 513} {word : Word} {ok : Bool} {vd : BitVec 4} {vs : List (BitVec 4)} {pm : BitVec 3} {t : Nat} {f : Regs → Nat → Flagged} (h_s : s.Keeps qs) : (State.vop s e word ok vd vs pm t f).Keeps qs := by
  unfold State.vop
  repeat' first
    | with_reducible assumption
    | with_reducible apply State.engineOnly_inv
    | with_reducible apply State.illegal_inv
    | with_reducible apply State.aluV_inv
    | with_reducible apply State.wr_inv
    | with_reducible apply State.Keeps.ite
    | with_reducible apply State.Keeps.iteFst
    | (with_reducible apply State.each_inv; intros)
    | (with_reducible refine State.when_inv (fun _ => ?_) ?_)
    | with_reducible apply foldl_inv
    | intro _
    | split
    | with_reducible refine State.Keeps.fst (by assumption) ?_
    | with_reducible refine State.Keeps.snd (by assumption) ?_
    | with_reducible refine State.Keeps.opt (by assumption) ?_
    | with_reducible apply OptInv.none
    | with_reducible apply OptInv.some
    | with_reducible apply OptInv.map
    | with_reducible apply OptInv.bind
    | with_reducible apply OptInv.ite
    | with_reducible apply OptInv.getD
    | with_reducible apply State.reset_inv
    | with_reducible refine State.Keeps.upd ?_ rfl rfl rfl rfl rfl rfl rfl rfl rfl rfl rfl rfl rfl rfl rfl rfl rfl rfl rfl

theorem State.vbin_inv {s : State} {e : Fin 513} {fc : Nat} {vd : BitVec 4} {va : BitVec 4} {vb : BitVec 4} {pm : BitVec 3} {t : BitVec 2} {ff : Word → Word → Flagged} {fi : Int → Int → Int} (h_s : s.Keeps qs) : (State.vbin s e fc vd va vb pm t ff fi).Keeps qs := by
  unfold State.vbin
  repeat' first
    | with_reducible assumption
    | with_reducible apply State.vop_inv
    | with_reducible apply State.wr_inv
    | with_reducible apply State.Keeps.ite
    | with_reducible apply State.Keeps.iteFst
    | (with_reducible apply State.each_inv; intros)
    | (with_reducible refine State.when_inv (fun _ => ?_) ?_)
    | with_reducible apply foldl_inv
    | intro _
    | split
    | with_reducible refine State.Keeps.fst (by assumption) ?_
    | with_reducible refine State.Keeps.snd (by assumption) ?_
    | with_reducible refine State.Keeps.opt (by assumption) ?_
    | with_reducible apply OptInv.none
    | with_reducible apply OptInv.some
    | with_reducible apply OptInv.map
    | with_reducible apply OptInv.bind
    | with_reducible apply OptInv.ite
    | with_reducible apply OptInv.getD
    | with_reducible apply State.reset_inv
    | with_reducible refine State.Keeps.upd ?_ rfl rfl rfl rfl rfl rfl rfl rfl rfl rfl rfl rfl rfl rfl rfl rfl rfl rfl rfl

theorem State.vun_inv {s : State} {e : Fin 513} {fc : Nat} {vd : BitVec 4} {va : BitVec 4} {pm : BitVec 3} {t : BitVec 2} {ff : Word → Flagged} {fi : Int → Int} (h_s : s.Keeps qs) : (State.vun s e fc vd va pm t ff fi).Keeps qs := by
  unfold State.vun
  repeat' first
    | with_reducible assumption
    | with_reducible apply State.vop_inv
    | with_reducible apply State.wr_inv
    | with_reducible apply State.Keeps.ite
    | with_reducible apply State.Keeps.iteFst
    | (with_reducible apply State.each_inv; intros)
    | (with_reducible refine State.when_inv (fun _ => ?_) ?_)
    | with_reducible apply foldl_inv
    | intro _
    | split
    | with_reducible refine State.Keeps.fst (by assumption) ?_
    | with_reducible refine State.Keeps.snd (by assumption) ?_
    | with_reducible refine State.Keeps.opt (by assumption) ?_
    | with_reducible apply OptInv.none
    | with_reducible apply OptInv.some
    | with_reducible apply OptInv.map
    | with_reducible apply OptInv.bind
    | with_reducible apply OptInv.ite
    | with_reducible apply OptInv.getD
    | with_reducible apply State.reset_inv
    | with_reducible refine State.Keeps.upd ?_ rfl rfl rfl rfl rfl rfl rfl rfl rfl rfl rfl rfl rfl rfl rfl rfl rfl rfl rfl

theorem State.vmac_inv {s : State} {e : Fin 513} {fc : Nat} {vd : BitVec 4} {va : BitVec 4} {vb : BitVec 4} {vc : BitVec 4} {pm : BitVec 3} {t : BitVec 2} {ff : Word → Word → Word → Flagged} {sign : Int} (h_s : s.Keeps qs) : (State.vmac s e fc vd va vb vc pm t ff sign).Keeps qs := by
  unfold State.vmac
  repeat' first
    | with_reducible assumption
    | with_reducible apply State.vop_inv
    | with_reducible apply State.wr_inv
    | with_reducible apply State.Keeps.ite
    | with_reducible apply State.Keeps.iteFst
    | (with_reducible apply State.each_inv; intros)
    | (with_reducible refine State.when_inv (fun _ => ?_) ?_)
    | with_reducible apply foldl_inv
    | intro _
    | split
    | with_reducible refine State.Keeps.fst (by assumption) ?_
    | with_reducible refine State.Keeps.snd (by assumption) ?_
    | with_reducible refine State.Keeps.opt (by assumption) ?_
    | with_reducible apply OptInv.none
    | with_reducible apply OptInv.some
    | with_reducible apply OptInv.map
    | with_reducible apply OptInv.bind
    | with_reducible apply OptInv.ite
    | with_reducible apply OptInv.getD
    | with_reducible apply State.reset_inv
    | with_reducible refine State.Keeps.upd ?_ rfl rfl rfl rfl rfl rfl rfl rfl rfl rfl rfl rfl rfl rfl rfl rfl rfl rfl rfl

theorem State.vlogic_inv {s : State} {e : Fin 513} {fc : Nat} {vd : BitVec 4} {va : BitVec 4} {vb : BitVec 4} {pm : BitVec 3} {t : BitVec 2} {f : Word → Word → Word} (h_s : s.Keeps qs) : (State.vlogic s e fc vd va vb pm t f).Keeps qs := by
  unfold State.vlogic
  repeat' first
    | with_reducible assumption
    | with_reducible apply State.vop_inv
    | with_reducible apply State.wr_inv
    | with_reducible apply State.Keeps.ite
    | with_reducible apply State.Keeps.iteFst
    | (with_reducible apply State.each_inv; intros)
    | (with_reducible refine State.when_inv (fun _ => ?_) ?_)
    | with_reducible apply foldl_inv
    | intro _
    | split
    | with_reducible refine State.Keeps.fst (by assumption) ?_
    | with_reducible refine State.Keeps.snd (by assumption) ?_
    | with_reducible refine State.Keeps.opt (by assumption) ?_
    | with_reducible apply OptInv.none
    | with_reducible apply OptInv.some
    | with_reducible apply OptInv.map
    | with_reducible apply OptInv.bind
    | with_reducible apply OptInv.ite
    | with_reducible apply OptInv.getD
    | with_reducible apply State.reset_inv
    | with_reducible refine State.Keeps.upd ?_ rfl rfl rfl rfl rfl rfl rfl rfl rfl rfl rfl rfl rfl rfl rfl rfl rfl rfl rfl

theorem State.vshift_inv {s : State} {e : Fin 513} {fc : Nat} {vd : BitVec 4} {va : BitVec 4} {n : BitVec 8} {pm : BitVec 3} {t : BitVec 2} {f : Int → Flagged} (h_s : s.Keeps qs) : (State.vshift s e fc vd va n pm t f).Keeps qs := by
  unfold State.vshift
  repeat' first
    | with_reducible assumption
    | with_reducible apply State.vop_inv
    | with_reducible apply State.wr_inv
    | with_reducible apply State.Keeps.ite
    | with_reducible apply State.Keeps.iteFst
    | (with_reducible apply State.each_inv; intros)
    | (with_reducible refine State.when_inv (fun _ => ?_) ?_)
    | with_reducible apply foldl_inv
    | intro _
    | split
    | with_reducible refine State.Keeps.fst (by assumption) ?_
    | with_reducible refine State.Keeps.snd (by assumption) ?_
    | with_reducible refine State.Keeps.opt (by assumption) ?_
    | with_reducible apply OptInv.none
    | with_reducible apply OptInv.some
    | with_reducible apply OptInv.map
    | with_reducible apply OptInv.bind
    | with_reducible apply OptInv.ite
    | with_reducible apply OptInv.getD
    | with_reducible apply State.reset_inv
    | with_reducible refine State.Keeps.upd ?_ rfl rfl rfl rfl rfl rfl rfl rfl rfl rfl rfl rfl rfl rfl rfl rfl rfl rfl rfl

end Sys2Proof.Machine
end

