-- ==== Sys2Proof/Laws/Issue.lean ====
section
/-! SUPPORT. Laws/Issue.lean: what an engine instruction does where its core is ready. -/

namespace Sys2Proof.Machine

/-- A predicate through the 32-bit result path. -/
theorem BitVec.truncate_zeroExtend_8 (x : Byte) : (x.zeroExtend 32).truncate 8 = x := by
  simp

/-- An instruction of a ready core issues. -/
theorem State.Ready.issue {s : State} {e : Nat} {gs vs : List Nat} (h : s.Ready e gs vs) (f : State → State) :
    s.issue e gs vs f = f s := by
  have h1 : ¬ ((s.core e).pc.toNat % 4 ≠ 0 ∨ fetchEnd e ≤ (s.core e).pc.toNat) := by
    rintro (h2 | h2)
    · exact h2 h.aligned
    · exact absurd h.inside (by omega)
  simp only [State.issue, h.issues, Bool.not_true, Bool.false_eq_true, if_false, h1, h.free]

/-- The registers of a core that is not written. -/
theorem State.core_setCore_other {s : State} {c d : Nat} {r : Regs} (h : d ≠ c) : (s.setCore c r).core d = s.core d :=
  tget_tset_other _ _ _ _ _ h

@[simp] theorem State.setCore_hard {s : State} {c : Nat} {r : Regs} : (s.setCore c r).eng.hard = s.eng.hard := rfl

/-- A change of every core that runs `e`'s instruction, one after another, where each change rests on that core's own
registers. -/
theorem State.each_cores {s : State} {e : Nat} {f : Nat → State → State} {g : Regs → Regs}
    (h : ∀ c ∈ s.cores e, ∀ t, t.eng.hard = s.eng.hard → f c t = t.setCore c (g (t.core c))) :
    s.each (s.cores e) f = s.onCores e g := by
  unfold State.onCores
  unfold State.cores at h ⊢
  split
  · rename_i hp
    rw [if_pos hp] at h
    simp only [State.each, List.foldl_cons, List.foldl_nil]
    rw [h e (by simp) s rfl, h (e + 1) (by simp) (s.setCore e (g (s.core e))) rfl, State.core_setCore_other (by omega)]
  · rename_i hp
    rw [if_neg hp] at h
    simp only [State.each, List.foldl_cons, List.foldl_nil]
    exact h e (by simp) s rfl

theorem State.Ready.aluG {s : State} {e : Fin 513} {d : BitVec 5} {srcs : List (BitVec 5)} {f : Regs → Flagged}
    (h : s.Ready e (d.toNat :: srcs.map (·.toNat)) []) :
    s.aluG e d srcs f = s.onCores e (fun r => ((r.wg d.toNat (f r).1).flag (f r).2).next) := by
  unfold State.aluG
  rw [h.issue]
  apply State.each_cores
  intro c hc t ht
  have hs := h.sound c hc
  rw [← ht] at hs
  simp only [State.viaPath, hs, Bool.false_eq_true, if_false]

theorem State.Ready.aluP {s : State} {e : Fin 513} {d : BitVec 3} {gs : List (BitVec 5)} {vs : List (BitVec 4)}
    {f : Regs → Byte × Word} (h : s.Ready e (gs.map (·.toNat)) (vs.map (·.toNat))) :
    s.aluP e d gs vs f = s.onCores e (fun r => ((r.wp d.toNat (f r).1).flag (f r).2).next) := by
  unfold State.aluP
  rw [h.issue]
  apply State.each_cores
  intro c hc t ht
  have hs := h.sound c hc
  rw [← ht] at hs
  simp only [State.viaPath, hs, Bool.false_eq_true, if_false]
  rw [BitVec.truncate_zeroExtend_8]

theorem State.Ready.aluV {s : State} {e : Fin 513} {d : BitVec 4} {gs : List (BitVec 5)} {vs : List (BitVec 4)}
    {f : Regs → BitVec 128 × Word} (h : s.Ready e (gs.map (·.toNat)) (d.toNat :: vs.map (·.toNat))) :
    s.aluV e d gs vs f = s.onCores e (fun r => ((r.wv d.toNat (f r).1).flag (f r).2).next) := by
  unfold State.aluV
  rw [h.issue]
  apply State.each_cores
  intro c hc t ht
  have hs := h.sound c hc
  rw [← ht] at hs
  simp only [State.viaPathV, hs, Bool.false_eq_true, if_false]

theorem State.Ready.aluR {s : State} {e : Fin 513} {gs : List (BitVec 5)} {f : Regs → Regs}
    (h : s.Ready e (gs.map (·.toNat)) []) : s.aluR e gs f = s.onCores e f := by
  unfold State.aluR
  rw [h.issue]
  exact State.each_cores fun _ _ _ _ => rfl

/-- An instruction of an engine, not of the Curator. -/
theorem State.engineOnly_engine {s : State} {e : Fin 513} {w : Word} {f : State → State} (h : e.val ≠ 512) :
    s.engineOnly e w f = f s := if_neg h

end Sys2Proof.Machine
end

