-- ==== Sys2Proof/Laws/Slip.lean ====
section
/-! SUPPORT. Laws/Slip.lean: what a call slip that the Curator serves does. -/

namespace Sys2Proof.Machine

/-- A served call slip whose command is done is recorded and answered. -/
theorem State.Serves.done {s t : State} {h : SlipHdr} {op : Nat} {u : BusyUnit} {body : State → State × SlipAns} {st : Nat}
    {r : List Byte} (hs : s.Serves h op u) (hb : body s = (t, .done st r)) : s.runSlip h op u body = t.replied h op st r := by
  have h1 : (!s.curatorUp && !recoveryOps.contains op) = false := by
    rcases hs.up with h | h <;> simp only [h, Bool.not_true, Bool.false_and, Bool.and_false]
  simp only [State.runSlip, hs.takes, h1, hs.fresh, hs.idle, hb, Bool.not_true, Bool.false_eq_true, if_false, State.replied]

/-- A served call slip whose command starts a background operation is recorded and accepted while fewer than eight are in flight. -/
theorem State.Serves.accepted {s t : State} {h : SlipHdr} {op : Nat} {u : BusyUnit} {body : State → State × SlipAns} {cmd : BgCmd}
    (hs : s.Serves h op u) (hb : body s = (t, .accepted cmd)) (hn : s.cmd.background.length < 8) :
    s.runSlip h op u body = t.started h op u cmd := by
  have h1 : (!s.curatorUp && !recoveryOps.contains op) = false := by
    rcases hs.up with h | h <;> simp only [h, Bool.not_true, Bool.false_and, Bool.and_false]
  simp only [State.runSlip, hs.takes, h1, hs.fresh, hs.idle, hb, Bool.not_true, Bool.false_eq_true, if_false, State.started,
    Nat.not_le.mpr hn]

/-- A served call slip whose answer R94 or R118 orders behind an open boundary command waits. -/
theorem State.Serves.held {s t : State} {h : SlipHdr} {op o : Nat} {u : BusyUnit} {body : State → State × SlipAns} {ps : List Byte}
    (hs : s.Serves h op u) (hb : body s = (t, .held o ps)) :
    s.runSlip h op u body = { s with cmd := { s.cmd with held := s.cmd.held ++ [⟨h, BitVec.ofNat 16 o, ps⟩] } } := by
  have h1 : (!s.curatorUp && !recoveryOps.contains op) = false := by
    rcases hs.up with h | h <;> simp only [h, Bool.not_true, Bool.false_and, Bool.and_false]
  simp only [State.runSlip, hs.takes, h1, hs.fresh, hs.idle, hb, Bool.not_true, Bool.false_eq_true, if_false]

end Sys2Proof.Machine
end

