-- ==== Sys2Proof/Laws/State.lean ====
section
/-! SUPPORT. Laws/State.lean: what the writes of a core's registers, a pair, a lane, a link, a ring, a channel and a catalogue
record leave unchanged, field by field, and what is read after them.  Those of registers stand in Laws/Fields.lean. -/

namespace Sys2Proof.Machine

/-! ### `setCore` -/

@[simp] theorem State.setCore_pending (s : State) (c : Nat) (r : Regs) : (s.setCore c r).pending = s.pending := rfl
@[simp] theorem State.setCore_regs (s : State) (c : Nat) (r : Regs) : (s.setCore c r).regs = s.regs := rfl
@[simp] theorem State.setCore_time (s : State) (c : Nat) (r : Regs) : (s.setCore c r).time = s.time := rfl
@[simp] theorem State.setCore_frm (s : State) (c : Nat) (r : Regs) : (s.setCore c r).frm = s.frm := rfl
@[simp] theorem State.setCore_irq (s : State) (c : Nat) (r : Regs) : (s.setCore c r).irq = s.irq := rfl
@[simp] theorem State.setCore_log (s : State) (c : Nat) (r : Regs) : (s.setCore c r).log = s.log := rfl
@[simp] theorem State.setCore_host (s : State) (c : Nat) (r : Regs) : (s.setCore c r).host = s.host := rfl
@[simp] theorem State.setCore_fab (s : State) (c : Nat) (r : Regs) : (s.setCore c r).fab = s.fab := rfl
@[simp] theorem State.setCore_cmd (s : State) (c : Nat) (r : Regs) : (s.setCore c r).cmd = s.cmd := rfl
@[simp] theorem State.setCore_free (s : State) (c : Nat) (r : Regs) : (s.setCore c r).free = s.free := rfl
@[simp] theorem State.setCore_mnt (s : State) (c : Nat) (r : Regs) : (s.setCore c r).mnt = s.mnt := rfl
@[simp] theorem State.setCore_boot (s : State) (c : Nat) (r : Regs) : (s.setCore c r).boot = s.boot := rfl
@[simp] theorem State.setCore_stk (s : State) (c : Nat) (r : Regs) : (s.setCore c r).stk = s.stk := rfl
@[simp] theorem State.setCore_cat (s : State) (c : Nat) (r : Regs) : (s.setCore c r).cat = s.cat := rfl
@[simp] theorem State.setCore_rem (s : State) (c : Nat) (r : Regs) : (s.setCore c r).rem = s.rem := rfl
@[simp] theorem State.setCore_pwr (s : State) (c : Nat) (r : Regs) : (s.setCore c r).pwr = s.pwr := rfl
@[simp] theorem State.setCore_edg (s : State) (c : Nat) (r : Regs) : (s.setCore c r).edg = s.edg := rfl
@[simp] theorem State.setCore_lanes (s : State) (c : Nat) (r : Regs) : (s.setCore c r).lanes = s.lanes := rfl
@[simp] theorem State.setCore_links (s : State) (c : Nat) (r : Regs) : (s.setCore c r).links = s.links := rfl
@[simp] theorem State.setCore_dma (s : State) (c : Nat) (r : Regs) : (s.setCore c r).dma = s.dma := rfl
@[simp] theorem State.setCore_rst (s : State) (c : Nat) (r : Regs) : (s.setCore c r).rst = s.rst := rfl
@[simp] theorem State.setCore_readData (s : State) (c : Nat) (r : Regs) : (s.setCore c r).readData = s.readData := rfl
@[simp] theorem State.setCore_hiLatch (s : State) (c : Nat) (r : Regs) : (s.setCore c r).hiLatch = s.hiLatch := rfl
@[simp] theorem State.setCore_rd (s : State) (c a : Nat) (r : Regs) : (s.setCore c r).rd a = s.rd a := rfl
@[simp] theorem State.setCore_fld (s : State) (c : Nat) (r : Regs) (g : Fld) : (s.setCore c r).fld g = s.fld g := rfl
theorem State.core_setCore_same {s : State} (h : twf (fun _ => Regs.zero) s.eng.regs = true) (c : Nat) (r : Regs) :
    (s.setCore c r).core c = r := tget_tset_same _ _ _ _ h
theorem State.core_setCore_apart (s : State) {c i : Nat} (h : i ≠ c) (r : Regs) : (s.setCore c r).core i = s.core i :=
  tget_tset_other _ _ _ _ _ h

/-! ### `setPair` -/

@[simp] theorem State.setPair_pending (s : State) (e : Nat) (p : Pair) : (s.setPair e p).pending = s.pending := rfl
@[simp] theorem State.setPair_regs (s : State) (e : Nat) (p : Pair) : (s.setPair e p).regs = s.regs := rfl
@[simp] theorem State.setPair_time (s : State) (e : Nat) (p : Pair) : (s.setPair e p).time = s.time := rfl
@[simp] theorem State.setPair_frm (s : State) (e : Nat) (p : Pair) : (s.setPair e p).frm = s.frm := rfl
@[simp] theorem State.setPair_irq (s : State) (e : Nat) (p : Pair) : (s.setPair e p).irq = s.irq := rfl
@[simp] theorem State.setPair_log (s : State) (e : Nat) (p : Pair) : (s.setPair e p).log = s.log := rfl
@[simp] theorem State.setPair_host (s : State) (e : Nat) (p : Pair) : (s.setPair e p).host = s.host := rfl
@[simp] theorem State.setPair_fab (s : State) (e : Nat) (p : Pair) : (s.setPair e p).fab = s.fab := rfl
@[simp] theorem State.setPair_cmd (s : State) (e : Nat) (p : Pair) : (s.setPair e p).cmd = s.cmd := rfl
@[simp] theorem State.setPair_free (s : State) (e : Nat) (p : Pair) : (s.setPair e p).free = s.free := rfl
@[simp] theorem State.setPair_mnt (s : State) (e : Nat) (p : Pair) : (s.setPair e p).mnt = s.mnt := rfl
@[simp] theorem State.setPair_boot (s : State) (e : Nat) (p : Pair) : (s.setPair e p).boot = s.boot := rfl
@[simp] theorem State.setPair_stk (s : State) (e : Nat) (p : Pair) : (s.setPair e p).stk = s.stk := rfl
@[simp] theorem State.setPair_cat (s : State) (e : Nat) (p : Pair) : (s.setPair e p).cat = s.cat := rfl
@[simp] theorem State.setPair_rem (s : State) (e : Nat) (p : Pair) : (s.setPair e p).rem = s.rem := rfl
@[simp] theorem State.setPair_pwr (s : State) (e : Nat) (p : Pair) : (s.setPair e p).pwr = s.pwr := rfl
@[simp] theorem State.setPair_edg (s : State) (e : Nat) (p : Pair) : (s.setPair e p).edg = s.edg := rfl
@[simp] theorem State.setPair_lanes (s : State) (e : Nat) (p : Pair) : (s.setPair e p).lanes = s.lanes := rfl
@[simp] theorem State.setPair_links (s : State) (e : Nat) (p : Pair) : (s.setPair e p).links = s.links := rfl
@[simp] theorem State.setPair_dma (s : State) (e : Nat) (p : Pair) : (s.setPair e p).dma = s.dma := rfl
@[simp] theorem State.setPair_rst (s : State) (e : Nat) (p : Pair) : (s.setPair e p).rst = s.rst := rfl
@[simp] theorem State.setPair_readData (s : State) (e : Nat) (p : Pair) : (s.setPair e p).readData = s.readData := rfl
@[simp] theorem State.setPair_hiLatch (s : State) (e : Nat) (p : Pair) : (s.setPair e p).hiLatch = s.hiLatch := rfl
@[simp] theorem State.setPair_rd (s : State) (e a : Nat) (p : Pair) : (s.setPair e p).rd a = s.rd a := rfl
@[simp] theorem State.setPair_fld (s : State) (e : Nat) (p : Pair) (g : Fld) : (s.setPair e p).fld g = s.fld g := rfl
theorem State.pair_setPair_same {s : State} (h : twf (fun _ => Pair.zero) s.eng.pairs = true) (e : Nat) (p : Pair) :
    (s.setPair e p).pair e = p := tget_tset_same _ _ _ _ h
theorem State.pair_setPair_apart (s : State) {e i : Nat} (h : i ≠ e) (p : Pair) : (s.setPair e p).pair i = s.pair i :=
  tget_tset_other _ _ _ _ _ h

/-! ### `setLane` -/

@[simp] theorem State.setLane_pending (s : State) (n : Nat) (u : LaneUnit) : (s.setLane n u).pending = s.pending := rfl
@[simp] theorem State.setLane_regs (s : State) (n : Nat) (u : LaneUnit) : (s.setLane n u).regs = s.regs := rfl
@[simp] theorem State.setLane_time (s : State) (n : Nat) (u : LaneUnit) : (s.setLane n u).time = s.time := rfl
@[simp] theorem State.setLane_frm (s : State) (n : Nat) (u : LaneUnit) : (s.setLane n u).frm = s.frm := rfl
@[simp] theorem State.setLane_irq (s : State) (n : Nat) (u : LaneUnit) : (s.setLane n u).irq = s.irq := rfl
@[simp] theorem State.setLane_log (s : State) (n : Nat) (u : LaneUnit) : (s.setLane n u).log = s.log := rfl
@[simp] theorem State.setLane_host (s : State) (n : Nat) (u : LaneUnit) : (s.setLane n u).host = s.host := rfl
@[simp] theorem State.setLane_fab (s : State) (n : Nat) (u : LaneUnit) : (s.setLane n u).fab = s.fab := rfl
@[simp] theorem State.setLane_cmd (s : State) (n : Nat) (u : LaneUnit) : (s.setLane n u).cmd = s.cmd := rfl
@[simp] theorem State.setLane_free (s : State) (n : Nat) (u : LaneUnit) : (s.setLane n u).free = s.free := rfl
@[simp] theorem State.setLane_mnt (s : State) (n : Nat) (u : LaneUnit) : (s.setLane n u).mnt = s.mnt := rfl
@[simp] theorem State.setLane_boot (s : State) (n : Nat) (u : LaneUnit) : (s.setLane n u).boot = s.boot := rfl
@[simp] theorem State.setLane_stk (s : State) (n : Nat) (u : LaneUnit) : (s.setLane n u).stk = s.stk := rfl
@[simp] theorem State.setLane_cat (s : State) (n : Nat) (u : LaneUnit) : (s.setLane n u).cat = s.cat := rfl
@[simp] theorem State.setLane_eng (s : State) (n : Nat) (u : LaneUnit) : (s.setLane n u).eng = s.eng := rfl
@[simp] theorem State.setLane_rem (s : State) (n : Nat) (u : LaneUnit) : (s.setLane n u).rem = s.rem := rfl
@[simp] theorem State.setLane_pwr (s : State) (n : Nat) (u : LaneUnit) : (s.setLane n u).pwr = s.pwr := rfl
@[simp] theorem State.setLane_edg (s : State) (n : Nat) (u : LaneUnit) : (s.setLane n u).edg = s.edg := rfl
@[simp] theorem State.setLane_links (s : State) (n : Nat) (u : LaneUnit) : (s.setLane n u).links = s.links := rfl
@[simp] theorem State.setLane_dma (s : State) (n : Nat) (u : LaneUnit) : (s.setLane n u).dma = s.dma := rfl
@[simp] theorem State.setLane_rst (s : State) (n : Nat) (u : LaneUnit) : (s.setLane n u).rst = s.rst := rfl
@[simp] theorem State.setLane_readData (s : State) (n : Nat) (u : LaneUnit) : (s.setLane n u).readData = s.readData := rfl
@[simp] theorem State.setLane_hiLatch (s : State) (n : Nat) (u : LaneUnit) : (s.setLane n u).hiLatch = s.hiLatch := rfl
@[simp] theorem State.setLane_rd (s : State) (n a : Nat) (u : LaneUnit) : (s.setLane n u).rd a = s.rd a := rfl
@[simp] theorem State.setLane_fld (s : State) (n : Nat) (u : LaneUnit) (g : Fld) : (s.setLane n u).fld g = s.fld g := rfl
theorem State.lane_setLane_same {s : State} (h : twf (fun _ => LaneUnit.zero) s.lanes = true) (n : Nat) (u : LaneUnit) :
    (s.setLane n u).lane n = u := tget_tset_same _ _ _ _ h
theorem State.lane_setLane_apart (s : State) {n i : Nat} (h : i ≠ n) (u : LaneUnit) : (s.setLane n u).lane i = s.lane i :=
  tget_tset_other _ _ _ _ _ h

/-! ### `setLink` -/

@[simp] theorem State.setLink_pending (s : State) (l : Nat) (u : LinkUnit) : (s.setLink l u).pending = s.pending := rfl
@[simp] theorem State.setLink_regs (s : State) (l : Nat) (u : LinkUnit) : (s.setLink l u).regs = s.regs := rfl
@[simp] theorem State.setLink_time (s : State) (l : Nat) (u : LinkUnit) : (s.setLink l u).time = s.time := rfl
@[simp] theorem State.setLink_frm (s : State) (l : Nat) (u : LinkUnit) : (s.setLink l u).frm = s.frm := rfl
@[simp] theorem State.setLink_irq (s : State) (l : Nat) (u : LinkUnit) : (s.setLink l u).irq = s.irq := rfl
@[simp] theorem State.setLink_log (s : State) (l : Nat) (u : LinkUnit) : (s.setLink l u).log = s.log := rfl
@[simp] theorem State.setLink_host (s : State) (l : Nat) (u : LinkUnit) : (s.setLink l u).host = s.host := rfl
@[simp] theorem State.setLink_fab (s : State) (l : Nat) (u : LinkUnit) : (s.setLink l u).fab = s.fab := rfl
@[simp] theorem State.setLink_cmd (s : State) (l : Nat) (u : LinkUnit) : (s.setLink l u).cmd = s.cmd := rfl
@[simp] theorem State.setLink_free (s : State) (l : Nat) (u : LinkUnit) : (s.setLink l u).free = s.free := rfl
@[simp] theorem State.setLink_mnt (s : State) (l : Nat) (u : LinkUnit) : (s.setLink l u).mnt = s.mnt := rfl
@[simp] theorem State.setLink_boot (s : State) (l : Nat) (u : LinkUnit) : (s.setLink l u).boot = s.boot := rfl
@[simp] theorem State.setLink_stk (s : State) (l : Nat) (u : LinkUnit) : (s.setLink l u).stk = s.stk := rfl
@[simp] theorem State.setLink_cat (s : State) (l : Nat) (u : LinkUnit) : (s.setLink l u).cat = s.cat := rfl
@[simp] theorem State.setLink_eng (s : State) (l : Nat) (u : LinkUnit) : (s.setLink l u).eng = s.eng := rfl
@[simp] theorem State.setLink_rem (s : State) (l : Nat) (u : LinkUnit) : (s.setLink l u).rem = s.rem := rfl
@[simp] theorem State.setLink_pwr (s : State) (l : Nat) (u : LinkUnit) : (s.setLink l u).pwr = s.pwr := rfl
@[simp] theorem State.setLink_edg (s : State) (l : Nat) (u : LinkUnit) : (s.setLink l u).edg = s.edg := rfl
@[simp] theorem State.setLink_lanes (s : State) (l : Nat) (u : LinkUnit) : (s.setLink l u).lanes = s.lanes := rfl
@[simp] theorem State.setLink_dma (s : State) (l : Nat) (u : LinkUnit) : (s.setLink l u).dma = s.dma := rfl
@[simp] theorem State.setLink_rst (s : State) (l : Nat) (u : LinkUnit) : (s.setLink l u).rst = s.rst := rfl
@[simp] theorem State.setLink_readData (s : State) (l : Nat) (u : LinkUnit) : (s.setLink l u).readData = s.readData := rfl
@[simp] theorem State.setLink_hiLatch (s : State) (l : Nat) (u : LinkUnit) : (s.setLink l u).hiLatch = s.hiLatch := rfl
@[simp] theorem State.setLink_rd (s : State) (l a : Nat) (u : LinkUnit) : (s.setLink l u).rd a = s.rd a := rfl
@[simp] theorem State.setLink_fld (s : State) (l : Nat) (u : LinkUnit) (g : Fld) : (s.setLink l u).fld g = s.fld g := rfl
theorem State.link_setLink_same {s : State} (h : twf (fun _ => LinkUnit.zero) s.links = true) (l : Nat) (u : LinkUnit) :
    (s.setLink l u).link l = u := tget_tset_same _ _ _ _ h
theorem State.link_setLink_apart (s : State) {l i : Nat} (h : i ≠ l) (u : LinkUnit) : (s.setLink l u).link i = s.link i :=
  tget_tset_other _ _ _ _ _ h

/-! ### `setRing` -/

@[simp] theorem State.setRing_pending (s : State) (r : Nat) (x : Ring) : (s.setRing r x).pending = s.pending := rfl
@[simp] theorem State.setRing_regs (s : State) (r : Nat) (x : Ring) : (s.setRing r x).regs = s.regs := rfl
@[simp] theorem State.setRing_time (s : State) (r : Nat) (x : Ring) : (s.setRing r x).time = s.time := rfl
@[simp] theorem State.setRing_frm (s : State) (r : Nat) (x : Ring) : (s.setRing r x).frm = s.frm := rfl
@[simp] theorem State.setRing_irq (s : State) (r : Nat) (x : Ring) : (s.setRing r x).irq = s.irq := rfl
@[simp] theorem State.setRing_log (s : State) (r : Nat) (x : Ring) : (s.setRing r x).log = s.log := rfl
@[simp] theorem State.setRing_host (s : State) (r : Nat) (x : Ring) : (s.setRing r x).host = s.host := rfl
@[simp] theorem State.setRing_fab (s : State) (r : Nat) (x : Ring) : (s.setRing r x).fab = s.fab := rfl
@[simp] theorem State.setRing_cmd (s : State) (r : Nat) (x : Ring) : (s.setRing r x).cmd = s.cmd := rfl
@[simp] theorem State.setRing_free (s : State) (r : Nat) (x : Ring) : (s.setRing r x).free = s.free := rfl
@[simp] theorem State.setRing_mnt (s : State) (r : Nat) (x : Ring) : (s.setRing r x).mnt = s.mnt := rfl
@[simp] theorem State.setRing_boot (s : State) (r : Nat) (x : Ring) : (s.setRing r x).boot = s.boot := rfl
@[simp] theorem State.setRing_stk (s : State) (r : Nat) (x : Ring) : (s.setRing r x).stk = s.stk := rfl
@[simp] theorem State.setRing_cat (s : State) (r : Nat) (x : Ring) : (s.setRing r x).cat = s.cat := rfl
@[simp] theorem State.setRing_eng (s : State) (r : Nat) (x : Ring) : (s.setRing r x).eng = s.eng := rfl
@[simp] theorem State.setRing_rem (s : State) (r : Nat) (x : Ring) : (s.setRing r x).rem = s.rem := rfl
@[simp] theorem State.setRing_pwr (s : State) (r : Nat) (x : Ring) : (s.setRing r x).pwr = s.pwr := rfl
@[simp] theorem State.setRing_edg (s : State) (r : Nat) (x : Ring) : (s.setRing r x).edg = s.edg := rfl
@[simp] theorem State.setRing_lanes (s : State) (r : Nat) (x : Ring) : (s.setRing r x).lanes = s.lanes := rfl
@[simp] theorem State.setRing_links (s : State) (r : Nat) (x : Ring) : (s.setRing r x).links = s.links := rfl
@[simp] theorem State.setRing_rst (s : State) (r : Nat) (x : Ring) : (s.setRing r x).rst = s.rst := rfl
@[simp] theorem State.setRing_readData (s : State) (r : Nat) (x : Ring) : (s.setRing r x).readData = s.readData := rfl
@[simp] theorem State.setRing_hiLatch (s : State) (r : Nat) (x : Ring) : (s.setRing r x).hiLatch = s.hiLatch := rfl
@[simp] theorem State.setRing_rd (s : State) (r a : Nat) (x : Ring) : (s.setRing r x).rd a = s.rd a := rfl
@[simp] theorem State.setRing_fld (s : State) (r : Nat) (x : Ring) (g : Fld) : (s.setRing r x).fld g = s.fld g := rfl
theorem State.ring_setRing_same {s : State} (h : twf (fun _ => Ring.zero) s.dma.rings = true) (r : Nat) (x : Ring) :
    (s.setRing r x).ring r = x := tget_tset_same _ _ _ _ h
theorem State.ring_setRing_apart (s : State) {r i : Nat} (h : i ≠ r) (x : Ring) : (s.setRing r x).ring i = s.ring i :=
  tget_tset_other _ _ _ _ _ h

/-! ### `setChan` -/

@[simp] theorem State.setChan_pending (s : State) (c : Nat) (m : ModChan) : (s.setChan c m).pending = s.pending := rfl
@[simp] theorem State.setChan_regs (s : State) (c : Nat) (m : ModChan) : (s.setChan c m).regs = s.regs := rfl
@[simp] theorem State.setChan_time (s : State) (c : Nat) (m : ModChan) : (s.setChan c m).time = s.time := rfl
@[simp] theorem State.setChan_frm (s : State) (c : Nat) (m : ModChan) : (s.setChan c m).frm = s.frm := rfl
@[simp] theorem State.setChan_irq (s : State) (c : Nat) (m : ModChan) : (s.setChan c m).irq = s.irq := rfl
@[simp] theorem State.setChan_log (s : State) (c : Nat) (m : ModChan) : (s.setChan c m).log = s.log := rfl
@[simp] theorem State.setChan_host (s : State) (c : Nat) (m : ModChan) : (s.setChan c m).host = s.host := rfl
@[simp] theorem State.setChan_fab (s : State) (c : Nat) (m : ModChan) : (s.setChan c m).fab = s.fab := rfl
@[simp] theorem State.setChan_cmd (s : State) (c : Nat) (m : ModChan) : (s.setChan c m).cmd = s.cmd := rfl
@[simp] theorem State.setChan_free (s : State) (c : Nat) (m : ModChan) : (s.setChan c m).free = s.free := rfl
@[simp] theorem State.setChan_mnt (s : State) (c : Nat) (m : ModChan) : (s.setChan c m).mnt = s.mnt := rfl
@[simp] theorem State.setChan_boot (s : State) (c : Nat) (m : ModChan) : (s.setChan c m).boot = s.boot := rfl
@[simp] theorem State.setChan_stk (s : State) (c : Nat) (m : ModChan) : (s.setChan c m).stk = s.stk := rfl
@[simp] theorem State.setChan_cat (s : State) (c : Nat) (m : ModChan) : (s.setChan c m).cat = s.cat := rfl
@[simp] theorem State.setChan_eng (s : State) (c : Nat) (m : ModChan) : (s.setChan c m).eng = s.eng := rfl
@[simp] theorem State.setChan_rem (s : State) (c : Nat) (m : ModChan) : (s.setChan c m).rem = s.rem := rfl
@[simp] theorem State.setChan_pwr (s : State) (c : Nat) (m : ModChan) : (s.setChan c m).pwr = s.pwr := rfl
@[simp] theorem State.setChan_lanes (s : State) (c : Nat) (m : ModChan) : (s.setChan c m).lanes = s.lanes := rfl
@[simp] theorem State.setChan_links (s : State) (c : Nat) (m : ModChan) : (s.setChan c m).links = s.links := rfl
@[simp] theorem State.setChan_dma (s : State) (c : Nat) (m : ModChan) : (s.setChan c m).dma = s.dma := rfl
@[simp] theorem State.setChan_rst (s : State) (c : Nat) (m : ModChan) : (s.setChan c m).rst = s.rst := rfl
@[simp] theorem State.setChan_readData (s : State) (c : Nat) (m : ModChan) : (s.setChan c m).readData = s.readData := rfl
@[simp] theorem State.setChan_hiLatch (s : State) (c : Nat) (m : ModChan) : (s.setChan c m).hiLatch = s.hiLatch := rfl
@[simp] theorem State.setChan_rd (s : State) (c a : Nat) (m : ModChan) : (s.setChan c m).rd a = s.rd a := rfl
@[simp] theorem State.setChan_fld (s : State) (c : Nat) (m : ModChan) (g : Fld) : (s.setChan c m).fld g = s.fld g := rfl
theorem State.chan_setChan_same {s : State} (h : twf (fun _ => ModChan.init) s.edg.chans = true) (c : Nat) (m : ModChan) :
    (s.setChan c m).chan c = m := tget_tset_same _ _ _ _ h
theorem State.chan_setChan_apart (s : State) {c i : Nat} (h : i ≠ c) (m : ModChan) : (s.setChan c m).chan i = s.chan i :=
  tget_tset_other _ _ _ _ _ h

/-! ### `setTaken` -/

@[simp] theorem State.setTaken_pending (s : State) (id : Nat) (n : Nat) : (s.setTaken id n).pending = s.pending := rfl
@[simp] theorem State.setTaken_regs (s : State) (id : Nat) (n : Nat) : (s.setTaken id n).regs = s.regs := rfl
@[simp] theorem State.setTaken_time (s : State) (id : Nat) (n : Nat) : (s.setTaken id n).time = s.time := rfl
@[simp] theorem State.setTaken_frm (s : State) (id : Nat) (n : Nat) : (s.setTaken id n).frm = s.frm := rfl
@[simp] theorem State.setTaken_irq (s : State) (id : Nat) (n : Nat) : (s.setTaken id n).irq = s.irq := rfl
@[simp] theorem State.setTaken_log (s : State) (id : Nat) (n : Nat) : (s.setTaken id n).log = s.log := rfl
@[simp] theorem State.setTaken_host (s : State) (id : Nat) (n : Nat) : (s.setTaken id n).host = s.host := rfl
@[simp] theorem State.setTaken_fab (s : State) (id : Nat) (n : Nat) : (s.setTaken id n).fab = s.fab := rfl
@[simp] theorem State.setTaken_cmd (s : State) (id : Nat) (n : Nat) : (s.setTaken id n).cmd = s.cmd := rfl
@[simp] theorem State.setTaken_free (s : State) (id : Nat) (n : Nat) : (s.setTaken id n).free = s.free := rfl
@[simp] theorem State.setTaken_mnt (s : State) (id : Nat) (n : Nat) : (s.setTaken id n).mnt = s.mnt := rfl
@[simp] theorem State.setTaken_boot (s : State) (id : Nat) (n : Nat) : (s.setTaken id n).boot = s.boot := rfl
@[simp] theorem State.setTaken_stk (s : State) (id : Nat) (n : Nat) : (s.setTaken id n).stk = s.stk := rfl
@[simp] theorem State.setTaken_eng (s : State) (id : Nat) (n : Nat) : (s.setTaken id n).eng = s.eng := rfl
@[simp] theorem State.setTaken_rem (s : State) (id : Nat) (n : Nat) : (s.setTaken id n).rem = s.rem := rfl
@[simp] theorem State.setTaken_pwr (s : State) (id : Nat) (n : Nat) : (s.setTaken id n).pwr = s.pwr := rfl
@[simp] theorem State.setTaken_edg (s : State) (id : Nat) (n : Nat) : (s.setTaken id n).edg = s.edg := rfl
@[simp] theorem State.setTaken_lanes (s : State) (id : Nat) (n : Nat) : (s.setTaken id n).lanes = s.lanes := rfl
@[simp] theorem State.setTaken_links (s : State) (id : Nat) (n : Nat) : (s.setTaken id n).links = s.links := rfl
@[simp] theorem State.setTaken_dma (s : State) (id : Nat) (n : Nat) : (s.setTaken id n).dma = s.dma := rfl
@[simp] theorem State.setTaken_rst (s : State) (id : Nat) (n : Nat) : (s.setTaken id n).rst = s.rst := rfl
@[simp] theorem State.setTaken_readData (s : State) (id : Nat) (n : Nat) : (s.setTaken id n).readData = s.readData := rfl
@[simp] theorem State.setTaken_hiLatch (s : State) (id : Nat) (n : Nat) : (s.setTaken id n).hiLatch = s.hiLatch := rfl

/-- Putting a command at the front of the queue of a word that spells none changes nothing: no row of the table gives bits. -/
@[simp] theorem State.withFetchWord_eq (s : State) (nbits w : Nat) : s.withFetchWord nbits w = s := rfl

end Sys2Proof.Machine
end

