-- ==== Sys2Proof/Machine/Signal.lean ====
section
/-! DEFINITION. Machine/Signal.lean: the bits and levels of a Maelid lane: striping over a lane set, bit order, scrambling and
the levels of the line (R282, R283, R331). -/

namespace Sys2Proof.Machine

/-- The bytes that the lane at position `i` carries of what a link has sent, from place `j` after the last switch on: byte j of
the stream goes to the lane of rank j mod w, and each switch block goes whole to its lane (R331 to R333). -/
def laneStream (i : Nat) : Nat → List LinkSent → List Byte
  | _, [] => []
  | j, .flit mask bytes :: rest =>
    let mine := (bytes.zipIdx j).filter (fun b => mask.testBit i && b.2 % maskSize mask == maskRank mask i)
    mine.map (·.1) ++ laneStream i (j + bytes.length) rest
  | _, .blocks mask blocks :: rest =>
    (if mask.testBit i then blocks.getD (maskRank mask i) [] else []) ++ laneStream i 0 rest

/-- The level of a pair of bits at rate code 2, the first the more significant one, Gray-coded (R282). -/
def pamLevel (first second : Bool) : Nat :=
  match first, second with
  | false, false => 0
  | false, true => 1
  | true, true => 2
  | true, false => 3

/-- The levels of a stream: bits at the NRZ rates, pairs at PAM4; TxInvert exchanges 0 with 3 and 1 with 2, or 0 with 1 (R282). -/
def lineLevels (pam4 invert : Bool) : List Bool → List Nat
  | [] => []
  | [b] => if pam4 then [] else [if b != invert then 1 else 0]
  | b :: c :: rest =>
    if pam4 then (if invert then 3 - pamLevel b c else pamLevel b c) :: lineLevels pam4 invert rest
    else (if b != invert then 1 else 0) :: lineLevels pam4 invert (c :: rest)

/-- The line of a Maelid lane that sends `bytes`, under its scrambler (R282, R283). -/
def State.lineOf (s : State) (n : Nat) (bytes : List Byte) : List Nat :=
  lineLevels (s.lanePam4 n) (s.on (laneFld n 0x00 2 2)) (scramble (s.scrambler n) (sentBits bytes))

end Sys2Proof.Machine
end

