-- ==== Sys2Proof/WellFormed.lean ====
section
/-! DEFINITION. WellFormed.lean: which commands are well formed: the operands that a row's type leaves wider than the spec does have
the length or the range that the spec gives them.  A meaning does not rely on it: an ill-formed command runs too. -/

namespace Sys2Proof

/-- A flit's payload is its bytes 4 to 119 (R305). -/
def Flit.wellFormed (f : Flit) : Bool := f.payload.length == 116 && f.came.isNone

/-- An access of a bank's port reads or writes at least one byte, lies within one line of 64 bytes, and a write gives every byte
(R189). -/
def StkReq.wellFormed (r : StkReq) : Bool :=
  decide (0 < r.len.val ∧ r.offset.val % 64 + r.len.val ≤ 64) && (r.data.map (·.length)).getD r.len.val == r.len.val

/-- A REMOTE flit moves 1, 2, 4 or 16 bytes, and one that carries data carries that many (R355). -/
def RemoteMsg.wellFormed (data : Bool) (r : RemoteMsg) : Bool :=
  [1, 2, 4, 16].contains r.size.toNat && (!data || r.data.length == r.size.toNat)

/-- The nodes of one half of a bitmap: half `part` holds the nodes 512 × `part` to 512 × `part` + 511 (R366). -/
def inHalf (part : Fin 2) (nodes : List (BitVec 10)) : Bool := nodes.all (fun n => n.toNat / 512 == part.val)

/-- The width of a lane of type code `t`: 16 bits for Q15, 32 for FP32, Q31 and INT (R155). -/
def laneBits (t : BitVec 2) : Nat := if t = 2#2 then 16 else 32

/-- A command's operands have the lengths and ranges the spec gives them: slips of 64 and return slips of 32 bytes (R479, R481),
flits and training blocks of 128 (R284, R305), as many byte enables as bytes (R401), the words of CAT_STAGE (R71), the halves of a bitmap (R366), and, of an
instruction, the lane types, shift amounts and lane numbers its row permits (R161, R174 to R177). -/
def Instr.wellFormed : Instr → Bool
  | .registerWrite .. => true
  | .boundary .. => true
  | .timeStep .. => true
  | .guardWindowOpen .. => true
  | .gatherEnd .. => true
  | .phasorUpdateDone .. => true
  | .preVote .. => true
  | .computeStart .. => true
  | .release .. => true
  | .modulatorCapture .. => true
  | .sumEvaluation .. => true
  | .sendAtForward .. => true
  | .copyIn .. => true
  | .copyInDone .. => true
  | .paramCopyDone .. => true
  | .frameInfo .. => true
  | .frameConfig .. => true
  | .frameStart .. => true
  | .frameStop .. => true
  | .frmCtrlStart .. => true
  | .frmCtrlStop .. => true
  | .frmCtrlClearSlackMin .. => true
  | .editionInfo .. => true
  | .editionCommit .. => true
  | .editionAbort .. => true
  | .editionAdopt .. => true
  | .editionRevert .. => true
  | .cmPrepare .. => true
  | .cmAck .. => true
  | .cmNack .. => true
  | .cmGo .. => true
  | .cmAbort .. => true
  | .cmDone .. => true
  | .cmMissed .. => true
  | .catInfo .. => true
  | .catRead .. => true
  | .catStage _ _ w => w.length == 7
  | .catStageDisable .. => true
  | .catUnstage .. => true
  | .catClearStatus .. => true
  | .catCheck .. => true
  | .catEventRead .. => true
  | .catEventPop .. => true
  | .catWindowWrite .. => true
  | .sample flit _ _ _ => flit.wellFormed
  | .engInfo .. => true
  | .engBayConfig .. => true
  | .engBayCfgWrite .. => true
  | .engImageLoad .. => true
  | .imageLoadDone .. => true
  | .engBayStart .. => true
  | .engBayStop .. => true
  | .engParamStage _ _ _ data => decide (data.length ≤ 48)
  | .engParamRead .. => true
  | .engStatus .. => true
  | .engineWindowWrite _ offset data => decide (data ≠ [] ∧ offset.val + data.length ≤ 65536)
  | .singleFault .. => true
  | .imemRepairDone .. => true
  | .baySleep .. => true
  | .bayDoze .. => true
  | .loadReturn .. => true
  | .storeAccepted .. => true
  | .storeTimeout .. => true
  | .remoteLoadTimeout .. => true
  | .transferComplete .. => true
  | .transferTimeout .. => true
  | .interruptEntry .. => true
  | .sortStart .. => true
  | .sortDone .. => true
  | .phasorDescriptorWrite .. => true
  | .executeIllegalWord e word => !Machine.legalWord (e.val == 512) word
  | .iAdd .. => true
  | .iSub .. => true
  | .iAnd .. => true
  | .iOr .. => true
  | .iXor .. => true
  | .iAndn .. => true
  | .iSll .. => true
  | .iSrl .. => true
  | .iSra .. => true
  | .iRor .. => true
  | .iMin .. => true
  | .iMax .. => true
  | .iMinu .. => true
  | .iMaxu .. => true
  | .iAbs .. => true
  | .iClz .. => true
  | .iPopc .. => true
  | .iSel .. => true
  | .iMul .. => true
  | .iMulh .. => true
  | .iMulhu .. => true
  | .iDiv .. => true
  | .iDivu .. => true
  | .iRem .. => true
  | .iRemu .. => true
  | .iAdds .. => true
  | .iSubs .. => true
  | .iQmul .. => true
  | .iQmac .. => true
  | .iShls .. => true
  | .iRshr .. => true
  | .iCmp _ _ _ _ cc => decide (cc.toNat < 6)
  | .iPand .. => true
  | .iPor .. => true
  | .iPxor .. => true
  | .iPandn .. => true
  | .iPany .. => true
  | .iPall .. => true
  | .iMovgp .. => true
  | .iMovpg .. => true
  | .iJalr .. => true
  | .iAddi .. => true
  | .iAndi .. => true
  | .iOri .. => true
  | .iXori .. => true
  | .iShi .. => true
  | .iLui .. => true
  | .iCmpi .. => true
  | .iFadd .. => true
  | .iFsub .. => true
  | .iFmul .. => true
  | .iFma .. => true
  | .iFms .. => true
  | .iFdiv .. => true
  | .iFsqrt .. => true
  | .iFmin .. => true
  | .iFmax .. => true
  | .iFabs .. => true
  | .iFneg .. => true
  | .iFcmp .. => true
  | .iFcvtSW .. => true
  | .iFcvtWS .. => true
  | .iFcvtSQ .. => true
  | .iFcvtQS .. => true
  | .ldB .. => true
  | .ldBu .. => true
  | .ldH .. => true
  | .ldHu .. => true
  | .ldW .. => true
  | .vld .. => true
  | .stB .. => true
  | .stH .. => true
  | .stW .. => true
  | .vst .. => true
  | .xldH .. => true
  | .xldW .. => true
  | .xldV .. => true
  | .iB .. => true
  | .iJal .. => true
  | .iVadd .. => true
  | .iVsub .. => true
  | .iVmul .. => true
  | .iVmac .. => true
  | .iVmsu .. => true
  | .iVmin .. => true
  | .iVmax .. => true
  | .iVabs .. => true
  | .iVneg .. => true
  | .iVcmp .. => true
  | .iVsel .. => true
  | .iVand _ _ _ _ _ t => t == 3#2
  | .iVor _ _ _ _ _ t => t == 3#2
  | .iVxor _ _ _ _ _ t => t == 3#2
  | .iVsra _ _ _ n _ t => t != 0#2 && decide (n.toNat < laneBits t)
  | .iVsls _ _ _ n _ t => t != 0#2 && decide (n.toNat < laneBits t)
  | .iVcvt .. => true
  | .iVpack _ _ _ _ _ t => t == 1#2
  | .iVswz _ _ _ _ _ t => t != 2#2
  | .iVsum .. => true
  | .iVmovv .. => true
  | .iVext _ _ _ ln t => decide (ln.toNat * laneBits t < 128)
  | .iVins _ _ _ ln t => decide (ln.toNat * laneBits t < 128)
  | .iVsplat .. => true
  | .iVzero .. => true
  | .iFenceS .. => true
  | .iFenceA .. => true
  | .iFenceD .. => true
  | .iFend .. => true
  | .iTrap .. => true
  | .iXret .. => true
  | .iCsrr .. => true
  | .iCsrw .. => true
  | .iCsrs .. => true
  | .iCsrc .. => true
  | .iSwait .. => true
  | .iPhld .. => true
  | .amoswap .. => true
  | .amoadd .. => true
  | .amocas .. => true
  | .iWfi .. => true
  | .compareMismatch .. => true
  | .rollback .. => true
  | .migrationDone .. => true
  | .fltInjectArm .. => true
  | .faultInjection .. => true
  | .curatorMismatch .. => true
  | .accessionWrite .. => true
  | .logInfo .. => true
  | .logRead .. => true
  | .logCopy .. => true
  | .logCopyDone .. => true
  | .fltInfo .. => true
  | .stacksAccess _ reqs => reqs.all StkReq.wellFormed
  | .eccWriteback .. => true
  | .stkInjectArm .. => true
  | .scrubLine .. => true
  | .bankPowered .. => true
  | .clearComplete .. => true
  | .sealComplete .. => true
  | .checkComplete .. => true
  | .stkInfo .. => true
  | .stkBankStatus .. => true
  | .stkBankScrub .. => true
  | .bankScrubDone .. => true
  | .stkBankPower .. => true
  | .stkRetainSet .. => true
  | .stkAclSet .. => true
  | .stkSpillSet .. => true
  | .stkSpillWrite .. => true
  | .filterOutput .. => true
  | .fastOutput .. => true
  | .interlock .. => true
  | .pfail .. => true
  | .pfailDrainDone .. => true
  | .pfailDrainTimeout .. => true
  | .edgInfo .. => true
  | .edgMclkConfig .. => true
  | .edgMclkWrite .. => true
  | .edgModConfig .. => true
  | .edgModCfgWrite .. => true
  | .edgTripConfig .. => true
  | .edgTripRegWrite .. => true
  | .edgIlkConfig .. => true
  | .edgIlkWrite .. => true
  | .edgPolSet .. => true
  | .edgPairStage .. => true
  | .edgAuxStage .. => true
  | .edgAuxDirSet .. => true
  | .shadowRegisterWrite .. => true
  | .dynWrite .. => true
  | .edgTripClear .. => true
  | .tripLatchClear .. => true
  | .edgHoldRelease .. => true
  | .edgHoldReleaseWrite .. => true
  | .edgHoldAssert .. => true
  | .edgHoldAssertWrite .. => true
  | .signalDetect .. => true
  | .cdrLock .. => true
  | .trainingBlock _ b => b.bytes.length == 128
  | .lockTimeout .. => true
  | .signalLoss .. => true
  | .signalDetectWake .. => true
  | .pllRelock .. => true
  | .rateWrite .. => true
  | .laneEnableWrite .. => true
  | .loopbackWrite .. => true
  | .txeqWrite .. => true
  | .prbsWrite .. => true
  | .txErrInject .. => true
  | .marginStart .. => true
  | .marginDone .. => true
  | .laneInfo .. => true
  | .laneConfig .. => true
  | .laneRate .. => true
  | .lanePrbs .. => true
  | .lanePrbsRead .. => true
  | .laneMargin .. => true
  | .flitTransmit .. => true
  | .flitReceived _ bytes => bytes.length == 128
  | .nakWaitTimeout .. => true
  | .replayTimeout .. => true
  | .creditTimeout .. => true
  | .flitConsumed .. => true
  | .creditInit .. => true
  | .laneDrop .. => true
  | .laneAdd .. => true
  | .switchBlock .. => true
  | .retrainRequest .. => true
  | .retrainAnswer .. => true
  | .upWaitTimeout .. => true
  | .initTimeout .. => true
  | .huntTimeout .. => true
  | .retrainRequestTimeout .. => true
  | .retrainTimeout .. => true
  | .holdoffExpiry .. => true
  | .lnkPortWrite .. => true
  | .linkEnableWrite .. => true
  | .linkRetrainWrite .. => true
  | .allowMaskWrite .. => true
  | .linkInfo .. => true
  | .linkPortSplit .. => true
  | .linkConfig .. => true
  | .linkEnable .. => true
  | .linkWidth .. => true
  | .linkRetrain .. => true
  | .linkCounters .. => true
  | .routeFailover .. => true
  | .fabRouteWrite .. => true
  | .fabIdentityWrite .. => true
  | .remoteRead r _ => r.wellFormed false
  | .remoteWrite r _ => r.wellFormed true
  | .remoteData r => r.wellFormed true
  | .remoteDone r => r.wellFormed false
  | .probeTick .. => true
  | .timeProbe .. => true
  | .timeReply .. => true
  | .timeTick .. => true
  | .timeFlit .. => true
  | .holdoverTimeout .. => true
  | .beat .. => true
  | .beacon .. => true
  | .beaconMiss .. => true
  | .propose _ _ part nodes _ => inHalf part nodes
  | .agree .. => true
  | .roster _ _ part nodes _ => inHalf part nodes
  | .join .. => true
  | .admitMsg .. => true
  | .route _ _ entries _ => entries.length == 96
  | .fabInfo .. => true
  | .fabRouteSet _ _ _ words => decide (words.length ≤ 12)
  | .fabRouteRead .. => true
  | .fabConfig .. => true
  | .fabFormSet _ _ mask => mask.length == 32
  | .fabRwinSet .. => true
  | .fabMemberRead .. => true
  | .fabTimeInfo .. => true
  | .fabFence .. => true
  | .fabUnfence .. => true
  | .fabSlot .. => true
  | .slotInsertion .. => true
  | .slotRemoval .. => true
  | .buttonPress .. => true
  | .attentionWindowEnd .. => true
  | .pgoodTimeout .. => true
  | .pgoodLoss .. => true
  | .quiesceDone .. => true
  | .powerCtlWrite .. => true
  | .memoryRead .. => true
  | .memoryWrite _ data be _ _ => decide (data.length ≤ 4096) && be.length == data.length
  | .configRead .. => true
  | .configWrite .. => true
  | .powerStateWrite .. => true
  | .initiateFlr .. => true
  | .flrComplete .. => true
  | .msixControlWrite .. => true
  | .perst .. => true
  | .hotReset .. => true
  | .hostLinkDown .. => true
  | .hostLinkUp .. => true
  | .cfgReady .. => true
  | .completion _ _ _ data _ => decide (data.length ≤ 4096)
  | .completionTimeout .. => true
  | .tagQuarantineEnd .. => true
  | .remotePieceTimeout .. => true
  | .l1Entry .. => true
  | .l0sEntry .. => true
  | .winctrlCommit .. => true
  | .winctrlRevert .. => true
  | .hostInfo .. => true
  | .winStage .. => true
  | .winCommit .. => true
  | .winRevert .. => true
  | .winRead .. => true
  | .hostCounters .. => true
  | .moderationTimerExpiry .. => true
  | .msixMessageCommit .. => true
  | .irqModWrite .. => true
  | .vectorMaskWrite .. => true
  | .compWrite .. => true
  | .doorbellWrite .. => true
  | .ringDoorbell .. => true
  | .ringResume .. => true
  | .descriptorFetch .. => true
  | .segmentDone .. => true
  | .descriptorWriteback .. => true
  | .schedulingRound .. => true
  | .moverFree .. => true
  | .channelInbound .. => true
  | .bulk .. => true
  | .pageReset .. => true
  | .carrelResetDone .. => true
  | .carrelCreate .. => true
  | .carrelDestroy .. => true
  | .carrelReset .. => true
  | .carrelShare .. => true
  | .carrelInfo .. => true
  | .ringConfig .. => true
  | .ringRelease .. => true
  | .ringInfo .. => true
  | .chanStage .. => true
  | .dmaInfo .. => true
  | .cmdDoorbellWrite .. => true
  | .slipFetched data => decide (data.length ≤ 512) && data.length % 64 == 0
  | .ringEnWrite .. => true
  | .cmdRqHeadWrite .. => true
  | .callFrame slip => slip.length == 64
  | .frameGapTimeout .. => true
  | .textLine .. => true
  | .slipCall _ slip => slip.length == 64
  | .slipReturn _ slip => slip.length == 32
  | .slipExecute .. => true
  | .relayTimeout .. => true
  | .holdTimeout .. => true
  | .devInfo .. => true
  | .devSerial .. => true
  | .fwInfo .. => true
  | .echo _ bytes => decide (bytes.length ≤ 52)
  | .cmdInfo .. => true
  | .cmdConfig .. => true
  | .pwrInfo .. => true
  | .pwrDomainRead .. => true
  | .pwrHold .. => true
  | .pwrDomHoldWrite .. => true
  | .pwrSleep .. => true
  | .standbyWrite .. => true
  | .sleepWrite .. => true
  | .sleepDrainDone .. => true
  | .sleepEntryTimeout .. => true
  | .deepSleepWake .. => true
  | .aoTimerSet .. => true
  | .aoTimerExpiry .. => true
  | .wdtConfig .. => true
  | .wdtKick .. => true
  | .wdtKickWrite .. => true
  | .watchdogExpiry .. => true
  | .rstRequest .. => true
  | .rstSwreqWrite .. => true
  | .rstCause .. => true
  | .backupRead .. => true
  | .backupWrite .. => true
  | .retainedRead .. => true
  | .retainedWrite _ _ data => data.length == 16
  | .optRead .. => true
  | .powerOn .. => true
  | .brownOut .. => true
  | .coreGood .. => true
  | .resetPin .. => true
  | .resetRelease .. => true
  | .fuseSensingDone .. => true
  | .systemPllLock .. => true
  | .inrushGrant .. => true
  | .domainIdleTimeout .. => true
  | .optionLoadingDone .. => true
  | .imageVerified .. => true
  | .firmwareStart .. => true
  | .xtalSwitch .. => true
  | .xtalStartTimeout .. => true
  | .xtalStop .. => true
  | .clockFail .. => true
  | .clockRecover .. => true
  | .refclkHostLoss .. => true
  | .avsStep .. => true
  | .tempSample .. => true
  | .mntInfo .. => true
  | .bistRun .. => true
  | .bistComplete .. => true
  | .bistResult .. => true
  | .amonSelect .. => true
  | .fmonSelect .. => true
  | .ledSet .. => true
  | .consoleConfig .. => true
  | .fuseRead .. => true
  | .fuseProgram .. => true
  | .flashWrite .. => true
  | .flashWriteDone .. => true
  | .flashVerify .. => true
  | .uartBreak .. => true
  | .textHelp .. => true
  | .textInfo .. => true
  | .textStatus .. => true
  | .textLog .. => true
  | .textLane .. => true
  | .textLink .. => true
  | .textAmon .. => true
  | .textFmon .. => true
  | .textLed .. => true
  | .textBist .. => true
  | .textBistQuery .. => true
  | .textFuse .. => true
  | .textBaud .. => true
  | .textFramed .. => true
  | .textSlip .. => true
  | .m2wWrite .. => true
  | .m2wRead .. => true
  | .m2wWake .. => true
  | .m2wHold .. => true
  | .tapReset .. => true
  | .extest .. => true
  | .idcode .. => true
  | .samplePreload .. => true
  | .clamp .. => true
  | .highz .. => true
  | .extestPulse .. => true
  | .extestTrain .. => true
  | .debugReset .. => true
  | .bypass .. => true
  | .registerRead .. => true
  | .gatePairStep .. => true
  | .mdatSample .. => true
  | .prbsSync .. => true
  | .prbsSyncLost .. => true
  | .pgoodAssert .. => true
  | .l0Reached .. => true
  | .perstRelease .. => true
  | .refclkHostBack .. => true
  | .wdtHalf .. => true
  | .longBreak .. => true
  | .domainRunning .. => true
  | .characterReceived .. => true

end Sys2Proof
end

