-- ==== Sys2Proof/Tests/Slice0.lean ====
section
/-! SUPPORT. Tests/Slice0.lean: ill-formed commands that the well-formedness check refuses, single steps whose results are worked out
by hand from the rules they name, and, for each statement with hypotheses, states and operands that meet them together. -/

namespace Sys2Proof.Tests

open Sys2Proof Sys2Proof.Machine

-- One theorem at a time: the kernel evaluates most of these, and each that waits for another holds a thread.
set_option Elab.async false

/-- A bridge whose firmware runs. -/
def up : State := State.reset.setF RST_STATUS.BootState 2

/-- A call slip of the host. -/
def slip : SlipHdr := ⟨1#16, false, 0#32, .host⟩

/-- Engine 0, of a bay that is not Paired, runs at Level 2, with 5 and 7 in g2 and g3. -/
def ready : State :=
  ((up.setF (ENG_BAY_CFG.Mode 0) 0).setF (ENG_E_STATUS.Run 0) 2).setCore 0 ((Regs.zero.wg 2 5#32).wg 3 7#32)

/-- The Curator's core runs at Level 2. -/
def curatorReady : State := { up with eng := { up.eng with curLevel := 2 } }

theorem up_inv : up.Inv := by constructor <;> decide
theorem ready_inv : ready.Inv := by constructor <;> decide
theorem ready_quiet : ready.Quiet 0 := by constructor <;> decide

/-- The premises of every statement about a call slip of opcode `op` that works on `unit`. -/
theorem up_serves (op : Nat) (unit : BusyUnit) : up.Serves slip op unit :=
  ⟨by decide, .inl (by decide), by decide, by cases unit <;> rfl⟩

/-! ## Well-formedness -/

theorem test_wf_catStage : (Instr.catStage slip 0#16 []).wellFormed = false := rfl
theorem test_wf_sample : (Instr.sample ⟨0#4, 0#2, 0#10, 0#16, [], none⟩ none 0#64 []).wellFormed = false := rfl
theorem test_wf_param : (Instr.engParamStage slip 0#16 0#16 (List.replicate 49 0#8)).wellFormed = false := rfl
theorem test_wf_window : (Instr.engineWindowWrite 0 65535 [none, none]).wellFormed = false := rfl
theorem test_wf_cmp : (Instr.iCmp 0 0#3 0#5 0#5 6#3).wellFormed = false := rfl
theorem test_wf_vand : (Instr.iVand 0 0#4 0#4 0#4 0#3 1#2).wellFormed = false := rfl
theorem test_wf_vor : (Instr.iVor 0 0#4 0#4 0#4 0#3 0#2).wellFormed = false := rfl
theorem test_wf_vxor : (Instr.iVxor 0 0#4 0#4 0#4 0#3 2#2).wellFormed = false := rfl
theorem test_wf_vsra : (Instr.iVsra 0 0#4 0#4 16#8 0#3 2#2).wellFormed = false := rfl
theorem test_wf_vsls : (Instr.iVsls 0 0#4 0#4 1#8 0#3 0#2).wellFormed = false := rfl
theorem test_wf_vpack : (Instr.iVpack 0 0#4 0#4 0#4 0#3 2#2).wellFormed = false := rfl
theorem test_wf_vswz : (Instr.iVswz 0 0#4 0#4 0#8 0#3 2#2).wellFormed = false := rfl
theorem test_wf_vext : (Instr.iVext 0 0#5 0#4 4#3 1#2).wellFormed = false := rfl
theorem test_wf_vins : (Instr.iVins 0 0#5 0#4 4#3 3#2).wellFormed = false := rfl
theorem test_wf_stacks : (Instr.stacksAccess 0 [⟨0, 60, 8, none, false⟩]).wellFormed = false := rfl
theorem test_wf_flit : (Instr.flitReceived 0 []).wellFormed = false := rfl
theorem test_wf_remoteRead : (Instr.remoteRead ⟨3#8, 0#8, 0#8, 0#10, 0#16, 0#32, []⟩ 0#2).wellFormed = false := rfl
theorem test_wf_remoteWrite : (Instr.remoteWrite ⟨4#8, 0#8, 0#8, 0#10, 0#16, 0#32, []⟩ 0#2).wellFormed = false := rfl
theorem test_wf_remoteData : (Instr.remoteData ⟨1#8, 0#8, 0#8, 0#10, 0#16, 0#32, []⟩).wellFormed = false := rfl
theorem test_wf_remoteDone : (Instr.remoteDone ⟨0#8, 0#8, 0#8, 0#10, 0#16, 0#32, []⟩).wellFormed = false := rfl
theorem test_wf_propose : (Instr.propose 0#10 0#32 0 [512#10] 0#16).wellFormed = false := rfl
theorem test_wf_roster : (Instr.roster 0#10 0#32 1 [511#10] 0#16).wellFormed = false := rfl
theorem test_wf_route : (Instr.route 0#10 0 [] 0).wellFormed = false := rfl
theorem test_wf_routeSet : (Instr.fabRouteSet slip 0#16 13#8 (List.replicate 13 0#32)).wellFormed = false := rfl
theorem test_wf_formSet : (Instr.fabFormSet slip 0#8 []).wellFormed = false := rfl
theorem test_wf_memoryWrite : (Instr.memoryWrite 0#64 [0#8] [] false ⟨[], .sound⟩).wellFormed = false := rfl
theorem test_wf_slipFetched : (Instr.slipFetched [0#8]).wellFormed = false := rfl
theorem test_wf_callFrame : (Instr.callFrame []).wellFormed = false := rfl
theorem test_wf_slipCall : (Instr.slipCall 0#10 []).wellFormed = false := rfl
theorem test_wf_slipReturn : (Instr.slipReturn 0#10 []).wellFormed = false := rfl
theorem test_wf_echo : (Instr.echo slip (List.replicate 53 0#8)).wellFormed = false := rfl
theorem test_wf_retained : (Instr.retainedWrite slip 0#16 []).wellFormed = false := rfl
theorem test_wf_completion : (Instr.completion 0#10 .success false (List.replicate 4097 0#8) ⟨[], .sound⟩).wellFormed = false := by decide +kernel
theorem test_wf_iAdd : (Instr.iAdd 512 31#5 31#5 31#5).wellFormed = true := rfl

/-! ## Single steps -/

/-- R161: 5 + 7 = 12. -/
theorem test_iAdd : exec (.iAdd 0 1#5 2#5 3#5) ready = .next (ready.setCore 0 ((Regs.zero.wg 2 5#32).wg 3 7#32 |>.wg 1 12#32).next) := rfl
/-- R161: 5 − 7 = −2. -/
theorem test_iSub : exec (.iSub 0 1#5 2#5 3#5) ready =
    .next (ready.setCore 0 ((Regs.zero.wg 2 5#32).wg 3 7#32 |>.wg 1 0xFFFFFFFE#32).next) := rfl
/-- The queue is first in, first out, and the empty queue idles. -/
theorem test_step : (∃ t, step { State.reset with pending := [.frmCtrlStop, .frmCtrlClearSlackMin] } = .next t ∧ t.pending = [.frmCtrlClearSlackMin]) := ⟨_, rfl, rfl⟩

/-! ## Premises of the statements about engines -/

theorem test_ready : ready.Ready 0 [1, 2, 3] [] := ⟨by decide, by decide, by decide, by decide, by decide⟩
theorem test_ready_vector : ready.Ready 0 [31] [0, 15] := ⟨by decide, by decide, by decide, by decide, by decide⟩
theorem test_ready_curator : curatorReady.Ready 512 [1, 2, 3, 0] [] := ⟨by decide, by decide, by decide, by decide, by decide⟩
/-- The boundary codes of CMP: the last that compares. -/
theorem test_ImmediatesComparesAndJumps : (5#3 : BitVec 3).toNat < 6 := by decide

/-! ## Premises of the statements

One theorem for each statement with hypotheses, named after it: a concrete state and operands that meet them together, clause by clause
where the clauses differ, with the operands at a bound of their range where they have one. -/

/-- `ready` with `x` in g2. -/
def at2 (x : Word) : State := ready.setCore 0 ((Regs.zero.wg 2 x).wg 3 7#32)

theorem test_StepRunsTheFrontCommand : ({ State.reset with pending := [.frmCtrlStop] } : State).pending = .frmCtrlStop :: [] ∧
    State.reset.pending = [] := ⟨rfl, rfl⟩
theorem test_EveryStepKeepsTheInvariant : State.reset.Inv ∧ up.Inv := ⟨by constructor <;> decide +kernel, up_inv⟩
theorem test_IntegerInstructionsCompute : ready.Ready 0 [1, 2, 3] [] ∧ ready.Ready 0 [31, 31, 31] [] :=
  ⟨by constructor <;> decide +kernel, by constructor <;> decide +kernel⟩
theorem test_FloatSpecialOperands : (fpOf 0x7F800001#32).isSnan = true ∧ (fpOf 0xFFC00000#32).isNan = true ∧
    (fpOf 0x80800000#32).isNan = false ∧ (0x80800000#32).getLsbD 31 = true ∧ (fpOf 0x80800000#32).isZero = false ∧
    (fpOf 0x7F7FFFFF#32).isNan = false ∧ (fpOf 0x7F7FFFFF#32).isInf = false ∧ (fpOf 0x7F7FFFFF#32).isZero = false := by decide +kernel
theorem test_FloatRoundsToNearest : 0 < 1 ∧ 0 < 3 ∧ (fpOf (fpRound true 1 3).1).isZero = false ∧
    (fpOf (fpRound true 1 3).1).isInf = false := by decide +kernel
theorem test_VectorArithmeticComputes : (0 : Fin 513).val ≠ 512 ∧ ready.Ready 0 [] [15, 15, 15] ∧ (15#8).toNat < 16 ∧ (31#8).toNat < 32 :=
  ⟨by decide, by constructor <;> decide +kernel, by decide, by decide⟩
theorem test_VectorMovesCompute : (0 : Fin 513).val ≠ 512 ∧ ready.Ready 0 [31] [15, 15] ∧ (7#3).toNat < laneCount 2 ∧
    (3#3).toNat < laneCount 3 := ⟨by decide, by constructor <;> decide +kernel, by decide, by decide⟩
theorem test_VectorLanesIndependent : 7 < laneCount 2 ∧ 3 < laneCount 0 ∧ governs 2 0x80#8 7 = true ∧ governs 2 0x7F#8 7 = false ∧
    ∀ j < laneCount 2, governs 2 0#8 j = false := by decide +kernel
theorem test_DmemLoadsComplete : (at2 0x17FF0#32).inPair 0 = false ∧ (at2 0x17FF0#32).Quiet 0 ∧ (0x7FF0 : Nat) < 0x8000 ∧
    ((at2 0x17FF0#32).core 0).rg 2 + (0#16).signExtend 32 = BitVec.ofNat 32 (0x10000 + 0x7FF0) ∧ 0x7FF0 % 16 = 0 ∧
    (at2 0x17FF0#32).badWord 0 0x7FF0 16 = false ∧ (at2 0x17FF0#32).Ready 0 [2, 1] [] ∧ (at2 0x17FF0#32).Ready 0 [2] [15] :=
  ⟨by decide +kernel, by constructor <;> decide +kernel, by decide, by decide +kernel, by decide, by decide +kernel,
    by constructor <;> decide +kernel, by constructor <;> decide +kernel⟩
theorem test_DmemStoresWriteTheirBytes : (at2 0x17FF0#32).Inv ∧ (at2 0x17FF0#32).inParams 0 0x7FF0 16 = false ∧
    ((at2 0x17FF0#32).core 0).rg 2 + (0xFFF0#16).signExtend 32 = BitVec.ofNat 32 (0x10000 + 0x7FE0) :=
  ⟨by constructor <;> decide +kernel, by decide +kernel, by decide +kernel⟩

/-- Engine 0 with a DMEM address in g2 and a Stacks address in g3. -/
def transferring : State := ready.setCore 0 ((Regs.zero.wg 2 0x17FF0#32).wg 3 0x15FFFFF0#32)

theorem test_TransfersAndAtomicsComplete :
    (transferring.Quiet 0 ∧ transferring.Ready 0 [2, 3] [] ∧ 0x7FF0 % 16 = 0 ∧ 0x5FFFFF0 % 16 = 0 ∧
      (transferring.core 0).rg 2 = BitVec.ofNat 32 (0x10000 + 0x7FF0) ∧ transferring.inParams 0 0x7FF0 16 = false ∧
      0x200000 ≤ 0x5FFFFF0 ∧ 0x5FFFFF0 < 0x6000000 ∧
      (transferring.core 0).rg 3 + (0#16).signExtend 32 = BitVec.ofNat 32 (0x10000000 + 0x5FFFFF0)) ∧
    ((512 : Fin 513).val = 512 ∧ ((curatorReady.core 512).rg 2).toNat % 4 = 0 ∧ ((curatorReady.core 512).rg 2).toNat < 0x200000 ∧
      curatorReady.Ready 512 [1, 2, 3, 0] []) :=
  ⟨⟨by constructor <;> decide +kernel, by constructor <;> decide +kernel, by decide, by decide, by decide +kernel, by decide +kernel,
    by decide, by decide, by decide +kernel⟩,
   by decide, by decide +kernel, by decide +kernel, by constructor <;> decide +kernel⟩


theorem test_SystemInstructionsComplete :
    ready.Ready 0 [31] [] ∧ ready.Quiet 0 ∧ (ready.port 0).open_ = [] ∧ ready.inPair 0 = false ∧ ready.level 0 = 2 ∧ ready.Inv ∧
    (ready.pair 0).again = false ∧ ready.on (BAYR_SS.Busy 0 (ready.sortEngine 0 0)) = false ∧ ready.sortEngine 0 0 < 8 ∧
    ready.Ready 0 [] [15] ∧ 0 ∉ ready.eng.phasorVotes ∧ 0x22 ∈ [0, 3, 5, 0x10, 0x11, 0x12, 0x13, 0x18, 0x1A, 0x20, 0x22] :=
  ⟨by constructor <;> decide +kernel, ready_quiet, by decide +kernel, by decide +kernel, by decide +kernel, ready_inv,
    by decide +kernel, by decide +kernel, by decide +kernel, by constructor <;> decide +kernel, by decide +kernel, by decide⟩

/-- `ready` at level `l`. -/
def atLevel (l : Nat) : State := ready.setF (ENG_E_STATUS.Run 0) l

theorem test_ExceptionsEnterAndReturn :
    ready.Inv ∧ ready.inPair 0 = false ∧ ready.Ready 0 [] [] ∧ (ready.port 0).drained = true ∧ ready.level 0 ≠ 5 ∧
    legalWord false 0xFFFFFFFF#32 = false ∧ (∀ l ∈ [3, 4, 5], (atLevel l).level 0 = l ∧ ((atLevel l).port 0).lq = []) :=
  ⟨ready_inv, by decide +kernel, by constructor <;> decide +kernel, by decide +kernel, by decide +kernel, by decide +kernel,
    by decide +kernel⟩

/-- `ready` with Stacks bank 2 in ON. -/
def bank2 : State := ready.setF (bankStateF 2) 0

/-- `bank2` with engine 0's memory path `p`. -/
def onPath (p : Port) : State := bank2.setPort 0 p

def load2 : Load := ⟨0x10200000, .stacks 0x200000, 4, .g 31 true, none, .nothing, [(0, Regs.zero)], none⟩
def store2 : Store := ⟨0x10200000, .stacks 0x200000, [1#8, 2#8, 3#8, 4#8], none, 0⟩
def xfer2 : Xfer := ⟨0x10200000, .stacks 0x200000, 0, 4, none, false, none, none⟩
def remoteLoad : Load := ⟨0x20000000, .remote true 1 2 0x8000, 4, .g 1 false, some 9, .nothing, [(0, Regs.zero)], none⟩

theorem test_MemoryPathEvents :
    ((onPath { Port.zero with lq := [load2] }).Inv ∧ (onPath { Port.zero with lq := [load2] }).inPair 0 = false ∧
      ((onPath { Port.zero with lq := [load2] }).pair 0).again = false ∧ ((onPath { Port.zero with lq := [load2] }).port 0).lq = [load2] ∧
      ((onPath { Port.zero with lq := [load2] }).stkRead (stkRequester 0) 0x200000 4).2 = .data [0#8, 0#8, 0#8, 0#8]) ∧
    (((onPath { Port.zero with sb := [store2] }).port 0).sb = [store2] ∧ ((onPath { Port.zero with sb := [store2] }).port 0).lq = [] ∧
      ((onPath { Port.zero with sb := [store2] }).stkWrite (stkRequester 0) 0x200000 (store2.data.map some) false).2 = .done ∧
      ((onPath { Port.zero with sb := [store2] }).port 0).draining = false ∧ ((onPath { Port.zero with sb := [store2] }).port 0).cuts = []) ∧
    (((onPath { Port.zero with lq := [remoteLoad] }).port 0).sb = [] ∧ remoteLoad.place = .remote true 1 2 0x8000 ∧
      ((onPath { Port.zero with lq := [remoteLoad] }).pair 0).fault = none ∧ (onPath { Port.zero with lq := [remoteLoad] }).level 0 ≠ 5) ∧
    (((onPath { Port.zero with xf := [xfer2] }).port 0).xf = [xfer2] ∧
      ((onPath { Port.zero with xf := [xfer2] }).stkRead (stkRequester 0) 0x200000 4).2 = .data [0#8, 0#8, 0#8, 0#8]) :=
  ⟨⟨by constructor <;> decide +kernel, by decide +kernel, by decide +kernel, by decide +kernel, by decide +kernel⟩,
   by decide +kernel, by decide +kernel, by decide +kernel⟩

def readMsg : RemoteMsg := ⟨4#8, 0#8, 0#8, 1#10, 9#16, 0x5FFFFFC#32, [1#8, 2#8, 3#8, 4#8]⟩

/-- The last bank in ON, open to the fabric, with REMOTE requests of engine 0 and of a host window outstanding. -/
def asking (q : RemoteReq) (p : Port) : State :=
  { (((onPath p).setF (bankStateF 95) 0).setF ⟨bankReg 95, 5, 5⟩ 1) with rem := ⟨10#16, [q]⟩ }

theorem test_RemoteAccessesComplete :
    (remoteOffsetOk readMsg = true ∧ readMsg.kind = 0#8 ∧ (asking ⟨9, .load 0, 1, 0x8000, 4, none⟩ Port.zero).fab.remoteWait = [] ∧
      (((asking ⟨9, .load 0, 1, 0x8000, 4, none⟩ Port.zero).setF (bankStateF 95) 1).stkRead rqFabric 0x5FFFFFC 4).2 = .wait ∧
      (((asking ⟨9, .load 0, 1, 0x8000, 4, none⟩ Port.zero).popInbox ftRemote).stkRead rqFabric 0x5FFFFFC 4).2 =
        .data [0#8, 0#8, 0#8, 0#8] ∧
      (((asking ⟨9, .load 0, 1, 0x8000, 4, none⟩ Port.zero).popInbox ftRemote).stkWrite rqFabric 0x5FFFFFC (readMsg.data.map some) false).2 =
        .done) ∧
    ((asking ⟨9, .load 0, 1, 0x8000, 4, none⟩ { Port.zero with lq := [remoteLoad] }).Inv ∧
      ((asking ⟨9, .load 0, 1, 0x8000, 4, none⟩ { Port.zero with lq := [remoteLoad] }).popInbox ftRemote).rem.out.find?
        (fun q => q.tag == readMsg.tag.toNat) = some ⟨9, .load 0, 1, 0x8000, 4, none⟩ ∧ remoteLoad.tag = some 9) ∧
    ((asking ⟨9, .store 0, 1, 0x8000, 4, none⟩ { Port.zero with sb := [{ store2 with tag := some 9 }] }).Inv ∧
      ((asking ⟨9, .store 0, 1, 0x8000, 4, none⟩ { Port.zero with sb := [{ store2 with tag := some 9 }] }).popInbox ftRemote).rem.out.find?
        (fun q => q.tag == readMsg.tag.toNat) = some ⟨9, .store 0, 1, 0x8000, 4, none⟩) ∧
    (asking ⟨9, .window 0 true 0, 1, 0x8000, 4, none⟩ Port.zero).rem.out.find? (fun q => q.tag == (9#16).toNat) =
      some ⟨9, .window 0 true 0, 1, 0x8000, 4, none⟩ :=
  ⟨by decide +kernel, ⟨by constructor <;> decide +kernel, by decide +kernel, by decide +kernel⟩,
   ⟨by constructor <;> decide +kernel, by decide +kernel⟩, by decide +kernel⟩

/-- Bay 0 is Paired and RUNNING, engine 0 computes, and an injection of Kind `kind` waits. -/
def pairedUp (kind : Nat) : State :=
  let t := ((((ready.setF (ENG_BAY_CFG.Mode 0) 1).setF (ENG_BAY_STATUS.State 0) 3).setF FLT_INJECT.Kind kind).setF FLT_INJECT.Armed 1)
  { t with eng := { t.eng with inject := true } }

/-- `pairedUp` with a mismatch of the pair found. -/
def pairFault : State := (pairedUp 0).setPair 0 { Pair.zero with fault := some (0, 0) }

theorem test_PairFaultsAndInjection :
    ((pairedUp 1).Inv ∧ (pairedUp 1).inPair 0 = true ∧ ((pairedUp 1).pair 0).fault = none ∧ ((pairedUp 1).pair 0).overflow = false ∧
      2 ≤ (pairedUp 1).level 0 ∧ (pairedUp 1).level 0 ≤ 5 ∧ (pairedUp 1).paired ((pairedUp 1).fld FLT_INJECT.Bay) = true ∧
      (pairedUp 1).fld (ENG_BAY_STATUS.State ((pairedUp 1).fld FLT_INJECT.Bay)) = 3 ∧ (pairedUp 1).fld FLT_INJECT.Kind = 1 ∧
      (pairedUp 1).on FLT_INJECT.Armed = true ∧ (pairedUp 1).eng.inject = true ∧ (pairedUp 0).fld FLT_INJECT.Kind = 0) ∧
    (pairFault.Inv ∧ (pairFault.pair 0).fault.isSome = true ∧ pairFault.Quiet 0 ∧ (pairFault.port 0).open_ = [] ∧
      0 ∉ tget (fun _ => []) pairFault.eng.sorts 0) :=
  ⟨⟨by constructor <;> decide +kernel, by decide +kernel⟩,
   by constructor <;> decide +kernel, by decide +kernel, by constructor <;> decide +kernel, by decide +kernel, by decide +kernel⟩

/-- One entry waits for the log writer, at the last slot; bank 1 is ON. -/
def logging : State :=
  let t := (up.setF (bankStateF 1) 0).setF FLT_LOG_HEAD.Next 4095
  { t with log := { t.log with queue := [⟨0#64, 0x0101#16, 0#16, 0#8, []⟩] } }

/-- A LOG_COPY of one entry runs; banks 1 and 2 are ON. -/
def copying : State :=
  let t := (up.setF (bankStateF 1) 0).setF (bankStateF 2) 0
  { t with cmd := { t.cmd with background := [⟨slip, 0x0A02#16, .none, .logCopy 0 1 0x200000⟩] } }

theorem test_AccessionLogCommands :
    (logging.Inv ∧ logging.curatorUp = true ∧ logging.log.queue = ⟨0#64, 0x0101#16, 0#16, 0#8, []⟩ :: [] ∧
      logging.fld FLT_LOG_HEAD.Next = 4095 ∧
      (logging.stkWrite rqCurator (0x100000 + 32 * 4095) (((⟨0#64, 0x0101#16, 0#16, 0#8, []⟩ : LogEntry).bytes
        (logging.fld FLT_LOG_HEAD.Seq)).map some) false).2 = .done) ∧
    (up.Serves slip 0x0A01 .none ∧ (4095#16).toNat < 4096 ∧ (1#8).toNat < 2 ∧
      (logging.stkRead rqCurator (0x100000 + 32 * 4095 + 16) 16).2 = .data (List.replicate 16 0#8)) ∧
    (bank2.Serves slip 0x0A02 .none ∧ 0 < (4096#16).toNat ∧ (4096#16).toNat ≤ 4096 ∧ (0x200000#32).toNat % 32 = 0 ∧
      0x200000 ≤ (0x200000#32).toNat ∧ (0x200000#32).toNat + 32 * 4096 ≤ 0x6000000 ∧
      (∀ b ∈ banksOf 0x200000 (32 * 4096), bank2.bankState b = 0) ∧ bank2.cmd.background.length < 8) ∧
    (copying.cmd.background.find? (fun g => g.opcode == 0x0A02#16) = some ⟨slip, 0x0A02#16, .none, .logCopy 0 1 0x200000⟩ ∧
      copying.copyWaits 0 1 0x200000 = false) :=
  ⟨⟨by constructor <;> decide +kernel, by decide +kernel⟩, ⟨up_serves _ _, by decide +kernel⟩,
   ⟨⟨by decide +kernel, .inl (by decide +kernel), by decide +kernel, by decide +kernel⟩, by decide +kernel⟩, by decide +kernel⟩

/-- The premises of a statement about a call slip, in a state where they can be computed. -/
theorem serves_of {s : State} {op : Nat} {unit : BusyUnit} (h : s.takesSlip = true ∧ s.curatorUp = true ∧
    s.cmd.repeats.find? (fun e => e.seq == slip.seq && e.crc == slip.crc) = none ∧ s.unitBusy unit = false) : s.Serves slip op unit :=
  ⟨h.1, .inl h.2.1, h.2.2.1, h.2.2.2⟩

/-! ### Engines, power and frames -/

/-- Bytes 0 to 63 of an image of one instruction word, with its CRC, and the word. -/
def imageBytes : List Byte :=
  let head := leBytes 4 0x494B4D4C ++ leBytes 2 1 ++ leBytes 2 0 ++ leBytes 4 4 ++ leBytes 4 0 ++ leBytes 4 0 ++ leBytes 4 0 ++
    leBytes 4 0 ++ leBytes 4 0 ++ leBytes 4 4 ++ leBytes 1 0 ++ List.replicate 23 0#8
  let body := leBytes 4 0x08000000
  head ++ leBytes 4 (crc32c (head ++ body)).toNat ++ body

/-- Bank 2 in ON with the image at its start, and bay 63 LOADED with it. -/
def imaged : State :=
  ((((up.setF (bankStateF 2) 0).setF (ENG_BAY_STATUS.State 63) 1).setF (ENG_BAY_IMAGE.Offset 63) 0x8000).stkSetBytes 0x200000 imageBytes)

def image : Image := ⟨4, 0, 0, 44, 0#32⟩

/-- Engine 504 has an image with 44 parameter bytes. -/
def staged : State := { imaged with eng := { imaged.eng with images := [(504, some image)] } }

theorem test_EngineCallSlips :
    (up.Serves slip 0x0301 (.bay 63) ∧ (63#8).toNat < 64 ∧ (1#8).toNat < 2 ∧ (1#8).toNat ≤ (1#8).toNat ∧ (0#8).toNat < 4 ∧
      up.fld (ENG_BAY_STATUS.State 63) < 2 ∧ up.fld (ENG_BAY_CFG.SparePair 63) ≠ 0) ∧
    (imaged.Serves slip 0x0303 (.bay 63) ∧ imaged.fld (ENG_BAY_STATUS.State 63) = 1) ∧
    ((imaged.setF (ENG_BAY_STATUS.State 63) 4).Serves slip 0x0304 (.bay 63) ∧ 2 ≤ (imaged.setF (ENG_BAY_STATUS.State 63) 4).fld (ENG_BAY_STATUS.State 63)) ∧
    (imaged.Serves slip 0x0302 (.bay 63) ∧ (1#8) ≠ 0#8 ∧ imaged.badMask 63 1 = false ∧ imaged.on FRM_STATUS.StagedFrozen = false ∧
      imaged.imageWaits 63 0x200000 = false ∧ (imaged.imageHeader 63 0x200000).2 = Header.of (imaged.stkBytes 0x200000 64) ∧ (Header.of (imaged.stkBytes 0x200000 64)).ok = true ∧
      (imaged.imageGood 63 0x200000 (Header.of (imaged.stkBytes 0x200000 64))).2 = true ∧
      (Header.of (imaged.stkBytes 0x200000 64)).mode = 0 ∧ imaged.cmd.background.length < 8) ∧
    (staged.Serves slip 0x0305 .none ∧ staged.eng.copying = false ∧ staged.paramEngine 504 = some (504, some image) ∧
      staged.fld (ENG_BAY_STATUS.State (504 / 8)) ≠ 0 ∧ staged.on FRM_STATUS.StagedFrozen = false ∧ 40 + 4 ≤ image.paramLength) ∧
    (up.Serves slip 0x0307 .none ∧ 511 < 512 ∧ ready.inPair 0 = false) :=
  ⟨⟨up_serves _ _, by decide +kernel⟩, ⟨serves_of (by decide +kernel), by decide +kernel⟩,
   ⟨serves_of (by decide +kernel), by decide +kernel⟩, ⟨serves_of (by decide +kernel), by decide +kernel⟩,
   ⟨serves_of (by decide +kernel), by decide +kernel⟩, up_serves _ _, by decide +kernel⟩

/-- `imaged` with events of bay 63 under way: a phasor update, a load, a repair and a migration to the spare pair. -/
def busyBay : State :=
  let t := (imaged.setF (PWR_DOM.State 95) 3).setF (ENG_E_STATUS.Run 504) 2
  { t with eng := { t.eng with phasorVotes := [63], repairs := [504], moved := [(504, 510)], sorts := [(63, [7])] },
           cmd := { t.cmd with background := [⟨slip, 0x0302#16, .bay 63, .imageLoad 63 1 0x200000⟩] } }

theorem test_BayEvents :
    busyBay.Inv ∧ busyBay.phasorBusy 63 = true ∧ busyBay.phasorWaits 63 = false ∧ busyBay.imageWaits 63 0x200000 = false ∧ busyBay.eng.phasorVotes.Nodup ∧ busyBay.fld (ENG_BAY_STATUS.State 63) < 2 ∧
    busyBay.backgroundOf 0x0302 (.bay 63) = some ⟨slip, 0x0302#16, .bay 63, .imageLoad 63 1 0x200000⟩ ∧
    (busyBay.stkRead 63 0x200000 68).2 = .data imageBytes ∧ up.fld (ENG_BAY_STATUS.State 63) ≠ 1 ∧
    2 ≤ busyBay.fld (PWR_DOM.State (32 + 63)) ∧ 0x4000 ≤ 0xBFFF ∧ 0xBFFF < 0xC000 ∧
    ((busyBay.setF (ENG_BAY_STATUS.State 63) 3).setF (ENG_BAY_CFG.Mode 63) 0).bayRuns 63 = true ∧
    504 ∈ busyBay.eng.repairs ∧ 0x200000 = busyBay.fld (ENG_BAY_IMAGE.Offset 63) * 64 ∧
    (Header.of (busyBay.stkBytes 0x200000 64)).ok = true ∧
    busyBay.imageCrc 0x200000 (Header.of (busyBay.stkBytes 0x200000 64)) = BitVec.ofNat 32 (Header.of (busyBay.stkBytes 0x200000 64)).crc ∧
    (busyBay.port 504).deferred = none ∧ busyBay.sorting 63 = 7 :: [] ∧
    busyBay.eng.moved.find? (fun m => m.1 / 8 == 63) = some (504, 510) ∧ busyBay.eng.bad = [] ∧
    ((up.setF (BAYR_SD_CNT.Count 63 7) 64).setF (BAYR_SD_RANK.RankAddr 63 7) 32704).fld (BAYR_SD_RANK.RankAddr 63 7) + 64 ≤ 32768 :=
  ⟨by constructor <;> decide +kernel, by decide +kernel⟩

/-- Deep sleep stage `stage`, with PFAIL_N high and wake source 5 enabled. -/
def atStage (st : SleepStage) : State :=
  let t := (up.setF EDG_HOLD.State 1).setF PWR_WAKEEN.Enable 63
  { t with rst := { t.rst with stage := st, phase := .none, wakeLanes := [16] } }

theorem test_PowerAndSleepAct :
    (up.Inv ∧ up.domVotes (32 + 63) = 0 ∧ ((up.setF (ENG_BAY_STATUS.Power 63) 0).fld (ENG_BAY_STATUS.Power 63) = 0) ∧
      (({ up with pwr := { up.pwr with idle := [(95, 500)] } } : State).idleTicks 95 = 500) ∧ up.on (ENG_BAY_CFG.NoSleep 63) = false ∧
      gateable 31 = true ∧ (({ up with pwr := { up.pwr with inrush := [(95, true)] } } : State).pwr.inrush = [(95, true)])) ∧
    ((atStage .awake).Inv ∧ (atStage .awake).on PWR_STATUS.Pfail = false ∧ (atStage .awake).rst.phase = .none ∧
      (atStage .awake).rst.stage ≠ .asleep ∧ (atStage .awake).rst.pfail = false ∧ (atStage .awake).sched = 0 ∧
      (atStage .awake).holdAsserted = true ∧ (atStage .awake).Serves slip 0x0803 .none) ∧
    ((atStage .asleep).rst.stage = .asleep ∧ ((atStage .asleep).fld PWR_WAKEEN.Enable).testBit 5 = true ∧
      (atStage .asleep).rst.wakeLanes ≠ []) ∧
    ((atStage .pfailDrain).rst.stage = .pfailDrain ∧ (∀ p ∈ (atStage .pfailDrain).eng.ports, p.2.sb = []) ∧
      (atStage .pfailDrain).moversStopped = true) ∧
    ((atStage .draining).rst.stage = .draining ∧ (atStage .draining).sleepReady = true) ∧
    ((up.setF (bankStateF 95) 3).bankState 95 = 3 ∧ (up.setF (bankStateF 95) 3).rst.toSeal = []) ∧
    (up.Serves slip 0x0805 .none ∧ 100000 ≤ (100000#32).toNat ∧ (4000000000#32).toNat ≤ 4000000000 ∧ (95#8).toNat ≤ 95 ∧
      (15#8).toNat ≤ 15 ∧ (8176#16).toNat % 16 = 0 ∧ (8176#16).toNat ≤ 8176 ∧ (4080#16).toNat ≤ 4080 ∧ up.rst.optionsRead = false ∧
      ({ up with rst := { up.rst with optionsRead := true } } : State).rst.optionsRead = true ∧ up.rst.avsWait = 0 ∧
      up.fld PWR_AVS.Target ≤ 20) :=
  ⟨⟨up_inv, by decide +kernel⟩, ⟨by constructor <;> decide +kernel, by decide +kernel, by decide +kernel, by decide +kernel,
    by decide +kernel, by decide +kernel, by decide +kernel, serves_of (by decide +kernel)⟩, by decide +kernel, by decide +kernel,
    by decide +kernel, by decide +kernel, up_serves _ _, by decide +kernel⟩

/-- A node in scheduler state `st`, its schedule set and its time locked, after boundary 10. -/
def framed (st : Nat) : State :=
  let t := (((((((((up.setF FRM_STATUS.State st).setF FRM_PERIOD.Period 1000000).setF FRM_GATHER.Offset 100000).setF FRM_COMPUTE.Offset
    200000).setF FRM_STAGE.Offset 900000).setF FRM_PREWAKE.Offset 50000).setF FRM_SHGUARD.Offset 500000).setF FAB_STATUS.TimeLocked 1).setF
    EDG_HOLD.State 1).setF FRM_GUARD.Guard 2
  { t with time := { t.time with stime := 10000000#64 }, frm := { t.frm with last := 10, lastAt := 10000000 } }

theorem test_FrameAndEditionCallSlips :
    ((framed 0).Inv ∧ (framed 0).Serves slip 0x0101 .none ∧ (framed 0).sched = 0 ∧ 2000 ≤ (2000#32).toNat ∧
      (1000000#32).toNat ≤ 1000000 ∧ 2 ≤ (2#8).toNat ∧ (64#8).toNat ≤ 64 ∧ (0xFFFFF#32).toNat < 2 ^ 20) ∧
    ((framed 0).rst.stage ≠ .draining ∧ (framed 0).on FAB_STATUS.TimeLocked = true ∧ (framed 0).fab.parentPeriod = none ∧
      (framed 0).scheduleOk = true ∧ (framed 0).now / (framed 0).fld FRM_PERIOD.Period + 1 < (12#64).toNat) ∧
    ((framed 2).Inv ∧ (framed 2).Serves slip 0x0103 .none ∧ 2 ≤ (framed 2).sched ∧ (framed 2).on EDG_HOLD.State = true) ∧
    ((framed 2).sched = 2 ∧ (framed 2).on PWR_STATUS.Pfail = false ∧ (framed 2).rst.pfail = false ∧ (framed 2).on FRM_STATUS.CommitInFlight = false ∧
      (framed 2).roster.length ≤ 1 ∧ (framed 2).now / (framed 2).fld FRM_PERIOD.Period + (framed 2).fld FRM_GUARD.Guard < (13#64).toNat ∧
      (framed 2).now / (framed 2).fld FRM_PERIOD.Period + 2 * (framed 2).fld FRM_GUARD.Guard + 2 ≤ (16#64).toNat ∧
      (framed 2).cmd.background.length < 8 ∧ (framed 2).frm.commit = none ∧ (framed 2).on FRM_STATUS.StagedFrozen = false) :=
  ⟨⟨by constructor <;> decide +kernel, serves_of (by decide +kernel), by decide +kernel⟩, by decide +kernel,
   ⟨by constructor <;> decide +kernel, serves_of (by decide +kernel), by decide +kernel⟩, by decide +kernel⟩

theorem test_FrameSchedulerEvents :
    ((framed 1).Inv ∧ (framed 1).sched = 1 ∧ (framed 1).nextBoundary * (framed 1).fld FRM_PERIOD.Period < 2 ^ 64) ∧ (2 ≤ (framed 3).sched ∧ (framed 3).on EDG_HOLD.State = true) ∧
    (({ framed 0 with time := { (framed 0).time with step := some (-5) } } : State).time.step = some (-5)) ∧
    ((framed 2).releaseWaits ((framed 2).frm.last - 1) = false ∧ (framed 2).frm.jump ≤ (framed 2).frm.last + 1 ∧
      (framed 2).frm.gathered = false ∧ (framed 2).frm.voted = false ∧ (framed 2).frm.computed = false ∧
      ({ framed 2 with frm := { (framed 2).frm with released := false } } : State).frm.released = false) ∧
    ((framed 0).rd64 FRM_START_LO FRM_START_HI = 0 ∧
      (framed 0).now / (framed 0).fld FRM_PERIOD.Period + 1 < ((framed 0).wr FRM_START_LO 12#32).rd64 FRM_START_LO FRM_START_HI) :=
  ⟨⟨by constructor <;> decide +kernel, by decide +kernel⟩, by decide +kernel⟩

def prepare : CommitMsg := ⟨0#8, 3#10, 7#32, 1#32, 15#64, 0#32, 2#8, 3#10⟩

/-- A commit of F = 15 with G = 2 in flight, in phase `phase`, this node (0) the coordinator or not. -/
def committing (phase : Nat) (own : Bool) : State :=
  let t := (((((framed 2).setF FRM_COMMIT.Phase phase).setB FRM_COMMIT.IsCoordinator own).setF FRM_COMMIT.Coordinator 3).setF
    FRM_COMMIT.Guard 2).wr FRM_TARGET_LO 15#32
  { t with frm := { t.frm with commit := some ⟨7#32, 0#32, 0#32, [0, 3], [], [], [], false, none⟩ } }

theorem test_CommitMessagesAct :
    ((1, prepare.sender.toNat, prepare.commitId.toNat) ∉ (framed 2).frm.seen ∧ (framed 2).sched = 2 ∧ prepare.epoch = (framed 2).rd FAB_EPOCH ∧
      prepare.edition = (framed 2).rd FRM_STAGED ∧ (framed 2).frame + 2 * prepare.guard.toNat < prepare.target.toNat ∧ (framed 3).sched ≠ 2) ∧
    ((committing 1 true).frm.commit = some ⟨7#32, 0#32, 0#32, [0, 3], [], [], [], false, none⟩ ∧
      (committing 1 true).fld FRM_COMMIT.Coordinator = prepare.coordinator.toNat ∧ (committing 1 true).on FRM_COMMIT.IsCoordinator = true) ∧
    ((committing 1 false).on FRM_COMMIT.IsCoordinator = false ∧ (committing 1 false).fld FRM_COMMIT.Phase = 1 ∧
      (12999999#64).toNat < ((committing 1 false).target - (committing 1 false).commitGuard) * (committing 1 false).period ∧
      ((committing 1 false).target - (committing 1 false).commitGuard) * (committing 1 false).period ≤ (13000000#64).toNat ∧
      (committing 5 false).fld FRM_COMMIT.Phase = 5 ∧ (framed 2).frm.commit = none) ∧
    (1, prepare.sender.toNat, prepare.commitId.toNat) ∈
      ({ framed 2 with frm := { (framed 2).frm with seen := [(1, 3, 7)] } } : State).frm.seen := by decide +kernel

/-! ### Catalogue, Stacks and edge I/O -/

/-- Context 65535 pending in pool entry 4095, its pool copy readable. -/
def pending : State :=
  let t := up.setF (bankStateF 0) 0
  { t with cat := { t.cat with mem := tset (fun _ => 0#32) t.cat.mem (16 * 65535 + 7) 0x1FFF#32, events := [⟨5#16, 1#4⟩] } }

theorem test_CatalogueCallSlipsComplete :
    (pending.Inv ∧ pending.on CAT_STATUS.CopyBusy = false ∧ pending.Serves slip 0x0201 .none ∧ (3#8).toNat ≤ 3 ∧ (1#8).toNat ≤ 1) ∧
    (pending.pending7 65535 = true ∧ (1#8).toNat < 2 ∧ pending.pending7 0 = false ∧ pending.poolIndex 65535 = 4095 ∧
      pending.readWaits 71 (64 * pending.poolIndex 65535 + 16) 16 = false ∧
      ((pending.notePortB 1).stkRead 71 (64 * pending.poolIndex 65535 + 16) 16).2 = .data (List.replicate 16 0#8)) ∧
    (cut (ctxOf (List.replicate 7 0#32)).w5 5 0 = 0 ∧ pending.on FRM_STATUS.StagedFrozen = false ∧
      (ctxOf (List.replicate 7 0#32)).range = false ∧ (ctxOf (List.replicate 7 0#32)).invalid = false ∧
      (ctxOf (List.replicate 7 0#32)).badBuffer = false ∧ pending.pendingIds.length < 4096) ∧
    (0 < (4096#16).toNat ∧ (4096#16).toNat ≤ 4096 ∧ (61440#16).toNat + (4096#16).toNat ≤ 65536 ∧
      up.pendingIds.length + 4096 ≤ 4096 ∧ 0 < (65536#32).toNat ∧ (0#16).toNat + (65536#32).toNat ≤ 65536) ∧
    pending.cat.events ≠ [] :=
  ⟨⟨by constructor <;> decide +kernel, by decide +kernel, serves_of (by decide +kernel), by decide, by decide⟩, by decide +kernel⟩

/-- `framed` in RUN, its release done or to come, with context 7 a Sum or a SendAt context. -/
def catalogued (released : Bool) (w : List Word) : State :=
  let t := (framed 2).setF CAT_STATUS.Live 1
  { t with frm := { t.frm with released := released },
           cat := { t.cat with mem := (List.range 7).foldl (fun m k => tset (fun _ => 0#32) m (112 + k) (w.getD k 0#32)) t.cat.mem } }

/-- `pending` while its copy-in runs. -/
def copyingIn : State := { (pending.setF CAT_STATUS.CopyBusy 1) with frm := { pending.frm with released := true } }

/-- A sample of node 0 for context 7. -/
def sample7 : Flit := ⟨1#4, 0#2, 0#10, 7#16, List.replicate 112 0#8, none⟩

theorem test_CatalogueEventsAct :
    (let u := (catalogued true [0x00400005#32]).popInbox ftSample
     u.Inv ∧ u.running = true ∧ u.cat.bad = [] ∧ u.on CAT_STATUS.CopyBusy = false ∧ u.frm.released = true ∧
      u.headMatches (u.ctx 7) sample7 none = true ∧ (u.ctx 7).chain = false ∧ u.frm.gathered = false ∧ (u.ctx 7).source = 5 ∧
      (sample7.payload.getD 2 0#8).getLsbD 0 = false ∧ u.taken 7 < (u.ctx 7).expects u.frm.last) ∧
    (catalogued false [0x00400005#32]).frm.released = false ∧
    (((catalogued true [0x806#32]).ctx 7).source = 6 ∧ (catalogued true [0x806#32]).taken 7 = 0 ∧
      (catalogued true [0x806#32]).running = true ∧ (catalogued true [0x806#32]).sumWaits 7 = false) ∧
    (((catalogued true [0x00800003#32]).ctx 7).enabled = true ∧ ((catalogued true [0x00800003#32]).ctx 7).forwards = true ∧
      (catalogued true [0x00800003#32]).cat.sent.contains 7 = false ∧ (catalogued true [0x00800003#32]).forwardWaits 7 = false) ∧
    (copyingIn.on CAT_STATUS.CopyBusy = true ∧ copyingIn.frm.released = true ∧ copyingIn.pendingIds = 65535 :: [] ∧
      (∀ k < 8, copyingIn.wordEcc (8 * copyingIn.poolIndex 65535 + k) = 0) ∧
      copyingIn.verdict 71 (64 * copyingIn.poolIndex 65535) 64 false = .perform) ∧
    ((up.setF CAT_STATUS.CopyBusy 1).on CAT_STATUS.CopyBusy = true ∧ (up.setF CAT_STATUS.CopyBusy 1).pendingIds = []) ∧
    copyingIn.cat.events = ⟨5#16, 1#4⟩ :: [] :=
  ⟨⟨by constructor <;> decide +kernel, by decide +kernel⟩, by decide +kernel⟩

/-- Bank `b` in state `x`. -/
def bank (b x : Nat) : State := up.setF (bankStateF b) x

theorem test_StacksCommandsComplete :
    (up.Inv ∧ (95#8).toNat < 96 ∧ up.cmd.background.length < 8) ∧
    ((bank 95 6).Serves slip 0x0402 (.bank 95) ∧ (bank 95 6).bankState 95 = 6) ∧
    ((bank 0 0).Serves slip 0x0402 (.bank 0) ∧ (bank 0 0).bankState 0 = 0) ∧
    ((bank 2 2).Serves slip 0x0403 (.bank 2) ∧ (bank 2 2).bankState 2 = 2) ∧
    (up.Serves slip 0x0406 (.link 47) ∧ (up.linkState 47 = 0 ∨ up.linkState 47 = 5) ∧
      (∀ m < 48, m ≠ 47 → 0 < up.fld (STK_SPILL.Size m) → False) ∧ (9473#16).toNat ≤ 11263 ∧
      (9473#16).toNat + (1791#16).toNat ≤ 11264) ∧
    (up.spillCheck 47 9473 1791 = 0 ∧ up.spillCheck 47 11263 2 ≠ 0) :=
  ⟨⟨up_inv, by decide +kernel⟩, ⟨serves_of (by decide +kernel), by decide +kernel⟩, ⟨serves_of (by decide +kernel), by decide +kernel⟩,
   ⟨serves_of (by decide +kernel), by decide +kernel⟩, ⟨up_serves _ _, by decide +kernel⟩, by decide +kernel⟩

/-- Bank 2 in ON, scrubbing enabled, its last word waiting for its write-back. -/
def scrubbing : State :=
  let t := (bank 2 0).setF STK_SCRUB.Enable 1
  { t with stk := { t.stk with writeback := [12582911] } }

/-- A read of the last line of Stacks, and bank 95 in CLEARING with it waiting. -/
def line95 : StkAccess := ⟨70, 0x5FFFFC0, 64, none, false⟩
def waiting95 : State := { bank 95 1 with stk := { (bank 95 1).stk with waiting := [line95] } }

theorem test_StacksEventsAct :
    scrubbing.Inv ∧ 12582911 ∈ scrubbing.stk.writeback ∧ scrubbing.eccTested (fun _ => true) = false ∧
    scrubbing.on STK_SCRUB.Enable = true ∧ scrubbing.stk.ecc = [] ∧ 2 ∈ scrubbing.onBanks ∧ 2 ∉ scrubbing.stk.scrubbed ∧
    tget (fun _ => 0) scrubbing.stk.scrubLine 2 < 16383 ∧ (bank 95 1).bankState 95 = 1 ∧ 95 ∉ (bank 95 1).stk.powering ∧
    (bank 95 1).accessesOut = 0 ∧ (bank 95 1).cmd.held = [] ∧
    arbPick ((bank 95 1).bankGrants 95) [70, 68] = some 68 ∧ (bank 95 0).verdict 70 0x5FFFFC0 64 false = .perform ∧
    (bank 95 1).verdict 70 0x5FFFFC0 64 false = .wait ∧ (waiting95.stk.waiting = [line95] ∧ waiting95.accessesOut = 1 ∧
      (((waiting95.zeroBank 95).setF (bankStateF 95) 0).raise STK_IRQ_STATUS.ClearDone).verdict 70 0x5FFFFC0 64 false ≠ .wait) ∧ (bank 95 5).bankState 95 = 5 ∧ (bank 95 5).checkTurn 95 = true ∧
    ((bank 0 5).setF (bankStateF 95) 5).checkTurn 95 = false ∧
    ({ up with cmd := { up.cmd with background := [⟨slip, 0x0402#16, .bank 95, .bankScrub 95 1⟩] } } : State).backgroundOf 0x0402
      (.bank 95) = some ⟨slip, 0x0402#16, .bank 95, .bankScrub 95 1⟩ :=
  ⟨by constructor <;> decide +kernel, by decide +kernel⟩

theorem test_StacksWrittenBytesReadBack :
    (bank 95 0).Inv ∧ [1#8, 2#8] ≠ [] ∧ (bank 95 0).verdict 70 0x5FFFFFE 2 true = .perform ∧
    (bank 95 0).verdict 70 0x5FFFFFE 2 false = .perform ∧ (bank 95 0).on STK_INJECT.Armed = false ∧
    ∀ w ∈ wordsOf 0x5FFFFFE 2, (bank 95 0).wordEcc w < 2 :=
  ⟨by constructor <;> decide +kernel, by decide +kernel⟩

/-- RUN under edition 1, its first frame done, HOLD_N asserted; interlock 7 enabled with Hold. -/
def holding : State :=
  let t := ((((framed 2).wr FRM_EDITION 1#32).setF FRM_STATUS.FirstFrameDone 1).setF (EDG_ILK.Enable 7) 1).setF (EDG_ILK.Hold 7) 1
  { t with edg := { t.edg with ilkLoaded := true } }

theorem test_HoldAndTripLatchesAct :
    (holding.Inv ∧ holding.Serves slip 0x050A .none ∧ holding.sched = 2 ∧ holding.rd FRM_EDITION ≠ 0#32 ∧
      holding.on FRM_STATUS.FirstFrameDone = true ∧ holding.rd EDG_TRIP_ILK = 0#32 ∧ holding.rd EDG_TRIP_MOD = 0#32 ∧
      holding.on PWR_STATUS.Pfail = false ∧ holding.rst.pfail = false ∧ holding.frm.stopping = false ∧
      holding.on EDG_HOLD.State = true) ∧
    (holding.supplied 5 = true ∧ ((holding.setF (EDG_ILK.PairMask 7) 0x800000).fld (EDG_ILK.PairMask 7)).testBit 23 = true) ∧
    ((holding.setF EDG_HOLD.State 0).on EDG_HOLD.State = false ∧ holding.rst.stage ≠ .draining ∧ up.sched ≠ 2) ∧
    (holding.on (EDG_ILK.Enable 7) = true ∧ holding.on (EDG_ILK.Hold 7) = true ∧ (holding.rd EDG_TRIP_ILK).getLsbD 7 = false ∧
      (0x80#8).getLsbD 7 ≠ holding.on (EDG_ILK.ActiveLow 7) ∧
      5 * holding.fld (EDG_ILK.Filt 7) < min 255 (0 + (255#8).toNat)) :=
  ⟨⟨by constructor <;> decide +kernel, serves_of (by decide +kernel), by decide +kernel⟩, by decide +kernel⟩

theorem test_EdgeConfigurationCompletes :
    (up.Inv ∧ 40 ≤ 200 ∧ up.clockSelected 3 = false ∧ (1#8).toNat ≤ 1) ∧
    (cut 0x10020#32 5 4 ≤ 2 ∧ 16 ≤ cut 0x10020#32 16 6 ∧ cut 0x10020#32 16 6 ≤ 1024 ∧ up.on (EDG_MOD_CFG.Enable 31) = false) ∧
    (up.on EDG_HOLD.State = true ∧ 1 ≤ cut 0x46#32 9 6 ∧ up.tripTiming 31 0x46#32 0x7FFF8000#32 = false) ∧
    (up.sched = 0 ∧ up.on FRM_STATUS.StagedFrozen = false ∧ up.on FRM_STATUS.InGuardWindow = false ∧ pairInvalid 0#32 0#32 = false) :=
  ⟨⟨up_inv, by decide +kernel⟩, by decide +kernel⟩

/-- Channel 31 captures, 63 equal bits behind it, with outputs of both filters completed. -/
def capturing31 : State :=
  ((up.setF (EDG_MOD_CFG.Enable 31) 1).setF (EDG_MCLK.Enable 0) 1).setChan 31
    { ModChan.init with run := 63, level := true, ready := [(1#32, 0#64)], fastReady := [1#16] }

theorem test_EdgeSamplesTripsAndSteps :
    capturing31.Inv ∧ capturing31.capturing 31 = true ∧ (capturing31.chan 31).run = 63 ∧ (capturing31.chan 31).level = true ∧
    (capturing31.chan 31).ready = (1#32, 0#64) :: [] ∧ (capturing31.chan 31).fastReady = 1#16 :: [] ∧
    (capturing31.rd EDG_TRIP_MOD).getLsbD 31 = false ∧ (up.setF EDG_STATUS.FuseMode 1).on EDG_STATUS.FuseMode = true :=
  ⟨by constructor <;> decide +kernel, by decide +kernel⟩

theorem test_GatePairsKeepTheirTimes :
    (up.setF EDG_STATUS.FuseMode 0).Inv ∧ (up.setF EDG_STATUS.FuseMode 0).on EDG_STATUS.FuseMode = false ∧
    ∃ t, exec .gatePairStep (up.setF EDG_STATUS.FuseMode 0) = .next t := ⟨by constructor <;> decide +kernel, by decide +kernel, _, rfl⟩

/-! ### Lanes, links and the fabric -/

/-- Lane 63 in state `x`, its receiver's signal found. -/
def laneIn (x : Nat) : State := ((up.setF (lnState 63) x).setF (lnSigDet 63) 1).setF (LNK_PHY.PllLock 11) 1

/-- 71 bits of PRBS7. -/
def prbs7 : List Bool := (List.range 64).foldl (fun l _ => l ++ [(l.getD (l.length - 6) false) != (l.getD (l.length - 7) false)])
  [true, false, false, false, false, false, false]

/-- A CRC taken over a list in four parts, so that none of them takes the kernel deep. -/
theorem crc32c_parts {l : List Byte} {c1 c2 c3 c4 : Word}
    (h1 : (l.take 32).foldl (crcByte 0x82F63B78#32) 0xFFFFFFFF#32 = c1)
    (h2 : ((l.drop 32).take 32).foldl (crcByte 0x82F63B78#32) c1 = c2)
    (h3 : ((l.drop 64).take 32).foldl (crcByte 0x82F63B78#32) c2 = c3)
    (h4 : (l.drop 96).foldl (crcByte 0x82F63B78#32) c3 = c4) : crc32c l = c4 ^^^ 0xFFFFFFFF#32 := by
  have e : l = l.take 32 ++ ((l.drop 32).take 32 ++ ((l.drop 64).take 32 ++ l.drop 96)) := by
    rw [show l.drop 96 = (l.drop 64).drop 32 by simp, List.take_append_drop, show l.drop 64 = (l.drop 32).drop 32 by simp,
      List.take_append_drop, List.take_append_drop]
  rw [crc32c, e, List.foldl_append, List.foldl_append, List.foldl_append, h1, h2, h3, h4]

/-- A training block of a lane of 4, from node 5, with its CRC. -/
def block5 : List Byte :=
  [0x3C#8, 0x5A#8, 0xA5#8, 0xC3#8, 0x0B#8, 0#8, 5#8, 0#8] ++ List.replicate 116 0#8 ++ leBytes 4 0x08BD483F

theorem block5_crc : crc32c (block5.take 124) = 0x08BD483F#32 :=
  (crc32c_parts (c1 := 0xE74B3F9B#32) (c2 := 0x1CD96CCE#32) (c3 := 0x906FE9C5#32) (c4 := 0xF742B7C0#32)
    (by decide +kernel) (by decide +kernel) (by decide +kernel) (by decide +kernel)).trans (by decide)

/-- `block5` as a lane scrambles it, bytes in the order of the line. -/
def sent5 : RxBlock :=
  let bits := scramble (List.replicate 58 true) (sentBits block5)
  ⟨List.replicate 58 true, (List.range 128).map (fun i => byteOfBits (bits.drop (8 * i))), false, true, false⟩

theorem sent5_descrambled : descrambled sent5 = block5 := by decide +kernel

theorem block5_valid : (trainBlockOf (descrambled sent5) false true false).valid = true := by
  rw [sent5_descrambled]
  simp only [trainBlockOf, block5_crc]
  decide +kernel

/-- Lane 63 in LOCK after two valid blocks. -/
def locked : State := (laneIn 2).setLane 63 { LaneUnit.zero with good := 2 }

/-- Host lane 15 in a margining step of the host, the link at rate `r`. -/
def stepping (r : Nat) : State :=
  ((up.setF HPT_STATUS.Rate r).setF (lnMarginStart 15) 1).setLane 15 { LaneUnit.zero with step := some 1 }

theorem test_LaneEventsAct :
    (up.Inv ∧ up.portDark 11 = true ∧ (2#2 : BitVec 2).toNat < 3 ∧ 16 ≤ 63 ∧ (15#4 : BitVec 4).toNat + 32 + 17 ≤ 64 ∧ up.rst.low = [6] ∧
      up.supplied 3 = true ∧ up.laneState 63 = 0) ∧
    (trainBlockOf (descrambled sent5) false true false).valid = true ∧
    ((laneIn 1).on (lnSigDet 63) = true ∧ (laneIn 1).laneState 63 = 1 ∧ (laneIn 1).on (lnMarginStart 63) = false ∧
      (laneIn 1).laneBarred 63 = false ∧ (laneIn 2).laneState 63 = 2) ∧
    ((up.setF (lnWakeEn 63) 1).on (lnWakeEn 63) = true ∧ (up.setF (lnWakeEn 63) 1).rst.stage ≠ .asleep) ∧
    ((atStage .asleep).supplied 3 = true ∧ 16 ∈ (atStage .asleep).rst.wakeLanes ∧ ((atStage .asleep).fld PWR_WAKEEN.Enable).testBit 1 = true) ∧
    ((up.setF (lnTxPat 63) 1).on (lnTxPat 63) = true ∧ (up.setF (lnTxPat 63) 1).fld (lnLoop 63) ≠ 2 ∧
      (up.setF (lnTxPat 63) 1).laneBusy 63 = false) ∧
    (((laneIn 5).setF (lnRxPat 63) 1).on (lnRxPat 63) = true ∧ ((laneIn 5).setF (lnRxPat 63) 1).laneState 63 ≠ 0 ∧
      ((laneIn 5).setF (lnRxPat 63) 1).on (lnRxSync 63) = false ∧ prbsSynced (((laneIn 5).setF (lnRxPat 63) 1).fld (lnRxPat 63)) prbs7 = true) ∧
    ((up.setF (lnRxSync 63) 1).on (lnRxSync 63) = true ∧ 64 < (65#32).toNat) ∧
    ((laneIn 4).marginReady 63 = true ∧ (laneIn 4).marginRange 63 (31#6 : BitVec 6).toInt (33#6 : BitVec 6).toInt 0 31 = true) ∧
    ((up.setF (lnMarginStart 63) 1).on (lnMarginStart 63) = true ∧ ((up.setF (lnMarginStart 63) 1).lane 63).step = none ∧
      (up.setF (lnMarginStart 63) 1).backgroundOf 0x0685 (.lane 63) = none ∧ (stepping 5).on (lnMarginStart 15) = true ∧
      ((stepping 5).lane 15).step = some 1 ∧ (stepping 5).lanePam4 15 = true ∧ (stepping 5).fld (laneFld 15 0x20 13 12) < 2 ∧
      (stepping 4).lanePam4 15 = false) ∧
    (up.on (lnEnable 63) = false ∧ up.fld (lnLoop 63) = 0 ∧ up.fld (lnTxPat 63) = 0 ∧ up.fld (lnRxPat 63) = 0 ∧
      (up.setF (lnEnable 63) 1).on (lnEnable 63) = true ∧ (up.setF (lnEnable 63) 1).laneState 63 ≠ 4) ∧
    (locked.laneState 63 = 2 ∧ (locked.lane 63).taken = false ∧
      locked.on (lnRxForce 63) = false ∧ (locked.lane 63).inverted = false ∧ 2 ≤ (locked.lane 63).good) :=
  ⟨⟨up_inv, by decide +kernel⟩, block5_valid, by decide +kernel⟩

theorem test_LaneCommandsComplete :
    (63#8).toNat < 64 ∧ up.Serves slip 0x0681 (.lane 63) ∧ 16 ≤ (63#8).toNat ∧ (0x40#32).toNat / 32 % 4 ≠ 3 ∧ tapsOk 0 58 6 = true ∧
    (11#8).toNat < 12 ∧ up.portDark (11#8).toNat = true ∧ (0x44#32).toNat % 8 ≤ 4 ∧ (0x44#32).toNat / 16 % 8 ≤ 4 ∧
    (laneIn 4).Serves slip 0x0685 (.lane 63) ∧ (laneIn 4).cmd.background.length < 8 ∧
    (laneIn 4).marginRange 63 (31#8).toInt (0xE1#8).toInt (0#8).toNat (31#8).toNat = true :=
  ⟨by decide, up_serves _ _, by decide, by decide, by decide, by decide, by decide +kernel, by decide, by decide,
    serves_of (by decide +kernel), by decide +kernel, by decide +kernel⟩

/-- Link 44 in state `x` with one lane in READY, credits of every class and link unit `u`. -/
def linked (x : Nat) (u : LinkUnit) : State :=
  let t := (((((up.setF (onLink LNK_STATUS.State 44) x).setF (lnState 63) 4).setF (lnEnable 63) 1).wr (onLink LNK_CREDIT 44) 0x10101010#32).wr (onLink LNK_CRADV 44)
    0x10101010#32).setF (lkTx 44) 8
  t.setLink 44 u

/-- A C0 flit to node 0. -/
def flit0 : Flit := ⟨2#4, 0#2, 0#10, 0#16, List.replicate 116 0#8, none⟩

/-- Its 128 bytes under sequence number 0. -/
def flit0Bytes : List Byte := [2#8] ++ List.replicate 123 0#8 ++ leBytes 4 0x17DADC32

theorem flit0_crc : crc32c (seqPrefix 0 ++ (padTo 128 flit0Bytes).take 124) = 0x17DADC32#32 :=
  (crc32c_parts (c1 := 0x5E184B47#32) (c2 := 0xE5D703D4#32) (c3 := 0x3089FA93#32) (c4 := 0xE82523CD#32)
    (by decide +kernel) (by decide +kernel) (by decide +kernel) (by decide +kernel)).trans (by decide)

theorem flit0_ok : crcOk (padTo 128 flit0Bytes) (seqPrefix 0) = true := by
  simp only [crcOk, flit0_crc]
  decide +kernel

/-- `linked` with a C0 flit to send. -/
def queued : State := let t := linked 3 LinkUnit.zero; { t with fab := { t.fab with queues := [(176, [flit0])] } }

theorem test_LinkFlitsAct :
    (queued.Inv ∧ queued.linkExists 44 = true ∧ queued.linkState 44 = 3 ∧ (queued.link 44).ctl = [] ∧ (queued.link 44).replay = none ∧
      queued.on (onLink LNK_STATUS.PartnerLeaf 44) = false ∧ (∀ i < 4, queued.fld (lkAdv 44 i) ≠ 0) ∧ queued.fab.waiting = [] ∧ flit0.type ≠ ftTime ∧
      queued.outQueue 44 0 = flit0 :: [] ∧ queued.classReady 44 0 = true ∧ (queued.link 44).buf.length + 1 < queued.outLimit 44) ∧
    (∀ i < 4, (linked 3 LinkUnit.zero).classReady 44 i = false) ∧
    ((linked 3 LinkUnit.zero).fld (lkExpect 44) = 0 ∧ crcOk (padTo 128 flit0Bytes) (seqPrefix 0) = true) ∧
    ((linked 3 { LinkUnit.zero with rx := [(flit0, 0#64)] }).link 44).rx.find? (fun x => x.1.cls.toNat == 0) = some (flit0, 0#64) ∧
    (flit0.dest.toNat = up.nodeId ∧ up.fab.waiting.find? (fun w => w.req == 44 && w.cls == 0) = none) ∧
    (((linked 3 LinkUnit.zero).setF (lkNakWait 44) 1).on (lkNakWait 44) = true) ∧
    (((linked 3 { LinkUnit.zero with buf := [flit0] }).link 44).buf ≠ [] ∧ (linked 3 { LinkUnit.zero with buf := [flit0] }).fld (lkReplays 44) < 8 ∧
      8 ≤ ((linked 3 { LinkUnit.zero with buf := [flit0] }).setF (lkReplays 44) 8).fld (lkReplays 44)) ∧
    ((queued.setF (lkCredit 44 0) 0).fld (lkCredit 44 0) = 0 ∧ (queued.setF (lkCredit 44 0) 0).outQueue 44 0 ≠ []) :=
  ⟨⟨by constructor <;> decide +kernel, by decide +kernel⟩, by decide +kernel, ⟨by decide +kernel, flit0_ok⟩, by decide +kernel⟩

def creditInit (seen : Bool) : CreditInit := ⟨0x10101010#32, seen, false, true, 5#10, 0#12, 0#32⟩

theorem test_LinkBringUpAndSwitching :
    ((linked 2 LinkUnit.zero).Inv ∧ (linked 2 LinkUnit.zero).linkState 44 = 2 ∧ (creditInit false).leaf = true ∧
      ((linked 2 LinkUnit.zero).link 44).resume = false ∧ ((linked 2 LinkUnit.zero).link 44).retrain = none ∧
      (linked 2 LinkUnit.zero).backgroundOf 0x0605 (.link 44) = none) ∧
    (((linked 2 LinkUnit.zero).setF (lkHunting 44) 1).on (lkHunting 44) = true ∧
      (8#4 : BitVec 4).toNat &&& (linked 2 LinkUnit.zero).maskOf 44 (fun n => (linked 2 LinkUnit.zero).laneState n == 4) ≠ 0) ∧
    ((linked 3 LinkUnit.zero).linkState 44 = 3 ∧ ((linked 3 LinkUnit.zero).link 44).mine = none ∧
      ((linked 3 LinkUnit.zero).link 44).request = none ∧ ((linked 3 { LinkUnit.zero with request := some (1, 2) }).link 44).request = some (1, 2) ∧
      ((linked 3 { LinkUnit.zero with request := some (1, 3) }).link 44).request = some (1, 3)) ∧
    ((linked 1 LinkUnit.zero).linkState 44 = 1 ∧ (linked 1 LinkUnit.zero).linkExists 44 = true ∧ (linked 1 LinkUnit.zero).readyMask 44 ≠ 0 ∧
      (linked 1 LinkUnit.zero).maskOf 44 (fun n => (linked 1 LinkUnit.zero).on (lnError n) && !((linked 1 LinkUnit.zero).lane n).skewed) &&& (linked 1 LinkUnit.zero).usable 44 = 0) ∧
    ((linked 4 LinkUnit.zero).linkState 44 = 4 ∧ ((linked 5 LinkUnit.zero).setF (onLink LNK_CTRL.AutoRestart 44) 1).linkState 44 = 5) ∧
    (up.portIdle 11 = true ∧ (2#2 : BitVec 2).toNat < 3 ∧ up.linkExists 44 = true ∧ up.linkState 44 = 0) :=
  ⟨⟨by constructor <;> decide +kernel, by decide +kernel⟩, by decide +kernel⟩

theorem test_LinkCommandsComplete :
    up.linkNamed 44#8 = true ∧ up.Serves slip 0x0601 .none ∧ up.portIdle (11#8).toNat = true ∧ linkTimerOk 0 10000#32 = true ∧
    linkTimerOk 1 0x00010001#32 = true ∧ linkTimerOk 2 0x00040101#32 = true ∧ linkTimerOk 3 0x00010001#32 = true ∧ up.linkState 44 = 0 ∧
    (linked 3 LinkUnit.zero).linkNamed 44#8 = true ∧ (linked 3 LinkUnit.zero).Serves slip 0x0605 (.link 44) ∧
    (linked 3 LinkUnit.zero).pendingSet 44 &&& (15#8).toNat ≠ 0 ∧ ((linked 3 LinkUnit.zero).link 44).request = none :=
  ⟨by decide +kernel, up_serves _ _, by decide +kernel, by decide, by decide, by decide, by decide, by decide +kernel, by decide +kernel,
    serves_of (by decide +kernel), by decide +kernel, by decide +kernel⟩

theorem test_FlitBytesRoundTrip : flit0.payload.length = 116 ∧ 4095 < 4096 ∧ (4094 : Nat) ≠ 4095 := by decide

theorem test_AcknowledgementFreesUpToIt :
    let s := ((linked 3 { LinkUnit.zero with buf := [flit0, flit0], counts := [] }).setF (lkTxNext 44) 1)
    s.Inv ∧ s.linkState 44 = 3 ∧ (4095 : Nat) < 2 ^ 32 ∧ (4095 : Nat).testBit 12 = false ∧
    s.fld (lkCredit 44 (4095 / 2 ^ 14 % 4)) + (4095 / 2 ^ 16 % 256 + 256 - tget (fun _ => 0) (s.link 44).counts (4095 / 2 ^ 14 % 4)) % 256 ≤
      s.fld (lkAdv 44 (4095 / 2 ^ 14 % 4)) ∧ (s.link 44).buf.length ≤ 2047 ∧ (s.oldest 44 + 1) % 4096 = (4095 + 1) % 4096 ∧
    ∀ i ≤ (s.link 44).buf.length, (s.oldest 44 + i) % 4096 ≠ (5 + 1) % 4096 :=
  ⟨by constructor <;> decide +kernel, by decide +kernel⟩

/-- `up` in scheduler state `st`, where a fence may be in force. -/
def fenced (st : Nat) (f : Bool) : State := let t := up.setF FRM_STATUS.State st; { t with frm := { t.frm with fence := f } }

theorem test_FabricConfigurationActs :
    ((linked 5 { LinkUnit.zero with failover := true }).Inv ∧ ((linked 5 { LinkUnit.zero with failover := true }).link 44).failover = true ∧
      (linked 5 { LinkUnit.zero with failover := true }).linkState 44 = 5 ∧
      (linked 5 { LinkUnit.zero with handed := [(flit0, some 0x100000)] }).readWaits rqSpill 0x100000 120 = false) ∧
    (up.Serves slip 0x0611 .none ∧ 1 ≤ (12#8).toNat ∧ (12#8).toNat ≤ 12 ∧ (1012#16).toNat + (12#8).toNat ≤ 1024 ∧
      (List.replicate 12 0x2FBC#32).length = (12#8).toNat ∧
      ∀ x ∈ List.replicate 12 0x2FBC#32, x.toNat / 4 % 64 < 48 ∧ x.toNat / 256 % 64 < 48) ∧
    (up.sched = 0 ∧ up.on FAB_STATUS.Member = false ∧ (1023#16).toNat < 1024 ∧ (1023#16).toNat ≠ up.nodeId ∧ up.beaconOf 1023 = none ∧
      beatOk 0x0002000A#32 = true ∧ timeCfgOk 0x00010101#32 = true ∧ (3#8).toNat < 4 ∧ (63#8).toNat < 64) ∧
    ((fenced 2 false).Serves slip 0x0618 .none ∧ (fenced 2 false).sched = 2 ∧ (fenced 1 false).sched ≤ 1) ∧
    ((fenced 3 true).Serves slip 0x0619 .none ∧ (fenced 3 true).frm.fence = true ∧ (fenced 3 true).sched = 3 ∧ up.frm.fence = false) :=
  ⟨⟨by constructor <;> decide +kernel, by decide +kernel⟩, ⟨up_serves _ _, by decide +kernel, by decide +kernel, by decide +kernel, by decide +kernel,
     fun x h => by rw [List.eq_of_mem_replicate h]; decide⟩, by decide +kernel,
   ⟨serves_of (by decide +kernel), by decide +kernel⟩, serves_of (by decide +kernel), by decide +kernel⟩

/-- Node 0, a member of a roster of nodes 0 and 5 at epoch 3, led by node 5 with quorum. -/
def member : State :=
  let t := (((((up.setF FAB_STATUS.Member 1).setF FAB_STATUS.Quorum 1).setF FAB_LEADER.LeaderValid 1).setF FAB_LEADER.LeaderId 5).wr
    FAB_EPOCH 3#32).wr (FAB_ROSTER 0) 0x21#32
  { t with fab := { t.fab with beacons := [(5, some ⟨3#32, 0#8, 0, 1, 0, 0, false, 0#32, 0#32, 0, 0⟩)], halves := [(2, 5, 4, 0, [0, 5])], proposal := some ⟨4#32, [0, 5], 2, [], [], false⟩ } }

theorem test_MembershipAndTimeAct :
    (member.Inv ∧ (5#10 : BitVec 10).toNat ≠ member.nodeId ∧ (0#10 : BitVec 10).toNat = member.nodeId ∧ member.reachable 5 = true ∧
      5 ∈ member.roster ∧ 7 ∉ member.roster) ∧
    ((2, 5, 4, 1) ∉ member.fab.seen ∧ member.fab.halves = [(2, 5, 4, 1 - 1, [0, 5])] ∧
      ({ member with fab := { member.fab with halves := [], seen := [(2, 5, 4, 1)] } } : State).agreesTo 5 4 [0, 5] = true) ∧
    ((3, 5, 4, 0) ∉ member.fab.seen ∧ member.fab.proposal = some ⟨4#32, [0, 5], 2, [], [], false⟩) ∧
    ((4, 5, 4, 1) ∉ member.fab.seen ∧
      ({ member with fab := { member.fab with halves := [(4, 5, 4, 1 - 1, [0, 5])] } } : State).fab.halves = [(4, 5, 4, 0, [0, 5])] ∧
      (member.rd FAB_EPOCH).toNat < (4#32).toNat) ∧
    (member.on FAB_STATUS.Member = true ∧ (member.setF FAB_STATUS.Leader 1).on FAB_STATUS.Leader = true ∧
      (framed 3).sched = 3 ∧ (framed 3).frame + 1 < (12#64).toNat ∧ member.activeLeaves = [] ∧
      ((5, 5, 3, 0) ∉ member.fab.seen ∧ (6, 5, 3, 0) ∉ member.fab.seen ∧
        (5, 5, 3, 0) ∈ ({ member with fab := { member.fab with seen := [(5, 5, 3, 0), (6, 5, 3, 0)] } } : State).fab.seen) ∧
      ((framed 3).fld FRM_STATUS.HeldCause ≠ 4 ∧ (framed 3).fld FRM_STATUS.HeldCause ≠ hcResyncFailed) ∧
      member.on FAB_STATUS.Timekeeper = false ∧ member.standalone = false ∧
      (member.setF FAB_STATUS.TimeLocked 1).on FAB_STATUS.TimeLocked = true) :=
  ⟨⟨by constructor <;> decide +kernel, by decide +kernel⟩, by decide +kernel, by decide +kernel, by decide +kernel, by decide +kernel⟩

/-- Slot 11 in use, with the status bits `w`. -/
def slotted (w : Word) : State := (up.setF (FAB_SLOT_CTRL.SlotEn 11) 1).wr (FAB_SLOT_STAT 11) w

theorem test_LocalSlotsAct :
    (up.Inv ∧ (slotted 0#32).on (FAB_SLOT_CTRL.SlotEn 11) = true ∧ (slotted 0#32).on (FAB_SLOT_STAT.Present 11) = false ∧
      (slotted 0#32).on (FAB_SLOT_STAT.AttnWindow 11) = false ∧ (slotted 0#32).on (FAB_SLOT_STAT.Quiescing 11) = false ∧
      (slotted 0#32).on (FAB_SLOT_STAT.PowerOn 11) = false ∧ (slotted 0#32).on (FAB_SLOT_CTRL.AttnMode 11) = false) ∧
    ((up.setF (FAB_SLOT_STAT.Present 11) 1).on (FAB_SLOT_STAT.Present 11) = true ∧
      (up.setF (FAB_SLOT_STAT.AttnWindow 11) 1).on (FAB_SLOT_STAT.AttnWindow 11) = true ∧
      ((up.setF (FAB_SLOT_STAT.PowerOn 11) 1).on (FAB_SLOT_STAT.PowerOn 11) = true) ∧
      (up.setF (FAB_SLOT_STAT.PowerGood 11) 1).on (FAB_SLOT_STAT.PowerGood 11) = true ∧
      (up.setF (FAB_SLOT_STAT.Quiescing 11) 1).on (FAB_SLOT_STAT.Quiescing 11) = true ∧
      ∀ i < 4, up.linkExists (4 * 11 + i) = true → up.linkState (4 * 11 + i) = 0) ∧
    ((slotted 0#32).Serves slip 0x061A .none ∧ (3#8).toNat < 4) :=
  ⟨⟨up_inv, by decide +kernel⟩, by decide +kernel, serves_of (by decide +kernel), by decide⟩

/-! ### The host -/

/-- The host link is up and ready, memory and bus mastering enabled; BAR0 lies at 2^32 and BAR4 at 2^33. -/
def hosted : State :=
  (((((up.setF HPT_STATUS.LinkUp 1).setF HPT_STATUS.CfgReady 1).setF CFG_CMDSTS.MemSpace 1).setF CFG_CMDSTS.BusMaster 1).wr CFG_BAR1 1#32).wr
    CFG_BAR5 2#32 |>.wr CFG_BAR3 3#32 |>.setF HPT_STATUS.Perst 0

theorem test_HostPortActs :
    (hosted.Inv ∧ hosted.on HPT_STATUS.LinkUp = true ∧ hosted.on HPT_STATUS.CfgReady = true ∧ hosted.on HPT_STATUS.FlrActive = false ∧
      hosted.host.reads = [] ∧ hosted.rem.out = [] ∧ hosted.stk.waiting = [] ∧ hosted.pwr.accesses = [] ∧
      (2#2 : BitVec 2).toNat = 2 ∧ hosted.fld CFG_PMCSR.PowerState ≠ 3) ∧
    ((hosted.setF HPT_STATUS.LinkUp 0).on HPT_STATUS.LinkUp ≠ true ∧ (hosted.setF HPT_STATUS.LinkUp 0).on HPT_STATUS.Perst = false ∧
      (hosted.setF HPT_STATUS.CfgReady 0).on HPT_STATUS.CfgReady = false ∧ 2 ≤ hosted.fld RST_STATUS.BootState) ∧
    (hosted.fld HPT_STATUS.LinkPower = 0 ∧ 2 ≤ (hosted.setF CFG_LNKCTL.Aspm 3).fld CFG_LNKCTL.Aspm ∧ hosted.host.waiting = [] ∧
      hosted.host.outstanding = [] ∧ hosted.on HPT_STATUS.FlitMode = false ∧ (hosted.setF CFG_LNKCTL.Aspm 3).fld CFG_LNKCTL.Aspm % 2 = 1) ∧
    (hosted.windowFault = none ∧ ((hosted.setF (STG_WIN_CFG.SizeLog 63) 19).setF (STG_WIN_CFG.Enable 63) 1).windowFault.isSome = true ∧ (63#8).toNat < 64) ∧
    hosted.Serves slip 0x0702 .none :=
  ⟨⟨by constructor <;> decide +kernel, by decide +kernel⟩, by decide +kernel, by decide +kernel, by decide +kernel,
    serves_of (by decide +kernel)⟩

theorem test_HostPortResetsAct :
    hosted.Inv ∧ hosted.host.outstanding = [] ∧ hosted.on HPT_STATUS.Perst = false ∧ hosted.on HPT_STATUS.LinkUp = true ∧
    hosted.on HPT_STATUS.CfgReady = true ∧ hosted.on HPT_STATUS.FlrActive = false ∧
    (hosted.setF HPT_STATUS.FlrActive 1).on HPT_STATUS.FlrActive = true ∧ (hosted.setF HPT_STATUS.Perst 1).on HPT_STATUS.Perst = true ∧
    (up.setF PWR_CLK.RefHostOk 1).on PWR_CLK.RefHostOk = true ∧ up.on HPT_STATUS.LinkUp ≠ true ∧
    (up.setF PWR_CLK.RefHostOk 0).on PWR_CLK.RefHostOk = false := ⟨by constructor <;> decide +kernel, by decide +kernel⟩

/-- `hosted` with host window 63 over bank 95 of Stacks, which is ON and open to the host; a mover's read outstanding under tag 7. -/
def windowed : State :=
  let t := (((((hosted.setF (HPT_WIN_CFG.Enable 63) 1).setF (HPT_WIN_CFG.SizeLog 63) 20).setF (HPT_WIN_TGT.Bank 63) 95).setF (bankStateF 95) 0).setF
    ⟨bankReg 95, 6, 6⟩ 1).setF CFG_DEVCTL2.CplTimeout 1
  { t with host := { t.host with outstanding := [⟨7, .mover 30, 0x1000, 4, false⟩] } }

theorem test_HostRequestsAct :
    (windowed.Inv ∧ windowed.on HPT_STATUS.LinkUp = true ∧ windowed.on HPT_STATUS.FlrActive = false ∧ windowed.host.reads = [] ∧
      windowed.rem.out = [] ∧ windowed.stk.waiting = [] ∧ windowed.pwr.accesses = []) ∧
    (windowed.targetOf (0x2000FFFFC#64).toNat 4 = .stacks 0x5FFFFFC ∧ windowed.verdict 68 0x5FFFFFC 4 false = .perform ∧
      windowed.verdict 68 0x5FFFFFC 4 true = .perform ∧ ∀ w ∈ wordsOf 0x5FFFFFC 4, windowed.wordEcc w = 0) ∧
    (windowed.targetOf (0x4000000000#64).toNat 4 = .absent ∧ windowed.targetOf (0x100020040#64).toNat 4 = .reg 0x20040 ∧
      (windowed.setF CFG_AERCTL.EcrcCheckEn 1).on CFG_AERCTL.EcrcCheckEn = true ∧ 0x20040 % 4 = 0 ∧ windowed.accessDomain 0x20040 = none) ∧
    (windowed.outstandingTag 7 = some ⟨7, .mover 30, 0x1000, 4, false⟩ ∧ windowed.outstandingTag 8 = none ∧ windowed.cplTimeout ≠ 0) ∧
    (({ windowed with host := { windowed.host with outstanding := [⟨7, .mover 30, 0x1000, 4, true⟩] } } : State).outstandingTag 7 =
      some ⟨7, .mover 30, 0x1000, 4, true⟩) :=
  ⟨⟨by constructor <;> decide +kernel, by decide +kernel⟩, by decide +kernel⟩

/-- MSI-X enabled, vector 2047's message due. -/
def due (masked : Nat) : State :=
  let t := (hosted.setF CFG_MSIX.Enable 1).setF (IRQ_MSIX_W3.Mask 2047) masked
  { t with irq := { t.irq with due := [2047] } }

theorem test_InterruptDeliveryActs :
    ((due 0).Inv ∧ (due 0).irq.due = [2047] ∧ (due 0).sendable 2047 = true ∧ (due 0).canRequest = true ∧
      ((due 0).setF CFG_CMDSTS.BusMaster 0).sendable 2047 = true ∧ ((due 0).setF CFG_CMDSTS.BusMaster 0).canRequest = false ∧
      (due 1).sendable 2047 = false) ∧
    ((due 0).on CFG_MSIX.Enable = true ∧ ((due 0).setF (vstatTimer 2047) 1).on (vstatTimer 2047) = true ∧
      ((due 0).setF (IRQ_MOD.Timer 2047) 5).on (IRQ_MOD.Timer 2047) = true) ∧
    (ready.paired 0 = false ∧ (55#8).toNat < 56 ∧ (ready.setF (BAYR_BIC_FSRC.Valid 0 7) 1).on (BAYR_BIC_FSRC.Valid 0 7) = true ∧
      ready.on (BAYR_BIC_NSRC.Valid 0 7) = false ∧
      ((ready.setF (BAYR_BIC_FSRC.Source 0 7) 55).fld (BAYR_BIC_FSRC.Source 0 7) = (55#8).toNat)) ∧
    ((95#8).toNat < 96 ∧ ({ up with irq := { up.irq with curNsrc := some 95 } } : State).irq.curNsrc = some (95#8).toNat ∧
      up.irq.curFsrc ≠ some (95#8).toNat) :=
  ⟨⟨by constructor <;> decide +kernel, by decide +kernel⟩, by decide +kernel⟩

/-- Manager's ring 4095 of kind `kind` and 8 descriptors, in state `st`, with mover 30 at `job`. -/
def ringed (kind st : Nat) (fetched : List Desc) (job : Job) (pieces : List Piece) : State :=
  let t := (((windowed.setF (DMA_RING_STAT.Kind 4095) kind).setF (DMA_RING_STAT.State 4095) st).setF ⟨bankReg 95, 4, 4⟩ 1).setRing 4095
    ⟨manager, 3, 0x10000, 0, fetched, false⟩
  t.setMover 30 ⟨job, pieces⟩

def desc7 : Desc := ⟨0x2000, 0x5FFFFC0, 64, 0#32, 0, [], 1, none⟩
def descRead (own : Byte) : Piece := ⟨0x10000, 32, true, some (some (List.replicate 31 0#8 ++ [own], false))⟩

/-- A BULK flit for ring 4095, which has a descriptor for it. -/
def flitBulk : Flit := ⟨ftBulk, 0#2, 0#10, 0#16, List.replicate 116 0#8, none⟩
def bulked : State :=
  let t := ((ringed 5 2 [desc7] .idle []).setF FAB_CTRL.BulkEn 1).setF FAB_CTRL.BulkRing 4095
  { t with fab := { t.fab with inbox := [⟨flitBulk, some 44, 0#64⟩] } }

theorem test_DescriptorRingsAct :
    ((ringed 1 1 [] .idle []).Inv ∧ (7#12 : BitVec 12).toNat < ((ringed 1 1 [] .idle []).ring 4095).size ∧
      (ringed 1 1 [] .idle []).ringHead 4095 ≠ 7 ∧ (ringed 1 1 [] .idle []).resetting manager = false ∧
      (ringed 1 1 [] .idle []).ringKind 4095 = 1 ∧ (ringed 1 1 [] .idle []).ringState 4095 = 1 ∧
      (ringed 5 3 [] .idle []).ringState 4095 = 3) ∧
    (((ringed 1 2 [] (.fetch 4095 0) [descRead 0x80#8]).mover 30).job = .fetch 4095 0 ∧
      ((ringed 1 2 [] (.fetch 4095 0) [descRead 0x80#8]).mover 30).ready = true ∧
      ((ringed 1 2 [] (.fetch 4095 0) [descRead 0x80#8]).mover 30).data = some (List.replicate 31 0#8 ++ [0x80#8]) ∧
      2 ^ 31 ≤ bytesAt (List.replicate 31 0#8 ++ [0x80#8]) 28 4 ∧ bytesAt (List.replicate 31 0#8 ++ [0#8]) 28 4 < 2 ^ 31 ∧
      (⟨.fetch 4095 0, [⟨0x10000, 32, true, some none⟩]⟩ : Mover).data = none) ∧
    ((ringed 1 2 [desc7] (.writeback 4095) []).pfail = false ∧ (ringed 1 2 [desc7] (.writeback 4095) []).weightNow manager ≠ 0 ∧
      (ringed 1 2 [desc7] (.writeback 4095) []).canRequest = true ∧ (ringed 1 2 [desc7] (.writeback 4095) []).fld HPT_STATUS.LinkPower = 0 ∧
      ((ringed 1 2 [desc7] (.writeback 4095) []).ring 4095).fetched = desc7 :: []) ∧
    (((ringed 2 2 [desc7] (.segment 4095 0 0 64) []).mover 30).job = .segment 4095 0 0 64 ∧
      (ringed 2 2 [desc7] (.segment 4095 0 0 64) []).descPlace 4095 0 = 0 ∧
      (∀ u ∈ lineUnits 65 (desc7.stk + 0) 0 64, (ringed 2 2 [desc7] (.segment 4095 0 0 64) []).verdict rqMover (desc7.stk + u.1) u.2 false = .perform) ∧
      ((ringed 2 2 [] (.segment 4095 0 0 64) []).ring 4095).fetched[(0 : Nat)]? = none) ∧
    ((ringed 1 2 [] .idle []).dma.resets = [] ∧ ((ringed 1 2 [] .idle []).mover 30).job = .idle ∧
      (ringed 1 2 [] .idle []).chansReady = []) ∧
    (bulked.fab.inbox.find? (fun d => d.flit.type == ftBulk) = some ⟨flitBulk, some 44, 0#64⟩ ∧ bulked.on FAB_CTRL.BulkEn = true ∧
      bulked.pfail = false ∧ bulked.fld FAB_CTRL.BulkRing = 4095 ∧ bulked.ringKind 4095 = 5 ∧ bulked.ringState 4095 ≠ 3 ∧
      (bulked.ring 4095).fetched = desc7 :: [] ∧ desc7.code = 0 ∧ bulked.resetting manager = false ∧ bulked.dma.bulk = [] ∧
      bulked.canRequest = true ∧ (bulked.setF CFG_CMDSTS.BusMaster 0).canRequest = false) :=
  ⟨⟨by constructor <;> decide +kernel, by decide +kernel⟩, by decide +kernel⟩

/-- Carrel 255 exists. -/
def carrelled : State := up.setF (CRL_STATE.Exists 255) 1

theorem test_CarrelsActAndAnswer :
    (up.Inv ∧ up.Serves slip 0x0710 (.carrel 255) ∧ up.on (CRL_STATE.Exists 255) = false ∧ 1 ≤ (64#8).toNat ∧ (64#8).toNat ≤ 64 ∧
      (0xFFFFF#32).toNat < 2 ^ 20 ∧ (1023#16).toNat < 1024 ∧ (up.freeRings 64).length = 64 ∧ (up.freeVectors 64).length = 64 ∧
      (∀ e < 256, up.on (CRL_STATE.Exists e) = true → up.fld (CRL_PASID.Pasid e) ≠ 0xFFFFF) ∧ up.on FRM_STATUS.StagedFrozen = false) ∧
    (carrelled.Inv ∧ carrelled.on (CRL_STATE.Exists 255) = true ∧ carrelled.on (CRL_STATE.Resetting 255) = false ∧
      carrelled.Serves slip 0x0712 (.carrel 255) ∧ carrelled.carrelNamed 255 = none ∧ carrelled.cmd.background.length < 8) ∧
    (({ carrelled with dma := { carrelled.dma with resets := [⟨255, 0, 0, 0, false, true⟩] } } : State).dma.resets.find?
      (fun x => x.carrel == 255) = some ⟨255, 0, 0, 0, false, true⟩) ∧
    ((256#16).toNat ≤ 256 ∧ (4095#16).toNat < 4096 ∧ (up.ring 4095).owner = noOwner ∧ up.ringState 4095 ≠ 2 ∧ 3 ≤ (12#8).toNat ∧
      (12#8).toNat ≤ 12 ∧ (0x1000#64).toNat % min (32 * 2 ^ (12#8).toNat) 4096 = 0 ∧ (5#8).toNat ≤ 5 ∧
      ((ringed 1 1 [] .idle []).ring 4095).owner = manager) ∧
    ((framed 2).running = true ∧ ((framed 2).setF (DMA_CH_ACFG.Enable 63) 1).on (DMA_CH_ACFG.Enable 63) = true ∧
      (framed 2).on (DMA_CH_ACFG.Dir 63) = false ∧ (framed 2).fld (DMA_CH_ABLK.At 63) < (framed 2).fld FRM_GATHER.Offset ∧ up.running = false) :=
  ⟨⟨up_inv, up_serves _ _, by decide +kernel⟩,
   ⟨by constructor <;> decide +kernel, by decide +kernel, by decide +kernel, serves_of (by decide +kernel), by decide +kernel⟩,
   by decide +kernel⟩

/-- `hosted` with the command ring on and `n` slips of a fetch outstanding. -/
def ringOn (out : List Outstanding) : State :=
  let t := ((hosted.setF CMD_CTRL.RingEn 1).setF CMD_CTRL.ConsoleEn 1).setF CMD_CTRL.FabricEn 1
  { t with host := { t.host with outstanding := out } }

def reply1 : ReturnSlip := ⟨0#16, 1#16, 0#16, 1#8, []⟩
def relay5 : Relay := ⟨0#16, 0#16, 5#10, .host, false⟩

theorem test_CommandPathsAct :
    ((ringOn []).Inv ∧ (ringOn []).on CMD_CTRL.RingEn = true ∧ (ringOn []).cmd.fetchStopped = false ∧ (ringOn []).host.outstanding = [] ∧
      (ringOn []).canRequest = true ∧ (ringOn []).on PWR_STATUS.Entering = false ∧ (ringOn []).freeTag.isSome = true ∧
      (ringOn []).bufferUsed + 512 ≤ 0x10000 ∧ (ringOn []).fld HPT_STATUS.LinkPower = 0 ∧
      (ringOn []).fld CMD_CQ_HEAD.Index < 7 % 2 ^ (ringOn []).fld CMD_CQ_SIZE.SizeLog ∧ 0 < 64 - (ringOn []).cmd.queue.length) ∧
    ((ringOn [⟨0, .slipFetch 0 8, 0, 512, false⟩]).host.outstanding.find? (fun o => match o.requester with
        | .slipFetch _ _ => true
        | _ => false) = some ⟨0, .slipFetch 0 8, 0, 512, false⟩ ∧ (ringOn []).cmd.queue.length + 8 ≤ 64 ∧
      (ringOn []).fld CMD_CQ_SIZE.SizeLog ≤ 12) ∧
    (up.on CMD_CTRL.RingEn = false ∧ up.cmd.hold = [] ∧ (ringOn []).replyUsable = true ∧ up.replyUsable = false ∧
      hosted.replyUsable = false ∧ hosted.on HPT_STATUS.Perst = false ∧ hosted.on HPT_STATUS.FlrActive = false ∧
      hosted.on CMD_CTRL.RingEn = false ∧
      ({ ringOn [] with cmd := { (ringOn []).cmd with hold := [reply1] } } : State).cmd.hold = [reply1] ∧
      ((ringOn []).fld CMD_RQ_TAIL.Index + 1) % (ringOn []).replySlots ≠ 0 ∧ (ringOn []).fld CMD_RQ_SIZE.SizeLog ≤ 12) ∧
    (((ringOn []).setF MNT_STATUS.ConsoleMode 1).on MNT_STATUS.ConsoleMode = true ∧ (ringOn []).consoleRuns = true ∧
      (ringOn []).on CMD_CTRL.ConsoleEn = true ∧ (ringOn []).on CMD_CTRL.FabricEn = true ∧ (ringOn []).fld RST_STATUS.BootState ≠ 3 ∧
      ((ringOn []).setF RST_STATUS.BootState 3).fld RST_STATUS.BootState = 3 ∧ up.cmd.queue.length + up.slipsComing < 64) ∧
    (({ up with cmd := { up.cmd with relays := [relay5] } } : State).cmd.relays.find? (fun e => e.target == 5#10 && e.seq == 0#16) = some relay5 ∧
      (parseReturn (List.replicate 6 0#8 ++ [1#8] ++ List.replicate 25 0#8)).flags.getLsbD 0 = true ∧
      (parseReturn (List.replicate 32 0#8)).flags.getLsbD 0 = false ∧ up.cmd.relays.find? (fun e => e.target == 5#10 && e.seq == 0#16) = none) :=
  ⟨⟨by constructor <;> decide +kernel, by decide +kernel⟩, by decide +kernel⟩

/-! ### The Curator, maintenance and resets -/

/-- `up` with the call slip `bs` of the fabric at the head of the queue. -/
def heading (bs : List Byte) : State := { up with cmd := { up.cmd with queue := [⟨bs, .fabric 5#10⟩] } }

/-- An ECHO of 20 bytes, and a call slip of the unused opcode 6, each with its CRC. -/
def echoSlip : List Byte := leBytes 4 3 ++ leBytes 4 0x1400FFFF ++ List.replicate 52 0#8 ++ leBytes 4 0xC9F0EEEB
def unknownSlip : List Byte := leBytes 4 6 ++ leBytes 4 0xFFFF ++ List.replicate 52 0#8 ++ leBytes 4 0xED47A17A

theorem echoSlip_crc : slipCrcOk echoSlip = true := by
  rw [slipCrcOk, crc32c_parts (l := echoSlip.take 60) (c1 := 0x195438A7#32) (c2 := 0x360F1114#32) (c3 := 0x360F1114#32) (c4 := 0x360F1114#32)
    (by decide +kernel) (by decide +kernel) (by decide +kernel) (by decide +kernel)]
  decide

theorem unknownSlip_crc : slipCrcOk unknownSlip = true := by
  rw [slipCrcOk, crc32c_parts (l := unknownSlip.take 60) (c1 := 0x822ED106#32) (c2 := 0x12B85E85#32) (c3 := 0x12B85E85#32) (c4 := 0x12B85E85#32)
    (by decide +kernel) (by decide +kernel) (by decide +kernel) (by decide +kernel)]
  decide

theorem badSlip_crc : slipCrcOk (List.replicate 64 0#8) = false := by
  rw [slipCrcOk, crc32c_parts (c1 := 0x756EC955#32) (c2 := 0xA5F4FACE#32) (c3 := 0xA5F4FACE#32) (c4 := 0xA5F4FACE#32)
    (by decide +kernel) (by decide +kernel) (by decide +kernel) (by decide +kernel)]
  decide

def consoleSlip : SlipHdr := ⟨1#16, false, 0#32, .console⟩

theorem test_CuratorRunsCallSlips :
    ((heading []).Inv ∧ State.reset.takesSlip = false ∧ up.cmd.queue = [] ∧ up.takesSlip = true) ∧
    ((heading (List.replicate 64 0#8)).takesSlip = true ∧
      (heading (List.replicate 64 0#8)).cmd.queue = [⟨List.replicate 64 0#8, .fabric 5#10⟩] ∧ slipCrcOk (List.replicate 64 0#8) = false) ∧
    (slipCrcOk unknownSlip = true ∧ (heading unknownSlip).takesSlip = true ∧ bytesAt unknownSlip 4 2 = 0xFFFF ∧
      opRow (bytesAt unknownSlip 0 2) = none) ∧
    (slipCrcOk echoSlip = true ∧ (heading echoSlip).takesSlip = true ∧ bytesAt echoSlip 4 2 = 0xFFFF ∧ bytesAt echoSlip 6 1 / 2 = 0 ∧
      bytesAt echoSlip 0 2 = 0x0003 ∧ bytesAt echoSlip 7 1 ≤ 20 ∧
      ((((echoSlip.drop 8).take 52).drop (bytesAt echoSlip 7 1)).all (fun b => b == 0#8)) = true) ∧
    (({ up with cmd := { up.cmd with repeats := [⟨3#16, 1#16, 0#32, some reply1⟩] } } : State).cmd.repeats.find?
      (fun e => e.seq == slip.seq && e.crc == slip.crc) = some ⟨3#16, 1#16, 0#32, some reply1⟩ ∧ up.curatorUp = true) ∧
    (up.Serves slip 0x0004 .none ∧ (up.rd CMD_EXEC).toNat < 0xFFFFFFFF ∧ 10 ≤ (10#32).toNat ∧ (1000000#32).toNat ≤ 1000000 ∧
      1 ≤ (65535#32).toNat ∧ (65535#32).toNat ≤ 65535) ∧ up.Serves consoleSlip 0x0005 .none ∧
    (up.eng.copying = false ∧ ({ up with eng := { up.eng with copying := true } } : State).eng.copying = true ∧ up.cmd.held = []) ∧
    (up.on FLT_STATUS.CuratorSolo = false ∧ (up.setF FLT_STATUS.CuratorSolo 1).on FLT_STATUS.CuratorSolo = true) :=
  ⟨⟨by constructor <;> decide +kernel, by decide +kernel⟩, ⟨by decide +kernel, rfl, badSlip_crc⟩, ⟨unknownSlip_crc, by decide +kernel⟩,
   ⟨echoSlip_crc, by decide +kernel⟩, by decide +kernel, ⟨up_serves _ _, by decide +kernel⟩,
   ⟨by decide, .inl (by decide), by decide, rfl⟩, by decide +kernel⟩

/-- Stacks bank 2 ON; a flash write of its first 8 bytes and the self-test of bank 95 under way; VPP supplied, OTP word 0x3FF blown. -/
def programming (ecc : Nat) : State :=
  let t := bank 2 0
  { t with
    stk := { t.stk with ecc := [(0x40000, ecc)] }
    rst := { t.rst with low := [] }
    boot := { t.boot with otp := [(0x3FF, 1#32)] }
    cmd := { t.cmd with background := [⟨slip, 0x0909#16, .none, .flashWrite 0 0x200000 8⟩, ⟨slip, 0x0901#16, .bank 95, .bist 3 95 0⟩] } }

theorem test_MaintenanceCommandsComplete :
    (up.Inv ∧ up.Serves slip 0x0900 .none ∧ (12#16).toNat ≤ 12 ∧ up.fmonOk 0x4F 65535 = true ∧ up.fmonOk 0x4F 0 = false ∧
      (1#8).toNat ≤ 1 ∧ (0x1F#8).toNat ≤ 0x1F ∧ baudOk 3000000 = true ∧ baudOk 9600 = true ∧ (0x41F#16).toNat ≤ 0x41F) ∧
    (fuseProgrammable 0x408 = true ∧ up.fuseLocked 0x408 = true ∧ fuseProgrammable 0x3FF = true ∧ up.fuseLocked 0x3FF = false ∧
      (programming 0).otpWord 0x3FF &&& 1#32 ≠ 0#32 ∧ up.supplied 6 = false ∧ (programming 0).supplied 6 = true ∧
      (programming 0).otpWord 0x3FF &&& 2#32 = 0#32 ∧ fuseProgrammable 0x41F = false) ∧
    ((0x3FFFFF#32).toNat + (1#32).toNat ≤ flashSize ∧ 0x200000 ≤ (0x5FFFFFF#32).toNat ∧ (0x5FFFFFF#32).toNat + (1#32).toNat ≤ 0x6000000 ∧
      up.cmd.background.length < 8) ∧
    ((programming 0).Inv ∧ (programming 2).Inv ∧ (∀ x, (programming x).cmd.background.find? (fun g => match g.cmd with
        | .flashWrite _ _ _ => true
        | _ => false) = some ⟨slip, 0x0909#16, .none, .flashWrite 0 0x200000 8⟩) ∧
      ((programming 0).stkRead rqCurator 0x200000 8).2 = .data (List.replicate 8 0#8) ∧
      ((programming 2).stkRead rqCurator 0x200000 8).2 = .poison) ∧
    ((1#8).toNat ≤ 1 ∧ (bank 95 0).Serves slip 0x0901 (bistUnit 3 95) ∧ bistValid 3 95 0 = true ∧ (bank 95 0).bistState 3 = true ∧
      (bank 95 0).bistBars 3 95 = 0 ∧ (fenced 2 false).Serves slip 0x0901 (bistUnit 4 95) ∧ bistValid 4 95 0 = true ∧
      (fenced 2 false).bistState 4 = false ∧ bistValid 3 96 0 = false) ∧
    ((programming 0).bistsRunning.find? (fun x => x.2.1 == (3#8).toNat && x.2.2 == (95#16).toNat) =
        some (⟨slip, 0x0901#16, .bank 95, .bist 3 95 0⟩, 3, 95) ∧
      ({ up with cmd := { up.cmd with background := [⟨slip, 0x0901#16, .none, .bist 1 65535 0⟩] } } : State).bistsRunning.find?
        (fun x => x.2.1 == (1#8).toNat && x.2.2 == (65535#16).toNat) = some (⟨slip, 0x0901#16, .none, .bist 1 65535 0⟩, 1, 65535) ∧
      (programming 0).accessesOut = 0 ∧ up.bistsRunning.find? (fun x => x.2.1 == (3#8).toNat && x.2.2 == (95#16).toNat) = none ∧ 1 ≤ (10#8).toNat) :=
  ⟨⟨up_inv, up_serves _ _, by decide +kernel⟩, by decide +kernel, ⟨Nat.le_trans (by decide) (Nat.le_add_right _ _), by decide +kernel⟩,
   ⟨by constructor <;> decide +kernel, by constructor <;> decide +kernel, fun _ => rfl, by decide +kernel⟩,
   ⟨by decide, serves_of (by decide +kernel), by decide +kernel, by decide +kernel, by decide +kernel, serves_of (by decide +kernel),
     by decide +kernel⟩, by decide +kernel⟩

theorem test_ConsoleM2wAndTapAct :
    ((ringOn []).Inv ∧ (ringOn []).textRuns = true ∧ (ringOn []).on CMD_CTRL.ConsoleEn = true ∧ (ringOn []).cmd.queue = [] ∧ (ringOn []).slipsComing = 0 ∧
      up.textRuns = true ∧ (up.setF CMD_CTRL.ConsoleEn 0).on CMD_CTRL.ConsoleEn = false ∧
      (31#8).toNat * 2 < 64 ∧ 1 ≤ (1#8).toNat) ∧
    (State.reset.textRuns = false ∧ up.mnt.line = some [] ∧
      ({ up with mnt := { up.mnt with line := none } } : State).textRuns = true ∧ up.consoleRuns = true ∧
      0x21#8 ≠ 13#8 ∧ 0x21#8 ≠ 10#8 ∧ 0x21#8 ≠ 8#8 ∧ 0x21#8 ≠ 0x7F#8 ∧ 0x21#8 ≠ 0x15#8) ∧
    (up.m2wWorks = true ∧ (up.setF PWR_STATUS.CoreGood 1).on PWR_STATUS.CoreGood = true ∧ up.rst.stage ≠ .asleep ∧
      (atStage .asleep).m2wWorks = true ∧ (atStage .asleep).rst.stage = .asleep ∧
      ({ up with rst := { up.rst with low := [0] } } : State).m2wWorks = false) ∧
    ((up.setF PWR_STATUS.CoreGood 1).tapWorks = true ∧ (up.setF PWR_STATUS.CoreGood 0).tapWorks = false ∧ srcResetPin ∉ up.rst.asserted ∧
      srcResetPin ∈ ({ up with rst := { up.rst with asserted := [srcResetPin] } } : State).rst.asserted) :=
  ⟨⟨by constructor <;> decide +kernel, by decide +kernel⟩, by decide +kernel, by decide +kernel, by decide +kernel⟩

/-- An episode in phase `ph`, of reach `reach` and the one source `src`, with AON word 0x406 `w`. -/
def starting (ph : StartPhase) (reach src : Nat) (w : Word) (b : Nat) : State :=
  let t := ((State.reset.setF RST_STATUS.BootState b).setF PWR_STATUS.CoreGood 1).setF PWR_STATUS.SramGood 1
  { t with
    rst := { t.rst with phase := ph, reach := reach, asserted := [src], seen := [src] }
    boot := { t.boot with fuses := [(0x406, w)] } }

theorem test_ResetEpisodesAndStartUpAct :
    (up.Inv ∧ (starting .asserted 2 srcWatchdog 3#32 0).Inv ∧ up.rst.low.Nodup ∧ up.rst.asserted.Nodup ∧ up.rst.stage ≠ .asleep ∧
      (starting .core 0 0 0#32 0).rst.phase = .core ∧ ({ up with rst := { up.rst with holdDue := true } } : State).rst.holdDue = true ∧
      ({ up with rst := { up.rst with low := [0] } } : State).supplied 0 = false ∧ srcResetPin ∉ up.rst.asserted ∧ srcClockFail ∉ up.rst.asserted ∧
      srcResetPin ∈ (starting .asserted 1 srcResetPin 0#32 0).rst.asserted) ∧
    (up.on RST_WDT_CFG.Enable = false ∧ (up.setF RST_WDT_CFG.Enable 1).on RST_WDT_CFG.Enable = true ∧
      ((up.wr RST_WDT_TO 100000#32).wr RST_WDT_COUNT 100000#32).rd RST_WDT_TO = ((up.wr RST_WDT_TO 100000#32).wr RST_WDT_COUNT 100000#32).rd
        RST_WDT_COUNT ∧
      (((up.wr RST_WDT_TO 100000#32).wr RST_WDT_COUNT 50000#32).rd RST_WDT_TO).toNat ≤
        2 * (((up.wr RST_WDT_TO 100000#32).wr RST_WDT_COUNT 50000#32).rd RST_WDT_COUNT).toNat ∧
      (((up.wr RST_WDT_TO 100000#32).wr RST_WDT_COUNT 99999#32).rd RST_WDT_COUNT).toNat <
        (((up.wr RST_WDT_TO 100000#32).wr RST_WDT_COUNT 99999#32).rd RST_WDT_TO).toNat) ∧
    ((tget (fun _ => 0#32) (starting .none 0 0 3#32 2).boot.fuses 0x406).getLsbD 0 = true ∧
      (tget (fun _ => 0#32) (starting .none 0 0 3#32 2).boot.fuses 0x406).getLsbD 1 = true ∧
      (tget (fun _ => 0#32) up.boot.fuses 0x406).getLsbD 0 = false ∧ (tget (fun _ => 0#32) up.boot.fuses 0x406).getLsbD 1 = false ∧
      (starting .none 0 0 3#32 2).tapWorks = true ∧
      (0xA55A5AFF#32).toNat / 256 = 0xA55A5A ∧ (0xA55A5BFF#32).toNat / 256 ≠ 0xA55A5A ∧ up.rst.xtalFallen = false ∧
      up.on PWR_CLK.AoSource = false ∧ (up.setF PWR_CLK.AoSource 1).on PWR_CLK.AoSource = true) ∧
    (up.Serves slip 0x0807 .none ∧ up.cmd.background = [] ∧ (1#8).toNat ≤ 1 ∧ 1 < (2#8).toNat) ∧
    ((∀ x ∈ (starting .asserted 2 srcWatchdog 3#32 0).rst.asserted, x ∈ timedSources) ∧
      (starting .fuses 0 0 3#32 0).rst.phase = .fuses ∧ (starting .fuses 0 0 3#32 0).on PWR_STATUS.CoreGood = true ∧
      (starting .fuses 0 0 3#32 0).on PWR_STATUS.SramGood = true ∧ (starting .pll 1 0 3#32 0).rst.reach ≤ 1 ∧
      (starting .options 2 10 3#32 0).rst.stage = .awake ∧ (starting .options 2 10 3#32 0).on PWR_STATUS.Pfail = false ∧
      (starting .options 2 10 3#32 0).rst.seen = [10]) ∧
    ((starting .none 0 0 0#32 1).fld RST_STATUS.BootState = 1 ∧ (starting .none 0 0 0#32 1).boot.booting = false ∧
      (starting .none 0 0 0#32 1).boot.tried = 0 ∧
      ({ up with boot := { up.boot with tried := 1, booting := true } } : State).boot.tried ≠ 0 ∧ up.fld RST_STATUS.BootState ≠ 1) :=
  ⟨⟨up_inv, by constructor <;> decide +kernel, by decide +kernel⟩, by decide +kernel, by decide +kernel, ⟨up_serves _ _, by decide +kernel⟩,
   by decide +kernel, by decide +kernel⟩

/-- Domain 8 in power state `x`, granted, with an access that waits for it. -/
def domain8 (x : Nat) : State :=
  let t := up.setF (PWR_DOM.State 8) x
  { t with pwr := { t.pwr with granted := [8], accesses := [⟨8, DMA_QUANTUM, none, 0xFFFFFFFF#32⟩] } }

theorem test_RegisterAccessesAct :
    up.Inv ∧ (domain8 0).Inv ∧ 2 ≤ (up.setF (PWR_DOM.State 8) 2).fld (PWR_DOM.State 8) ∧ (0x7FFFFFFF#32).getLsbD 31 = false ∧
    (0x80000000#32).getLsbD 31 = true ∧ up.sched = 0 ∧ 2000 ≤ (2000#32).toNat ∧ (1000000#32).toNat ≤ 1000000 ∧ (framed 2).sched ≠ 0 ∧
    0x110000 ≤ (0x110000#32).toNat ∧ (0x3FFFFC#32).toNat < 0x400000 ∧ isShadow 0x110000 = false ∧
    (domain8 0).fld (PWR_DOM.State 8) = 0 ∧ (∀ x ∈ (domain8 0).pwr.inrush, x.1 ≠ 8) ∧
    (up.setF (PWR_DOM.State 31) 1).fld (PWR_DOM.State 31) < 2 ∧ 95 ∉ up.pwr.granted ∧ 8 ∈ (domain8 0).pwr.granted ∧
    ({ domain8 0 with pwr := { (domain8 0).pwr with accesses := [] } } : State).pwr.accesses = [] ∧
    (domain8 0).pwr.accesses = [⟨8, DMA_QUANTUM, none, 0xFFFFFFFF#32⟩] :=
  ⟨up_inv, by constructor <;> decide +kernel, by decide +kernel⟩

theorem test_TimeReadsLatchTheirHighHalf :
    (framed 2).Inv ∧ (framed 0).Inv ∧ (framed 0).rd FRM_STIME_HI = (framed 2).rd FRM_STIME_HI :=
  ⟨by constructor <;> decide +kernel, by constructor <;> decide +kernel, by decide +kernel⟩

theorem test_DivisionEdgeCases :
    (ready.Inv ∧ ready.Ready 0 [1, 2, 4] [] ∧ ∀ c ∈ ready.cores 0, (ready.core c).rg 4 = 0#32) ∧
    let s := ready.setCore 0 ((Regs.zero.wg 2 0x80000000#32).wg 3 0xFFFFFFFF#32)
    s.Inv ∧ s.Ready 0 [1, 2, 3] [] ∧ ∀ c ∈ s.cores 0, (s.core c).rg 2 = 0x80000000#32 ∧ (s.core c).rg 3 = 0xFFFFFFFF#32 :=
  ⟨⟨ready_inv, ⟨by decide, by decide, by decide, by decide, by decide⟩, by decide +kernel⟩, by constructor <;> decide +kernel,
   ⟨by decide +kernel, by decide +kernel, by decide +kernel, by decide +kernel, by decide +kernel⟩, by decide +kernel⟩

end Sys2Proof.Tests
end

/-! Register reads in the FRM block, and the latch rule of R26. -/

namespace Sys2Proof.Machine

/-! ## Reads in the FRM block (BAR0 offsets 0x20000 to 0x2FFFF) -/

/-- No register of the FRM block waits for a power domain. -/
theorem State.accessDomain_of_frm (s : State) {a : Nat} (ha : a / 0x10000 = 2) : s.accessDomain a = none := by
  have hdom : regDomain a = none := by
    rw [regDomain, if_neg (by omega), if_neg (by omega), if_neg (by omega), if_neg (by omega)]
  rw [State.accessDomain, hdom]

/-- The FRM block holds no window, page or bay register. -/
theorem State.readNow_of_frm (s : State) {a : Nat} (ha : a / 0x10000 = 2) (m : Word) : s.readNow a m = s.readReg a m := by
  have hpage : ¬ pageBase ≤ a := by unfold pageBase; omega
  rw [State.readNow, if_neg (by omega), if_neg hpage, if_neg (by omega), if_neg (by omega), if_pos (by omega)]

/-- REGISTER_READ of an aligned FRM register completes at once. -/
theorem exec_registerRead_of_frm (s : State) {a : Nat} (ha : a / 0x10000 = 2) (h4 : a % 4 = 0) :
    exec (.registerRead (BitVec.ofNat 32 a)) s =
      .next { (s.readReg a 0xFFFFFFFF#32).1 with readData := some (s.readReg a 0xFFFFFFFF#32).2 } := by
  have hkey : (BitVec.ofNat 32 a).toNat / 4 * 4 = a := by rw [BitVec.toNat_ofNat]; omega
  change execRegisterRead _ s = _
  simp only [execRegisterRead, hkey, s.accessDomain_of_frm ha, s.readNow_of_frm ha]

/-- The registers of absent Maelid links (R303) lie outside the FRM block. -/
theorem State.linkAbsent_of_frm (s : State) {a : Nat} (ha : a / 0x10000 = 2) : s.linkAbsent a = false := by
  have : ¬ 0x80000 ≤ a := by omega
  simp [State.linkAbsent, this]

/-- The pairs that `hiLatch` serves (R250, R293) lie above the FRM block. -/
theorem hiHalf_of_lt {a : Nat} (ha : a < 0x70000) : hiHalf a = none := by
  unfold hiHalf EDG_TRIP_STIME_LO
  rw [if_neg (by omega), if_neg (by omega)]

/-- The hardware derives no FRM register when it is read. -/
theorem State.view_of_frm (s : State) {a : Nat} (ha : a / 0x10000 = 2) : s.view a = none := by
  simp only [State.view, ha]

/-- Only WO fields read other than they are held (R5). -/
theorem RegRow.readValue_of_no_wo {r : RegRow} (h : r.bits .wo = 0#32) (old : Word) : r.readValue old = old := by
  rw [RegRow.readValue, h]
  exact BitVec.and_allOnes

/-- Of the FRM registers only the two LO halves and those with WO fields do not simply read what they hold. -/
theorem State.readReg_of_frm_held (s : State) {a : Nat} (ha : a / 0x10000 = 2) (hs : a ≠ FRM_STIME_LO) (hf : a ≠ FRM_FRAME_LO)
    (hwo : (regRow a).map (RegRow.bits · .wo) = some 0#32) (m : Word) : (s.readReg a m).2 = s.rd a := by
  obtain ⟨r, hr, hwo⟩ := Option.map_eq_some_iff.mp hwo
  have hcat : a ≠ CAT_EVENT := by unfold CAT_EVENT; omega
  have haux : a ≠ EDG_AUX_IN := by unfold EDG_AUX_IN; omega
  have hhold : a ≠ EDG_HOLD := by unfold EDG_HOLD; omega
  simp [State.readReg, s.linkAbsent_of_frm ha, hs, hf, hcat, haux, hhold, hiHalf_of_lt (show a < 0x70000 by omega),
    hiHalf_of_lt (show a - 4 < 0x70000 by omega), s.view_of_frm ha, hr, r.readValue_of_no_wo hwo]

/-! ## The latch rule of R26 -/

theorem State.readReg_stimeLo (s : State) (m : Word) :
    s.readReg FRM_STIME_LO m = (s.wr FRM_STIME_HI (BitVec.ofNat 32 (s.now / 2 ^ 32)), BitVec.ofNat 32 s.now) := by
  rw [State.readReg, s.linkAbsent_of_frm (by decide)]
  rfl

theorem State.readReg_frameLo (s : State) (m : Word) :
    s.readReg FRM_FRAME_LO m = (s.wr FRM_FRAME_HI (BitVec.ofNat 32 (s.frame / 2 ^ 32)), BitVec.ofNat 32 s.frame) := by
  rw [State.readReg, s.linkAbsent_of_frm (by decide)]
  rfl

theorem State.readReg_stimeHi (s : State) (m : Word) : (s.readReg FRM_STIME_HI m).2 = s.rd FRM_STIME_HI :=
  s.readReg_of_frm_held (by decide) (by decide) (by decide) (by decide) m

theorem State.readReg_frameHi (s : State) (m : Word) : (s.readReg FRM_FRAME_HI m).2 = s.rd FRM_FRAME_HI :=
  s.readReg_of_frm_held (by decide) (by decide) (by decide) (by decide) m

/-- Settles O59: the read of a LO half leaves the high half in the HI register, and a read of HI depends on nothing else. -/
theorem timeReadsLatchTheirHighHalf : Obligations.TimeReadsLatchTheirHighHalf := by
  unfold Obligations.TimeReadsLatchTheirHighHalf
  intro s hinv latches
  have latches_of_reads {lo hi n : Nat} (hl : lo / 0x10000 = 2 ∧ lo % 4 = 0) (hh : hi / 0x10000 = 2 ∧ hi % 4 = 0)
      (hlo : s.readReg lo 0xFFFFFFFF#32 = (s.wr hi (BitVec.ofNat 32 (n / 2 ^ 32)), BitVec.ofNat 32 n))
      (hhi : ∀ u : State, (u.readReg hi 0xFFFFFFFF#32).2 = u.rd hi) : latches lo hi n := by
    have hlatched : (s.wr hi (BitVec.ofNat 32 (n / 2 ^ 32))).rd hi = BitVec.ofNat 32 (n / 2 ^ 32) :=
      State.rd_wr_same hinv.regs hi _
    refine ⟨_, exec_registerRead_of_frm s hl.1 hl.2, ?_, ?_, ?_, ?_, ?_⟩
    · rw [hlo]; exact congrArg some (BitVec.eq_of_toNat_eq (by simp))
    · rw [hlo]; exact hlatched
    · rw [hlo]; rfl
    · rw [hlo]; rfl
    · intro u _ hu
      rw [hlo] at hu
      exact ⟨_, exec_registerRead_of_frm u hh.1 hh.2, congrArg some ((hhi u).trans (hu.trans hlatched))⟩
  exact ⟨latches_of_reads (by decide) (by decide) (s.readReg_stimeLo _) (fun u => u.readReg_stimeHi _),
    latches_of_reads (by decide) (by decide) (s.readReg_frameLo _) (fun u => u.readReg_frameHi _)⟩

end Sys2Proof.Machine

/-! Scalar instructions on known operands, and the edge cases of division of R164. -/

namespace Sys2Proof.Machine

/-! ## Results on the operands that a core holds -/

/-- A change of the cores that run core `e`'s instruction rests on the registers of those cores alone. -/
theorem State.onCores_congr {s : State} {e : Nat} {f g : Regs → Regs} (h : ∀ c ∈ s.cores e, f (s.core c) = g (s.core c)) :
    s.onCores e f = s.onCores e g :=
  List.foldl_ext _ _ s fun t c hc => congrArg (t.setCore c) (h c hc)

/-- An instruction of two operands, on the values that they have in the cores that run it. -/
theorem State.Ready.binF {s : State} {e : Fin 513} {d a b : BitVec 5} {op : Word → Word → Flagged} {f : Regs → Word} {flags : Word}
    (h : s.Ready e [d.toNat, a.toNat, b.toNat] [])
    (hop : ∀ c ∈ s.cores e, op ((s.core c).rg a.toNat) ((s.core c).rg b.toNat) = (f (s.core c), flags)) :
    s.binF e d a b op = s.onCores e (fun r => ((r.wg d.toNat (f r)).flag flags).next) := by
  have hyields : s.binF e d a b op = s.onCores e (fun r =>
      ((r.wg d.toNat (op (r.rg a.toNat) (r.rg b.toNat)).1).flag (op (r.rg a.toNat) (r.rg b.toNat)).2).next) :=
    State.Ready.aluG (srcs := [a, b]) h
  rw [hyields]
  exact State.onCores_congr fun c hc => by rw [hop c hc]

/-- An instruction that is `binF` of its operands completes so. -/
theorem State.Ready.exec_of_binF {i : Instr} {s : State} {e : Fin 513} {d a b : BitVec 5} {op : Word → Word → Flagged}
    {f : Regs → Word} {flags : Word} (h : s.Ready e [d.toNat, a.toNat, b.toNat] []) (hexec : exec i s = .next (s.binF e d a b op))
    (hop : ∀ c ∈ s.cores e, op ((s.core c).rg a.toNat) ((s.core c).rg b.toNat) = (f (s.core c), flags)) :
    exec i s = .next (s.onCores e (fun r => ((r.wg d.toNat (f r)).flag flags).next)) := by
  rw [hexec, h.binF hop]

/-! ## The edge cases of R164 -/

theorem exec_iDiv (e : Fin 513) (d a b : BitVec 5) (s : State) : exec (.iDiv e d a b) s =
    .next (s.binF e d a b (fun x y => divOf x y (BitVec.ofInt 32 (x.toInt.tdiv y.toInt)))) := rfl

theorem exec_iDivu (e : Fin 513) (d a b : BitVec 5) (s : State) : exec (.iDivu e d a b) s =
    .next (s.binF e d a b (fun x y => divOf x y (x / y))) := rfl

theorem exec_iRem (e : Fin 513) (d a b : BitVec 5) (s : State) : exec (.iRem e d a b) s =
    .next (s.binF e d a b (fun x y => remOf x y (BitVec.ofInt 32 (x.toInt.tmod y.toInt)))) := rfl

theorem exec_iRemu (e : Fin 513) (d a b : BitVec 5) (s : State) : exec (.iRemu e d a b) s =
    .next (s.binF e d a b (fun x y => remOf x y (x % y))) := rfl

/-- The quotient by zero of DIV and DIVU, and the DivZero bit. -/
@[simp] theorem divOf_zero (x q : Word) : divOf x 0#32 q = (0xFFFFFFFF#32, 2#32) := rfl

/-- The remainder by zero of REM and REMU, and the DivZero bit. -/
@[simp] theorem remOf_zero (x q : Word) : remOf x 0#32 q = (x, 2#32) := rfl

/-- A quotient by another divisor sets no flag. -/
theorem divOf_of_ne_zero {y : Word} (h : y ≠ 0#32) (x q : Word) : divOf x y q = (q, 0#32) := if_neg h

/-- A remainder by another divisor sets no flag. -/
theorem remOf_of_ne_zero {y : Word} (h : y ≠ 0#32) (x q : Word) : remOf x y q = (q, 0#32) := if_neg h

/-- The quotient 2^31 of the least signed word by -1 wraps to the least signed word. -/
theorem ofInt_tdiv_intMin_negOne : BitVec.ofInt 32 ((0x80000000#32).toInt.tdiv (0xFFFFFFFF#32).toInt) = 0x80000000#32 := by decide

/-- The least signed word divides by -1 without remainder. -/
theorem ofInt_tmod_intMin_negOne : BitVec.ofInt 32 ((0x80000000#32).toInt.tmod (0xFFFFFFFF#32).toInt) = 0#32 := by decide

/-- Settles O60: each instruction is `binF` of its quotient or remainder, and R164's value is what that gives on the edge's operands. -/
theorem divisionEdgeCases : Obligations.DivisionEdgeCases := by
  unfold Obligations.DivisionEdgeCases
  intro s e d a b _ hready gives
  constructor
  · intro hzero
    exact ⟨hready.exec_of_binF (exec_iDiv e d a b s) fun c hc => by rw [hzero c hc, divOf_zero],
      hready.exec_of_binF (exec_iDivu e d a b s) fun c hc => by rw [hzero c hc, divOf_zero],
      hready.exec_of_binF (exec_iRem e d a b s) fun c hc => by rw [hzero c hc, remOf_zero],
      hready.exec_of_binF (exec_iRemu e d a b s) fun c hc => by rw [hzero c hc, remOf_zero]⟩
  · intro hwrap
    constructor
    · refine hready.exec_of_binF (exec_iDiv e d a b s) fun c hc => ?_
      obtain ⟨ha, hb⟩ := hwrap c hc
      rw [ha, hb, divOf_of_ne_zero (by decide), ofInt_tdiv_intMin_negOne]
    · refine hready.exec_of_binF (exec_iRem e d a b s) fun c hc => ?_
      obtain ⟨ha, hb⟩ := hwrap c hc
      rw [ha, hb, remOf_of_ne_zero (by decide), ofInt_tmod_intMin_negOne]

end Sys2Proof.Machine
